-- ==== Sys2Proof/Word.lean ====
section
/-! DEFINITION. The word types of the SZ4 (R3, R5): bytes, words, dwords, and the two register contents. -/

namespace Sys2Proof

/-- A byte, 8 bits (R5). -/
abbrev Byte := BitVec 8

/-- A scalar register or address, 64 bits (R5: dword). -/
abbrev Word := BitVec 64

/-- The contents of a vector register, 256 bits (R136). -/
abbrev Vec := BitVec 256

/-- A format tag of R136, 4 bits. -/
abbrev Tag := BitVec 4

end Sys2Proof
end

