-- ==== Sys2Proof/Syntax.lean ====
section
/-! DEFINITION. The instruction set and the device's steps as syntax: one constructor per row of the opcode table.
The first 142 are instructions of a context (R157-R285); the rest are the steps of the other agents, each whole
and indivisible. -/

namespace Sys2Proof

/-- Scalar register s0-s63 (R161). -/
abbrev SReg := BitVec 6
/-- Vector register v0-v31 (R161). -/
abbrev VReg := BitVec 5
/-- Predicate register p0-p7 (R161). -/
abbrev PReg := BitVec 3
/-- Mask register m0-m7 (R161). -/
abbrev MReg := BitVec 3
/-- Operand slot o0-o15 (R161). -/
abbrev OReg := BitVec 4
/-- Tree level L0-L63 (R161). -/
abbrev Level := BitVec 6

/-- The predicate field of R157: index and negate bit. -/
structure Pred where
  pi : PReg
  pn : Bool
  deriving DecidableEq, Repr

/-- The predicate zilasm emits when none is written (R160). -/
def Pred.always : Pred := ⟨0, false⟩

/-- The second scalar operand by form: 0 register, 1 imm24, 2 literal (R162, R179). -/
inductive Src2 where
  | reg (b : SReg)
  | imm (v : BitVec 24)
  | lit (v : BitVec 32)
  deriving DecidableEq, Repr

/-- A displacement or PC-relative target: imm24 in the 64-bit form, the literal in the 96-bit form (R162). -/
inductive Disp where
  | imm (v : BitVec 24)
  | lit (v : BitVec 32)
  deriving DecidableEq, Repr

/-- Sizes of scalar local accesses (R210). -/
inductive Size where
  | b | h | w | d
  deriving DecidableEq, Repr

/-- Lattice kinds (R48). -/
inductive Kind where
  | max | min | or | cnt | kmax | fill | ver | system
  deriving DecidableEq, Repr

/-- Element widths (R48). -/
inductive Width where
  | w8 | w16 | w32 | w64
  deriving DecidableEq, Repr

/-- Conditions of CMP and VCMP (R187, R246). -/
inductive Cond where
  | eq | ne | lt | ge | le | gt
  deriving DecidableEq, Repr

/-- Rounding modes (R140). -/
inductive Rm where
  | rne | rtz | rdn | rup | rna | sr
  deriving DecidableEq, Repr

/-- Operations of VOTE (R204). -/
inductive VoteOp where
  | and | or | max
  deriving DecidableEq, Repr

/-- Functions of VSFU (R242). -/
inductive Sfu where
  | exp2 | log2 | exp | log | sin | cos | tanh | sigm | erf | gelu | rsq
  deriving DecidableEq, Repr

/-- Operations of VRED and VSCAN (R252). -/
inductive RedOp where
  | sum | min | max
  deriving DecidableEq, Repr

/-- Matrix formats (R261). -/
inductive Mf where
  | fp4 | e4m3 | e5m2 | bf16 | fp16 | i8
  deriving DecidableEq, Repr

/-- The two engine queues and the collective port of a core (R100, R276). -/
inductive EngQ where
  | mx | cx | port
  deriving DecidableEq, Repr

/-- Forms of LEA (R186). -/
inductive LeaForm where
  | scaled (a b : SReg) (sh : BitVec 3)
  | disp (a : SReg) (x : Disp)
  | label (x : Disp)
  deriving DecidableEq, Repr

/-- Forms of PMOV (R188). -/
inductive PmovForm where
  | pp (d a : PReg)
  | ps (d : PReg) (a : SReg)
  | sp (d : SReg) (a : PReg)
  deriving DecidableEq, Repr

/-- Forms of LDF (R214): a scalar of a size, or a vector. -/
inductive LdfForm where
  | s (sz : Size) (sx : Bool) (d : SReg)
  | v (fmt : Tag) (d : VReg)
  deriving DecidableEq, Repr

/-- Forms of STF (R214). -/
inductive StfForm where
  | s (sz : Size) (d : SReg)
  | v (d : VReg)
  deriving DecidableEq, Repr

/-- Forms of JOINV (R220). -/
inductive JoinvForm where
  | elems (kind : Kind) (wd : Width) (mk : Option MReg)
  | fill (b : SReg)
  | ver (b : SReg)
  deriving DecidableEq, Repr

/-- Forms of XREADV (R223). -/
inductive XreadvForm where
  | elems (kind : Kind) (wd : Width)
  | fill
  | ver (b : SReg)
  deriving DecidableEq, Repr

/-- The lane mask and zeroing bit of a vector instruction (R232). -/
structure VMask where
  mask : Option MReg
  zm : Bool
  deriving DecidableEq, Repr

/-- The count of a vector shift (R245). -/
inductive VCount where
  | reg (b : VReg)
  | imm (n : BitVec 6)
  deriving DecidableEq, Repr

/-- Patterns of VSHUF with the operands each takes (R249). -/
inductive Shuf where
  | rev
  | ziplo (b : VReg)
  | ziphi (b : VReg)
  | uzev (b : VReg)
  | uzod (b : VReg)
  | rot (n : BitVec 6)
  deriving DecidableEq, Repr

/-- Sources of VBCAST (R250). -/
inductive BcastSrc where
  | reg (a : SReg)
  | lit (v : BitVec 32)
  deriving DecidableEq, Repr

/-- The lane index of VEXT and VINS (R251). -/
inductive LaneIx where
  | imm (n : BitVec 6)
  | reg (b : SReg)
  deriving DecidableEq, Repr

/-- The operations of MLOGIC (R260). -/
inductive MOp where
  | and (d a b : MReg)
  | or (d a b : MReg)
  | xor (d a b : MReg)
  | andn (d a b : MReg)
  | not (d a : MReg)
  | mov (d a : MReg)
  | froms (d : MReg) (a : SReg)
  | tos (d : SReg) (a : MReg)
  | popc (d : SReg) (a : MReg)
  | first (d : SReg) (a : MReg)
  | set (fmt : Tag) (d : MReg)
  deriving DecidableEq, Repr

/-- Forms of TLBF (R282). -/
inductive TlbfForm where
  | page (a : SReg)
  | all
  deriving DecidableEq, Repr

/-- The engine fields of R158: each part is present exactly when its enable bit is 1 (R159). -/
structure Sync where
  wait : Option (BitVec 8 × BitVec 16)
  sig  : Option (BitVec 8 × BitVec 8)
  grd  : Option (BitVec 4)
  deriving DecidableEq, Repr

/-- No engine synchronisation. -/
def Sync.none : Sync := ⟨.none, .none, .none⟩

/-- A context of a core of a device: device number, PCORE, context number. -/
structure Who where
  dev  : Nat
  core : Nat
  ctx  : Nat
  deriving DecidableEq, Repr

/-- A launch: the device that owns its journal entry, and its accession number (R329, R333). -/
structure LaunchId where
  owner : Nat
  acc   : Nat
  deriving DecidableEq, Repr

/-- What the fuses, training and self-tests answer during bring-up (R339), which the manual leaves to the part. -/
structure BootIn where
  failStep : Option Nat
  x4t      : Bool
  t2cap    : Nat
  width    : Nat
  badCores : List Nat
  node     : Nat
  rack     : Nat
  cavern   : Nat
  deriving DecidableEq, Repr

/-- Who uses a doorbell page: a function, on its interface's IDE stream or not (R309), or a Curator thread as a producer (R313). -/
inductive Requester where
  | host (fn : Nat) (onIde : Bool)
  | curator
  deriving DecidableEq, Repr

/-- The states of a TDISP device interface that R309 names. -/
inductive Tdisp where
  | unlocked | locked | run | error
  deriving DecidableEq, Repr

/-- What an SPDM request asks (R309, R310, R341). -/
inductive SpdmReq where
  | identity
  | measurements
  | setupDomain (td : Nat)
  deriving DecidableEq, Repr

/-- What the flash answers to a firmware update (R340, R341). -/
inductive FwEnd where
  | ok | flash | readback
  deriving DecidableEq, Repr

/-- The instructions and steps of the SZ4. -/
inductive Instr where
  -- scalar (R180-R188)
  | add (p : Pred) (d a : SReg) (x : Src2)
  | sub (p : Pred) (d a : SReg) (x : Src2)
  | mul (p : Pred) (d a : SReg) (x : Src2)
  | mulh (p : Pred) (n : Bool) (d a : SReg) (x : Src2)
  | div (p : Pred) (n : Bool) (d a : SReg) (x : Src2)
  | rem (p : Pred) (n : Bool) (d a : SReg) (x : Src2)
  | and (p : Pred) (d a : SReg) (x : Src2)
  | or (p : Pred) (d a : SReg) (x : Src2)
  | xor (p : Pred) (d a : SReg) (x : Src2)
  | andn (p : Pred) (d a : SReg) (x : Src2)
  | shl (p : Pred) (d a : SReg) (x : Src2)
  | shr (p : Pred) (d a : SReg) (x : Src2)
  | sar (p : Pred) (d a : SReg) (x : Src2)
  | rol (p : Pred) (d a : SReg) (x : Src2)
  | min (p : Pred) (n : Bool) (d a : SReg) (x : Src2)
  | max (p : Pred) (n : Bool) (d a : SReg) (x : Src2)
  | abs (p : Pred) (d a : SReg)
  | clz (p : Pred) (d a : SReg)
  | ctz (p : Pred) (d a : SReg)
  | popc (p : Pred) (d a : SReg)
  | brev (p : Pred) (d a : SReg)
  | bfx (p : Pred) (n : Bool) (d a : SReg) (pos : BitVec 6) (len : BitVec 7)
  | bfi (p : Pred) (d a : SReg) (pos : BitVec 6) (len : BitVec 7)
  | sel (p : Pred) (d a b : SReg) (k : PReg) (neg : Bool)
  | li (p : Pred) (n : Bool) (d : SReg) (v : BitVec 32)
  | lih (p : Pred) (d : SReg) (v : BitVec 32)
  | lea (p : Pred) (d : SReg) (f : LeaForm)
  | cmp (p : Pred) (c : Cond) (n : Bool) (d : PReg) (a : SReg) (x : Src2)
  | pand (p : Pred) (d a b : PReg)
  | por (p : Pred) (d a b : PReg)
  | pxor (p : Pred) (d a b : PReg)
  | pnot (p : Pred) (d a : PReg)
  | pmov (p : Pred) (f : PmovForm)
  -- control, contexts, regions (R189-R206)
  | br (p : Pred) (t : Disp)
  | bri (p : Pred) (a : SReg)
  | call (p : Pred) (d : SReg) (t : Disp)
  | calli (p : Pred) (d a : SReg)
  | ret (p : Pred) (a : SReg)
  | loop (p : Pred) (d : SReg) (t : Disp)
  | endK
  | nop (p : Pred) (lit : Option (BitVec 32))
  | bbsig (v : BitVec 32)
  | trap (p : Pred) (code : BitVec 24)
  | tret
  | hstart (p : Pred) (h : BitVec 4) (t : Disp)
  | hexit
  | hwait (p : Pred) (h : BitVec 4)
  | arrive (k : Level)
  | waitb (k : Level)
  | sync (k : Level)
  | vote (op : VoteOp) (d a : SReg) (k : Level)
  | voteP (op : VoteOp) (d a : SReg) (k : Level)
  | region (dbit mbit : Bool) (vmask : BitVec 32) (smask : BitVec 63)
  -- local and Flowstone memory (R208-R229)
  | ld (p : Pred) (sz : Size) (sx : Bool) (d a : SReg) (o : Disp)
  | st (p : Pred) (sz : Size) (d a : SReg) (o : Disp)
  | stn (p : Pred) (hi : Bool) (d a : SReg) (o : Disp)
  | ldv (p : Pred) (fmt : Tag) (mk : Option MReg) (d : VReg) (a : SReg) (o : Disp)
  | stv (p : Pred) (fmt : Tag) (mk : Option MReg) (d : VReg) (a : SReg) (o : Disp)
  | ldvx (p : Pred) (fmt : Tag) (mk : Option MReg) (d : VReg) (a : SReg) (b : VReg) (o : Disp)
  | stvx (p : Pred) (fmt : Tag) (mk : Option MReg) (d : VReg) (a : SReg) (b : VReg) (o : Disp)
  | ldf (p : Pred) (clr : Bool) (f : LdfForm) (a : SReg) (o : Disp)
  | stf (p : Pred) (f : StfForm) (a : SReg) (o : Disp)
  | feq (p : Pred) (d : PReg) (a : SReg) (o : Disp)
  | feset (p : Pred) (full : Bool) (cnt : BitVec 7) (a : SReg) (o : Disp)
  | push (p : Pred) (big : Bool) (d : VReg) (a b : SReg) (o : Disp)
  | fence (p : Pred) (k : Level)
  | join (p : Pred) (kind : Kind) (wd : Width) (lv : Option Level) (d a : SReg) (o : Disp)
  | joinv (p : Pred) (f : JoinvForm) (d : VReg) (a : SReg) (o : Disp)
  | tread (p : Pred) (kind : Kind) (wd : Width) (lv : Option Level) (nt : BitVec 2) (d a : SReg) (o : Disp)
  | xread (p : Pred) (kind : Kind) (wd : Width) (d a : SReg) (o : Disp)
  | xreadv (p : Pred) (f : XreadvForm) (d : VReg) (a : SReg) (o : Disp)
  | frz (p : Pred) (a b : SReg) (o : Disp)
  | lkind (p : Pred) (d a : SReg) (o : BitVec 24)
  | smap (p : Pred) (win : BitVec 3) (acc : Bool) (d a b : SReg) (o : Disp)
  | sflush (p : Pred) (win : BitVec 3)
  | sdrop (p : Pred) (win : BitVec 3)
  -- vector (R232-R260)
  | vadd (p : Pred) (fmt : Tag) (vm : VMask) (d a b : VReg)
  | vsub (p : Pred) (fmt : Tag) (vm : VMask) (d a b : VReg)
  | vmul (p : Pred) (fmt : Tag) (vm : VMask) (d a b : VReg)
  | vfma (p : Pred) (fmt : Tag) (np nc : Bool) (vm : VMask) (d a b c : VReg)
  | vmin (p : Pred) (fmt : Tag) (u : Bool) (vm : VMask) (d a b : VReg)
  | vmax (p : Pred) (fmt : Tag) (u : Bool) (vm : VMask) (d a b : VReg)
  | vabs (p : Pred) (fmt : Tag) (sat : Bool) (vm : VMask) (d a : VReg)
  | vneg (p : Pred) (fmt : Tag) (sat : Bool) (vm : VMask) (d a : VReg)
  | vdiv (p : Pred) (fmt : Tag) (vm : VMask) (d a b : VReg)
  | vsqrt (p : Pred) (fmt : Tag) (vm : VMask) (d a : VReg)
  | vrcp (p : Pred) (fmt : Tag) (vm : VMask) (d a : VReg)
  | vsfu (p : Pred) (fmt : Tag) (fn : Sfu) (vm : VMask) (d a : VReg)
  | viadd (p : Pred) (fmt : Tag) (sat u : Bool) (vm : VMask) (d a b : VReg)
  | visub (p : Pred) (fmt : Tag) (sat u : Bool) (vm : VMask) (d a b : VReg)
  | vimul (p : Pred) (fmt : Tag) (sat hi u : Bool) (vm : VMask) (d a b : VReg)
  | vand (p : Pred) (fmt : Tag) (vm : VMask) (d a b : VReg)
  | vor (p : Pred) (fmt : Tag) (vm : VMask) (d a b : VReg)
  | vxor (p : Pred) (fmt : Tag) (vm : VMask) (d a b : VReg)
  | vshl (p : Pred) (fmt : Tag) (vm : VMask) (d a : VReg) (n : VCount)
  | vshr (p : Pred) (fmt : Tag) (vm : VMask) (d a : VReg) (n : VCount)
  | vsar (p : Pred) (fmt : Tag) (vm : VMask) (d a : VReg) (n : VCount)
  | vcmp (p : Pred) (fmt : Tag) (c : Cond) (u : Bool) (vm : VMask) (d : MReg) (a b : VReg)
  | vsel (p : Pred) (fmt : Tag) (mk : MReg) (d a b : VReg)
  | vperm (p : Pred) (fmt : Tag) (vm : VMask) (d a b c : VReg)
  | vshuf (p : Pred) (fmt : Tag) (vm : VMask) (d a : VReg) (pat : Shuf)
  | vbcast (p : Pred) (fmt : Tag) (u : Bool) (vm : VMask) (d : VReg) (src : BcastSrc)
  | vext (p : Pred) (fmt : Tag) (u : Bool) (d : SReg) (a : VReg) (ix : LaneIx)
  | vins (p : Pred) (fmt : Tag) (d : VReg) (a : SReg) (ix : LaneIx)
  | vred (p : Pred) (fmt : Tag) (op : RedOp) (w u : Bool) (mk : Option MReg) (d a : VReg)
  | vscan (p : Pred) (fmt : Tag) (op : RedOp) (w u : Bool) (mk : Option MReg) (d a : VReg)
  | vcvt (p : Pred) (dfmt sfmt : Tag) (su du : Bool) (part : BitVec 3) (rm : Rm) (vm : VMask) (d a : VReg)
  | vqblk (p : Pred) (sfmt : Tag) (sc : Bool) (part : BitVec 3) (rm : Rm) (d a c : VReg)
  | vdqblk (p : Pred) (fmt : Tag) (part : BitVec 3) (d a c : VReg)
  | vkey (p : Pred) (fmt : Tag) (vm : VMask) (d a : VReg)
  | vtag (p : Pred) (fmt : Tag) (d a : VReg)
  | vmov (p : Pred) (fmt : Tag) (vm : VMask) (d a : VReg)
  | vzero (p : Pred) (fmt : Tag) (d : VReg)
  | viota (p : Pred) (fmt : Tag) (u : Bool) (vm : VMask) (d : VReg) (a : SReg)
  | mlogic (p : Pred) (op : MOp)
  -- matrix and engine (R261-R278)
  | mclaim (p : Pred) (o : OReg)
  | mrel (p : Pred) (o : OReg)
  | mload (p : Pred) (mf : Mf) (o : OReg) (a : SReg) (off : BitVec 24) (y : Sync)
  | mstore (p : Pred) (tag : Tag) (acc : Bool) (rm : Rm) (a : SReg) (off : BitVec 24) (y : Sync)
  | mband (p : Pred) (o : OReg) (a : SReg)
  | mma (p : Pred) (mf : Mf) (ow acc : Bool) (a b : OReg) (y : Sync)
  | mswap (p : Pred) (acc : Bool)
  | mread (p : Pred) (tag : Tag) (acc : Bool) (rm : Rm) (part : BitVec 3) (d : VReg) (a : SReg)
  | mwrite (p : Pred) (tag : Tag) (acc : Bool) (a : SReg) (off : BitVec 24) (y : Sync)
  | mzero (p : Pred) (tag : Tag) (acc : Bool) (y : Sync)
  | cpyFetch (p : Pred) (d a b vr : SReg) (y : Sync)
  | cpyPutj (p : Pred) (d a b vr : SReg) (st : Option SReg) (y : Sync)
  | send (p : Pred) (d a b : SReg) (len : BitVec 14) (fmt : Tag) (y : Sync)
  | coll (p : Pred) (k : Level) (cop : BitVec 8) (fmt : Tag) (d a b vr : SReg) (lw : Option SReg) (y : Sync)
  | semw (p : Pred) (q : BitVec 8) (t : BitVec 16)
  | sems (p : Pred) (q : BitVec 8) (i : BitVec 8)
  | semr (p : Pred) (d : SReg) (q : BitVec 8)
  | garm (p : Pred) (g : BitVec 4)
  | gres (p : Pred) (g : BitVec 4) (a : PReg) (neg : Bool)
  | ewait (p : Pred) (mx cx ce : Bool)
  -- system (R282)
  | mfs (p : Pred) (d : SReg) (sreg : BitVec 12)
  | mts (p : Pred) (a : SReg) (sreg : BitVec 12)
  | clkr (p : Pred) (d : SReg)
  | rngr (p : Pred) (d : SReg)
  | tlbf (p : Pred) (f : TlbfForm)
  | bkpt (p : Pred) (code : BitVec 12)
  | ill (raw : BitVec 128)
  -- the steps of the other agents
  | recovTake (w : Who) (v : Word)
  | egressRelease (w : Who)
  | regionTooLong (w : Who)
  | pairRegionLimit (w : Who)
  | parkTimeout (w : Who)
  | barrierRelease (l : LaunchId) (k node : Nat)
  | ackArrival (n : Nat)
  | rsuJoin (n : Nat)
  | rsuThresholdRead (n : Nat)
  | rsuExactRead (n : Nat)
  | rsuFreeze (n : Nat)
  | freezeAck (n : Nat)
  | wake (n : Nat)
  | parkRetry (n : Nat)
  | routerJoinMerge (n m : Nat)
  | routerCombineTimeout (n : Nat)
  | switchJoinHoldTimeout (n : Nat)
  | walkComplete (d n : Nat)
  | stashFill (n : Nat)
  | pushLanding (n : Nat)
  | heldLandingRelease (d c n : Nat)
  | engineCmdHead (d c : Nat) (q : EngQ)
  | engineCmdComplete (d c : Nat) (q : EngQ)
  | cpyFetchLine (n : Nat)
  | mswapExchange (w : Who)
  | collLatticeWait (n : Nat)
  | collSourceCopy (d c : Nat)
  | collReserveHop (n : Nat)
  | collReserveRetry (d n : Nat)
  | collHopPacket (n : Nat)
  | reduceSlotTimeout (d n : Nat)
  | fallbackReduce (d n : Nat)
  | fabricPacketReceive (n : Nat)
  | switchForward (n : Nat)
  | fabricAck (n : Nat)
  | replayTimeout (d n : Nat)
  | seqReset (n : Nat)
  | linkDown (d port : Nat)
  | routeVersion (d ver : Nat) (unreach : List Nat) (rerouted : Bool)
  | switchTableInstall (sw ver : Nat) (table : List (Nat × Nat))
  | deviceLost (d : Nat)
  | hostWrite (d fn off : Nat) (data : List Byte) (en : List Bool) (nonPosted onIde : Bool)
  | obsRead (d fn off len : Nat)
  | qadd (d : Nat) (v : Word)
  | qdel (d : Nat) (v : Word)
  | queueMap (d : Nat)
  | queueUnmap (d slot : Nat)
  | widx (d : Nat) (by_ : Requester) (slot : Nat) (fetchAdd : Bool) (v : Word)
  | wres (d : Nat) (by_ : Requester) (slot : Nat)
  | dbell (d : Nat) (by_ : Requester) (slot : Nat) (v : Word)
  | qresume (d : Nat) (by_ : Requester) (slot : Nat) (v : Word)
  | labort (d : Nat) (v : Word)
  | packetTake (d slot : Nat)
  | commandAccept (d slot : Nat)
  | launch (d slot : Nat)
  | copy (d slot : Nat)
  | cmdColl (d slot : Nat)
  | wait (d slot : Nat)
  | cmdJoin (d slot : Nat)
  | freeze (d slot : Nat)
  | reclaim (d slot : Nat)
  | graph (d slot : Nat)
  | cond (d slot : Nat)
  | cmdLoop (d slot : Nat)
  | mark (d slot : Nat)
  | flush (d slot : Nat)
  | commandComplete (d slot : Nat)
  | launchBind (d acc : Nat) (grants : List (Nat × Nat))
  | remoteCoreReserve (d : Nat) (l : LaunchId) (cores : List Nat)
  | rootSyncRelease (d acc : Nat)
  | launchComplete (d acc : Nat)
  | preempt (d acc : Nat)
  | resume (d acc : Nat) (grants : List (Nat × Nat))
  | selfTestDone (d c : Nat) (lasting : Bool)
  | dupMismatch (d : Nat) (core : Option Nat)
  | eccinj (d : Nat) (v : Word)
  | errlog (d : Nat)
  | evlog (d : Nat)
  | coldReset (d : Nat) (b : BootIn)
  | reset (d : Nat) (v : Word) (b : BootIn)
  | fwctlGo (d : Nat) (v : Word)
  | fwUpdateDone (d : Nat) (e : FwEnd)
  | keysel (d : Nat) (v : Word)
  | cseminc (d : Nat) (v : Word)
  | islset (d : Nat) (v : Word)
  | freqChangeDone (d isl : Nat)
  | powerWindow (d pkg modW : Nat)
  | thermalCeil (d die temp : Nat)
  | thermalClear (d die temp : Nat)
  | thermalTrip (d die : Nat)
  | supplyFault (d isl : Nat)
  | regWrite (d fn off : Nat) (v : Word)
  | syswinWrite (d fn off : Nat) (v : Word)
  | obsWrite (d fn off : Nat)
  | tdispRequest (d fn : Nat) (st : Tdisp)
  | spdmRequest (d : Nat) (r : SpdmReq)
  | flitCrcError (d port : Nat)
  | laneLockLoss (d port : Nat)
  | laneLockRegain (d port : Nat)
  | islandSupplyReturn (d isl : Nat)
  deriving DecidableEq, Repr

end Sys2Proof
end

