-- ==== Sys2Proof/Config.lean ====
section
/-! DEFINITION. What the manual leaves open: free values. They have no body, so a claim holds whatever they are. -/

namespace Sys2Proof.Config
open Sys2Proof

/-- Cycles of the 940 MHz reference clock that pass in a step (log 3). -/
opaque refCycles : Nat → Nat

/-- Cycles of an island's own clock that pass in a step, by step and island (R335: a stopped clock counts none; log 3). -/
opaque islandCycles : Nat → Nat → Nat

/-- Which of the agents that can act acts next, by step (R6, R22, R31, R58, R61, R63, R108; log 2). -/
opaque pick : Nat → Nat

/-- Whether a VSFU result that its bound does not fix takes the neighbour above, by function code and FP32 operand
(R151; log 6). -/
opaque sfuAbove : Nat → BitVec 32 → Bool

/-- Whether a firmware image carries a good signature under the vendor key in the fuses (R340; where the image carries it is not
given; log 7). -/
opaque firmwareOk : List Byte → Bool

/-- The images that the module flash holds as shipped, by slot (R340; log 10). -/
opaque shippedImage : Bool → List Byte

/-- The firmware in the Curator's boot ROM (R309, R339). -/
opaque bootFirmware : List Byte

/-- The vendor key that the fuses hold (R340). -/
opaque vendorKey : List Byte

/-- What SPDM reports as its measurements: of the boot firmware, of the loaded Curator firmware, and of the fuses, the vendor key and the
mark of the MN-SZ4-X4T (R309, R340, R341; their form is not given; log 29). -/
opaque measurement : List Byte → List Byte → List Byte → Bool → List Byte

/-- How many collectives a hop device can hold at once, less one (R297; log 14). -/
opaque hopCapacity : Nat → Nat

/-- Whether a line is one that the trust domain of a function's interface owns, by step, function and line (R309; how the
device records a line's owner is not given; log 28). -/
opaque lineOwned : Nat → Nat → Nat → Bool

/-- What an SPDM request is answered, by step (R309; the contents are not given; log 29). -/
opaque spdmAnswer : SpdmReq → Nat → List Byte

/-- The size of a launch's context area, by the working memory's base and the accession number (R327: it follows from the
tree, the header and the plan table; how is not given; log 30). -/
opaque contextArea : Nat → Nat → Nat

end Sys2Proof.Config
end

