-- ==== Sys2Proof/WellFormed.lean ====
section
/-! DEFINITION. Which instructions the encodings of R157-R165 admit: the conditions on sub-field values that the
types of Syntax.lean do not already hold. -/

namespace Sys2Proof

/-- The kind and width pairs of R48. -/
def kindWidthOk : Kind → Width → Bool
  | .max, _ => true
  | .min, _ => true
  | .or, w => w != .w8
  | .cnt, w => w != .w8
  | .kmax, w => w == .w64
  | .fill, w => w == .w8
  | .ver, w => w == .w8
  | .system, w => w == .w8

/-- Kinds 0 to 4 of R210: the kinds whose elements are numbers. -/
def Kind.isElem : Kind → Bool
  | .max | .min | .or | .cnt | .kmax => true
  | .fill | .ver | .system => false

/-- The bits of one element of a tag (R136); 0 for raw and poison, which have no elements. -/
def tagBits (t : Tag) : Nat :=
  match t.toNat with
  | 1 | 2 | 10 | 11 | 13 => 8
  | 3 | 4 | 8 | 9 => 16
  | 5 | 6 | 7 => 32
  | 12 => 4
  | 14 => 64
  | _ => 0

/-- Elements per register of a tag (R136, R233). -/
def tagElems (t : Tag) : Nat :=
  match t.toNat with
  | 1 | 2 | 10 | 11 | 13 => 32
  | 3 | 4 | 8 | 9 => 16
  | 5 | 6 | 7 => 8
  | 12 => 64
  | 14 => 4
  | _ => 0

/-- Integer tags of R123. -/
def tagIsInt (t : Tag) : Bool := (1 ≤ t.toNat && t.toNat ≤ 6) || t.toNat == 14

/-- Tags 7, 8, 9: FP32, BF16, FP16. -/
def tagIsFloat (t : Tag) : Bool := 7 ≤ t.toNat && t.toNat ≤ 9

/-- A lane mask as R232 admits it: zeroing only under a mask, and no mask on tag 0. -/
def VMask.wf (m : VMask) (fmt : Tag) : Bool :=
  (!m.zm || m.mask.isSome) && (fmt != 0 || m.mask.isNone)

/-- The u bit is legal only with tag 14 (R237). -/
def uOk (u : Bool) (fmt : Tag) : Bool := !u || fmt == 14

/-- The special-register indices of R283. -/
def sregOk (r : BitVec 12) : Bool :=
  let n := r.toNat
  n ≤ 5 || (8 ≤ n && n ≤ 12) || n == 0x10 || (0x18 ≤ n && n ≤ 0x1D) || n == 0x20 || n == 0x28 || n == 0x30
    || n == 0x38 || (0x100 ≤ n && n < 0x140)

/-- The collective codes and formats of R287. -/
def copOk (cop : BitVec 8) (fmt : Tag) : Bool :=
  let pat := cop.toNat / 16
  let cmb := cop.toNat % 16
  let f := fmt.toNat
  (if pat == 0 || pat == 1 || pat == 4 then 1 ≤ cmb && cmb ≤ 6 else (pat == 2 || pat == 3) && cmb == 0)
    && (match cmb with
        | 0 => f ≤ 14
        | 1 | 2 => 7 ≤ f && f ≤ 9
        | 3 => f == 5 || f == 6 || f == 14
        | 4 | 5 => (1 ≤ f && f ≤ 7) || f == 14
        | 6 => f == 0
        | _ => false)

/-- The tags MREAD and MSTORE convert to (R261). -/
def mreadTagOk (t : Tag) : Bool :=
  t == 1 || t == 3 || t == 5 || t == 7 || t == 8 || t == 9 || t == 10 || t == 11

/-- Formats 1 to 11 and 14 of VCVT (R254). -/
def cvtFmtOk (t : Tag) : Bool := (1 ≤ t.toNat && t.toNat ≤ 11) || t == 14

/-- The legal parts of VCVT: below the ratio of the element counts (R254). -/
def cvtRatio (dfmt sfmt : Tag) : Nat :=
  if tagElems dfmt > tagElems sfmt then tagElems dfmt / tagElems sfmt
  else if tagElems dfmt < tagElems sfmt then tagElems sfmt / tagElems dfmt
  else 1

/-- Formats of VPERM and VSHUF (R237). -/
def permFmtOk (t : Tag) : Bool := (1 ≤ t.toNat && t.toNat ≤ 11) || t == 13 || t == 14

/-- Formats 1 to 9 and 14 (R237: VMIN, VCMP, VRED, VSCAN). -/
def arithFmtOk (t : Tag) : Bool := (1 ≤ t.toNat && t.toNat ≤ 9) || t == 14

/-- Formats 1 to 14. -/
def fmt1to14 (t : Tag) : Bool := 1 ≤ t.toNat && t.toNat ≤ 14

/-- A literal of VBCAST has zero bits above the lane width (R250). -/
def bcastOk (fmt : Tag) : BcastSrc → Bool
  | .reg _ => true
  | .lit v => tagBits fmt ≥ 32 || v.toNat < 2 ^ tagBits fmt

/-- An immediate lane index lies below the element count (R251). -/
def laneIxOk (fmt : Tag) : LaneIx → Bool
  | .imm n => n.toNat < tagElems fmt
  | .reg _ => true

/-- The rows 142 to 241 of the opcode table: steps of agents other than a context. They have no encoding. -/
def Instr.isStep : Instr → Bool
  | .recovTake .. | .egressRelease .. | .regionTooLong .. | .pairRegionLimit .. | .parkTimeout .. | .barrierRelease ..
  | .ackArrival .. | .rsuJoin .. | .rsuThresholdRead .. | .rsuExactRead .. | .rsuFreeze .. | .freezeAck .. | .wake ..
  | .parkRetry .. | .routerJoinMerge .. | .routerCombineTimeout .. | .switchJoinHoldTimeout .. | .walkComplete ..
  | .stashFill .. | .pushLanding .. | .heldLandingRelease .. | .engineCmdHead .. | .engineCmdComplete ..
  | .cpyFetchLine .. | .mswapExchange .. | .collLatticeWait .. | .collSourceCopy .. | .collReserveHop ..
  | .collReserveRetry .. | .collHopPacket .. | .reduceSlotTimeout .. | .fallbackReduce .. | .fabricPacketReceive ..
  | .switchForward .. | .fabricAck .. | .replayTimeout .. | .seqReset .. | .linkDown .. | .routeVersion ..
  | .switchTableInstall .. | .deviceLost .. | .hostWrite .. | .obsRead .. | .qadd .. | .qdel .. | .queueMap ..
  | .queueUnmap .. | .widx .. | .wres .. | .dbell .. | .qresume .. | .labort .. | .packetTake .. | .commandAccept ..
  | .launch .. | .copy .. | .cmdColl .. | .wait .. | .cmdJoin .. | .freeze .. | .reclaim .. | .graph .. | .cond ..
  | .cmdLoop .. | .mark .. | .flush .. | .commandComplete .. | .launchBind .. | .remoteCoreReserve ..
  | .rootSyncRelease .. | .launchComplete .. | .preempt .. | .resume .. | .selfTestDone .. | .dupMismatch ..
  | .eccinj .. | .errlog .. | .evlog .. | .coldReset .. | .reset .. | .fwctlGo .. | .fwUpdateDone .. | .keysel ..
  | .cseminc .. | .islset .. | .freqChangeDone .. | .powerWindow .. | .thermalCeil .. | .thermalClear ..
  | .thermalTrip .. | .supplyFault .. | .regWrite .. | .syswinWrite .. | .obsWrite .. | .tdispRequest ..
  | .spdmRequest .. | .flitCrcError .. | .laneLockLoss .. | .laneLockRegain .. | .islandSupplyReturn .. => true
  | _ => false

/-- An instruction the encodings of the manual admit (R164). A step of another agent has no encoding and is not
well formed in this sense. -/
def Instr.wf : Instr → Bool
  | .bfx _ _ _ _ pos len | .bfi _ _ _ pos len => 1 ≤ len.toNat && pos.toNat + len.toNat ≤ 64
  | .cmp _ c n _ _ _ => !n || (c != .eq && c != .ne)
  | .ld _ sz sx _ _ _ => !sx || sz != .d
  | .ldv _ fmt mk _ _ _ | .stv _ fmt mk _ _ _ => fmt != 15 && (mk.isNone || fmt != 0)
  | .ldvx _ fmt _ _ _ _ _ | .stvx _ fmt _ _ _ _ _ => (3 ≤ fmt.toNat && fmt.toNat ≤ 9) || fmt == 14
  | .ldf _ _ (.s sz sx _) _ _ => !sx || sz != .d
  | .ldf _ _ (.v fmt _) _ _ => fmt != 15
  | .join _ k w lv _ _ _ => k.isElem && kindWidthOk k w && (lv.isNone || k != .cnt)
  | .joinv _ (.elems k w _) _ _ _ => k.isElem && kindWidthOk k w
  | .joinv _ (.fill _) _ _ _ => true
  | .joinv _ (.ver _) d _ _ => d.toNat % 2 == 0
  | .tread _ k w lv nt d _ _ =>
    k != .system && kindWidthOk k w && (lv.isNone || k != .cnt) && d.toNat + nt.toNat ≤ 63
  | .xread _ k w _ _ _ => k.isElem && kindWidthOk k w
  | .xreadv _ (.elems k w) _ _ _ => k.isElem && kindWidthOk k w
  | .xreadv _ .fill _ _ _ => true
  | .xreadv _ (.ver _) d _ _ => d.toNat % 2 == 0
  | .vadd _ f m _ _ _ | .vsub _ f m _ _ _ | .vmul _ f m _ _ _ | .vdiv _ f m _ _ _ => tagIsFloat f && m.wf f
  | .vfma _ f _ _ m _ _ _ _ => tagIsFloat f && m.wf f
  | .vmin _ f u m _ _ _ | .vmax _ f u m _ _ _ => arithFmtOk f && uOk u f && m.wf f
  | .vabs _ f s m _ _ | .vneg _ f s m _ _ =>
    (f == 1 || f == 3 || f == 5 || f == 14 || tagIsFloat f) && (!s || !tagIsFloat f) && m.wf f
  | .vsqrt _ f m _ _ | .vrcp _ f m _ _ => tagIsFloat f && m.wf f
  | .vsfu _ f _ m _ _ => tagIsFloat f && m.wf f
  | .viadd _ f _ u m _ _ _ | .visub _ f _ u m _ _ _ => tagIsInt f && uOk u f && m.wf f
  | .vimul _ f s h u m _ _ _ => tagIsInt f && uOk u f && !(s && h) && m.wf f
  | .vand _ f m _ _ _ | .vor _ f m _ _ _ | .vxor _ f m _ _ _ => f != 15 && m.wf f
  | .vshl _ f m _ _ _ | .vshr _ f m _ _ _ | .vsar _ f m _ _ _ => tagIsInt f && m.wf f
  | .vcmp _ f _ u m _ _ _ => arithFmtOk f && uOk u f && m.wf f
  | .vsel _ f _ _ _ _ => fmt1to14 f
  | .vperm _ f m _ _ _ _ => permFmtOk f && m.wf f
  | .vshuf _ f m _ _ _ => permFmtOk f && m.wf f
  | .vbcast _ f u m _ src => fmt1to14 f && uOk u f && m.wf f && bcastOk f src
  | .vext _ f u _ _ ix => fmt1to14 f && uOk u f && laneIxOk f ix
  | .vins _ f _ _ ix => fmt1to14 f && laneIxOk f ix
  | .vred _ f _ w u _ _ _ => arithFmtOk f && uOk u f && !(w && f == 7)
  | .vscan _ f _ w u _ _ _ => arithFmtOk f && uOk u f && (!w || tagIsInt f)
  | .vcvt _ df sf su du part _ m _ _ =>
    cvtFmtOk df && cvtFmtOk sf && uOk su sf && uOk du df && part.toNat < cvtRatio df sf && m.wf df
  | .vqblk _ sf _ part _ _ _ _ => tagIsFloat sf && part.toNat < 64 / tagElems sf
  | .vdqblk _ f part _ _ _ => tagIsFloat f && part.toNat < 64 / tagElems f
  | .vkey _ f m _ _ => (f == 6 || f == 7) && m.wf f
  | .vmov _ f m _ _ => f != 15 && m.wf f
  | .vzero _ f _ => f != 15
  | .viota _ f u m _ _ => tagIsInt f && uOk u f && m.wf f
  | .mlogic _ (.set f _) => fmt1to14 f
  | .mstore _ t _ rm _ _ _ => mreadTagOk t && rm != .sr
  | .mread _ t _ _ part _ _ => mreadTagOk t && part.toNat < tagElems t / 8
  | .mwrite _ t _ _ _ _ | .mzero _ t _ _ => t == 5 || t == 7
  | .cpyPutj _ _ _ _ _ stamp _ => stamp != some 63
  | .coll _ _ cop f _ _ _ _ lw _ => copOk cop f && lw != some 63
  | .ewait _ mx cx ce => mx || cx || ce
  | .mfs _ _ r | .mts _ _ r => sregOk r
  | .ill raw =>
    raw.extractLsb' 2 8 == 0xFF && raw.extractLsb' 0 2 != 0
      && (raw.extractLsb' 0 2 != 1 || raw.extractLsb' 64 64 == 0)
      && (raw.extractLsb' 0 2 != 2 || raw.extractLsb' 96 32 == 0)
  | i => !i.isStep

end Sys2Proof
end

