-- ==== Sys2Proof/Decode.lean ====
section
/-! DEFINITION. Encoding and decoding (R154-R165, R180, R190, R200, R203-R205, R210, R237, R261, R282).
The encoder lays every instruction out in the fields of R157 and R158. The decoder reads a candidate from the fields
and accepts it exactly when the candidate is well formed and its encoding is the word read, so every reserved or
unused bit, every reserved value and every illegal length is rejected (R164). -/

namespace Sys2Proof

/-- The fields of an instruction: R157 in bits [63:0], and bits [127:64] (R158). -/
structure Fields where
  len : BitVec 2
  maj : BitVec 8
  d   : BitVec 6
  a   : BitVec 6
  b   : BitVec 6
  pi  : BitVec 3
  pn  : BitVec 1
  min : BitVec 8
  x   : BitVec 24
  hi  : BitVec 64
  deriving DecidableEq, Repr

/-- The fields in their places (R157). -/
def Fields.pack (f : Fields) : BitVec 128 :=
  f.hi ++ (f.x ++ (f.min ++ (f.pn ++ (f.pi ++ (f.b ++ (f.a ++ (f.d ++ (f.maj ++ f.len))))))))

/-- The fields of a 128-bit word. -/
def Fields.unpack (w : BitVec 128) : Fields where
  len := w.extractLsb' 0 2
  maj := w.extractLsb' 2 8
  d   := w.extractLsb' 10 6
  a   := w.extractLsb' 16 6
  b   := w.extractLsb' 22 6
  pi  := w.extractLsb' 28 3
  pn  := w.extractLsb' 31 1
  min := w.extractLsb' 32 8
  x   := w.extractLsb' 40 24
  hi  := w.extractLsb' 64 64

/-- A bit as a one-bit vector. -/
def bit (b : Bool) : BitVec 1 := BitVec.ofBool b

/-- A one-bit vector as a bit. -/
def isOne (b : BitVec 1) : Bool := b == 1

/-- A 64-bit instruction. -/
def f64 (maj : BitVec 8) (p : Pred) (d a b : BitVec 6) (min : BitVec 8) (x : BitVec 24) : Fields :=
  ⟨1, maj, d, a, b, p.pi, bit p.pn, min, x, 0⟩

/-- A 96-bit instruction with its literal (R158). -/
def f96 (maj : BitVec 8) (p : Pred) (d a b : BitVec 6) (min : BitVec 8) (x : BitVec 24) (lit : BitVec 32) : Fields :=
  ⟨2, maj, d, a, b, p.pi, bit p.pn, min, x, lit.setWidth 64⟩

/-- A 128-bit instruction. -/
def f128 (maj : BitVec 8) (p : Pred) (d a b : BitVec 6) (min : BitVec 8) (x : BitVec 24) (hi : BitVec 64) : Fields :=
  ⟨3, maj, d, a, b, p.pi, bit p.pn, min, x, hi⟩

/-- Scalar class (R162): op[39:35], n[34], form[33:32]. -/
def encScal (maj : BitVec 8) (p : Pred) (d a : BitVec 6) (op : BitVec 5) (n : Bool) : Src2 → Fields
  | .reg b => f64 maj p d a b (op ++ bit n ++ (0 : BitVec 2)) 0
  | .imm v => f64 maj p d a 0 (op ++ bit n ++ (1 : BitVec 2)) v
  | .lit v => f96 maj p d a 0 (op ++ bit n ++ (2 : BitVec 2)) 0 v

/-- A displacement or target: in x for 64 bits, in the literal for 96 (R162). -/
def encDisp (maj : BitVec 8) (p : Pred) (d a b : BitVec 6) (min : BitVec 8) : Disp → Fields
  | .imm v => f64 maj p d a b min v
  | .lit v => f96 maj p d a b min 0 v

/-- Codes of the enumerations. -/
def Size.code : Size → BitVec 2
  | .b => 0 | .h => 1 | .w => 2 | .d => 3
def Size.ofCode (c : BitVec 2) : Size := match c.toNat with
  | 0 => .b | 1 => .h | 2 => .w | _ => .d
def Kind.code : Kind → BitVec 3
  | .max => 0 | .min => 1 | .or => 2 | .cnt => 3 | .kmax => 4 | .fill => 5 | .ver => 6 | .system => 7
def Kind.ofCode (c : BitVec 3) : Kind := match c.toNat with
  | 0 => .max | 1 => .min | 2 => .or | 3 => .cnt | 4 => .kmax | 5 => .fill | 6 => .ver | _ => .system
def Width.code : Width → BitVec 2
  | .w8 => 0 | .w16 => 1 | .w32 => 2 | .w64 => 3
def Width.ofCode (c : BitVec 2) : Width := match c.toNat with
  | 0 => .w8 | 1 => .w16 | 2 => .w32 | _ => .w64
def Cond.code : Cond → BitVec 3
  | .eq => 0 | .ne => 1 | .lt => 2 | .ge => 3 | .le => 4 | .gt => 5
def Cond.ofCode? (c : Nat) : Option Cond := match c with
  | 0 => some .eq | 1 => some .ne | 2 => some .lt | 3 => some .ge | 4 => some .le | 5 => some .gt | _ => none
def Rm.code : Rm → BitVec 3
  | .rne => 0 | .rtz => 1 | .rdn => 2 | .rup => 3 | .rna => 4 | .sr => 5
def Rm.ofCode? (c : BitVec 3) : Option Rm := match c.toNat with
  | 0 => some .rne | 1 => some .rtz | 2 => some .rdn | 3 => some .rup | 4 => some .rna | 5 => some .sr | _ => none
def VoteOp.code : VoteOp → BitVec 2
  | .and => 0 | .or => 1 | .max => 2
def VoteOp.ofCode? (c : BitVec 2) : Option VoteOp := match c.toNat with
  | 0 => some .and | 1 => some .or | 2 => some .max | _ => none
def Sfu.code : Sfu → BitVec 4
  | .exp2 => 0 | .log2 => 1 | .exp => 2 | .log => 3 | .sin => 4 | .cos => 5 | .tanh => 6 | .sigm => 7 | .erf => 8
  | .gelu => 9 | .rsq => 10
def Sfu.ofCode? (c : BitVec 4) : Option Sfu := match c.toNat with
  | 0 => some .exp2 | 1 => some .log2 | 2 => some .exp | 3 => some .log | 4 => some .sin | 5 => some .cos
  | 6 => some .tanh | 7 => some .sigm | 8 => some .erf | 9 => some .gelu | 10 => some .rsq | _ => none
def RedOp.code : RedOp → BitVec 2
  | .sum => 0 | .min => 1 | .max => 2
def RedOp.ofCode? (c : BitVec 2) : Option RedOp := match c.toNat with
  | 0 => some .sum | 1 => some .min | 2 => some .max | _ => none
def Mf.code : Mf → BitVec 3
  | .fp4 => 0 | .e4m3 => 1 | .e5m2 => 2 | .bf16 => 3 | .fp16 => 4 | .i8 => 5
def Mf.ofCode? (c : BitVec 3) : Option Mf := match c.toNat with
  | 0 => some .fp4 | 1 => some .e4m3 | 2 => some .e5m2 | 3 => some .bf16 | 4 => some .fp16 | 5 => some .i8 | _ => none

/-- A vector, predicate, mask or slot index in a 6-bit register field. -/
def v6 (r : VReg) : BitVec 6 := r.setWidth 6
def p6 (r : BitVec 3) : BitVec 6 := r.setWidth 6
def o6 (r : OReg) : BitVec 6 := r.setWidth 6
/-- The register in a 6-bit field; a field beyond the file does not encode back and is rejected. -/
def rv (f : BitVec 6) : VReg := f.setWidth 5
def rp (f : BitVec 6) : BitVec 3 := f.setWidth 3
def ro (f : BitVec 6) : OReg := f.setWidth 4

/-- mk[39:37], me[36] of the local vector accesses (R210). -/
def encMk : Option MReg → BitVec 4
  | none => 0
  | some k => k ++ (1 : BitVec 1)
def decMk (b : BitVec 4) : Option MReg :=
  if isOne (b.extractLsb' 0 1) then some (b.extractLsb' 1 3) else none

/-- me[3], mask index[2:0], [5:4] zero in the b field of JOINV (R220). -/
def encMkB : Option MReg → BitVec 6
  | none => 0
  | some k => (1 : BitVec 3) ++ k
def decMkB (b : BitVec 6) : Option MReg :=
  if isOne (b.extractLsb' 3 1) then some (b.extractLsb' 0 3) else none

/-- me, mask of R232: bits [3:0] of the class field. -/
def encM : Option MReg → BitVec 4
  | none => 0
  | some k => (1 : BitVec 1) ++ k
def decM (x : BitVec 24) : Option MReg :=
  if isOne (x.extractLsb' 3 1) then some (x.extractLsb' 0 3) else none

/-- The class field of a vector instruction (R232): xs, zm, c, rm, me and mask. -/
def vx (m : Option MReg) (zm : Bool) (rm : BitVec 3) (c : BitVec 6) (xs : BitVec 10) : BitVec 24 :=
  xs ++ (bit zm ++ (c ++ (rm ++ encM m)))

/-- A vector instruction: op[39:36] and fmt[35:32] (R232). -/
def encV (maj : BitVec 8) (p : Pred) (d a b : BitVec 6) (op : BitVec 4) (fmt : Tag) (x : BitVec 24) : Fields :=
  f64 maj p d a b (op ++ fmt) x

def decVM (x : BitVec 24) : VMask := ⟨decM x, isOne (x.extractLsb' 13 1)⟩

/-- The engine fields (R158), with e[127:111] above them. -/
def encSync (e : BitVec 17) (y : Sync) : BitVec 64 :=
  e ++ (bit y.sig.isSome ++ (bit y.wait.isSome ++ (bit y.grd.isSome ++ (y.grd.getD 0 ++
    ((y.sig.map (·.2)).getD 0 ++ ((y.sig.map (·.1)).getD 0 ++
      ((y.wait.map (·.2)).getD 0 ++ (y.wait.map (·.1)).getD 0)))))))

def decSync (h : BitVec 64) : Sync where
  wait := if isOne (h.extractLsb' 45 1) then some (h.extractLsb' 0 8, h.extractLsb' 8 16) else none
  sig  := if isOne (h.extractLsb' 46 1) then some (h.extractLsb' 24 8, h.extractLsb' 32 8) else none
  grd  := if isOne (h.extractLsb' 44 1) then some (h.extractLsb' 40 4) else none

/-- An optional register in e[127:111]: the register field and its enable (R261). -/
def encEOpt (r : Option SReg) : BitVec 7 :=
  bit r.isSome ++ r.getD 0

def decEOpt (h : BitVec 64) : Option SReg :=
  if isOne (h.extractLsb' 59 1) then some (h.extractLsb' 53 6) else none

/-- vr[116:111], then the optional register and its enable, then zero (R261). -/
def encE (vr : SReg) (o : Option SReg) : BitVec 17 := (0 : BitVec 4) ++ (encEOpt o ++ vr)

def decLevel (lf : Bool) (b : BitVec 6) : Option Level := if lf then some b else none

/-- LEA's address forms: op[39:35] and form 1 or 2 (R186). -/
def encLea (p : Pred) (d a : BitVec 6) (op : BitVec 5) : Disp → Fields
  | .imm v => f64 0x1A p d a 0 (op ++ (0 : BitVec 1) ++ (1 : BitVec 2)) v
  | .lit v => f96 0x1A p d a 0 (op ++ (0 : BitVec 1) ++ (2 : BitVec 2)) 0 v

/-- The fields of an instruction. A step of another agent has no encoding: its fields are all zero. -/
def Instr.toFields (i : Instr) : Fields :=
  match i with
  | .add p d a x => encScal 0x00 p d a 0 false x
  | .sub p d a x => encScal 0x01 p d a 0 false x
  | .mul p d a x => encScal 0x02 p d a 0 false x
  | .mulh p n d a x => encScal 0x03 p d a 0 n x
  | .div p n d a x => encScal 0x04 p d a 0 n x
  | .rem p n d a x => encScal 0x05 p d a 0 n x
  | .and p d a x => encScal 0x06 p d a 0 false x
  | .or p d a x => encScal 0x07 p d a 0 false x
  | .xor p d a x => encScal 0x08 p d a 0 false x
  | .andn p d a x => encScal 0x09 p d a 0 false x
  | .shl p d a x => encScal 0x0A p d a 0 false x
  | .shr p d a x => encScal 0x0B p d a 0 false x
  | .sar p d a x => encScal 0x0C p d a 0 false x
  | .rol p d a x => encScal 0x0D p d a 0 false x
  | .min p n d a x => encScal 0x0E p d a 0 n x
  | .max p n d a x => encScal 0x0F p d a 0 n x
  | .abs p d a => f64 0x10 p d a 0 0 0
  | .clz p d a => f64 0x11 p d a 0 0 0
  | .ctz p d a => f64 0x12 p d a 0 0 0
  | .popc p d a => f64 0x13 p d a 0 0 0
  | .brev p d a => f64 0x14 p d a 0 0 0
  | .bfx p n d a pos len => f64 0x15 p d a 0 ((0 : BitVec 5) ++ bit n ++ (1 : BitVec 2)) ((0 : BitVec 11) ++ len ++ pos)
  | .bfi p d a pos len => f64 0x16 p d a 0 1 ((0 : BitVec 11) ++ len ++ pos)
  | .sel p d a b k neg => f64 0x17 p d a b 0 ((0 : BitVec 20) ++ bit neg ++ k)
  | .li p n d v => f96 0x18 p d 0 0 ((0 : BitVec 5) ++ bit n ++ (2 : BitVec 2)) 0 v
  | .lih p d v => f96 0x19 p d 0 0 2 0 v
  | .lea p d (.scaled a b sh) => f64 0x1A p d a b 0 ((0 : BitVec 21) ++ sh)
  | .lea p d (.disp a x) => encLea p d a 0 x
  | .lea p d (.label x) => encLea p d 0 1 x
  | .cmp p c n d a x => encScal 0x1B p (p6 d) a (c.code.setWidth 5) n x
  | .pand p d a b => f64 0x1C p (p6 d) (p6 a) (p6 b) 0 0
  | .por p d a b => f64 0x1D p (p6 d) (p6 a) (p6 b) 0 0
  | .pxor p d a b => f64 0x1E p (p6 d) (p6 a) (p6 b) 0 0
  | .pnot p d a => f64 0x1F p (p6 d) (p6 a) 0 0 0
  | .pmov p (.pp d a) => f64 0x20 p (p6 d) (p6 a) 0 0 0
  | .pmov p (.ps d a) => f64 0x20 p (p6 d) a 0 0x08 0
  | .pmov p (.sp d a) => f64 0x20 p d (p6 a) 0 0x10 0
  | .br p t => encDisp 0x40 p 0 0 0 0 t
  | .bri p a => f64 0x41 p 0 a 0 0 0
  | .call p d t => encDisp 0x42 p d 0 0 0 t
  | .calli p d a => f64 0x43 p d a 0 0 0
  | .ret p a => f64 0x44 p 0 a 0 0 0
  | .loop p d t => encDisp 0x45 p d 0 0 0 t
  | .endK => f64 0x46 Pred.always 0 0 0 0 0
  | .nop p none => f64 0x47 p 0 0 0 0 0
  | .nop p (some v) => f96 0x47 p 0 0 0 0 0 v
  | .bbsig v => f96 0x48 Pred.always 0 0 0 0 0 v
  | .trap p code => f64 0x49 p 0 0 0 0 code
  | .tret => f64 0x4A Pred.always 0 0 0 0 0
  | .hstart p h t => encDisp 0x4B p 0 0 0 ((0 : BitVec 4) ++ h) t
  | .hexit => f64 0x4C Pred.always 0 0 0 0 0
  | .hwait p h => f64 0x4D p 0 0 0 ((0 : BitVec 4) ++ h) 0
  | .arrive k => f64 0x4E Pred.always 0 0 0 ((0 : BitVec 2) ++ k) 0
  | .waitb k => f64 0x4F Pred.always 0 0 0 ((0 : BitVec 2) ++ k) 0
  | .sync k => f64 0x50 Pred.always 0 0 0 ((0 : BitVec 2) ++ k) 0
  | .vote op d a k => f64 0x51 Pred.always d a 0 ((0 : BitVec 2) ++ k) ((0 : BitVec 21) ++ (0 : BitVec 1) ++ op.code)
  | .voteP op d a k => f64 0x51 Pred.always d a 0 ((0 : BitVec 2) ++ k) ((0 : BitVec 21) ++ (1 : BitVec 1) ++ op.code)
  | .region dbit mbit vmask smask => f128 0x52 Pred.always ((0 : BitVec 4) ++ bit mbit ++ bit dbit) 0 0 (vmask.extractLsb' 0 8) (vmask.extractLsb' 8 24) (smask ++ (0 : BitVec 1))
  | .ld p sz sx d a o => encDisp 0x60 p d a 0 ((0 : BitVec 5) ++ bit sx ++ sz.code) o
  | .st p sz d a o => encDisp 0x61 p d a 0 ((0 : BitVec 6) ++ sz.code) o
  | .stn p hi d a o => encDisp 0x62 p d a 0 ((0 : BitVec 7) ++ bit hi) o
  | .ldv p fmt mk d a o => encDisp 0x63 p (v6 d) a 0 (encMk mk ++ fmt) o
  | .stv p fmt mk d a o => encDisp 0x64 p (v6 d) a 0 (encMk mk ++ fmt) o
  | .ldvx p fmt mk d a b o => encDisp 0x65 p (v6 d) a (v6 b) (encMk mk ++ fmt) o
  | .stvx p fmt mk d a b o => encDisp 0x66 p (v6 d) a (v6 b) (encMk mk ++ fmt) o
  | .ldf p clr (.s sz sx d) a o => encDisp 0x67 p d a 0 ((0 : BitVec 3) ++ bit sx ++ bit clr ++ (0 : BitVec 1) ++ sz.code) o
  | .ldf p clr (.v fmt d) a o => encDisp 0x67 p (v6 d) a 0 (fmt ++ bit clr ++ (4 : BitVec 3)) o
  | .stf p (.s sz d) a o => encDisp 0x68 p d a 0 ((0 : BitVec 6) ++ sz.code) o
  | .stf p (.v d) a o => encDisp 0x68 p (v6 d) a 0 4 o
  | .feq p d a o => encDisp 0x69 p (p6 d) a 0 0 o
  | .feset p full cnt a o => encDisp 0x6A p 0 a 0 (cnt ++ bit full) o
  | .push p big d a b o => encDisp 0x6B p (v6 d) a b ((0 : BitVec 7) ++ bit big) o
  | .fence p k => f64 0x6C p 0 0 0 ((0 : BitVec 2) ++ k) 0
  | .join p kind wd lv d a o => encDisp 0x6D p d a (lv.getD 0) ((0 : BitVec 2) ++ bit lv.isSome ++ wd.code ++ kind.code) o
  | .joinv p (.elems kind wd mk) d a o => encDisp 0x6E p (v6 d) a (encMkB mk) ((0 : BitVec 3) ++ wd.code ++ kind.code) o
  | .joinv p (.fill b) d a o => encDisp 0x6E p (v6 d) a b 5 o
  | .joinv p (.ver b) d a o => encDisp 0x6E p (v6 d) a b 6 o
  | .tread p kind wd lv nt d a o => encDisp 0x6F p d a (lv.getD 0) (nt ++ bit lv.isSome ++ wd.code ++ kind.code) o
  | .xread p kind wd d a o => encDisp 0x70 p d a 0 ((0 : BitVec 3) ++ wd.code ++ kind.code) o
  | .xreadv p (.elems kind wd) d a o => encDisp 0x71 p (v6 d) a 0 ((0 : BitVec 3) ++ wd.code ++ kind.code) o
  | .xreadv p .fill d a o => encDisp 0x71 p (v6 d) a 0 5 o
  | .xreadv p (.ver b) d a o => encDisp 0x71 p (v6 d) a b 6 o
  | .frz p a b o => encDisp 0x72 p 0 a b 0 o
  | .lkind p d a o => f64 0x73 p d a 0 0 o
  | .smap p win acc d a b o => encDisp 0x74 p d a b ((0 : BitVec 4) ++ bit acc ++ win) o
  | .sflush p win => f64 0x75 p 0 0 0 ((0 : BitVec 5) ++ win) 0
  | .sdrop p win => f64 0x76 p 0 0 0 ((0 : BitVec 5) ++ win) 0
  | .vadd p fmt vm d a b => encV 0x80 p (v6 d) (v6 a) (v6 b) 0 fmt (vx vm.mask vm.zm 0 0 0)
  | .vsub p fmt vm d a b => encV 0x81 p (v6 d) (v6 a) (v6 b) 0 fmt (vx vm.mask vm.zm 0 0 0)
  | .vmul p fmt vm d a b => encV 0x82 p (v6 d) (v6 a) (v6 b) 0 fmt (vx vm.mask vm.zm 0 0 0)
  | .vfma p fmt np nc vm d a b c => encV 0x83 p (v6 d) (v6 a) (v6 b) ((0 : BitVec 2) ++ bit nc ++ bit np) fmt (vx vm.mask vm.zm 0 (v6 c) 0)
  | .vmin p fmt u vm d a b => encV 0x84 p (v6 d) (v6 a) (v6 b) (bit u ++ (0 : BitVec 3)) fmt (vx vm.mask vm.zm 0 0 0)
  | .vmax p fmt u vm d a b => encV 0x85 p (v6 d) (v6 a) (v6 b) (bit u ++ (0 : BitVec 3)) fmt (vx vm.mask vm.zm 0 0 0)
  | .vabs p fmt sat vm d a => encV 0x86 p (v6 d) (v6 a) 0 ((0 : BitVec 3) ++ bit sat) fmt (vx vm.mask vm.zm 0 0 0)
  | .vneg p fmt sat vm d a => encV 0x87 p (v6 d) (v6 a) 0 ((0 : BitVec 3) ++ bit sat) fmt (vx vm.mask vm.zm 0 0 0)
  | .vdiv p fmt vm d a b => encV 0x88 p (v6 d) (v6 a) (v6 b) 0 fmt (vx vm.mask vm.zm 0 0 0)
  | .vsqrt p fmt vm d a => encV 0x89 p (v6 d) (v6 a) 0 0 fmt (vx vm.mask vm.zm 0 0 0)
  | .vrcp p fmt vm d a => encV 0x8A p (v6 d) (v6 a) 0 0 fmt (vx vm.mask vm.zm 0 0 0)
  | .vsfu p fmt fn vm d a => encV 0x8B p (v6 d) (v6 a) 0 fn.code fmt (vx vm.mask vm.zm 0 0 0)
  | .viadd p fmt sat u vm d a b => encV 0x8C p (v6 d) (v6 a) (v6 b) (bit u ++ (0 : BitVec 2) ++ bit sat) fmt (vx vm.mask vm.zm 0 0 0)
  | .visub p fmt sat u vm d a b => encV 0x8D p (v6 d) (v6 a) (v6 b) (bit u ++ (0 : BitVec 2) ++ bit sat) fmt (vx vm.mask vm.zm 0 0 0)
  | .vimul p fmt sat hi u vm d a b => encV 0x8E p (v6 d) (v6 a) (v6 b) (bit u ++ (0 : BitVec 1) ++ bit hi ++ bit sat) fmt (vx vm.mask vm.zm 0 0 0)
  | .vand p fmt vm d a b => encV 0x8F p (v6 d) (v6 a) (v6 b) 0 fmt (vx vm.mask vm.zm 0 0 0)
  | .vor p fmt vm d a b => encV 0x90 p (v6 d) (v6 a) (v6 b) 0 fmt (vx vm.mask vm.zm 0 0 0)
  | .vxor p fmt vm d a b => encV 0x91 p (v6 d) (v6 a) (v6 b) 0 fmt (vx vm.mask vm.zm 0 0 0)
  | .vshl p fmt vm d a (.reg b) => encV 0x92 p (v6 d) (v6 a) (v6 b) 0 fmt (vx vm.mask vm.zm 0 0 0)
  | .vshl p fmt vm d a (.imm n) => encV 0x92 p (v6 d) (v6 a) 0 1 fmt (vx vm.mask vm.zm 0 0 ((0 : BitVec 4) ++ n))
  | .vshr p fmt vm d a (.reg b) => encV 0x93 p (v6 d) (v6 a) (v6 b) 0 fmt (vx vm.mask vm.zm 0 0 0)
  | .vshr p fmt vm d a (.imm n) => encV 0x93 p (v6 d) (v6 a) 0 1 fmt (vx vm.mask vm.zm 0 0 ((0 : BitVec 4) ++ n))
  | .vsar p fmt vm d a (.reg b) => encV 0x94 p (v6 d) (v6 a) (v6 b) 0 fmt (vx vm.mask vm.zm 0 0 0)
  | .vsar p fmt vm d a (.imm n) => encV 0x94 p (v6 d) (v6 a) 0 1 fmt (vx vm.mask vm.zm 0 0 ((0 : BitVec 4) ++ n))
  | .vcmp p fmt c u vm d a b => encV 0x95 p (p6 d) (v6 a) (v6 b) (bit u ++ c.code) fmt (vx vm.mask vm.zm 0 0 0)
  | .vsel p fmt mk d a b => encV 0x96 p (v6 d) (v6 a) (v6 b) 0 fmt (vx (some mk) false 0 0 0)
  | .vperm p fmt vm d a b c => encV 0x97 p (v6 d) (v6 a) (v6 b) 0 fmt (vx vm.mask vm.zm 0 (v6 c) 0)
  | .vshuf p fmt vm d a .rev => encV 0x98 p (v6 d) (v6 a) 0 0 fmt (vx vm.mask vm.zm 0 0 0)
  | .vshuf p fmt vm d a (.ziplo b) => encV 0x98 p (v6 d) (v6 a) (v6 b) 1 fmt (vx vm.mask vm.zm 0 0 0)
  | .vshuf p fmt vm d a (.ziphi b) => encV 0x98 p (v6 d) (v6 a) (v6 b) 2 fmt (vx vm.mask vm.zm 0 0 0)
  | .vshuf p fmt vm d a (.uzev b) => encV 0x98 p (v6 d) (v6 a) (v6 b) 3 fmt (vx vm.mask vm.zm 0 0 0)
  | .vshuf p fmt vm d a (.uzod b) => encV 0x98 p (v6 d) (v6 a) (v6 b) 4 fmt (vx vm.mask vm.zm 0 0 0)
  | .vshuf p fmt vm d a (.rot n) => encV 0x98 p (v6 d) (v6 a) 0 5 fmt (vx vm.mask vm.zm 0 0 ((0 : BitVec 4) ++ n))
  | .vbcast p fmt u vm d (.reg a) => encV 0x99 p (v6 d) a 0 (bit u ++ (0 : BitVec 3)) fmt (vx vm.mask vm.zm 0 0 0)
  | .vbcast p fmt u vm d (.lit v) => f96 0x99 p (v6 d) 0 0 ((bit u ++ (0 : BitVec 3)) ++ fmt) (vx vm.mask vm.zm 0 0 0) v
  | .vext p fmt u d a (.imm n) => encV 0x9A p d (v6 a) 0 (bit u ++ (0 : BitVec 3)) fmt (vx none false 0 0 ((0 : BitVec 4) ++ n))
  | .vext p fmt u d a (.reg b) => encV 0x9A p d (v6 a) b (bit u ++ (1 : BitVec 3)) fmt (vx none false 0 0 0)
  | .vins p fmt d a (.imm n) => encV 0x9B p (v6 d) a 0 0 fmt (vx none false 0 0 ((0 : BitVec 4) ++ n))
  | .vins p fmt d a (.reg b) => encV 0x9B p (v6 d) a b 1 fmt (vx none false 0 0 0)
  | .vred p fmt op w u mk d a => encV 0x9C p (v6 d) (v6 a) 0 (bit u ++ bit w ++ op.code) fmt (vx mk false 0 0 0)
  | .vscan p fmt op w u mk d a => encV 0x9D p (v6 d) (v6 a) 0 (bit u ++ bit w ++ op.code) fmt (vx mk false 0 0 0)
  | .vcvt p df sf su du part rm vm d a => encV 0x9E p (v6 d) (v6 a) 0 ((0 : BitVec 2) ++ bit du ++ bit su) df (vx vm.mask vm.zm rm.code 0 ((0 : BitVec 3) ++ part ++ sf))
  | .vqblk p sf scb part rm d a c => encV 0x9F p (v6 d) (v6 a) 0 ((0 : BitVec 3) ++ bit scb) 12 (vx none false rm.code (v6 c) ((0 : BitVec 3) ++ part ++ sf))
  | .vdqblk p fmt part d a c => encV 0xA0 p (v6 d) (v6 a) 0 0 fmt (vx none false 0 (v6 c) ((0 : BitVec 3) ++ part ++ (0 : BitVec 4)))
  | .vkey p fmt vm d a => encV 0xA1 p (v6 d) (v6 a) 0 0 fmt (vx vm.mask vm.zm 0 0 0)
  | .vtag p fmt d a => encV 0xA2 p (v6 d) (v6 a) 0 0 fmt 0
  | .vmov p fmt vm d a => encV 0xA3 p (v6 d) (v6 a) 0 0 fmt (vx vm.mask vm.zm 0 0 0)
  | .vzero p fmt d => encV 0xA4 p (v6 d) 0 0 0 fmt 0
  | .viota p fmt u vm d a => encV 0xA5 p (v6 d) a 0 (bit u ++ (0 : BitVec 3)) fmt (vx vm.mask vm.zm 0 0 0)
  | .mlogic p (.and d a b) => encV 0xA6 p (p6 d) (p6 a) (p6 b) 0 0 0
  | .mlogic p (.or d a b) => encV 0xA6 p (p6 d) (p6 a) (p6 b) 1 0 0
  | .mlogic p (.xor d a b) => encV 0xA6 p (p6 d) (p6 a) (p6 b) 2 0 0
  | .mlogic p (.andn d a b) => encV 0xA6 p (p6 d) (p6 a) (p6 b) 3 0 0
  | .mlogic p (.not d a) => encV 0xA6 p (p6 d) (p6 a) 0 4 0 0
  | .mlogic p (.mov d a) => encV 0xA6 p (p6 d) (p6 a) 0 5 0 0
  | .mlogic p (.froms d a) => encV 0xA6 p (p6 d) a 0 6 0 0
  | .mlogic p (.tos d a) => encV 0xA6 p d (p6 a) 0 7 0 0
  | .mlogic p (.popc d a) => encV 0xA6 p d (p6 a) 0 8 0 0
  | .mlogic p (.first d a) => encV 0xA6 p d (p6 a) 0 9 0 0
  | .mlogic p (.set fmt d) => encV 0xA6 p (p6 d) 0 0 10 fmt 0
  | .mclaim p o => f128 0xC0 p (o6 o) 0 0 0 0 0
  | .mrel p o => f128 0xC1 p (o6 o) 0 0 0 0 0
  | .mload p mf o a off y => f128 0xC2 p (o6 o) a 0 ((0 : BitVec 5) ++ mf.code) off (encSync 0 y)
  | .mstore p tag acc rm a off y => f128 0xC3 p 0 a 0 (rm.code ++ bit acc ++ tag) off (encSync 0 y)
  | .mband p o a => f128 0xC4 p (o6 o) a 0 0 0 0
  | .mma p mf ow acc a b y => f128 0xC5 p 0 (o6 a) (o6 b) ((0 : BitVec 3) ++ bit acc ++ bit ow ++ mf.code) 0 (encSync 0 y)
  | .mswap p acc => f128 0xC6 p 0 0 0 ((0 : BitVec 7) ++ bit acc) 0 0
  | .mread p tag acc rm part d a => f128 0xC7 p (v6 d) a 0 (rm.code ++ bit acc ++ tag) ((0 : BitVec 21) ++ part) 0
  | .mwrite p tag acc a off y => f128 0xC8 p 0 a 0 ((0 : BitVec 3) ++ bit acc ++ tag) off (encSync 0 y)
  | .mzero p tag acc y => f128 0xC9 p 0 0 0 ((0 : BitVec 3) ++ bit acc ++ tag) 0 (encSync 0 y)
  | .cpyFetch p d a b vr y => f128 0xCA p d a b 0 0 (encSync (encE vr none) y)
  | .cpyPutj p d a b vr stamp y => f128 0xCA p d a b 1 0 (encSync (encE vr stamp) y)
  | .send p d a b len fmt y => f128 0xCB p d a b 0 ((0 : BitVec 6) ++ fmt ++ len) (encSync 0 y)
  | .coll p k cop fmt d a b vr lw y => f128 0xCC p d a b ((0 : BitVec 2) ++ k) ((0 : BitVec 12) ++ fmt ++ cop) (encSync (encE vr lw) y)
  | .semw p q t => f128 0xCD p 0 0 0 0 0 (encSync 0 ⟨some (q, t), none, none⟩)
  | .sems p q i => f128 0xCE p 0 0 0 0 0 (encSync 0 ⟨none, some (q, i), none⟩)
  | .semr p d q => f128 0xCF p d 0 0 0 0 (q.setWidth 64)
  | .garm p g => f128 0xD0 p 0 0 0 0 0 ((0 : BitVec 20) ++ (g ++ (0 : BitVec 40)))
  | .gres p g a neg => f128 0xD1 p 0 (p6 a) 0 ((0 : BitVec 7) ++ bit neg) 0 ((0 : BitVec 20) ++ (g ++ (0 : BitVec 40)))
  | .ewait p mx cx ce => f128 0xD2 p 0 0 0 ((0 : BitVec 5) ++ bit ce ++ bit cx ++ bit mx) 0 0
  | .mfs p d sreg => f64 0xE0 p d 0 0 0 ((0 : BitVec 12) ++ sreg)
  | .mts p a sreg => f64 0xE1 p 0 a 0 0 ((0 : BitVec 12) ++ sreg)
  | .clkr p d => f64 0xE2 p d 0 0 0 0
  | .rngr p d => f64 0xE3 p d 0 0 0 0
  | .tlbf p (.page a) => f64 0xE4 p 0 a 0 0 0
  | .tlbf p .all => f64 0xE4 p 0 0 0 1 0
  | .bkpt p code => f64 0xE5 p 0 0 0 0 ((0 : BitVec 12) ++ code)
  | .ill raw => Fields.unpack raw
  | _ => ⟨0, 0, 0, 0, 0, 0, 0, 0, 0, 0⟩

/-- The words of an instruction: 128 bits, those above its length zero. -/
def encode (i : Instr) : BitVec 128 := i.toFields.pack

/-- The length in bytes from the length field (R154). -/
def lenBytes (len : BitVec 2) : Nat :=
  match len.toNat with
  | 1 => 8 | 2 => 12 | 3 => 16 | _ => 0

/-- The length of an instruction in bytes (R154). -/
def Instr.bytes (i : Instr) : Nat := lenBytes i.toFields.len

/-- The literal of a 96-bit instruction (R158). -/
def lit (f : Fields) : BitVec 32 := f.hi.extractLsb' 0 32

/-- The n bit of a scalar minor (R162). -/
def n? (f : Fields) : Bool := isOne (f.min.extractLsb' 2 1)

/-- The second operand by form (R162); form 3 is reserved. -/
def src2? (f : Fields) : Option Src2 :=
  match (f.min.extractLsb' 0 2).toNat with
  | 0 => some (.reg f.b)
  | 1 => some (.imm f.x)
  | 2 => some (.lit (lit f))
  | _ => none

/-- The displacement of LEA by form 1 or 2 (R186). -/
def disp2? (f : Fields) : Option Disp :=
  match (f.min.extractLsb' 0 2).toNat with
  | 1 => some (.imm f.x)
  | 2 => some (.lit (lit f))
  | _ => none

/-- A displacement or target by length (R162). -/
def disp? (f : Fields) : Option Disp :=
  match f.len.toNat with
  | 1 => some (.imm f.x)
  | 2 => some (.lit (lit f))
  | _ => none

def kind' (f : Fields) : Kind := Kind.ofCode (f.min.extractLsb' 0 3)
def wd' (f : Fields) : Width := Width.ofCode (f.min.extractLsb' 3 2)
def rm? (f : Fields) : Option Rm := Rm.ofCode? (f.x.extractLsb' 4 3)

/-- The count of a vector shift (R245). -/
def vcount (f : Fields) : VCount :=
  if isOne (f.min.extractLsb' 4 1) then .imm (f.x.extractLsb' 14 6) else .reg (rv f.b)

/-- The lane index of VEXT and VINS (R251). -/
def laneIx (f : Fields) : LaneIx :=
  if isOne (f.min.extractLsb' 4 1) then .reg f.b else .imm (f.x.extractLsb' 14 6)

/-- The pattern of VSHUF (R249). -/
def shuf? (f : Fields) : Option Shuf :=
  match (f.min.extractLsb' 4 4).toNat with
  | 0 => some .rev
  | 1 => some (.ziplo (rv f.b))
  | 2 => some (.ziphi (rv f.b))
  | 3 => some (.uzev (rv f.b))
  | 4 => some (.uzod (rv f.b))
  | 5 => some (.rot (f.x.extractLsb' 14 6))
  | _ => none

/-- The operation of MLOGIC (R260). -/
def mop? (f : Fields) : Option MOp :=
  match (f.min.extractLsb' 4 4).toNat with
  | 0 => some (.and (rp f.d) (rp f.a) (rp f.b))
  | 1 => some (.or (rp f.d) (rp f.a) (rp f.b))
  | 2 => some (.xor (rp f.d) (rp f.a) (rp f.b))
  | 3 => some (.andn (rp f.d) (rp f.a) (rp f.b))
  | 4 => some (.not (rp f.d) (rp f.a))
  | 5 => some (.mov (rp f.d) (rp f.a))
  | 6 => some (.froms (rp f.d) f.a)
  | 7 => some (.tos f.d (rp f.a))
  | 8 => some (.popc f.d (rp f.a))
  | 9 => some (.first f.d (rp f.a))
  | 10 => some (.set (f.min.extractLsb' 0 4) (rp f.d))
  | _ => none

/-- Why a word is no instruction (R164). -/
inductive DecodeError where
  /-- Bits [1:0] are 0b00 (R154). -/
  | lengthZero
  /-- The major opcode is reserved, or a sub-field holds a reserved value (R163, R164). -/
  | reservedOpcode
  /-- The sub-fields do not go together: a range, a format or a pair the manual does not list (R164). -/
  | reservedValue
  /-- A length not legal for the major, or a non-zero reserved or unused bit (R163, R164). -/
  | reservedBits
  deriving DecidableEq, Repr

/-- The candidate a word's fields name: none for a reserved major or a reserved code of a sub-field. -/
def ofFields (f : Fields) : Option Instr :=
  let p : Pred := ⟨f.pi, isOne f.pn⟩
  match f.maj.toNat with
  | 0x00 => (src2? f).map (.add p f.d f.a)
  | 0x01 => (src2? f).map (.sub p f.d f.a)
  | 0x02 => (src2? f).map (.mul p f.d f.a)
  | 0x03 => (src2? f).map (.mulh p (n? f) f.d f.a)
  | 0x04 => (src2? f).map (.div p (n? f) f.d f.a)
  | 0x05 => (src2? f).map (.rem p (n? f) f.d f.a)
  | 0x06 => (src2? f).map (.and p f.d f.a)
  | 0x07 => (src2? f).map (.or p f.d f.a)
  | 0x08 => (src2? f).map (.xor p f.d f.a)
  | 0x09 => (src2? f).map (.andn p f.d f.a)
  | 0x0A => (src2? f).map (.shl p f.d f.a)
  | 0x0B => (src2? f).map (.shr p f.d f.a)
  | 0x0C => (src2? f).map (.sar p f.d f.a)
  | 0x0D => (src2? f).map (.rol p f.d f.a)
  | 0x0E => (src2? f).map (.min p (n? f) f.d f.a)
  | 0x0F => (src2? f).map (.max p (n? f) f.d f.a)
  | 0x10 => some (.abs p f.d f.a)
  | 0x11 => some (.clz p f.d f.a)
  | 0x12 => some (.ctz p f.d f.a)
  | 0x13 => some (.popc p f.d f.a)
  | 0x14 => some (.brev p f.d f.a)
  | 0x15 => some (.bfx p (n? f) f.d f.a (f.x.extractLsb' 0 6) (f.x.extractLsb' 6 7))
  | 0x16 => some (.bfi p f.d f.a (f.x.extractLsb' 0 6) (f.x.extractLsb' 6 7))
  | 0x17 => some (.sel p f.d f.a f.b (f.x.extractLsb' 0 3) (isOne (f.x.extractLsb' 3 1)))
  | 0x18 => some (.li p (n? f) f.d (lit f))
  | 0x19 => some (.lih p f.d (lit f))
  | 0x1A => if f.min.extractLsb' 3 5 == 1 then (disp2? f).map (fun x => .lea p f.d (.label x))
    else if f.min.extractLsb' 0 2 == 0 then some (.lea p f.d (.scaled f.a f.b (f.x.extractLsb' 0 3)))
    else (disp2? f).map (fun x => .lea p f.d (.disp f.a x))
  | 0x1B => do
    let x ← src2? f
    let c ← Cond.ofCode? (f.min.extractLsb' 3 5).toNat
    some (.cmp p c (n? f) (rp f.d) f.a x)
  | 0x1C => some (.pand p (rp f.d) (rp f.a) (rp f.b))
  | 0x1D => some (.por p (rp f.d) (rp f.a) (rp f.b))
  | 0x1E => some (.pxor p (rp f.d) (rp f.a) (rp f.b))
  | 0x1F => some (.pnot p (rp f.d) (rp f.a))
  | 0x20 => match f.min.toNat with
    | 0 => some (.pmov p (.pp (rp f.d) (rp f.a)))
    | 0x08 => some (.pmov p (.ps (rp f.d) f.a))
    | 0x10 => some (.pmov p (.sp f.d (rp f.a)))
    | _ => none
  | 0x40 => (disp? f).map (.br p)
  | 0x41 => some (.bri p f.a)
  | 0x42 => (disp? f).map (.call p f.d)
  | 0x43 => some (.calli p f.d f.a)
  | 0x44 => some (.ret p f.a)
  | 0x45 => (disp? f).map (.loop p f.d)
  | 0x46 => some .endK
  | 0x47 => some (.nop p (if f.len == 2 then some (lit f) else none))
  | 0x48 => some (.bbsig (lit f))
  | 0x49 => some (.trap p f.x)
  | 0x4A => some .tret
  | 0x4B => (disp? f).map (.hstart p (f.min.extractLsb' 0 4))
  | 0x4C => some .hexit
  | 0x4D => some (.hwait p (f.min.extractLsb' 0 4))
  | 0x4E => some (.arrive (f.min.extractLsb' 0 6))
  | 0x4F => some (.waitb (f.min.extractLsb' 0 6))
  | 0x50 => some (.sync (f.min.extractLsb' 0 6))
  | 0x51 => (VoteOp.ofCode? (f.x.extractLsb' 0 2)).map (fun op =>
      if isOne (f.x.extractLsb' 2 1) then .voteP op f.d f.a (f.min.extractLsb' 0 6)
      else .vote op f.d f.a (f.min.extractLsb' 0 6))
  | 0x52 => some (.region (isOne (f.d.extractLsb' 0 1)) (isOne (f.d.extractLsb' 1 1)) (f.x ++ f.min) (f.hi.extractLsb' 1 63))
  | 0x60 => (disp? f).map (.ld p (Size.ofCode (f.min.extractLsb' 0 2)) (isOne (f.min.extractLsb' 2 1)) f.d f.a)
  | 0x61 => (disp? f).map (.st p (Size.ofCode (f.min.extractLsb' 0 2)) f.d f.a)
  | 0x62 => (disp? f).map (.stn p (isOne (f.min.extractLsb' 0 1)) f.d f.a)
  | 0x63 => (disp? f).map (.ldv p (f.min.extractLsb' 0 4) (decMk (f.min.extractLsb' 4 4)) (rv f.d) f.a)
  | 0x64 => (disp? f).map (.stv p (f.min.extractLsb' 0 4) (decMk (f.min.extractLsb' 4 4)) (rv f.d) f.a)
  | 0x65 => (disp? f).map (.ldvx p (f.min.extractLsb' 0 4) (decMk (f.min.extractLsb' 4 4)) (rv f.d) f.a (rv f.b))
  | 0x66 => (disp? f).map (.stvx p (f.min.extractLsb' 0 4) (decMk (f.min.extractLsb' 4 4)) (rv f.d) f.a (rv f.b))
  | 0x67 => (disp? f).map (fun o =>
      if isOne (f.min.extractLsb' 2 1) then
        .ldf p (isOne (f.min.extractLsb' 3 1)) (.v (f.min.extractLsb' 4 4) (rv f.d)) f.a o
      else .ldf p (isOne (f.min.extractLsb' 3 1))
        (.s (Size.ofCode (f.min.extractLsb' 0 2)) (isOne (f.min.extractLsb' 4 1)) f.d) f.a o)
  | 0x68 => (disp? f).map (fun o =>
      if isOne (f.min.extractLsb' 2 1) then .stf p (.v (rv f.d)) f.a o
      else .stf p (.s (Size.ofCode (f.min.extractLsb' 0 2)) f.d) f.a o)
  | 0x69 => (disp? f).map (.feq p (rp f.d) f.a)
  | 0x6A => (disp? f).map (.feset p (isOne (f.min.extractLsb' 0 1)) (f.min.extractLsb' 1 7) f.a)
  | 0x6B => (disp? f).map (.push p (isOne (f.min.extractLsb' 0 1)) (rv f.d) f.a f.b)
  | 0x6C => some (.fence p (f.min.extractLsb' 0 6))
  | 0x6D => (disp? f).map (.join p (kind' f) (wd' f) (decLevel (isOne (f.min.extractLsb' 5 1)) f.b) f.d f.a)
  | 0x6E => (disp? f).bind (fun o => match kind' f with
      | .fill => some (.joinv p (.fill f.b) (rv f.d) f.a o)
      | .ver => some (.joinv p (.ver f.b) (rv f.d) f.a o)
      | .system => none
      | k => some (.joinv p (.elems k (wd' f) (decMkB f.b)) (rv f.d) f.a o))
  | 0x6F => (disp? f).map (.tread p (kind' f) (wd' f) (decLevel (isOne (f.min.extractLsb' 5 1)) f.b) (f.min.extractLsb' 6 2) f.d f.a)
  | 0x70 => (disp? f).map (.xread p (kind' f) (wd' f) f.d f.a)
  | 0x71 => (disp? f).bind (fun o => match kind' f with
      | .fill => some (.xreadv p .fill (rv f.d) f.a o)
      | .ver => some (.xreadv p (.ver f.b) (rv f.d) f.a o)
      | .system => none
      | k => some (.xreadv p (.elems k (wd' f)) (rv f.d) f.a o))
  | 0x72 => (disp? f).map (.frz p f.a f.b)
  | 0x73 => some (.lkind p f.d f.a f.x)
  | 0x74 => (disp? f).map (.smap p (f.min.extractLsb' 0 3) (isOne (f.min.extractLsb' 3 1)) f.d f.a f.b)
  | 0x75 => some (.sflush p (f.min.extractLsb' 0 3))
  | 0x76 => some (.sdrop p (f.min.extractLsb' 0 3))
  | 0x80 => some (.vadd p (f.min.extractLsb' 0 4) (decVM f.x) (rv f.d) (rv f.a) (rv f.b))
  | 0x81 => some (.vsub p (f.min.extractLsb' 0 4) (decVM f.x) (rv f.d) (rv f.a) (rv f.b))
  | 0x82 => some (.vmul p (f.min.extractLsb' 0 4) (decVM f.x) (rv f.d) (rv f.a) (rv f.b))
  | 0x83 => some (.vfma p (f.min.extractLsb' 0 4) (isOne (f.min.extractLsb' 4 1)) (isOne (f.min.extractLsb' 5 1)) (decVM f.x) (rv f.d) (rv f.a) (rv f.b) (rv (f.x.extractLsb' 7 6)))
  | 0x84 => some (.vmin p (f.min.extractLsb' 0 4) (isOne (f.min.extractLsb' 7 1)) (decVM f.x) (rv f.d) (rv f.a) (rv f.b))
  | 0x85 => some (.vmax p (f.min.extractLsb' 0 4) (isOne (f.min.extractLsb' 7 1)) (decVM f.x) (rv f.d) (rv f.a) (rv f.b))
  | 0x86 => some (.vabs p (f.min.extractLsb' 0 4) (isOne (f.min.extractLsb' 4 1)) (decVM f.x) (rv f.d) (rv f.a))
  | 0x87 => some (.vneg p (f.min.extractLsb' 0 4) (isOne (f.min.extractLsb' 4 1)) (decVM f.x) (rv f.d) (rv f.a))
  | 0x88 => some (.vdiv p (f.min.extractLsb' 0 4) (decVM f.x) (rv f.d) (rv f.a) (rv f.b))
  | 0x89 => some (.vsqrt p (f.min.extractLsb' 0 4) (decVM f.x) (rv f.d) (rv f.a))
  | 0x8A => some (.vrcp p (f.min.extractLsb' 0 4) (decVM f.x) (rv f.d) (rv f.a))
  | 0x8B => (Sfu.ofCode? (f.min.extractLsb' 4 4)).map (fun fn => .vsfu p (f.min.extractLsb' 0 4) fn (decVM f.x) (rv f.d) (rv f.a))
  | 0x8C => some (.viadd p (f.min.extractLsb' 0 4) (isOne (f.min.extractLsb' 4 1)) (isOne (f.min.extractLsb' 7 1)) (decVM f.x) (rv f.d) (rv f.a) (rv f.b))
  | 0x8D => some (.visub p (f.min.extractLsb' 0 4) (isOne (f.min.extractLsb' 4 1)) (isOne (f.min.extractLsb' 7 1)) (decVM f.x) (rv f.d) (rv f.a) (rv f.b))
  | 0x8E => some (.vimul p (f.min.extractLsb' 0 4) (isOne (f.min.extractLsb' 4 1)) (isOne (f.min.extractLsb' 5 1)) (isOne (f.min.extractLsb' 7 1)) (decVM f.x) (rv f.d) (rv f.a) (rv f.b))
  | 0x8F => some (.vand p (f.min.extractLsb' 0 4) (decVM f.x) (rv f.d) (rv f.a) (rv f.b))
  | 0x90 => some (.vor p (f.min.extractLsb' 0 4) (decVM f.x) (rv f.d) (rv f.a) (rv f.b))
  | 0x91 => some (.vxor p (f.min.extractLsb' 0 4) (decVM f.x) (rv f.d) (rv f.a) (rv f.b))
  | 0x92 => some (.vshl p (f.min.extractLsb' 0 4) (decVM f.x) (rv f.d) (rv f.a) (vcount f))
  | 0x93 => some (.vshr p (f.min.extractLsb' 0 4) (decVM f.x) (rv f.d) (rv f.a) (vcount f))
  | 0x94 => some (.vsar p (f.min.extractLsb' 0 4) (decVM f.x) (rv f.d) (rv f.a) (vcount f))
  | 0x95 => (Cond.ofCode? (f.min.extractLsb' 4 3).toNat).map (fun c => .vcmp p (f.min.extractLsb' 0 4) c (isOne (f.min.extractLsb' 7 1)) (decVM f.x) (rp f.d) (rv f.a) (rv f.b))
  | 0x96 => some (.vsel p (f.min.extractLsb' 0 4) (f.x.extractLsb' 0 3) (rv f.d) (rv f.a) (rv f.b))
  | 0x97 => some (.vperm p (f.min.extractLsb' 0 4) (decVM f.x) (rv f.d) (rv f.a) (rv f.b) (rv (f.x.extractLsb' 7 6)))
  | 0x98 => (shuf? f).map (fun s => .vshuf p (f.min.extractLsb' 0 4) (decVM f.x) (rv f.d) (rv f.a) s)
  | 0x99 => some (.vbcast p (f.min.extractLsb' 0 4) (isOne (f.min.extractLsb' 7 1)) (decVM f.x) (rv f.d) (if f.len == 2 then .lit (lit f) else .reg f.a))
  | 0x9A => some (.vext p (f.min.extractLsb' 0 4) (isOne (f.min.extractLsb' 7 1)) f.d (rv f.a) (laneIx f))
  | 0x9B => some (.vins p (f.min.extractLsb' 0 4) (rv f.d) f.a (laneIx f))
  | 0x9C => (RedOp.ofCode? (f.min.extractLsb' 4 2)).map (fun op => .vred p (f.min.extractLsb' 0 4) op (isOne (f.min.extractLsb' 6 1)) (isOne (f.min.extractLsb' 7 1)) (decM f.x) (rv f.d) (rv f.a))
  | 0x9D => (RedOp.ofCode? (f.min.extractLsb' 4 2)).map (fun op => .vscan p (f.min.extractLsb' 0 4) op (isOne (f.min.extractLsb' 6 1)) (isOne (f.min.extractLsb' 7 1)) (decM f.x) (rv f.d) (rv f.a))
  | 0x9E => (rm? f).map (fun rm => .vcvt p (f.min.extractLsb' 0 4) (f.x.extractLsb' 14 4) (isOne (f.min.extractLsb' 4 1)) (isOne (f.min.extractLsb' 5 1)) (f.x.extractLsb' 18 3) rm (decVM f.x) (rv f.d) (rv f.a))
  | 0x9F => (rm? f).map (fun rm => .vqblk p (f.x.extractLsb' 14 4) (isOne (f.min.extractLsb' 4 1)) (f.x.extractLsb' 18 3) rm (rv f.d) (rv f.a) (rv (f.x.extractLsb' 7 6)))
  | 0xA0 => some (.vdqblk p (f.min.extractLsb' 0 4) (f.x.extractLsb' 18 3) (rv f.d) (rv f.a) (rv (f.x.extractLsb' 7 6)))
  | 0xA1 => some (.vkey p (f.min.extractLsb' 0 4) (decVM f.x) (rv f.d) (rv f.a))
  | 0xA2 => some (.vtag p (f.min.extractLsb' 0 4) (rv f.d) (rv f.a))
  | 0xA3 => some (.vmov p (f.min.extractLsb' 0 4) (decVM f.x) (rv f.d) (rv f.a))
  | 0xA4 => some (.vzero p (f.min.extractLsb' 0 4) (rv f.d))
  | 0xA5 => some (.viota p (f.min.extractLsb' 0 4) (isOne (f.min.extractLsb' 7 1)) (decVM f.x) (rv f.d) f.a)
  | 0xA6 => (mop? f).map (.mlogic p)
  | 0xC0 => some (.mclaim p (ro f.d))
  | 0xC1 => some (.mrel p (ro f.d))
  | 0xC2 => (Mf.ofCode? (f.min.extractLsb' 0 3)).map (fun mf => .mload p mf (ro f.d) f.a f.x (decSync f.hi))
  | 0xC3 => (Rm.ofCode? (f.min.extractLsb' 5 3)).map (fun rm => .mstore p (f.min.extractLsb' 0 4) (isOne (f.min.extractLsb' 4 1)) rm f.a f.x (decSync f.hi))
  | 0xC4 => some (.mband p (ro f.d) f.a)
  | 0xC5 => (Mf.ofCode? (f.min.extractLsb' 0 3)).map (fun mf => .mma p mf (isOne (f.min.extractLsb' 3 1)) (isOne (f.min.extractLsb' 4 1)) (ro f.a) (ro f.b) (decSync f.hi))
  | 0xC6 => some (.mswap p (isOne (f.min.extractLsb' 0 1)))
  | 0xC7 => (Rm.ofCode? (f.min.extractLsb' 5 3)).map (fun rm => .mread p (f.min.extractLsb' 0 4) (isOne (f.min.extractLsb' 4 1)) rm (f.x.extractLsb' 0 3) (rv f.d) f.a)
  | 0xC8 => some (.mwrite p (f.min.extractLsb' 0 4) (isOne (f.min.extractLsb' 4 1)) f.a f.x (decSync f.hi))
  | 0xC9 => some (.mzero p (f.min.extractLsb' 0 4) (isOne (f.min.extractLsb' 4 1)) (decSync f.hi))
  | 0xCA => some (if isOne (f.min.extractLsb' 0 1) then
        .cpyPutj p f.d f.a f.b (f.hi.extractLsb' 47 6) (decEOpt f.hi) (decSync f.hi)
      else .cpyFetch p f.d f.a f.b (f.hi.extractLsb' 47 6) (decSync f.hi))
  | 0xCB => some (.send p f.d f.a f.b (f.x.extractLsb' 0 14) (f.x.extractLsb' 14 4) (decSync f.hi))
  | 0xCC => some (.coll p (f.min.extractLsb' 0 6) (f.x.extractLsb' 0 8) (f.x.extractLsb' 8 4) f.d f.a f.b (f.hi.extractLsb' 47 6) (decEOpt f.hi) (decSync f.hi))
  | 0xCD => some (.semw p (f.hi.extractLsb' 0 8) (f.hi.extractLsb' 8 16))
  | 0xCE => some (.sems p (f.hi.extractLsb' 24 8) (f.hi.extractLsb' 32 8))
  | 0xCF => some (.semr p f.d (f.hi.extractLsb' 0 8))
  | 0xD0 => some (.garm p (f.hi.extractLsb' 40 4))
  | 0xD1 => some (.gres p (f.hi.extractLsb' 40 4) (rp f.a) (isOne (f.min.extractLsb' 0 1)))
  | 0xD2 => some (.ewait p (isOne (f.min.extractLsb' 0 1)) (isOne (f.min.extractLsb' 1 1)) (isOne (f.min.extractLsb' 2 1)))
  | 0xE0 => some (.mfs p f.d (f.x.extractLsb' 0 12))
  | 0xE1 => some (.mts p f.a (f.x.extractLsb' 0 12))
  | 0xE2 => some (.clkr p f.d)
  | 0xE3 => some (.rngr p f.d)
  | 0xE4 => some (.tlbf p (if isOne (f.min.extractLsb' 0 1) then .all else .page f.a))
  | 0xE5 => some (.bkpt p (f.x.extractLsb' 0 12))
  | 0xFF => some (.ill f.pack)
  | _ => none

/-- The bits of the instruction alone: those above its length are cleared. -/
def trimWord (w : BitVec 128) : BitVec 128 :=
  match (w.extractLsb' 0 2).toNat with
  | 1 => (w.extractLsb' 0 64).setWidth 128
  | 2 => (w.extractLsb' 0 96).setWidth 128
  | _ => w

/-- Decoding a word of 128 bits, of which only those of its length count (R154-R164). Total: every word is an
instruction or is rejected by name. -/
def decodeWord (w : BitVec 128) : Except DecodeError Instr :=
  let f := Fields.unpack (trimWord w)
  if f.len == 0 then .error .lengthZero
  else match ofFields f with
    | none => .error .reservedOpcode
    | some i =>
      if !i.wf then .error .reservedValue
      else if i.toFields == f then .ok i
      else .error .reservedBits

/-- Sixteen bytes, the first at the lowest address, as one number (R4). Missing bytes are zero. -/
def bytesToWord (bs : List Byte) : BitVec 128 :=
  (bs.take 16).foldr (fun b acc => (acc <<< 8) ||| b.setWidth 128) 0

/-- The bytes of a number, lowest first (R4). -/
def wordToBytes (n : Nat) (w : BitVec 128) : List Byte :=
  (List.range n).map (fun k => w.extractLsb' (8 * k) 8)

/-- Decoding bytes: the instruction and the bytes after it. -/
def decodeBytes (bs : List Byte) : Except DecodeError (Instr × List Byte) :=
  match decodeWord (bytesToWord bs) with
  | .error e => .error e
  | .ok i => .ok (i, bs.drop i.bytes)

/-- The instruction of an opcode-table word: the words laid out as the hardware stores them, little-endian and with
zeros above nbits, and given to the decoder. -/
def decodeTableWord (nbits w : Nat) : Option Instr :=
  match decodeBytes (wordToBytes 16 (BitVec.ofNat 128 (w % 2 ^ nbits))) with
  | .ok (i, _) => some i
  | .error _ => none

end Sys2Proof
end

