-- ==== Sys2Proof/Machine/State.lean ====
section
/-! DEFINITION. The state of the machine: contexts, cores, home memory, queues, fabric, Curator and platform, as plain
data. Maps with few entries are association lists in strictly rising key order (AMap), an absent key standing for
the default of its kind. -/

namespace Sys2Proof.Machine
open Sys2Proof

/-- A finite map: pairs in strictly rising key order. -/
abbrev AMap (α : Type) := List (Nat × α)

/-- Why the machine stops. Architectural traps and faults of the manual are next states, not stops. -/
inductive Fault where
  /-- Raised by every context instruction when State.cur names no core that holds a launch (R16): there is no
  context to execute it. Safe: the hardware issues nothing from an unbound core. -/
  | noContext
  deriving DecidableEq, Repr

/-- Why an instruction has no meaning. -/
inductive Refusal where
  /-- Raised by exec's arms for an instruction that has no meaning yet. Safe. -/
  | notModelled (mnemonic : String)
  deriving DecidableEq, Repr

/-- A trap's cause, address and detail (R363). -/
structure Trap where
  cause : Nat
  addr : Word
  aux : Word
  deriving DecidableEq, Repr

/-- A vector register with its format tag (R136). -/
structure VR where
  bits : Vec
  tag : Tag
  deriving DecidableEq, Repr

/-- The context states of R16. -/
inductive CtxSt where
  | idle | ready | stalled | parked | exited | ended
  deriving DecidableEq, Repr

/-- What a stalled or parked context waits for (R17, R369): the instruction; the request number that its answer names
(R368), or the barrier generation; the wait code; whether the issue stage evaluates the instruction again (poll) or a
message answers it; the parking order (R91, R96); how many answers are outstanding; the first trap among them; whether
the request waits for a retry (R60). -/
structure Wait where
  instr : Instr
  no : Nat
  code : Nat
  poll : Bool
  order : Nat
  left : Nat
  err : Option Trap
  retry : Bool
  deriving DecidableEq, Repr

/-- The current region (R38, R42, R43, R206, R398, R399). slive and vlive are the live-in masks; cycles counts since it
opened; retired counts its instructions; ldfClr records that an LDF.clr has retired in it. -/
structure Region where
  entry : Word
  d : Bool
  m : Bool
  vlive : BitVec 32
  slive : Word
  cycles : Nat
  retired : Nat
  rerun : Bool
  ldfClr : Bool
  deriving DecidableEq, Repr

/-- The deferred-fault record (R364, R365). fresh says that no time has passed since it was filled: a fault of the same cycle
may still take its place. cmd is the number of the halted command whose fault it is (R370). -/
structure Deferred where
  cause : Nat
  addr : Word
  detail : BitVec 36
  ovf : Nat
  fresh : Bool
  cmd : Option Nat
  deriving DecidableEq, Repr

/-- An unacknowledged push or join (R65): its number, the levels k ≥ 1 whose node's span holds the destination, and
whether the root's span does. Counter k is the number of entries that name k; counter 0 the number of entries. -/
structure Out where
  no : Nat
  lv : List Nat
  root : Bool
  deriving DecidableEq, Repr

/-- The data of a join on one line: elements by byte offset (R50), nibbles of a granule (R52), or a version (R53). -/
inductive JoinData where
  | elems (kind : Kind) (wd : Width) (es : List (Nat × Nat))
  | fill (granule : Nat) (mask : BitVec 32) (data : BitVec 128)
  | ver (v : BitVec 32) (data : BitVec 512)
  deriving DecidableEq, Repr

/-- A join as a context sends it: virtual address, global physical address of its line, data. -/
structure JoinOut where
  va : Word
  line : Nat
  data : JoinData
  deriving DecidableEq, Repr

/-- A withheld effect in the egress buffer (R40): a .cnt JOIN or JOINV, a SEND or COLL as the instruction, whose registers are read
at its release (R109); a push with the data it captured. A .cnt accumulate-window line holds its window, its line, and the region's own
counts in it as 64 bytes (R83, R87). -/
inductive Egress where
  | join (i : Instr)
  | cntLine (win line : Nat) (counts : List Byte)
  | push (rcv off : Word) (data : List Byte) (typed : Bool) (topx : Bool)
  | cmd (i : Instr)
  | sems (q inc : Nat)
  deriving DecidableEq, Repr

/-- An armed block-signature check (R402): expected value, running CRC, address of the BBSIG, whether the block ended. -/
structure Sig where
  expect : BitVec 32
  crc : BitVec 32
  at_ : Word
  ended : Bool
  deriving DecidableEq, Repr

/-- A barrier arrival that is not yet waited for (R29, R30): level, generation, the pushes and joins it still waits for,
whether it has been counted and released, its vote, whether that is a VOTE.p's, and the release's result or fault. -/
structure Arrival where
  level : Nat
  gen : Nat
  pend : List Nat
  counted : Bool
  released : Bool
  vote : Option (VoteOp × Word)
  sel : Bool
  result : Option Word
  bad : Bool
  deriving DecidableEq, Repr

/-- The registers a trap saves into (R195). -/
structure TrapRegs where
  tvec : Word
  tcause : Word
  tpc : Word
  tword : Word
  taddr : Word
  taux : Word
  deriving DecidableEq, Repr

/-- The plan state of a core (R33, R35, R37). -/
structure Plan where
  p : Nat
  f : Nat
  seq : Nat
  pending : Option Nat
  deriving DecidableEq, Repr

/-- The architectural registers of a context (R16). -/
structure Regs where
  s : Vector Word 64
  p : Vector Bool 8
  v : Vector VR 32
  m : Vector Word 8
  flags : Word
  topx : Word
  rngctr : Word
  deriving DecidableEq, Repr

/-- The commit checkpoint of a context (R406). -/
structure Ckpt where
  entry : Word
  d : Bool
  m : Bool
  slive : Word
  vlive : BitVec 32
  regs : Regs
  trap : TrapRegs
  st : CtxSt
  arrivals : List Arrival
  plan : Plan
  out : List Out
  deferred : Option Deferred
  committed : Bool
  deriving DecidableEq, Repr

/-- What a pre-emption request has done to a context (R44): nothing; let it run to its commit; let its WAITB retire (R207); stopped
it. -/
inductive PreSt where
  | run | drain | leave | stopped
  deriving DecidableEq, Repr

/-- A context (R16, R19, R38-R44, R65, R195, R364, R368, R370, R395-R402). begun: the commit under way has released an entry. -/
structure Context where
  st : CtxSt
  wait : Option Wait
  pc : Word
  regs : Regs
  trap : TrapRegs
  region : Region
  ckpt : Ckpt
  deferred : Option Deferred
  egress : List Egress
  committing : Bool
  begun : Bool
  committed : Bool
  out : List Out
  issueNo : Nat
  reqNo : Nat
  sig : Option Sig
  fp : Word
  hold : List JoinOut
  watchdog : Nat
  delivered : Option (Option Nat)
  rngSaved : Word
  walkErr : Option (Word × Trap)
  pre : PreSt
  deriving DecidableEq, Repr

/-- Local store (R88-R90, R367): the bytes that are not zero, the full granules and the poisoned ones, in rising order. -/
structure Store where
  bytes : List Host.Cell
  full : List Nat
  poison : List Nat
  deriving DecidableEq, Repr

/-- The states of an operand slot (R95). -/
inductive SlotSt where
  | free | claimed | loading | ready
  deriving DecidableEq, Repr

/-- An operand slot (R95, R263, R266, R367). A shorter data list stands for zeros above it. gen numbers the claim of the
present owner; dataGen and dataFmt say under which claim and in which format the data was loaded, so that commands accepted
under an earlier claim still find it (R264). -/
structure Slot where
  st : SlotSt
  owner : Nat
  data : List Byte
  scales : List Byte
  fmt : Option Mf
  band : BitVec 16
  poison : Bool
  release : Bool
  gen : Nat
  dataGen : Nat
  dataFmt : Option Mf
  deriving DecidableEq, Repr

/-- A bank of an accumulator (R98, R99, R149): elements (shorter list: zeros above), mode, accepted mode, and the two
band scales whose exact product is the band factor. -/
structure Bank where
  el : List (BitVec 32)
  isInt : Bool
  accInt : Bool
  bandA : BitVec 16
  bandB : BitVec 16
  deriving DecidableEq, Repr

/-- An MREAD stalled on issued MSWAPs (R99, R270): its context, how many of them it was issued after and have not exchanged, and
the accepted mode of the bank it will read. -/
structure StalledRead where
  ctx : Nat
  ahead : Nat
  isInt : Bool
  deriving DecidableEq, Repr

/-- An accumulator: the two banks, the MSWAPs issued and not yet exchanged, each with its context and the commands it waits for,
and the MREADs that stall on them (R99). -/
structure Acc where
  work : Bank
  vis : Bank
  swap : List (Nat × List Nat)
  reads : List StalledRead
  deriving DecidableEq, Repr

/-- How far a command at its queue head has come (R101): it waits at step 1, at step 2, or has passed step 3. -/
inductive HeadStep where
  | wait | guard | run
  deriving DecidableEq, Repr

/-- A command of an engine queue or of the collective port (R100, R101, R276): its number and issuer, the instruction,
the operand values read at its acceptance (destination, a, b, version, and the e-field pair), TOPX, band scales and
phase sequence, and of a COLL the descriptor's algorithm and version; whether it has started; the offset reached; the lines
still outstanding; its first failing line; the failure of its last walk; the halt of R281, and the lowest offset that failed after it (R370); whether it was issued by a
region that has not committed (R44); the weights of its packets (R284); and its step of R101. -/
structure Cmd where
  id : Nat
  ctx : Nat
  instr : Instr
  d : Word
  a : Word
  b : Word
  ver : Word
  e0 : Word
  e1 : Word
  topx : Bool
  bandA : BitVec 16
  bandB : BitVec 16
  seq : Nat
  alg : Nat
  descVer : Nat
  started : Bool
  off : Nat
  await : List Nat
  failAt : Option (Nat × Trap)
  walkErr : Option (Word × Trap)
  halted : Option Trap
  low : Option Nat
  recorded : Bool
  done : Bool
  stamped : Bool
  flags : Word
  uncommitted : Bool
  weights : BitVec 24
  step : HeadStep
  deriving DecidableEq, Repr

/-- The partitions and limits of the kernel header (R92, R328). -/
structure KHeader where
  sregs : Nat
  vregs : Nat
  helpers : Nat
  barriers : Nat
  oslots : Nat
  stash : Nat
  topx : Bool
  c0ctx : Nat
  c1ctx : Nat
  lstore : Nat
  shared : Nat × Nat
  parts : List (Nat × Nat)
  deriving DecidableEq, Repr

/-- A level descriptor of the declared tree (R24). -/
structure TreeLevel where
  arity : Nat
  code : Nat
  rh : Nat
  rw : Nat
  re : Bool
  deriving DecidableEq, Repr

/-- A window of an exchange plan (R33). -/
structure PlanWin where
  sender : Nat
  first : Nat
  len : Nat
  deriving DecidableEq, Repr

/-- The exchange plan table (R33): exchange level, phase counts, cores covered, and the window list of each
(LCORE, plan, phase). -/
structure PlanTable where
  xlevel : Nat
  nph : List Nat
  ncores : Nat
  wins : List ((Nat × Nat × Nat) × List PlanWin)
  deriving DecidableEq, Repr

/-- What binding gives a core (R27, R33, R283, R326, R328, R394). cores lists the launch's cores by LCORE as device and
PCORE (a pair's leader); peer is the other core of a pair; checker marks the core that is not the leader. -/
structure Binding where
  launch : LaunchId
  lcore : Nat
  hdr : KHeader
  tree : List TreeLevel
  child : List Nat
  plan : PlanTable
  cores : List (Nat × Nat)
  det : Bool
  pair : Bool
  peer : Option Nat
  checker : Bool
  seed : Word
  asid : Nat
  super : Nat
  cmode : Nat
  desc : Word
  start : Word
  deriving DecidableEq, Repr

/-- A cached translation (R79): ASID, virtual base, size in bits of the leaf's own page, physical base, whether the page
belongs to a contiguous group (R78), and the leaf's fields. -/
structure Tlb where
  asid : Nat
  va : Nat
  bits : Nat
  pa : Nat
  c : Bool
  kind : Kind
  wd : Width
  j : Bool
  t : Bool
  x : Bool
  f : Bool
  deriving DecidableEq, Repr

/-- A mapped stash window (R80): local granule, global base, length in lines, accumulate mode, kind and width, and the lines requested (read windows) or dirty (accumulate windows). id numbers the mapping. -/
structure Window where
  id : Nat
  loc : Nat
  va : Word
  len : Nat
  acc : Bool
  kind : Kind
  wd : Width
  busy : List Nat
  deriving DecidableEq, Repr

/-- A landing of PUSH or SEND on its way to a receiver (R36, R216, R275): sender, its request number, command (if a
SEND), receiver, offset, data, phase sequence, TOPX, typed bit. -/
structure Landing where
  src : Who
  no : Nat
  cmd : Option Nat
  from_ : Nat
  rcv : Nat
  off : Word
  data : List Byte
  seq : Nat
  topx : Bool
  typed : Bool
  launch : LaunchId
  passed : Bool
  deriving DecidableEq, Repr

/-- A core (R11). eccHit: an uncorrectable error of its own has been found (R403). killWait: a kill that waits for a commit to
retire, and whether a disagreement caused it (R406). wrote: in this cycle an engine or a landing has written local store or ORed FLAGS,
or a queue head has read its guard, so that no access by a context of the cycle comes after it (R90, R280, R376). -/
structure Core where
  bound : Option Binding
  ctxs : Vector Context 11
  lastIssued : Nat
  ls : Store
  slots : Vector Slot 16
  acc0 : Acc
  acc1 : Acc
  sems : AMap Nat
  guards : Vector (Option Bool) 16
  mx : List Cmd
  cx : List Cmd
  port : List Cmd
  stash : Vector (Option Window) 8
  plan : Plan
  arrivals : List Arrival
  gens : AMap Nat
  recov : List Word
  arbw : Word
  held : List Landing
  tlb : List Tlb
  commits : Nat
  rentry : Word
  killed : Bool
  sealed : Bool
  restarted : Bool
  ckptBad : Bool
  helperLive : Bool
  portLost : Bool
  eccHit : Bool
  killWait : Option Bool
  eccS : List (Nat × Nat)
  eccV : List (Nat × Nat)
  eccG : List Nat
  eccArm : Option (Nat × Nat × Nat)
  nextId : Nat
  collSeq : AMap Nat
  rooted : Bool
  stopped : Bool
  wrote : Bool
  trapped : Option (Nat × Word × Word × Word)
  testAge : Nat
  deriving DecidableEq, Repr

/-- The collective key (R286): launch or group, level, node, sequence number. -/
structure CollKey where
  launch : LaunchId
  group : Bool
  level : Nat
  node : Nat
  seq : Nat
  deriving DecidableEq, Repr

/-- Who a request's answer goes to. -/
inductive Origin where
  | ctx (w : Who) (no : Nat)
  | stash (dev core win id line : Nat)
  | cmd (dev core : Nat) (q : EngQ) (id off : Nat)
  | deposit (dev : Nat) (k : CollKey) (lcore : Nat)
  | lattice (dev core id : Nat)
  | host (dev fn off : Nat) (nonPosted : Bool)
  | cur (dev slot no : Nat)
  deriving DecidableEq, Repr

/-- One contributor's part of a join (R67): whom to acknowledge, the launch, the virtual address, and its data (a .fill
part keeps its own mask and nibbles). -/
structure Part where
  from_ : Origin
  launch : Option LaunchId
  asid : Nat
  va : Word
  data : JoinData
  deriving DecidableEq, Repr

/-- A request to a home (R50-R63). off and len are within the line. A Curator reads and writes lines of system-kind pages, and returns
lines to bottom (R13, R64, R319). -/
inductive Req where
  | join (parts : List Part)
  | tread (o : Origin) (va : Word) (kind : Kind) (wd : Width) (off : Nat) (trig : List Word)
  | xread (o : Origin) (va : Word) (kind : Kind) (wd : Width) (off len : Nat) (ver : BitVec 32)
  | freeze (o : Origin) (va : Word) (kind : Kind) (wd : Width)
  | sread (o : Origin) (va : Word)
  | swrite (o : Origin) (data : List Byte)
  | bottom (o : Origin) (kind : Kind)
  deriving DecidableEq, Repr

/-- The answer to a request. -/
inductive Answer where
  | index (i : Nat)
  | data (bs : List Byte)
  | ok
  | trap (t : Trap)
  deriving DecidableEq, Repr

/-- The contribution of one member to a collective (R276, R284, R384, R385): rank, LCORE, its device, the copy of its
source, TOPX, typed bit, digest, destination tile, address space and the weights of its packets; in a packet, which of how many
pieces of at most 512 bytes the data is; the ranks whose fold the data is, of which rank is the lowest; which of how many partial folds
of its stream it is, a stream being what one input of a slot brings; and whether it is a member's own input still (R294). -/
structure Contrib where
  rank : Nat
  lcore : Nat
  dev : Nat
  data : List Byte
  topx : Bool
  typed : Bool
  digest : List Nat
  tile : Word
  asid : Nat
  weights : BitVec 24
  piece : Nat
  pieces : Nat
  ranks : List Nat
  stream : Nat
  part : Nat
  parts : Nat
  own : Bool
  deriving DecidableEq, Repr

/-- The actions of an op-list entry (R294). -/
inductive CollAct where
  | forward (port : Nat)
  | multicast (grp : Nat)
  | reduce (n slot port : Nat)
  | deposit
  deriving DecidableEq, Repr

/-- What the header of a collective packet says of its payload (R130, R293): cop and format, the typed bit and TOPX. -/
structure CollHead where
  cop : BitVec 8
  fmt : Tag
  typed : Bool
  topx : Bool
  deriving DecidableEq, Repr

/-- What a message carries. A reservation's hops are device numbers, and 2^14 plus a switch's; start brings the switch tree's ways
(R295). void keeps the sequence number of a packet that R386 or R415 removed from the retry store. -/
inductive Body where
  | req (line : Nat) (launch : Option LaunchId) (r : Req)
  | answer (o : Origin) (a : Answer)
  | ack (o : Origin) (t : Option Trap)
  | land (l : Landing)
  | landAck (src : Who) (no : Nat) (cmd : Option Nat) (t : Option Trap)
  | coll (k : CollKey) (ops : List CollAct) (fb : Bool) (c : Contrib)
  | result (k : CollKey) (ops : List CollAct) (ver : BitVec 32) (h : CollHead) (piece pieces : Nat) (data : List Byte)
  | reserve (k : CollKey) (root : Nat) (hops granted : List Nat)
  | reserved (k : CollKey) (ok : Bool) (granted : List Nat)
  | start (k : CollKey) (via : AMap (List Nat))
  | landed (k : CollKey) (rank : Nat)
  | finish (k : CollKey)
  | count (l : LaunchId) (level node : Nat)
  | seqReset (src : Nat)
  | seqResetAck (src : Nat)
  | void
  deriving DecidableEq, Repr

/-- A message inside a device (R13): where it stands, the router that holds it for combining (R67) with the cycles held,
the weights of its issue (R284), and what it carries. -/
structure Msg where
  dev : Nat
  hold : Option Nat
  weights : BitVec 24
  body : Body
  deriving DecidableEq, Repr

/-- One contribution a fabric packet carries (R302, R304): source device, sequence number, body. -/
structure FabPart where
  src : Nat
  seq : Nat
  body : Body
  deriving DecidableEq, Repr

/-- The traffic classes of R298. -/
inductive Cls where
  | control | coll | copy | join
  deriving DecidableEq, Repr

/-- What travels on the fabric: a numbered packet, or a fabric acknowledgement (R302); a collective packet that a switch takes in or
sends out, which no pair of devices numbers, and the acknowledgement of a member's piece (R294, R295; log 14). -/
inductive FabKind where
  | packet (parts : List FabPart)
  | ack (src seq : Nat)
  | hop (src : Nat) (body : Body)
  | collAck (k : CollKey) (rank piece : Nat)
  deriving DecidableEq, Repr

/-- A fabric packet (R293, R301, R302): destination, routing version, class, weights (R284), the device at whose port it waits, or
the switch where it stands (neither: arriving at the destination), the cycles it has been held there for combining (R68), whether
an error has broken its format (R383). -/
structure FabPkt where
  dst : Nat
  rver : Nat
  cls : Cls
  weights : BitVec 24
  out : Option Nat
  sw : Option Nat
  held : Option Nat
  bad : Bool
  kind : FabKind
  deriving DecidableEq, Repr

/-- A packet in a device's retry store (R303, R380); numbered unless it is a collective packet for a switch. -/
structure Sent where
  dst : Nat
  seq : Nat
  cls : Cls
  weights : BitVec 24
  body : Body
  launch : Option LaunchId
  sends : Nat
  age : Nat
  numbered : Bool
  deriving DecidableEq, Repr

/-- The state of a 64-byte line at its home (R62, R63, R308, R403): the kind last requested, the .fill masks, the .ver
version, the freeze bit, and whether an uncorrectable error poisoned it. -/
structure Line where
  kind : Option Kind
  wd : Width
  masks : Vector (BitVec 32) 4
  ver : BitVec 32
  frozen : Bool
  bad : Bool
  deriving DecidableEq, Repr

/-- An entry of a park table (R59): arrival order, line, launch, request. -/
structure Park where
  line : Nat
  launch : Option LaunchId
  r : Req
  deriving DecidableEq, Repr

/-- A request that waits 256 cycles for its resend (R60), with the weights of its issue (R284). -/
structure Retry where
  weights : BitVec 24
  body : Body
  age : Nat
  deriving DecidableEq, Repr

/-- Who asked for a table walk (R79). -/
inductive WalkFor where
  | ctx (core ctx : Nat)
  | cmd (core : Nat) (q : EngQ)
  deriving DecidableEq, Repr

/-- A queued table walk (R79): the die whose walker makes it, the requester, ASID and virtual address. -/
structure Walk where
  die : Nat
  for_ : WalkFor
  asid : Nat
  va : Word
  deriving DecidableEq, Repr

/-- A bind-table entry (R329). -/
structure BindEnt where
  acc : Nat
  st : Nat
  owner : Nat
  deriving DecidableEq, Repr

/-- How far a collective has come on the device of its rank 0, or on a member device (R276, R297). -/
inductive CollStage where
  | collecting | reserving | refused (age : Nat) | sending
  deriving DecidableEq, Repr

/-- A collective known to a device's engines (R276, R286, R288, R297, R382): its key, cop and format, length, version,
algorithm, the number of members, rank 0's device and LCORE, the member devices, this device's copied contributions and the
stage; the device of each rank; the switch tree, if any: for each member device the switches that its contributions pass, the top last
(R295); and the routing version it was started under; at rank 0 the contributions held, each with its slot, whether the result has gone out, the fallback mark and the ranks whose tile has landed; on a member device the pieces of the
result received, and the deposit joins not yet acknowledged, by LCORE; and how it failed: cause, address, detail. -/
structure Coll where
  key : CollKey
  cop : BitVec 8
  fmt : Tag
  len : Nat
  ver : BitVec 32
  alg : Nat
  n : Nat
  root : Nat
  rootL : Nat
  devs : List Nat
  mine : List Contrib
  stage : CollStage
  places : List Nat
  via : AMap (List Nat)
  rver : Nat
  got : List (Nat × Contrib)
  sent : Bool
  res : List (Nat × List Byte)
  fb : Bool
  landed : List Nat
  pend : AMap Nat
  failed : Option (Nat × Word × Word)
  deriving DecidableEq, Repr

/-- A command that a Curator thread runs, or a node of a graph: accession number, type, packet header, ring or node index,
command block, whether it has started, the offset it has reached or the node that follows it, whether its effects are
complete, and the key of its collective (R319, R320, R322); the requests it has sent to homes and their answers: those still
outstanding, the bytes read, the first failure, and the piece of work that waits for them (R13). -/
structure Running where
  acc : Nat
  op : Nat
  hdr : Word
  idx : Nat
  blk : List Byte
  started : Bool
  off : Nat
  finished : Bool
  coll : Option CollKey
  await : List Nat
  data : List Byte
  err : Option Trap
  phase : Nat
  deriving DecidableEq, Repr

/-- A command as its thread takes it, nothing done yet. -/
def Running.fresh (acc op : Nat) (hdr : Word) (idx : Nat) (blk : List Byte) : Running :=
  { acc := acc, op := op, hdr := hdr, idx := idx, blk := blk, started := false, off := 0, finished := false, coll := none
    await := [], data := [], err := none, phase := 0 }

/-- A graph in progress (R322, R323): the node blocks, the node to run, the loop counters, and the node that runs. -/
structure GraphRun where
  nodes : List (List Byte)
  at_ : Nat
  counters : AMap Nat
  node : Option Running
  deriving DecidableEq, Repr

/-- A packet that a thread has taken (R315, R317): its header, the failing address, its command block, and the cause if it
is faulted. -/
structure Taken where
  hdr : Word
  addr : Word
  blk : List Byte
  cause : Option Nat
  deriving DecidableEq, Repr

/-- A mapped queue's slot (R311, R313). -/
structure QSlot where
  desc : Option Nat
  base : Nat
  lg : Nat
  prio : Nat
  sys : Bool
  asid : Nat
  fn : Nat
  widx : Nat
  ridx : Nat
  woken : Bool
  waiting : Bool
  stop : Bool
  taken : Option Taken
  cmd : Option Running
  graph : Option GraphRun
  deriving DecidableEq, Repr

/-- An offered queue (R312). -/
structure Offer where
  desc : Nat
  prio : Nat
  withdrawn : Bool
  slot : Option Nat
  deriving DecidableEq, Repr

/-- What ended a launch (R372, R373). -/
structure FaultRec where
  cause : Nat
  nested : Bool
  src : Nat
  lcore : Nat
  ctx : Nat
  tpc : Word
  tword : Word
  taddr : Word
  taux : Word
  deriving DecidableEq, Repr

/-- A killed core under the recovery agent (R407-R410, R412): device and PCORE it was killed on, LCORE, whether a
disagreement killed it, and whether its self-test has failed, once that is known while the launch is pre-empted. -/
structure Killed where
  dev : Nat
  core : Nat
  lcore : Nat
  pair : Bool
  failed : Option Bool
  deriving DecidableEq, Repr

/-- A launch on its owner (R325-R333, R373, R411): accession number, slot and graph node, queue and record fields,
status code and resume count, image fields, tree, plan table, bound cores by LCORE, saved cores, fault record place,
first fault, whether its cores have still to be stopped for it, .cnt lines reported, and killed cores; rooted whether the root SYNC
has ever been released. -/
structure Launch where
  acc : Nat
  slot : Nat
  node : Bool
  prio : Nat
  asid : Nat
  record : List Byte
  seed : Word
  code : Nat
  rc : Nat
  hdr : Option KHeader
  tree : List TreeLevel
  plan : Option PlanTable
  cores : List (Nat × Nat)
  ndev : List Nat
  rooted : Bool
  saving : Bool
  saved : List (Nat × Core)
  recAt : Nat
  fault : Option FaultRec
  stopping : Bool
  cnts : List Word
  cover : Bool
  killed : List Killed
  deriving DecidableEq, Repr

/-- Space the Curator has reserved in its working memory (R327, R373). -/
structure Reserve where
  acc : Nat
  at_ : Nat
  len : Nat
  deriving DecidableEq, Repr

/-- An island (R335, R338, R392): accepted frequency, effective frequency, the frequency a change under way
goes to (the clock is stopped), supply out of regulation. -/
structure Island where
  req : Nat
  eff : Nat
  changing : Option Nat
  supply : Bool
  deriving DecidableEq, Repr

/-- The per-function registers of BAR0 (R308, R309, R313, R341). -/
structure Fn where
  hwapb : Word
  hwapa : Nat
  obsbase : Nat
  syswin : Nat
  tdisp : Tdisp
  deriving DecidableEq, Repr

/-- The management registers of the physical function (R341, R312, R391, R404, R405). -/
structure Bar0 where
  step : Nat
  fail : Bool
  x4t : Bool
  devid : Option Nat
  width : Nat
  corestat : List Nat
  t2cap : Nat
  fabid : Option (Nat × Nat × Nat)
  pwrcap : Nat
  pkg : Nat
  modW : Nat
  temp : AMap Nat
  thev : Nat
  islset : Word
  dseed : Word
  jbase : Word
  jret : Nat
  jhead : Nat
  cabase : Nat
  casize : Nat
  capool : Word
  astbase : Nat
  keysel : Word
  keybuf : List Byte
  keys : AMap (List Byte)
  sigreq : Word
  fwaddr : Nat
  fwlen : Nat
  fwbusy : Bool
  fwdone : Bool
  fwfail : Nat
  fwslot : Bool
  fwpref : Bool
  fwrun : Bool
  corr : Nat
  unc : Nat
  dup : Bool
  eccinj : Word -- without arm, which the armed core holds (Core.eccArm)
  qfixed : Bool
  deriving DecidableEq, Repr

/-- An event of the error log (R375). -/
structure ErrEnt where
  cause : Nat
  fn : Nat
  src : Nat
  ovf : Bool
  off : Nat
  deriving DecidableEq, Repr

/-- An event of the event log (R391). -/
structure EvEnt where
  cause : Nat
  arg : Nat
  ovf : Bool
  time : Nat
  deriving DecidableEq, Repr

/-- A reduce slot of a switch (R295-R297): the collective, the slot's and its multicast group's number, the collective's members, the
group's devices and rank 0's, the pieces held with the device that sent each, and the cycles since the first. -/
structure SwSlot where
  key : CollKey
  grp : Nat
  n : Nat
  devs : List Nat
  root : Nat
  got : List (Nat × Contrib)
  age : Option Nat
  deriving DecidableEq, Repr

/-- A Cavern switch: its routing version, its table of next hops (destination to 0 for delivery or 1 + switch), the flits that each
class of a port may still send in its round (R298, R301); its reduce slots, the markers of those that timed out, and the requests
that wait (R296, R297, R382); and its log (R383). -/
structure Switch where
  ver : Nat
  table : AMap Nat
  deficit : AMap (AMap Nat)
  slots : List SwSlot
  markers : List CollKey
  waiting : List CollKey
  evlog : List EvEnt
  deriving DecidableEq, Repr

/-- A Cavern port of a device (R378): dead, failed resends of the current flit, cycles without lane lock. -/
structure Port where
  down : Bool
  resends : Nat
  lost : Option Nat
  deriving DecidableEq, Repr

/-- A device. mem holds the bytes of HBM and of the second tier, by local address, that are not zero; hot the dies under the
thermal ceiling (R338); deficit the flits that each class of a port may still send (R298); portq the packets that the port die does
not accept yet (R379); capping whether the power ceiling is being lowered (R337); flashA and flashB the images that updates have
written into the flash slots (R340); curNo the number of the Curator's next request; lastBind, by priority, the queue slot whose
launch was bound last (R331). -/
structure Device where
  mem : List Host.Cell
  lines : AMap Line
  park : List Park
  retry : List Retry
  cntSeen : List (LaunchId × Nat)
  walks : List Walk
  pcache : List (Nat × Nat)
  ptlb : List (Nat × Tlb)
  badDwords : List Nat
  bind : AMap BindEnt
  cores : AMap Core
  colls : List Coll
  grants : List (CollKey × Nat)
  waiting : List CollKey
  rver : Nat
  peers : AMap (Nat × Nat × Nat)
  unreach : List Nat
  needReset : List Nat
  seqOut : AMap Nat
  seqIn : AMap Nat
  store : List Sent
  portq : List Sent
  deficit : AMap (AMap Nat)
  spilled : Bool
  ports : AMap Port
  barCnt : List ((LaunchId × Nat × Nat) × Nat)
  bar0 : Bar0
  fns : AMap Fn
  errlog : List ErrEnt
  evlog : List EvEnt
  islands : AMap Island
  pceil : Nat
  capping : Bool
  flashA : Option (List Byte)
  flashB : Option (List Byte)
  hot : List Nat
  msix : List (Nat × Nat)
  clk : Nat
  offers : List Offer
  qslots : AMap QSlot
  csems : AMap Nat
  launches : List Launch
  reserves : List Reserve
  groupSeq : AMap Nat
  reclaims : List (Nat × Nat)
  remote : List (LaunchId × List Nat)
  domains : List Nat
  curNo : Nat
  lastBind : AMap Nat
  lost : Bool
  deriving DecidableEq, Repr

/-- An error that ECC finds in a structure (R403): corrected; in a core's own state, its egress buffer or its checkpoint store; in
a 64-byte line, a page-table dword, a park-table entry, or a packet of the retry store; or one that breaks the header and op list of a
packet on the fabric, as the bytes give them (R383). -/
inductive Upset where
  | corrected (dev : Nat)
  | coreState (dev core : Nat)
  | egress (dev core : Nat)
  | ckpt (dev core : Nat)
  | line (dev line : Nat)
  | pte (dev dword : Nat)
  | park (dev n : Nat)
  | store (dev n : Nat)
  | packet (n : Nat) (hdr : List Byte)
  deriving DecidableEq, Repr

/-- A host request that no step of the opcode table makes: a read of 8 bytes of a function's BAR0, on its interface's IDE stream or
not (R308, R309, R313, R341). -/
inductive HostReq where
  | read (dev fn off : Nat) (onIde : Bool)
  deriving DecidableEq, Repr

/-- What acts next: the issue stage of a core, the event that a stalled or parked context may have been waiting for, a step of
another agent, an error, or a host request. -/
inductive Turn where
  | issue (dev core : Nat)
  | poll (dev core ctx : Nat)
  | ev (i : Instr)
  | upset (u : Upset)
  | host (r : HostReq)
  deriving DecidableEq, Repr

/-- The answer to the last host read (R86, R313, R375, R391): a value, or Unsupported Request. -/
inductive Resp where
  | value (bs : List Byte)
  | unsupported
  deriving DecidableEq, Repr

/-- The machine. cur is the context whose instruction exec runs; agenda holds the turns still to be taken in order,
inputs from outside among them; stepNo numbers the steps and is what the free values of Config are applied to. -/
structure State where
  cur : Who
  agenda : List Turn
  stepNo : Nat
  devs : AMap Device
  net : List Msg
  fab : List FabPkt
  switches : AMap Switch
  resp : Option Resp
  deriving DecidableEq, Repr

/-! Reset values (R339, R341, R98, R102, R103, R195, R284; log 4, 8, 9, 12 where the manual gives none). -/

def VR.zero : VR := ⟨0, 0⟩

def Regs.zero : Regs :=
  { s := Vector.replicate 64 0, p := Vector.replicate 8 false, v := Vector.replicate 32 VR.zero,
    m := Vector.replicate 8 0, flags := 0, topx := 0, rngctr := 0 }

def TrapRegs.zero : TrapRegs := ⟨0, 0, 0, 0, 0, 0⟩

def Plan.zero : Plan := ⟨0, 0, 0, none⟩

def Region.zero : Region := ⟨0, true, true, 0, 0, 0, 0, false, false⟩

def Ckpt.zero : Ckpt :=
  { entry := 0, d := true, m := true, slive := 0, vlive := 0, regs := Regs.zero, trap := TrapRegs.zero, st := .idle,
    arrivals := [], plan := Plan.zero, out := [], deferred := none, committed := false }

/-- A context with nothing in it, in the given state. -/
def Context.reset (st : CtxSt) : Context :=
  { st := st, wait := none, pc := 0, regs := Regs.zero, trap := TrapRegs.zero, region := Region.zero, ckpt := Ckpt.zero,
    deferred := none, egress := [], committing := false, begun := false, committed := false, out := [], issueNo := 0, reqNo := 0,
    sig := none, fp := 0, hold := [], watchdog := 0, delivered := none, rngSaved := 0, walkErr := none, pre := .run }

def Store.zero : Store := ⟨[], [], []⟩

/-- A free slot (R95). -/
def Slot.free : Slot :=
  { st := .free, owner := 0, data := [], scales := [], fmt := none, band := 0x3F80, poison := false, release := false,
    gen := 0, dataGen := 0, dataFmt := none }

/-- A bank at launch start: zero, factor 1, mode float (R98). -/
def Bank.zero : Bank := ⟨[], false, false, 0x3F80, 0x3F80⟩

def Acc.zero : Acc := ⟨Bank.zero, Bank.zero, [], []⟩

/-- A core that holds no launch, as bring-up leaves it (R339 step 5). -/
def Core.reset : Core :=
  { bound := none
    ctxs := (Vector.replicate 11 (Context.reset .idle)).set 0 (Context.reset .ended)
    lastIssued := 0, ls := Store.zero, slots := Vector.replicate 16 Slot.free, acc0 := Acc.zero, acc1 := Acc.zero
    sems := [], guards := Vector.replicate 16 (some true), mx := [], cx := [], port := []
    stash := Vector.replicate 8 none, plan := Plan.zero, arrivals := [], gens := [], recov := [], arbw := 0x010101
    held := [], tlb := [], commits := 0, rentry := 0, killed := false, sealed := false, restarted := false
    ckptBad := false, helperLive := false, portLost := false, eccHit := false, killWait := none, eccS := [], eccV := [], eccG := [], eccArm := none, nextId := 0
    collSeq := [], rooted := false, stopped := false, wrote := false, trapped := none, testAge := 0 }

/-- A line that nothing has requested: bottom (R64, R339). -/
def Line.fresh : Line :=
  { kind := none, wd := .w8, masks := Vector.replicate 4 0, ver := 0, frozen := false, bad := false }

def Bar0.reset : Bar0 :=
  { step := 0, fail := false, x4t := false, devid := none, width := 16, corestat := [], t2cap := 0, fabid := none
    pwrcap := 3200, pkg := 0, modW := 0, temp := [], thev := 0, islset := 940 <<< 16, dseed := 0, jbase := 0, jret := 0
    jhead := 1, cabase := 0, casize := 0, capool := 0, astbase := 0, keysel := 0, keybuf := List.replicate 96 0, keys := [], sigreq := 0
    fwaddr := 0, fwlen := 0, fwbusy := false, fwdone := false, fwfail := 0, fwslot := false, fwpref := false, fwrun := false, corr := 0
    unc := 0, dup := false, eccinj := 0, qfixed := false }

def Fn.reset : Fn := ⟨0, 0, 0, 0, .unlocked⟩

def Island.reset : Island := ⟨940, 940, none, false⟩

def Port.up : Port := ⟨false, 0, none⟩

def QSlot.empty : QSlot :=
  { desc := none, base := 0, lg := 0, prio := 0, sys := false, asid := 0, fn := 0, widx := 0, ridx := 0, woken := false
    waiting := false, stop := false, taken := none, cmd := none, graph := none }

/-- A device at power-on, before bring-up (R339). -/
def Device.reset : Device :=
  { mem := [], lines := [], park := [], retry := [], cntSeen := [], walks := [], pcache := [], ptlb := [], badDwords := [], bind := []
    cores := [], colls := [], grants := [], waiting := [], rver := 0, peers := [], unreach := []
    needReset := [], seqOut := [], seqIn := [], store := [], portq := [], deficit := [], spilled := false, ports := [], barCnt := []
    bar0 := Bar0.reset, fns := [], errlog := [], evlog := [], islands := [], pceil := 1040, capping := false, flashA := none
    flashB := none, hot := [], msix := [], clk := 0
    offers := [], qslots := [], csems := [], launches := [], reserves := [], groupSeq := [], reclaims := [], remote := []
    domains := [], curNo := 0, lastBind := [], lost := false }

/-- The machine right after reset: device 0 at power-on, nothing in flight (R339). -/
def State.reset : State :=
  { cur := ⟨0, 0, 0⟩, agenda := [], stepNo := 0, devs := [(0, Device.reset)], net := [], fab := [], switches := []
    resp := none }

end Sys2Proof.Machine
end

