-- ==== Sys2Proof/Machine/Ops.lean ====
section
/-! DEFINITION. The named operations over maps, memory, registers, cores and devices; taking a trap and ending a launch. -/

namespace Sys2Proof.Machine
open Sys2Proof

/-! ## Maps and canonical byte lists -/

/-- The value at a key. -/
def aget {α : Type} : AMap α → Nat → Option α
  | [], _ => none
  | (k, v) :: t, a => if k = a then some v else aget t a

/-- Setting a key, keeping the keys in rising order. -/
def aset {α : Type} : AMap α → Nat → α → AMap α
  | [], a, x => [(a, x)]
  | (k, v) :: t, a, x =>
    if a < k then (a, x) :: (k, v) :: t else if a = k then (a, x) :: t else (k, v) :: aset t a x

/-- Removing a key. -/
def adel {α : Type} (m : AMap α) (a : Nat) : AMap α := m.filter (fun p => p.1 != a)

/-- A counter in a map, 0 when absent. -/
def acount (m : AMap Nat) (a : Nat) : Nat := (aget m a).getD 0

/-- The byte at an address: 0 for an address that is not listed (log 5). -/
def cellRead : List Host.Cell → Nat → Byte
  | [], _ => 0
  | (k, v) :: t, a => if k = a then v else cellRead t a

/-- Writing a byte, keeping the canonical form: rising addresses, no listed zero. -/
def cellWrite : List Host.Cell → Nat → Byte → List Host.Cell
  | [], a, b => if b = 0 then [] else [(a, b)]
  | (k, v) :: t, a, b =>
    if a < k then (if b = 0 then (k, v) :: t else (a, b) :: (k, v) :: t)
    else if a = k then (if b = 0 then t else (a, b) :: t)
    else (k, v) :: cellWrite t a b

/-- The canonical form of a byte list: every listed byte is not zero and lies above the bound, rising. -/
def Memory.wfFrom : Nat → List Host.Cell → Bool
  | _, [] => true
  | lo, (k, v) :: t => decide (lo ≤ k) && (v != 0) && Memory.wfFrom (k + 1) t

/-- The canonical form of memory. -/
def Memory.wf (m : List Host.Cell) : Bool := Memory.wfFrom 0 m

/-- Writing consecutive bytes. -/
def cellsWrite (m : List Host.Cell) (a : Nat) : List Byte → List Host.Cell
  | [] => m
  | b :: bs => cellsWrite (cellWrite m a b) (a + 1) bs

/-- Reading consecutive bytes. -/
def cellsRead (m : List Host.Cell) (a n : Nat) : List Byte := (List.range n).map (fun i => cellRead m (a + i))

/-- Inserting into a rising list of numbers without repeats. -/
def setIns : List Nat → Nat → List Nat
  | [], a => [a]
  | k :: t, a => if a < k then a :: k :: t else if a = k then k :: t else k :: setIns t a

/-- Removing from a list of numbers. -/
def setDel (l : List Nat) (a : Nat) : List Nat := l.filter (· != a)

/-- Sorting by a key, the order of equals kept. -/
def insertBy {α : Type} (key : α → Nat) (x : α) : List α → List α
  | [] => [x]
  | y :: t => if key x ≤ key y then x :: y :: t else y :: insertBy key x t

def sortBy {α : Type} (key : α → Nat) (l : List α) : List α := l.foldr (insertBy key) []

/-- The numbers from a on, n of them. -/
def span (a n : Nat) : List Nat := (List.range n).map (a + ·)

/-! ## Bytes and numbers (R4: little-endian) -/

/-- The number that bytes hold, lowest first. -/
def leNat : List Byte → Nat
  | [] => 0
  | b :: bs => b.toNat + 256 * leNat bs

/-- The n lowest bytes of a number, lowest first. -/
def natBytes : Nat → Nat → List Byte
  | 0, _ => []
  | n + 1, v => BitVec.ofNat 8 v :: natBytes n (v / 256)

/-- Bits hi:lo of a number, as a number. -/
def bits (v hi lo : Nat) : Nat := v / 2 ^ lo % 2 ^ (hi - lo + 1)

/-- Bit i of a number. -/
def bit (v i : Nat) : Bool := v / 2 ^ i % 2 == 1

/-- 1 or 0. -/
def b2n (b : Bool) : Nat := if b then 1 else 0

/-! ## Devices, cores, contexts -/

def State.device (s : State) (d : Nat) : Device := (aget s.devs d).getD Device.reset

def State.setDevice (s : State) (d : Nat) (x : Device) : State := { s with devs := aset s.devs d x }

/-- Changing a device that exists. -/
def State.modDev (s : State) (d : Nat) (f : Device → Device) : State :=
  match aget s.devs d with
  | some x => s.setDevice d (f x)
  | none => s

def Device.core (x : Device) (c : Nat) : Core := (aget x.cores c).getD Core.reset

def State.core (s : State) (d c : Nat) : Core := (s.device d).core c

def State.setCore (s : State) (d c : Nat) (k : Core) : State := s.modDev d (fun x => { x with cores := aset x.cores c k })

def State.modCore1 (s : State) (d c : Nat) (f : Core → Core) : State := s.setCore d c (f (s.core d c))

/-- Changing a core, and its partner alike in a paired launch (R395: deliveries reach both cores in one cycle). -/
def State.modCore (s : State) (d c : Nat) (f : Core → Core) : State :=
  match (s.core d c).bound with
  | some b =>
    match b.peer with
    | some p => (s.modCore1 d c f).modCore1 d p f
    | none => s.modCore1 d c f
  | none => s.modCore1 d c f

def Core.ctx (c : Core) (n : Nat) : Context := if h : n < 11 then c.ctxs[n] else Context.reset .ended

def Core.setCtx (c : Core) (n : Nat) (x : Context) : Core :=
  if h : n < 11 then { c with ctxs := c.ctxs.set n x } else c

def Core.modCtx (c : Core) (n : Nat) (f : Context → Context) : Core := c.setCtx n (f (c.ctx n))

def Core.slot (c : Core) (o : Nat) : Slot := if h : o < 16 then c.slots[o] else Slot.free

def Core.setSlot (c : Core) (o : Nat) (x : Slot) : Core :=
  if h : o < 16 then { c with slots := c.slots.set o x } else c

def Core.acc (c : Core) (a : Bool) : Acc := if a then c.acc1 else c.acc0

def Core.setAcc (c : Core) (a : Bool) (x : Acc) : Core := if a then { c with acc1 := x } else { c with acc0 := x }

def Core.queue (c : Core) : EngQ → List Cmd
  | .mx => c.mx
  | .cx => c.cx
  | .port => c.port

def Core.setQueue (c : Core) (q : EngQ) (l : List Cmd) : Core :=
  match q with
  | .mx => { c with mx := l }
  | .cx => { c with cx := l }
  | .port => { c with port := l }

/-- Changing the command with a number in a queue. -/
def Core.modCmd (c : Core) (q : EngQ) (id : Nat) (f : Cmd → Cmd) : Core :=
  c.setQueue q ((c.queue q).map (fun k => if k.id == id then f k else k))

def Core.window (c : Core) (w : Nat) : Option Window := if h : w < 8 then c.stash[w] else none

def Core.setWindow (c : Core) (w : Nat) (x : Option Window) : Core :=
  if h : w < 8 then { c with stash := c.stash.set w x } else c

/-- The windows that are mapped, with their numbers. -/
def Core.windows (c : Core) : List (Nat × Window) :=
  (List.range 8).filterMap (fun w => (c.window w).map (fun x => (w, x)))

/-! ## Registers (R16, R160, R161: s0 reads zero, p0 reads true, writes to them are discarded; log 18) -/

def Regs.getS (r : Regs) (i : SReg) : Word := if i = 0 then 0 else r.s[i.toNat]'(i.isLt)

def Regs.setS (r : Regs) (i : SReg) (v : Word) : Regs :=
  if i = 0 then r else { r with s := r.s.set i.toNat v i.isLt }

def Regs.getP (r : Regs) (i : PReg) : Bool := if i = 0 then true else r.p[i.toNat]'(i.isLt)

def Regs.setP (r : Regs) (i : PReg) (v : Bool) : Regs :=
  if i = 0 then r else { r with p := r.p.set i.toNat v i.isLt }

def Regs.getV (r : Regs) (i : VReg) : VR := r.v[i.toNat]'(i.isLt)

def Regs.setV (r : Regs) (i : VReg) (v : VR) : Regs := { r with v := r.v.set i.toNat v i.isLt }

def Regs.getM (r : Regs) (i : MReg) : Word := r.m[i.toNat]'(i.isLt)

def Regs.setM (r : Regs) (i : MReg) (v : Word) : Regs := { r with m := r.m.set i.toNat v i.isLt }

/-- ORing bits into FLAGS (R133). -/
def Regs.orFlags (r : Regs) (f : Word) : Regs := { r with flags := r.flags ||| f }

/-! ## Local store (R88-R90, R367) -/

/-- The granules that n bytes at an offset touch. -/
def granules (a n : Nat) : List Nat := if n = 0 then [] else span (a / 16) ((a + n - 1) / 16 - a / 16 + 1)

def Store.read (l : Store) (a n : Nat) : List Byte := cellsRead l.bytes a n

def Store.isFull (l : Store) (g : Nat) : Bool := l.full.contains g

def Store.isPoison (l : Store) (g : Nat) : Bool := l.poison.contains g

def Store.setFull (l : Store) (gs : List Nat) : Store := { l with full := gs.foldl setIns l.full }

def Store.setEmpty (l : Store) (gs : List Nat) : Store := { l with full := gs.foldl setDel l.full }

def Store.setPoison (l : Store) (gs : List Nat) : Store := { l with poison := gs.foldl setIns l.poison }

/-- The granules that n bytes at an offset cover whole. -/
def wholeGranules (a n : Nat) : List Nat := (granules a n).filter (fun g => a ≤ 16 * g && 16 * g + 16 ≤ a + n)

/-- Writing bytes: a write that covers a granule clears its poison mark (R367). -/
def Store.write (l : Store) (a : Nat) (bs : List Byte) : Store :=
  { l with bytes := cellsWrite l.bytes a bs, poison := (wholeGranules a bs.length).foldl setDel l.poison }

/-- A write that also sets the touched granules full (R89). -/
def Store.writeFull (l : Store) (a : Nat) (bs : List Byte) : Store := (l.write a bs).setFull (granules a bs.length)

/-- The first poisoned granule among the bytes read. -/
def Store.poisonAt (l : Store) (a n : Nat) : Option Nat := (granules a n).find? l.isPoison

/-! ## Cause codes (R363, R377) -/

namespace Cause
def illegal := 0x01
def ctxRole := 0x02
def resBounds := 0x03
def helperBusy := 0x04
def misaligned := 0x05
def lineCross := 0x06
def levelRange := 0x07
def barrierOrder := 0x08
def regionOverflow := 0x09
def regionIllegal := 0x0A
def regionTooLong := 0x0B
def handlerCommit := 0x0C
def software := 0x0D
def breakpoint := 0x0E
def cfsig := 0x0F
def tagMismatch := 0x10
def poison := 0x11
def nondet := 0x12
def slotState := 0x13
def stashInvalid := 0x14
def kindMismatch := 0x15
def addrNoncanon := 0x16
def pageAbsent := 0x17
def pteInvalid := 0x18
def permission := 0x19
def memUncorr := 0x1A
def parkTimeout := 0x1B
def staleVersion := 0x1C
def versionUnreachable := 0x1D
def latticeConflict := 0x20
def writeAfterFreeze := 0x21
def exchangeViolation := 0x22
def topxMismatch := 0x23
def scaleMismatch := 0x24
def hostwKind := 0x30
def hostwFormat := 0x31
def obsWrite := 0x32
def regValue := 0x33
def treeUnbindable := 0x100
def treeMismatch := 0x101
def planInvalid := 0x102
def headerInvalid := 0x103
def launchInvalid := 0x104
def launchSig := 0x105
def packetInvalid := 0x110
def chainDepth := 0x111
def ringOverrun := 0x112
def graphInvalid := 0x113
def loopLimit := 0x114
def aborted := 0x115
def collMismatch := 0x120
def collTopx := 0x121
def collIncomplete := 0x122
def fabricUnreachable := 0x123
def deviceLost := 0x124
def collStaging := 0x125
def coreKilled := 0x130
def pairKilled := 0x131
def linkDown := 0x200
def routeVersion := 0x201
def retrySpill := 0x202
def fallback := 0x203
def pktMalformed := 0x204
def thermalCeil := 0x210
def powerCeil := 0x211
def thermalTrip := 0x212
def supplyFault := 0x213
end Cause

/-- RES_BOUNDS with its resource and index (R363). -/
def resBounds (resource index : Nat) (addr : Word := 0) : Trap :=
  ⟨Cause.resBounds, addr, BitVec.ofNat 64 (resource + 256 * (index % 256))⟩

/-! ## Logs and interrupts (R375, R391, R319) -/

/-- Raising an MSI-X vector of a function: each has 64 (R307); one above them names nothing (log 99). -/
def Device.raise (x : Device) (fn vec : Nat) : Device := if vec < 64 then { x with msix := x.msix ++ [(fn, vec)] } else x

/-- Setting the overflow mark of the newest entry. -/
def markOver {α : Type} (mark : α → α) (l : List α) : List α :=
  match l.reverse with
  | [] => []
  | e :: t => (mark e :: t).reverse

/-- Logging an event (R391): 64 entries, a full log marks its newest entry; vector 0 of the physical function. -/
def Device.logEv (x : Device) (cause arg : Nat) : Device :=
  if x.evlog.length < 64 then
    Device.raise { x with evlog := x.evlog ++ [EvEnt.mk cause arg false (x.clk % 2 ^ 30)] } 0 0
  else { x with evlog := markOver (fun e => { e with ovf := true }) x.evlog }

/-- Logging a dropped host access (R375): src 1 BAR2, 2 BAR4, 3 BAR0. -/
def Device.logErr (x : Device) (cause fn src off : Nat) : Device :=
  if x.errlog.length < 64 then { x with errlog := x.errlog ++ [ErrEnt.mk cause fn src false (bits off 41 6)] }
  else { x with errlog := markOver (fun e => { e with ovf := true }) x.errlog }

/-! ## Numbers of cores (R10) -/

def dieOf (pcore : Nat) : Nat := pcore / 1024
def rowOf (pcore : Nat) : Nat := pcore % 1024 / 32
def colOf (pcore : Nat) : Nat := pcore % 32
def quadOf (pcore : Nat) : Nat := dieOf pcore * 256 + rowOf pcore / 2 * 16 + colOf pcore / 2
def quadPos (pcore : Nat) : Nat := rowOf pcore % 2 * 2 + colOf pcore % 2
def islandOf (pcore : Nat) : Nat := dieOf pcore * 64 + rowOf pcore / 4 * 8 + colOf pcore / 4

def Device.island (x : Device) (i : Nat) : Island := (aget x.islands i).getD Island.reset

/-- Whether an island's clock runs (R335, R392). -/
def Device.clocked (x : Device) (isl : Nat) : Bool := (x.island isl).changing.isNone && !(x.island isl).supply

/-! ## Journal and fault records (R333, R372, R373) -/

def jl (x : Device) : Nat := x.bar0.jbase.toNat % 32

/-- The address of element e of the journal entry of an accession number. -/
def journalAt (x : Device) (acc e : Nat) : Nat :=
  (x.bar0.jbase.toNat / 4096 % 2 ^ 46 * 4096 + acc % 2 ^ jl x * 64 + 8 * e) % 2 ^ 44

/-- A .max join of the Curator into a journal element. -/
def Device.journal (x : Device) (acc e v : Nat) : Device :=
  let a := journalAt x acc e
  let old := leNat (cellsRead x.mem a 8)
  if old < v then { x with mem := cellsWrite x.mem a (natBytes 8 v) } else x

/-- The status element of an accession number (R333). -/
def statusWord (acc rc code : Nat) : Nat := acc % 2 ^ 48 * 65536 + rc % 4096 * 16 + code

def Device.launch? (x : Device) (acc : Nat) : Option Launch := x.launches.find? (fun l => l.acc == acc)

def Device.modLaunch (x : Device) (acc : Nat) (f : Launch → Launch) : Device :=
  { x with launches := x.launches.map (fun l => if l.acc == acc then f l else l) }

/-- Raising a launch's status (R333). -/
def Device.setStatus (x : Device) (acc code : Nat) : Device :=
  match x.launch? acc with
  | some l => (x.modLaunch acc (fun l => { l with code := code })).journal acc 1 (statusWord acc l.rc code)
  | none => x

/-- Whether a trap of some context of a core found no handler, or is still being handled (R372). -/
def Core.hasTrap (c : Core) : Bool := c.trapped.isSome || (List.range 11).any (fun n => (c.ctx n).trap.tcause.getLsbD 63)

/-- The control context's own trap, as a fault record holds it (R373): the one that found no handler, or the one still being
handled (R372); zeros where only a helper has trapped. -/
def Core.ownTrap (c : Core) : Nat × Word × Word × Word :=
  let t := (c.ctx 0).trap
  match c.trapped with
  | some q => if q.1 == 0 && t.tcause.getLsbD 63 then (t.tcause.toNat % 65536, t.tpc, t.taddr, t.taux) else q
  | none => if t.tcause.getLsbD 63 then (t.tcause.toNat % 65536, t.tpc, t.taddr, t.taux) else (0, 0, 0, 0)

/-- The 64-byte entry of a logical core in a fault record (R373): rentry, commits, state and place, own trap. -/
def coreEntry (dev pcore : Nat) (c : Core) (state : Nat) : List Byte :=
  let t := if state == 3 then c.ownTrap else (0, 0, 0, 0)
  natBytes 8 c.rentry.toNat ++ natBytes 8 c.commits ++ natBytes 8 (state + pcore * 65536 + dev * 2 ^ 32)
    ++ natBytes 8 t.1 ++ natBytes 8 t.2.1.toNat ++ natBytes 8 t.2.2.1.toNat ++ natBytes 8 t.2.2.2.toNat ++ natBytes 8 0

/-- The state field of a core entry (R373); a trap of any context of the core marks it (R372; log 35). -/
def coreStateCode (l : Launch) (dev pcore : Nat) (c : Core) : Nat :=
  if l.killed.any (fun k => k.dev == dev && k.core == pcore) || c.killed then 4
  else if c.bound.isNone || !l.rooted then 0
  else if (c.ctx 0).st == .ended then 2
  else if c.hasTrap then 3 else 1

/-- The core of logical core i of a launch, bound at a place or saved (R45, R373). saved holds it under 2 i, and its checker
under 2 i + 1. -/
def State.launchCore (s : State) (l : Launch) (i : Nat) (p : Nat × Nat) : Core :=
  match l.saved.find? (fun q => q.1 == 2 * i) with
  | some q => q.2
  | none => s.core p.1 p.2

/-- The bytes of a launch fault record (R373, R411). -/
def faultRecord (s : State) (l : Launch) (f : FaultRec) : List Byte :=
  natBytes 8 l.acc ++ natBytes 8 (f.cause + b2n f.nested * 65536 + f.src * 131072)
    ++ natBytes 8 (f.lcore + f.ctx * 2 ^ 26) ++ natBytes 8 f.tpc.toNat ++ natBytes 8 f.tword.toNat
    ++ natBytes 8 f.taddr.toNat ++ natBytes 8 f.taux.toNat
    ++ natBytes 8 (l.cores.length + l.cnts.length * 2 ^ 32 + b2n l.cover * 2 ^ 43)
    ++ l.cores.zipIdx.flatMap (fun q =>
      let c := s.launchCore l q.2 q.1
      coreEntry q.1.1 q.1.2 c (coreStateCode l q.1.1 q.1.2 c))
    ++ l.cnts.flatMap (fun a => natBytes 8 a.toNat)

/-- Whether an origin belongs to a core. -/
def Origin.core? : Origin → Option (Nat × Nat)
  | .ctx w _ => some (w.dev, w.core)
  | .stash d c _ _ _ => some (d, c)
  | .cmd d c _ _ _ => some (d, c)
  | .lattice d c _ => some (d, c)
  | .deposit .. | .host .. | .cur .. => none

/-- Who a single-requester request answers. -/
def Req.origin? : Req → Option Origin
  | .join _ => none
  | .tread o .. | .xread o .. | .freeze o .. | .sread o _ | .swrite o _ | .bottom o _ => some o

/-- The key of a collective's message. -/
def Body.collKey? : Body → Option CollKey
  | .coll k .. | .result k .. | .reserve k .. | .reserved k .. | .start k _ | .landed k _ | .finish k => some k
  | _ => none

/-- Whether a message belongs to a collective of a launch. -/
def Body.collOf (b : Body) (l : LaunchId) : Bool :=
  match b.collKey? with
  | some k => !k.group && k.launch == l
  | none => false

/-- Whether a message is a collective's deposit, which lands even if its launch has faulted (R386). -/
def Body.deposits : Body → Bool
  | .result _ (.deposit :: _) .. => true
  | _ => false

/-- What a launch's end leaves in flight: joins, pushes and deposits already sent still land (R372 step 2, R386); its reads and
its collectives' other messages go (steps 3 and 4). -/
def keepBody (l : LaunchId) : Body → Bool
  | .req _ _ (.join _) => true
  | .req _ la _ => la != some l
  | .count la _ _ => la != l
  | b => !b.collOf l || b.deposits

def keepMsg (l : LaunchId) (m : Msg) : Bool := keepBody l m.body

/-- A collective of a launch that has faulted (R386): its staging is free; what its deposits already sent need stays. -/
def Coll.freed (c : Coll) : Coll :=
  { c with stage := .sending, mine := c.mine.map (fun m => { m with data := [] }), got := [], fb := false, failed := some (0, 0, 0) }

/-- Freeing what a switch holds for a collective (R297, R305, R386). -/
def Switch.free (k : Switch) (gone : CollKey → Bool) : Switch :=
  { k with slots := k.slots.filter (fun t => !gone t.key), markers := k.markers.filter (fun m => !gone m)
           waiting := k.waiting.filter (fun m => !gone m) }

/-- Whether a collective is a launch's. -/
def CollKey.of (k : CollKey) (l : LaunchId) : Bool := !k.group && k.launch == l

/-- Freeing what the switches hold for some collectives. -/
def State.freeSwitches (s : State) (gone : CollKey → Bool) : State :=
  { s with switches := s.switches.map (fun p => (p.1, p.2.free gone)) }

/-- Removing some collectives' contributions and results from the fabric (R386, R415): a numbered packet keeps its number. A deposit
that keep spares stays. -/
def State.dropFab (s : State) (gone : CollKey → Bool) (keep : Body → Bool) : State :=
  let out (b : Body) : Bool := b.collKey?.any gone && !keep b
  { s with fab := (s.fab.filter (fun p => match p.kind with
      | .hop _ b => !out b
      | .collAck k .. => !gone k
      | _ => true)).map (fun p => match p.kind with
      | .packet ps => { p with kind := .packet (ps.map (fun q => if out q.body then { q with body := .void } else q)) }
      | _ => p) }

/-- Stopping a context as a launch's end does (R372 step 1, R407 step 1): the egress buffer and the hold buffer are
emptied without effect. Its core is marked stopped, so that it never issues again. -/
def Context.stop (x : Context) : Context :=
  { x with wait := none, egress := [], hold := [], committing := false, walkErr := none, sig := none }

/-- Whether a command is a FETCH. -/
def Cmd.isFetch (k : Cmd) : Bool :=
  match k.instr with
  | .cpyFetch .. => true
  | _ => false

/-- The started commands of a queue that run on when a launch ends. A FETCH does not: its parked reads are freed (R372 step 3),
and all it does is in the core (log 32). -/
def startedOnly (l : List Cmd) : List Cmd := l.filter (fun k => k.started && k.halted.isNone && !k.isFetch)

/-- Stopping a core of a launch that ends (R372 steps 1 and 3); a kill that waited for one of its commits takes effect (R406). -/
def Core.stopAll (c : Core) : Core :=
  { c with ctxs := c.ctxs.map Context.stop, mx := startedOnly c.mx, cx := startedOnly c.cx, port := [], held := []
           stopped := true, recov := [], killed := c.killed || c.killWait.isSome, sealed := c.sealed || c.killWait.isSome
           testAge := if c.killWait.isSome then 0 else c.testAge, killWait := none }

/-- The devices that hold cores of a launch. -/
def Launch.devsOf (l : Launch) : List Nat := (l.cores.map (·.1)).eraseDups

/-- The physical cores of a launch on a device, checkers included (R394). -/
def Device.boundCores (x : Device) (l : LaunchId) : List Nat :=
  x.cores.filterMap (fun p => match p.2.bound with
    | some b => if b.launch = l then some p.1 else none
    | none => none)

/-- Returning a device's part of a launch: park entries, retries, staging, retry-store packets of collectives, walks and
bind entries (R372, R381, R386). -/
def Device.freeLaunch (x : Device) (l : LaunchId) : Device :=
  let cs := x.boundCores l
  { x with
    cores := x.cores.map (fun p => if cs.contains p.1 then (p.1, { p.2 with bound := none }) else p)
    bind := x.bind.filter (fun p => !(p.2.acc == l.acc && p.2.owner == l.owner))
    park := x.park.filter (fun k => k.launch != some l)
    walks := x.walks.filter (fun w => match w.for_ with
      | .ctx c _ => !cs.contains c
      | .cmd c _ => !cs.contains c)
    colls := x.colls.filter (fun k => k.key.group || k.key.launch != l)
    grants := x.grants.filter (fun k => k.1.group || k.1.launch != l)
    waiting := x.waiting.filter (fun k => k.group || k.launch != l)
    cntSeen := x.cntSeen.filter (fun p => p.1 != l)
    remote := x.remote.filter (fun p => p.1 != l)
    barCnt := x.barCnt.filter (fun p => p.1.1 != l) }

/-- Removing the packets of some collectives from a retry store (R386, R415): a numbered one keeps its number. -/
def dropSent (gone : CollKey → Bool) (l : List Sent) : List Sent :=
  (l.filter (fun p => p.numbered || !p.body.collKey?.any gone)).map (fun p =>
    if p.body.collKey?.any gone then { p with body := .void, launch := none } else p)

/-- Stopping a device's cores of a launch. -/
def Device.stopLaunch (x : Device) (l : LaunchId) : Device :=
  let cs := x.boundCores l
  { x with
    cores := x.cores.map (fun p => if cs.contains p.1 then (p.1, p.2.stopAll) else p)
    park := x.park.filter (fun k => k.launch != some l)
    retry := x.retry.filter (fun r => match r.body with
      | .req _ la _ => la != some l
      | _ => true)
    colls := x.colls.map (fun k => if k.key.of l then k.freed else k)
    grants := x.grants.filter (fun k => !k.1.of l)
    waiting := x.waiting.filter (fun k => !k.of l)
    store := dropSent (fun k => k.of l) x.store
    portq := x.portq.filter (fun p => keepBody l p.body) }

/-- Changing every device. -/
def State.mapDevs (s : State) (f : Nat → Device → Device) : State :=
  { s with devs := s.devs.map (fun p => (p.1, f p.1 p.2)) }

/-- Whether every line of a copy has been sent: all of them, or those below a failing one. -/
def Cmd.sentAll (k : Cmd) : Bool := decide (k.b.toNat ≤ k.off) || k.failAt.any (fun f => decide (f.1 ≤ k.off))

/-- Whether a command has sent everything and waits for acknowledgements. -/
def Cmd.listens (k : Cmd) : Bool :=
  !k.await.isEmpty && (match k.instr with
    | .send .. => true
    | _ => k.sentAll)

/-- Whether a request or an answer is for a command of a core. -/
def Origin.ofEngine (o : Origin) (d c : Nat) : Bool :=
  match o with
  | .cmd e k .. => e == d && k == c
  | _ => false

def Body.forEngine (d c : Nat) : Body → Bool
  | .req _ _ (.join ps) => ps.any (fun p => p.from_.ofEngine d c)
  | .req _ _ r => r.origin?.any (fun o => o.ofEngine d c)
  | .answer o _ | .ack o _ => o.ofEngine d c
  | .land l => l.cmd.isSome && l.src.dev == d && l.src.core == c
  | .landAck w _ cmd _ => cmd.isSome && w.dev == d && w.core == c
  | _ => false

/-- Whether anything that a core's commands wait for is still on its way, or may still come from a home. A packet that a device does
not send, since its destination must be reset first, is none (R380). -/
def State.coming (s : State) (d c : Nat) : Bool :=
  s.net.any (fun m => m.body.forEngine d c)
    || s.fab.any (fun p => match p.kind with
      | .packet ps => ps.any (fun q => q.body.forEngine d c)
      | _ => false)
    || s.devs.any (fun p =>
      p.2.park.any (fun k => (Body.req k.line k.launch k.r).forEngine d c) || p.2.retry.any (fun q => q.body.forEngine d c)
        || p.2.portq.any (fun q => q.body.forEngine d c) || p.2.store.any (fun q => 0 < q.sends && q.body.forEngine d c))

/-- Whether every command of a queue is over: complete, and gone, or halted, or waiting for what can no longer come (R380, R381). -/
def allOver (coming : Bool) (l : List Cmd) : Bool := l.all (fun k => k.halted.isSome || (k.listens && !coming))

/-- Whether a fabric packet carries a deposit of a launch's collective. -/
def FabPkt.depositOf (p : FabPkt) (l : LaunchId) : Bool :=
  match p.kind with
  | .hop _ b => b.deposits && b.collOf l
  | .packet ps => ps.any (fun q => q.body.deposits && q.body.collOf l)
  | _ => false

/-- Whether a deposit of a collective is on its way to a device (R386). -/
def State.depositTo (s : State) (k : CollKey) (d : Nat) : Bool :=
  let is (b : Body) : Bool := b.deposits && b.collKey? == some k
  s.net.any (fun m => m.dev == d && is m.body) || s.fab.any (fun p => p.dst == d && (match p.kind with
    | .hop _ b => is b
    | .packet ps => ps.any (fun q => is q.body)
    | _ => false))

/-- Whether every command of a launch's cores is over, and no deposit of its collectives is on its way (R386). -/
def State.drained (s : State) (l : LaunchId) : Bool :=
  s.devs.all (fun p => p.2.cores.all (fun q => match q.2.bound with
    | some b => b.launch != l || (let w := s.coming p.1 q.1; allOver w q.2.mx && allOver w q.2.cx && allOver w q.2.port)
    | none => true))
    && s.net.all (fun m => !(m.body.deposits && m.body.collOf l)) && s.fab.all (fun p => !p.depositOf l)

/-- Freeing the launch context area of a launch; its fault record stays (R327, R373). -/
def Device.freeArea (x : Device) (acc : Nat) : Device :=
  { x with reserves := x.reserves.filter (fun r => r.acc != 2 * acc) }

/-- Clearing the slot's running command, raising its interrupt when its irq bit is set (R319, R388). -/
def Device.endSlot (x : Device) (slot : Nat) : Device :=
  match aget x.qslots slot with
  | some q =>
    match q.cmd with
    | some r =>
      let x := { x with qslots := aset x.qslots slot { q with cmd := none, graph := none, waiting := false } }
      if r.hdr.toNat / 256 % 2 == 1 then x.raise q.fn (leNat ((r.blk.drop 0x18).take 2)) else x
    | none => x
  | none => x

/-- Ending a faulted launch once its started commands have run (R372 step 5): the record, status 15, element 5 and 7, the
bind entries free. A graph whose LAUNCH node faults is faulted by its thread (R388). -/
def State.finishFault (s : State) (owner : Nat) (acc : Nat) : State :=
  match (s.device owner).launch? acc with
  | some l =>
    match l.fault with
    | some f =>
      if l.code == 14 || l.code == 15 || l.stopping || !s.drained ⟨owner, acc⟩ then s
      else
        let rec_ := faultRecord s l f
        let s := s.mapDevs (fun _ x => x.freeLaunch ⟨owner, acc⟩)
        s.modDev owner (fun x =>
          let x := { x with mem := cellsWrite x.mem (l.recAt % 2 ^ 44) rec_ }
          let x := ((x.journal acc 5 l.recAt).journal acc 7 x.clk).setStatus acc 15
          let x := x.freeArea acc
          if l.node then x else x.endSlot l.slot)
    | none => s
  | none => s

/-- The place of a fault among those of one cycle (R372): src; of context traps LCORE, then CTX; of others cause, then LCORE. -/
def FaultRec.rank (f : FaultRec) : Nat :=
  f.src * 2 ^ 48 + (if f.src == 1 then f.lcore * 16 + f.ctx else f.cause * 2 ^ 26 + f.lcore)

/-- A launch fault reaches the Curator (R372): the first of a launch that is neither terminal nor faulted is noted; of those
that arrive before time passes, the one that R372 puts first. The launch is stopped as time passes (State.endFaulted). -/
def State.launchFault (s : State) (l : LaunchId) (f : FaultRec) : State :=
  match (s.device l.owner).launch? l.acc with
  | some x =>
    if x.code == 14 || x.code == 15 then s
    else match x.fault with
      | none => s.modDev l.owner (fun d => d.modLaunch l.acc (fun y =>
          { y with fault := some f, stopping := true, saving := false }))
      | some g =>
        if x.stopping && f.rank < g.rank then
          s.modDev l.owner (fun d => d.modLaunch l.acc (fun y => { y with fault := some f }))
        else s
  | none => s

/-- Stopping a launch on every device, switch and link (R372 steps 1 to 4, R386). -/
def State.stopEverywhere (s : State) (l : LaunchId) : State :=
  let s := s.mapDevs (fun _ d => d.stopLaunch l)
  let s := { s with net := s.net.filter (keepMsg l) }
  (s.freeSwitches (fun k => k.of l)).dropFab (fun k => k.of l) Body.deposits

/-- The Curator stops a launch whose fault it has noted (R372 steps 1 to 4), and ends it once its started commands have run. -/
def State.endFaulted (s : State) (l : LaunchId) : State :=
  let s := s.modDev l.owner (fun d => d.modLaunch l.acc (fun y => { y with stopping := false }))
  (s.stopEverywhere l).finishFault l.owner l.acc

/-- The launches whose fault is noted and whose cores still run. -/
def State.faulted (s : State) : List LaunchId :=
  s.devs.flatMap (fun p => (p.2.launches.filter (fun l => l.fault.isSome && l.stopping)).map (fun l => ⟨p.1, l.acc⟩))

/-- A fault that comes from no context: dispatch (2), queue (3), fabric or collective (4), kill (5) (R373, R387). -/
def launchCause (src cause : Nat) (lcore : Nat := 0) (tword taddr taux : Word := 0) : FaultRec :=
  { cause := cause, nested := false, src := src, lcore := lcore, ctx := 0, tpc := 0, tword := tword, taddr := taddr
    taux := taux }

/-! ## Taking a trap (R195-R199) -/

/-- A context's place, its launch and what the issue stage sees besides the core: the clock, a pair's other core, a full retry store,
a pad word, and walks under way. -/
structure Env where
  who : Who
  b : Binding
  clk : Nat
  peer : Option Core
  storeFull : Bool
  pad : Bool
  walking : Bool

/-- The result of an instruction: the core, and what leaves it. -/
structure Res where
  core : Core
  post : State → State

/-- A result that stays inside the core. -/
def Res.only (c : Core) : Res := ⟨c, id⟩

/-- A transfer target that R155 refuses: not a multiple of 4, or at offset 24 or 28 of a fetch block. -/
def targetInvalid (t : Word) : Bool := t.toNat % 4 != 0 || t.toNat % 32 == 24 || t.toNat % 32 == 28

/-- TCAUSE.act (R195). -/
def TrapRegs.act (t : TrapRegs) : Bool := t.tcause.getLsbD 63

/-- TCAUSE with a cause code and act set. -/
def tcauseOf (cause : Nat) : Word := BitVec.ofNat 64 (cause % 65536) ||| (1 <<< 63)

/-- Entering the handler: the saved registers written, act set, the pc at TVEC (R196). The signature check is disarmed
(R402), the watchdog cleared (R368), the wait withdrawn. A SYNC, VOTE or END that has committed stays committed: the TRET that
returns to it issues its wait again (R368). -/
def Context.enter (x : Context) (tpc word : Word) (t : Trap) : Context :=
  { x with
    trap := { x.trap with tpc := tpc, tword := word, taddr := t.addr, taux := t.aux, tcause := tcauseOf t.cause }
    pc := x.trap.tvec, st := .ready, wait := none, sig := none, watchdog := 0, committing := false, walkErr := none }

/-- Whether a trap can enter a handler (R196). -/
def Context.canEnter (x : Context) : Bool := !x.trap.act && x.trap.tvec != 0 && !targetInvalid x.trap.tvec

/-- Withdrawing an MSWAP of an accumulator, or a stalled MREAD (R368): the MREADs behind a withdrawn MSWAP read the bank that the
MSWAPs left before them will make visible (R99). -/
def Acc.withdraw (a : Acc) (ctx : Nat) : Acc :=
  let reads := a.reads.filter (fun p => p.ctx != ctx)
  match a.swap.findIdx? (fun p => p.1 == ctx) with
  | none => { a with reads := reads }
  | some n => { a with
      swap := a.swap.eraseIdx n
      reads := reads.map (fun p => if p.ahead ≤ n then p
        else { p with ahead := p.ahead - 1, isInt := if p.ahead % 2 = 1 then a.vis.accInt else a.work.accInt }) }

/-- Withdrawing a context's issued MSWAP or stalled MREAD (R368). -/
def Core.dropSwap (c : Core) (ctx : Nat) : Core :=
  let f (a : Acc) : Acc := a.withdraw ctx
  { c with acc0 := f c.acc0, acc1 := f c.acc1 }

/-- TAKING A TRAP (R196, R372): the handler is entered, or the launch faults with the trap's cause. tpc is the address of
the instruction (its successor for TRAP and BKPT), word its bits [63:0]. -/
def takeTrap (e : Env) (c : Core) (tpc word : Word) (t : Trap) : Res :=
  let c := c.dropSwap e.who.ctx
  let x := c.ctx e.who.ctx
  if x.canEnter then ⟨c.setCtx e.who.ctx (x.enter tpc word t), id⟩
  else
    { core := { c with trapped := if e.who.ctx == 0 then some (t.cause, tpc, t.addr, t.aux)
                                  else some (c.trapped.getD (0, 0, 0, 0)) }.setCtx e.who.ctx
                { x with wait := none, committing := false, pre := .stopped }
      post := fun s => s.launchFault e.b.launch
        { cause := t.cause, nested := x.trap.act, src := 1, lcore := e.b.lcore, ctx := e.who.ctx, tpc := tpc
          tword := word, taddr := t.addr, taux := t.aux } }

/-- Whether a context answers for a command: its issuer; the control context for a helper that is idle or has exited (R20,
R21, R71). -/
def Core.answersFor (c : Core) (ctx : Nat) (k : Cmd) : Bool :=
  k.ctx == ctx || (ctx == 0 && ((c.ctx k.ctx).st == .idle || (c.ctx k.ctx).st == .exited))

/-- A halted command whose fault has been delivered or counted restarts at the TRET of the context that answers for it (R370).
own is the command whose fault the delivered record held, off is TAUX as the handler leaves it. The restart does not pass over a line
that failed after the halt (R281). -/
def restartCmd (mine : Bool) (own : Option Nat) (off : Nat) (k : Cmd) : Cmd :=
  if mine && k.halted.isSome && k.recorded then
    let at_ := if own == some k.id then off / 64 * 64 else k.off
    { k with halted := none, recorded := false, low := none, off := min at_ (k.low.getD at_) }
  else k

/-- RETURNING FROM A TRAP (R199): act cleared, the pc at TPC. The first TRET that ends a handler entered by a delivery
restarts the halted commands that the context answers for (R281, R370): at TAUX.detail when the delivered record was the
command's own. A return to a SYNC, VOTE or END that has committed goes on with its wait (R368). -/
def trapReturn (c : Core) (ctx : Nat) : Core :=
  let x := c.ctx ctx
  let off := x.trap.taux.toNat % 2 ^ 32
  let c := match x.delivered with
    | some own => { c with cx := c.cx.map (fun k => restartCmd (c.answersFor ctx k) own off k) }
    | none => c
  c.setCtx ctx { x with trap := { x.trap with tcause := x.trap.tcause &&& 0xFFFF }, pc := x.trap.tpc, st := .ready
                        wait := none, watchdog := 0, delivered := none
                        committed := x.committed && x.trap.tpc == x.region.entry }

end Sys2Proof.Machine
end

