-- ==== Sys2Proof/Machine/Crypto.lean ====
section
/-! DEFINITION. The verification that R325 names: SHA-384 and ECDSA on the curve P-384. The manual gives the names; the arithmetic is
that of the standards behind them (FIPS 180-4, FIPS 186; log 7). -/

namespace Sys2Proof.Machine
open Sys2Proof

/-! ## SHA-384 -/

/-- The first 64 bits behind the point of the k-th root of a number below 512, found bit by bit from the highest. -/
def rootBits (k p : Nat) : BitVec 64 :=
  BitVec.ofNat 64 ((List.range 70).foldl (fun r i =>
    let t := r + 2 ^ (69 - i)
    if t ^ k ≤ p * 2 ^ (64 * k) then t else r) 0)

/-- The primes below 410: eighty of them. -/
def smallPrimes : List Nat := (List.range 410).filter (fun n => 2 ≤ n && (List.range n).all (fun d => d < 2 || n % d != 0))

/-- A word with itself turned right by each of some numbers of bits, by exclusive or. -/
def turned (w : BitVec 64) (by_ : List Nat) : BitVec 64 := by_.foldl (fun r n => r ^^^ w.rotateRight n) 0

/-- A round on the chain of eight words, with the sum of its constant and its message word. -/
def digestRound (kw : BitVec 64) : List (BitVec 64) → List (BitVec 64)
  | [a, b, c, d, e, f, g, h] =>
    let t := kw + h + turned e [14, 18, 41] + (g ^^^ e &&& (f ^^^ g))
    [t + turned a [28, 34, 39] + (a &&& b ||| c &&& (a ||| b)), a, b, c, t + d, e, f, g]
  | x => x

/-- A block through a round for each constant; the window w holds sixteen message words, the next one in front. -/
def digestBlock (x : List (BitVec 64)) : List (BitVec 64) → List (BitVec 64) → List (BitVec 64)
  | k :: ks, w :: ws =>
    let u := ws[0]?.getD 0
    let v := ws[13]?.getD 0
    let next := w + ws[8]?.getD 0 + (turned u [1, 8] ^^^ u >>> 7) + (turned v [19, 61] ^^^ v >>> 6)
    digestBlock (digestRound (k + w) x) ks (ws ++ [next])
  | _, _ => x

/-- A number of n bytes, the first the most significant. -/
def beNat (bs : List Byte) : Nat := bs.foldl (fun n b => 256 * n + b.toNat) 0

/-- A message filled up to whole blocks of 128 bytes: a bit 1, zeros, and its length in bits in 16 bytes. -/
def filledUp (m : List Byte) : List Byte :=
  m ++ [0x80] ++ List.replicate ((239 - m.length % 128) % 128) 0 ++ (natBytes 16 (8 * m.length)).reverse

/-- The digest as a number of 384 bits: the chain starts at the square roots of the 9th to the 16th prime, and the round constants are
the cube roots of the first eighty. -/
def sha384 (m : List Byte) : Nat :=
  let p := filledUp m
  let ks := smallPrimes.map (rootBits 3)
  let block (n : Nat) : List (BitVec 64) := (List.range 16).map (fun i => BitVec.ofNat 64 (beNat ((p.drop (128 * n + 8 * i)).take 8)))
  let x := (List.range (p.length / 128)).foldl (fun x n => List.zipWith (· + ·) x (digestBlock x ks (block n)))
    (((smallPrimes.drop 8).take 8).map (rootBits 2))
  (x.take 6).foldl (fun n w => n * 2 ^ 64 + w.toNat) 0

/-! ## The curve -/

def p384 : Nat := 2 ^ 384 - 2 ^ 128 - 2 ^ 96 + 2 ^ 32 - 1
def p384Order : Nat := 0xFFFFFFFFFFFFFFFFFFFFFFFFFFFFFFFFFFFFFFFFFFFFFFFFC7634D81F4372DDF581A0DB248B0A77AECEC196ACCC52973
def p384B : Nat := 0xB3312FA7E23EE7E4988E056BE3F82D19181D9C6EFE8141120314088F5013875AC656398D8A2ED19D2A85C8EDD3EC2AEF
def p384X : Nat := 0xAA87CA22BE8B05378EB1C71EF320AD746E1D3B628BA79B9859F741E082542A385502F25DBF55296C3A545E3872760AB7
def p384Y : Nat := 0x3617DE4A96262C6F5D9E98BF9292DC29F8F41DBD289A147CE9DA3113B5F0B8C00A60B1CE1D7E819D7A431D7C90EA0E5F

/-- A power modulo m, by the bits of the exponent below n. -/
def powMod (m b e : Nat) : Nat → Nat
  | 0 => 1 % m
  | n + 1 => let r := powMod m b (e / 2) n; if e % 2 = 1 then r * r % m * b % m else r * r % m

/-- The inverse modulo a prime of at most 384 bits. -/
def invMod (m a : Nat) : Nat := powMod m a (m - 2) 384

/-- A point of the curve with its coordinates over a common denominator: (x / z², y / z³), and z = 0 for the point at infinity. -/
structure EcPt where
  x : Nat
  y : Nat
  z : Nat
  deriving DecidableEq, Repr

def EcPt.zero : EcPt := ⟨1, 1, 0⟩

/-- Twice a point. -/
def EcPt.dbl (p : EcPt) : EcPt :=
  let q := p384
  let zz := p.z * p.z % q
  let yy := p.y * p.y % q
  let s := 4 * p.x * yy % q
  let m := 3 * (p.x + (q - zz)) * (p.x + zz) % q
  let x := (m * m + 2 * (q - s)) % q
  ⟨x, (m * (s + (q - x)) + (q - 8 * yy * yy % q)) % q, 2 * p.y * p.z % q⟩

/-- The sum of two points. -/
def EcPt.add (a b : EcPt) : EcPt :=
  let q := p384
  if a.z == 0 then b
  else if b.z == 0 then a
  else
    let za := a.z * a.z % q
    let zb := b.z * b.z % q
    let u := a.x * zb % q
    let h := (b.x * za + (q - u)) % q
    let s := a.y * zb % q * b.z % q
    let r := (b.y * za % q * a.z + (q - s)) % q
    if h == 0 then (if r == 0 then a.dbl else EcPt.zero)
    else
      let hh := h * h % q
      let hhh := h * hh % q
      let v := u * hh % q
      let x := (r * r + (q - hhh) + 2 * (q - v)) % q
      ⟨x, (r * (v + (q - x)) + (q - s * hhh % q)) % q, a.z * b.z % q * h % q⟩

/-- k times a point, by the bits of k below n. -/
def EcPt.mul (p : EcPt) (k : Nat) : Nat → EcPt
  | 0 => EcPt.zero
  | n + 1 => let r := (p.mul (k / 2) n).dbl; if k % 2 = 1 then r.add p else r

/-- Whether a pair of numbers is a point of the curve. -/
def onCurve (x y : Nat) : Bool :=
  decide (x < p384) && decide (y < p384) && y * y % p384 == (x * x * x + (p384 - 3) * x + p384B) % p384

/-- ECDSA verification of a digest: the key is x and y, the signature r and s, each of 48 bytes (R325). -/
def ecdsaOk (key : List Byte) (digest : Nat) (sig : List Byte) : Bool :=
  let n := p384Order
  let x := beNat (key.take 48)
  let y := beNat ((key.drop 48).take 48)
  let r := beNat (sig.take 48)
  let s := beNat ((sig.drop 48).take 48)
  let w := invMod n s
  let u := digest * w % n
  let v := r * w % n
  let p := ((⟨p384X, p384Y, 1⟩ : EcPt).mul u 384).add ((⟨x, y, 1⟩ : EcPt).mul v 384)
  let zi := invMod p384 p.z
  onCurve x y && r != 0 && decide (r < n) && s != 0 && decide (s < n) && p.z != 0 && (p.x * zi % p384 * zi % p384) % n == r

/-- Whether a signature verifies under a key over a message (R325; log 7). -/
def signatureOk (key msg sig : List Byte) : Bool := ecdsaOk key (sha384 msg) sig

end Sys2Proof.Machine
end

