-- ==== Sys2Proof/Machine/Operands.lean ====
section
/-! DEFINITION. Operand forms: second operands, displacements and targets, the registers an instruction names, tree
levels and spans. -/

namespace Sys2Proof.Machine
open Sys2Proof

/-! ## Values of operands -/

/-- src2 of R179. -/
def src2Val (r : Regs) : Src2 → Word
  | .reg b => r.getS b
  | .imm v => v.signExtend 64
  | .lit v => v.signExtend 64

/-- A displacement, sign-extended (R208). -/
def dispVal : Disp → Word
  | .imm v => v.signExtend 64
  | .lit v => v.signExtend 64

/-- The effective address of R208. -/
def effAddr (r : Regs) (a : SReg) (o : Disp) : Word := r.getS a + dispVal o

/-- The sequential successor of R155 and R189: pc + n, but the start of the next block when that lies at offset 28, or at
offset 24 where the word is a pad word. -/
def seqNext (pad : Bool) (pc : Word) (n : Nat) : Word :=
  let t := pc + BitVec.ofNat 64 n
  if t.toNat % 32 == 28 then t + 4 else if t.toNat % 32 == 24 && pad then t + 8 else t

/-- A PC-relative target: the instruction's address plus four times the field (R189). -/
def relTarget (pc : Word) (t : Disp) : Word := pc + (dispVal t <<< 2)

end Sys2Proof.Machine

namespace Sys2Proof
open Sys2Proof.Machine

/-- The bits [63:0] of an instruction (TWORD, R196). -/
def Instr.word (i : Instr) : Word := (encode i).extractLsb' 0 64

/-- Bytes of a scalar access (R211). -/
def Size.bytes : Size → Nat
  | .b => 1
  | .h => 2
  | .w => 4
  | .d => 8

/-- Bits of an element width (R48). -/
def Width.bits : Width → Nat
  | .w8 => 8
  | .w16 => 16
  | .w32 => 32
  | .w64 => 64

end Sys2Proof

namespace Sys2Proof.Machine
open Sys2Proof

/-- The bytes of one element or granule of a kind (R49). -/
def elemBytes (k : Kind) (w : Width) : Nat :=
  match k with
  | .fill => 16
  | .ver => 64
  | _ => w.bits / 8

/-- Whether bit i of an optional mask register enables a lane (R212, R232). -/
def laneOn (r : Regs) (mk : Option MReg) (i : Nat) : Bool :=
  match mk with
  | none => true
  | some m => (r.getM m).getLsbD i

/-- Tags 10 to 13: the typed bit (R130). -/
def isTyped (t : Tag) : Bool := 10 ≤ t.toNat && t.toNat ≤ 13

/-! ## The registers an instruction names (R161, R396, R405) -/

end Sys2Proof.Machine

namespace Sys2Proof
open Sys2Proof.Machine

/-- Registers read and written, slots named, and the window named. pw and mw are predicate and mask destinations. -/
structure RegUse where
  sr : List SReg := []
  sw : List SReg := []
  vr : List VReg := []
  vw : List VReg := []
  pw : List PReg := []
  mw : List MReg := []
  os : List OReg := []
  win : Option (BitVec 3) := none

def Src2.regs : Src2 → List SReg
  | .reg b => [b]
  | _ => []

/-- The destination of a masked vector instruction is read where lanes keep their bits (R233). -/
def mergeRead (vm : VMask) (d : VReg) : List VReg := if vm.mask.isSome && !vm.zm then [d] else []

def VCount.regs : VCount → List VReg
  | .reg b => [b]
  | .imm _ => []

def LaneIx.regs : LaneIx → List SReg
  | .reg b => [b]
  | .imm _ => []

def Shuf.regs : Shuf → List VReg
  | .ziplo b | .ziphi b | .uzev b | .uzod b => [b]
  | .rev | .rot _ => []

def optS : Option SReg → List SReg
  | some r => [r, r + 1]
  | none => []

/-- The registers an instruction names. -/
def Instr.use : Instr → RegUse
  | .add _ d a x | .sub _ d a x | .mul _ d a x | .mulh _ _ d a x | .div _ _ d a x | .rem _ _ d a x | .and _ d a x
  | .or _ d a x | .xor _ d a x | .andn _ d a x | .shl _ d a x | .shr _ d a x | .sar _ d a x | .rol _ d a x
  | .min _ _ d a x | .max _ _ d a x => { sr := a :: x.regs, sw := [d] }
  | .abs _ d a | .clz _ d a | .ctz _ d a | .popc _ d a | .brev _ d a => { sr := [a], sw := [d] }
  | .bfx _ _ d a _ _ => { sr := [a], sw := [d] }
  | .bfi _ d a _ _ => { sr := [a, d], sw := [d] }
  | .sel _ d a b _ _ => { sr := [a, b], sw := [d] }
  | .li _ _ d _ => { sw := [d] }
  | .lih _ d _ => { sr := [d], sw := [d] }
  | .lea _ d (.scaled a b _) => { sr := [a, b], sw := [d] }
  | .lea _ d (.disp a _) => { sr := [a], sw := [d] }
  | .lea _ d (.label _) => { sw := [d] }
  | .cmp _ _ _ d a x => { sr := a :: x.regs, pw := [d] }
  | .pand _ d _ _ | .por _ d _ _ | .pxor _ d _ _ | .pnot _ d _ | .pmov _ (.pp d _) => { pw := [d] }
  | .pmov _ (.ps d a) => { sr := [a], pw := [d] }
  | .pmov _ (.sp d _) => { sw := [d] }
  | .bri _ a | .ret _ a => { sr := [a] }
  | .call _ d _ => { sw := [d] }
  | .calli _ d a => { sr := [a], sw := [d] }
  | .loop _ d _ => { sr := [d], sw := [d] }
  | .vote _ d a _ | .voteP _ d a _ => { sr := [a], sw := [d] }
  | .ld _ _ _ d a _ => { sr := [a], sw := [d] }
  | .st _ _ d a _ | .stn _ _ d a _ => { sr := [d, a] }
  | .ldv _ _ _ d a _ => { sr := [a], vw := [d] }
  | .stv _ _ _ d a _ => { sr := [a], vr := [d] }
  | .ldvx _ _ _ d a b _ => { sr := [a], vr := [b], vw := [d] }
  | .stvx _ _ _ d a b _ => { sr := [a], vr := [d, b] }
  | .ldf _ _ (.s _ _ d) a _ => { sr := [a], sw := [d] }
  | .ldf _ _ (.v _ d) a _ => { sr := [a], vw := [d] }
  | .stf _ (.s _ d) a _ => { sr := [d, a] }
  | .stf _ (.v d) a _ => { sr := [a], vr := [d] }
  | .feq _ d a _ => { sr := [a], pw := [d] }
  | .feset _ _ _ a _ => { sr := [a] }
  | .push _ _ d a b _ => { sr := [a, b], vr := [d] }
  | .join _ _ _ _ d a _ => { sr := [d, a] }
  | .joinv _ (.elems ..) d a _ => { sr := [a], vr := [d] }
  | .joinv _ (.fill b) d a _ => { sr := [a, b], vr := [d] }
  | .joinv _ (.ver b) d a _ => { sr := [a, b], vr := [d, d + 1] }
  | .tread _ _ _ _ nt d a _ =>
    { sr := a :: (List.range (nt.toNat + 1)).map (fun i => d + BitVec.ofNat 6 i), sw := [d] }
  | .xread _ _ _ d a _ => { sr := [a], sw := [d] }
  | .xreadv _ (.elems ..) d a _ | .xreadv _ .fill d a _ => { sr := [a], vw := [d] }
  | .xreadv _ (.ver b) d a _ => { sr := [a, b], vw := [d, d + 1] }
  | .frz _ a b _ => { sr := [a, b] }
  | .lkind _ d a _ => { sr := [a], sw := [d] }
  | .smap _ w _ d a b _ => { sr := [d, a, b], win := some w }
  | .sflush _ w | .sdrop _ w => { win := some w }
  | .vadd _ _ m d a b | .vsub _ _ m d a b | .vmul _ _ m d a b | .vdiv _ _ m d a b | .vand _ _ m d a b
  | .vor _ _ m d a b | .vxor _ _ m d a b => { vr := [a, b] ++ mergeRead m d, vw := [d] }
  | .vfma _ _ _ _ m d a b c => { vr := [a, b, c] ++ mergeRead m d, vw := [d] }
  | .vmin _ _ _ m d a b | .vmax _ _ _ m d a b => { vr := [a, b] ++ mergeRead m d, vw := [d] }
  | .viadd _ _ _ _ m d a b | .visub _ _ _ _ m d a b | .vimul _ _ _ _ _ m d a b =>
    { vr := [a, b] ++ mergeRead m d, vw := [d] }
  | .vabs _ _ _ m d a | .vneg _ _ _ m d a | .vsqrt _ _ m d a | .vrcp _ _ m d a | .vsfu _ _ _ m d a | .vkey _ _ m d a
  | .vmov _ _ m d a => { vr := a :: mergeRead m d, vw := [d] }
  | .vshl _ _ m d a n | .vshr _ _ m d a n | .vsar _ _ m d a n => { vr := a :: n.regs ++ mergeRead m d, vw := [d] }
  | .vcmp _ _ _ _ _ d a b => { vr := [a, b], mw := [d] }
  | .vsel _ _ _ d a b => { vr := [a, b], vw := [d] }
  | .vperm _ _ m d a b c => { vr := [a, b, c] ++ mergeRead m d, vw := [d] }
  | .vshuf _ _ m d a p => { vr := a :: p.regs ++ mergeRead m d, vw := [d] }
  | .vbcast _ _ _ m d (.reg a) => { sr := [a], vr := mergeRead m d, vw := [d] }
  | .vbcast _ _ _ m d (.lit _) => { vr := mergeRead m d, vw := [d] }
  | .vext _ _ _ d a ix => { sr := ix.regs, vr := [a], sw := [d] }
  | .vins _ _ d a ix => { sr := a :: ix.regs, vr := [d], vw := [d] }
  | .vred _ _ _ _ _ _ d a | .vscan _ _ _ _ _ _ d a => { vr := [a], vw := [d] }
  | .vcvt _ df sf _ _ _ _ m d a =>
    { vr := a :: (if tagElems df > tagElems sf then [d] else mergeRead m d), vw := [d] }
  | .vqblk _ _ sc _ _ d a c => { vr := [a, d, c], vw := if sc then [d] else [d, c] }
  | .vdqblk _ _ _ d a c => { vr := [a, c], vw := [d] }
  | .vtag _ _ d a => { vr := [a], vw := [d] }
  | .vzero _ _ d => { vw := [d] }
  | .viota _ _ _ m d a => { sr := [a], vr := mergeRead m d, vw := [d] }
  | .mlogic _ (.and d _ _) | .mlogic _ (.or d _ _) | .mlogic _ (.xor d _ _) | .mlogic _ (.andn d _ _)
  | .mlogic _ (.not d _) | .mlogic _ (.mov d _) | .mlogic _ (.set _ d) => { mw := [d] }
  | .mlogic _ (.froms d a) => { sr := [a], mw := [d] }
  | .mlogic _ (.tos d _) | .mlogic _ (.popc d _) | .mlogic _ (.first d _) => { sw := [d] }
  | .mclaim _ o | .mrel _ o => { os := [o] }
  | .mload _ _ o a _ _ => { sr := [a], os := [o] }
  | .mstore _ _ _ _ a _ _ => { sr := [a] }
  | .mband _ o a => { sr := [a], os := [o] }
  | .mma _ _ _ _ a b _ => { os := [a, b] }
  | .mread _ t _ _ _ d a => { sr := [a], vr := if tagElems t > 8 then [d] else [], vw := [d] }
  | .mwrite _ _ _ a _ _ => { sr := [a] }
  | .cpyFetch _ d a b v _ => { sr := [d, a, b, v] }
  | .cpyPutj _ d a b v stamp _ => { sr := [d, a, b, v] ++ optS stamp }
  | .send _ d a b _ _ _ => { sr := [d, a, b] }
  | .coll _ _ _ _ d a b v lw _ => { sr := [d, a, b, v] ++ optS lw }
  | .semr _ d _ => { sw := [d] }
  | .mfs _ d _ | .clkr _ d | .rngr _ d => { sw := [d] }
  | .mts _ a _ => { sr := [a] }
  | .tlbf _ (.page a) => { sr := [a] }
  | _ => {}

/-- The predicate of an instruction; instructions that cannot be predicated always run (R160). -/
def Instr.pred : Instr → Pred
  | .add p .. | .sub p .. | .mul p .. | .mulh p .. | .div p .. | .rem p .. | .and p .. | .or p .. | .xor p ..
  | .andn p .. | .shl p .. | .shr p .. | .sar p .. | .rol p .. | .min p .. | .max p .. | .abs p .. | .clz p ..
  | .ctz p .. | .popc p .. | .brev p .. | .bfx p .. | .bfi p .. | .sel p .. | .li p .. | .lih p .. | .lea p ..
  | .cmp p .. | .pand p .. | .por p .. | .pxor p .. | .pnot p .. | .pmov p .. | .br p .. | .bri p .. | .call p ..
  | .calli p .. | .ret p .. | .loop p .. | .nop p .. | .trap p .. | .hstart p .. | .hwait p .. | .ld p .. | .st p ..
  | .stn p .. | .ldv p .. | .stv p .. | .ldvx p .. | .stvx p .. | .ldf p .. | .stf p .. | .feq p .. | .feset p ..
  | .push p .. | .fence p .. | .join p .. | .joinv p .. | .tread p .. | .xread p .. | .xreadv p .. | .frz p ..
  | .lkind p .. | .smap p .. | .sflush p .. | .sdrop p .. | .vadd p .. | .vsub p .. | .vmul p .. | .vfma p ..
  | .vmin p .. | .vmax p .. | .vabs p .. | .vneg p .. | .vdiv p .. | .vsqrt p .. | .vrcp p .. | .vsfu p ..
  | .viadd p .. | .visub p .. | .vimul p .. | .vand p .. | .vor p .. | .vxor p .. | .vshl p .. | .vshr p ..
  | .vsar p .. | .vcmp p .. | .vsel p .. | .vperm p .. | .vshuf p .. | .vbcast p .. | .vext p .. | .vins p ..
  | .vred p .. | .vscan p .. | .vcvt p .. | .vqblk p .. | .vdqblk p .. | .vkey p .. | .vtag p .. | .vmov p ..
  | .vzero p .. | .viota p .. | .mlogic p .. | .mclaim p .. | .mrel p .. | .mload p .. | .mstore p .. | .mband p ..
  | .mma p .. | .mswap p .. | .mread p .. | .mwrite p .. | .mzero p .. | .cpyFetch p .. | .cpyPutj p .. | .send p ..
  | .coll p .. | .semw p .. | .sems p .. | .semr p .. | .garm p .. | .gres p .. | .ewait p .. | .mfs p .. | .mts p ..
  | .clkr p .. | .rngr p .. | .tlbf p .. | .bkpt p .. => p
  | _ => Pred.always

/-- Whether the predicate lets the instruction run (R160). -/
def runs (r : Regs) (p : Pred) : Bool := (r.getP p.pi != p.pn)

/-- Transfer instructions, which end a basic block (R401). -/
def Instr.isTransfer : Instr → Bool
  | .br .. | .bri .. | .call .. | .calli .. | .ret .. | .loop .. | .endK | .hexit | .trap .. | .tret | .bkpt .. => true
  | _ => false

/-- Transfers that are checked at their own issue (R402 step 4). -/
def Instr.selfChecked : Instr → Bool
  | .endK | .hexit | .trap .. | .tret | .bkpt .. => true
  | _ => false

/-- Control-context instructions and the helper instruction HEXIT (R18): none is free of role. -/
def Instr.role : Instr → Option Bool
  | .hstart .. | .hwait .. | .endK | .arrive .. | .waitb .. | .sync .. | .vote .. | .voteP .. | .coll .. => some true
  | .hexit => some false
  | _ => none

end Sys2Proof

namespace Sys2Proof.Machine
open Sys2Proof

/-- Check 3 of R165. -/
def roleOk (i : Instr) (ctx : Nat) : Bool :=
  match i.role with
  | none => true
  | some ctl => ctl == (ctx == 0)

/-- Check 4 of R165: register, slot and window fields against the kernel header (R161). Of several fields out of bounds the trap names
one: scalar sources before the destination, then vector registers, then a slot, then a window; the manual gives no order
(log 105). -/
def boundsTrap (h : KHeader) (i : Instr) : Option Trap :=
  let u := i.use
  match (u.sr ++ u.sw).find? (fun r => r != 0 && h.sregs ≤ r.toNat) with
  | some r => some (resBounds 1 r.toNat)
  | none =>
    match (u.vr ++ u.vw).find? (fun r => h.vregs ≤ r.toNat) with
    | some r => some (resBounds 1 r.toNat)
    | none =>
      match u.os.find? (fun o => h.oslots ≤ o.toNat) with
      | some o => some (resBounds 3 o.toNat)
      | none =>
        match u.win with
        | some w => if h.stash ≤ w.toNat then some ⟨Cause.stashInvalid, 0, 5⟩ else none
        | none => none

/-! ## The declared tree (R24-R30) -/

/-- Level k of the tree. -/
def Binding.level? (b : Binding) (k : Nat) : Option TreeLevel := b.tree[k]?

/-- The index of the core level (R25). -/
def coreLevel (t : List TreeLevel) : Nat := (t.findIdx? (fun l => l.code == 2)).getD 0

/-- Cores inside one node of level k: the product of the arities below it, down to the core level. -/
def coresPerNode (t : List TreeLevel) (k : Nat) : Nat :=
  ((t.take (coreLevel t + 1)).drop (k + 1)).foldl (fun n l => n * l.arity) 1

/-- The index of the node of level k that contains a logical core (R27). -/
def nodeIndex (t : List TreeLevel) (k lcore : Nat) : Nat := lcore / coresPerNode t k

/-- The LCOREs of a node. -/
def nodeMembers (t : List TreeLevel) (k node : Nat) : List Nat := span (node * coresPerNode t k) (coresPerNode t k)

/-- Whether a level names a barrier, vote or collective level: bound to code 2 to 9 (R28, R29). -/
def barrierLevel (b : Binding) (k : Nat) : Bool :=
  match b.level? k with
  | some l => 2 ≤ l.code
  | none => false

/-- Where a push or join is applied: at a core, or at the home RSU of a local address (R30). -/
inductive Dest where
  | core (dev pcore : Nat)
  | home (dev local_ : Nat)
  deriving DecidableEq, Repr

def Dest.dev : Dest → Nat
  | .core d _ | .home d _ => d

/-- Whether a local address is in HBM; the home die of an HBM address (R72, R73). -/
def isHbm (l : Nat) : Bool := l < 0x0C000000000
def homeDie (l : Nat) : Nat := if isHbm l then bits l 21 20 else 4 + bits l 12 12
def homeRsu (l : Nat) : Nat := if isHbm l then Nat.xor (bits l 17 12) (bits l 27 22) else bits l 16 13

/-- Whether the physical span of the level-k node of a core contains a destination (R30). peers gives the node, rack and
cavern of each device (R299). -/
def inSpan (peers : AMap (Nat × Nat × Nat)) (l : TreeLevel) (dev pcore : Nat) (d : Dest) : Bool :=
  let p := (aget peers dev).getD (0, 0, 0)
  let q := (aget peers d.dev).getD (0, 0, 0)
  match l.code with
  | 6 => d.dev == dev
  | 7 => d.dev == dev || (q == p && (aget peers d.dev).isSome)
  | 8 => d.dev == dev || (q.2 == p.2 && (aget peers d.dev).isSome)
  | 9 => d.dev == dev || (q.2.2 == p.2.2 && (aget peers d.dev).isSome)
  | 5 =>
    if l.re then
      match d with
      | .core e c => e == dev && dieOf c == dieOf pcore && rowOf c / 2 ^ l.rh == rowOf pcore / 2 ^ l.rh
        && colOf c / 2 ^ l.rw == colOf pcore / 2 ^ l.rw
      | .home .. => false
    else
      match d with
      | .core e c => e == dev && dieOf c == dieOf pcore
      | .home e a => e == dev && homeDie a == dieOf pcore
  | 4 => match d with
    | .core e c => e == dev && islandOf c == islandOf pcore
    | .home .. => false
  | 3 => match d with
    | .core e c => e == dev && quadOf c == quadOf pcore
    | .home .. => false
  | 2 => match d with
    | .core e c => e == dev && c == pcore
    | .home .. => false
  | _ => false

/-- The counters a push or join increments (R65): the levels k ≥ 1 whose span contains it, and the root span. -/
def outOf (peers : AMap (Nat × Nat × Nat)) (b : Binding) (dev pcore : Nat) (no : Nat) (d : Dest) : Out :=
  { no := no
    lv := (List.range b.tree.length).filter (fun k => k != 0 && match b.level? k with
      | some l => inSpan peers l dev pcore d
      | none => false)
    root := match b.level? 0 with
      | some l => inSpan peers l dev pcore d
      | none => false }

/-- Counter k of R65: every outstanding push and join for k = 0. -/
def ackCount (x : Context) (k : Nat) : Nat := if k = 0 then x.out.length else (x.out.filter (fun o => o.lv.contains k)).length

/-- The pushes and joins an arrival at level k waits for (R30): at L0 those inside the root's span. -/
def covered (x : Context) (k : Nat) : List Nat :=
  (x.out.filter (fun o => if k = 0 then o.root else o.lv.contains k)).map (·.no)

end Sys2Proof.Machine
end

