-- ==== Sys2Proof/Machine/Translate.lean ====
section
/-! DEFINITION. Addresses: physical memory, table walks, permissions, and the translations a core caches (R72-R79, R418,
R374). -/

namespace Sys2Proof.Machine
open Sys2Proof

/-! ## Physical memory: a global physical address is device × 2^44 + local address (R72) -/

def gDev (g : Nat) : Nat := g / 2 ^ 44
def gLocal (g : Nat) : Nat := g % 2 ^ 44

/-- The bytes at a global physical address. -/
def State.readG (s : State) (g n : Nat) : List Byte := cellsRead (s.device (gDev g)).mem (gLocal g) n

/-- Writing bytes at a global physical address. -/
def State.writeG (s : State) (g : Nat) (bs : List Byte) : State :=
  s.modDev (gDev g) (fun x => { x with mem := cellsWrite x.mem (gLocal g) bs })

/-- The line of a local address. -/
def Device.line (x : Device) (n : Nat) : Line := (aget x.lines n).getD Line.fresh

def Device.setLine (x : Device) (n : Nat) (l : Line) : Device := { x with lines := aset x.lines n l }

/-- A global frame in a reserved range, or on a device number above 9,215 (R72). -/
def reservedG (s : State) (here g : Nat) : Bool :=
  let a := gLocal g
  let cap := ((aget s.devs (gDev g)).getD (s.device here)).bar0.t2cap
  gDev g > 9215 || (0x0C000000000 ≤ a && a < 0x10000000000) || (0x10000000000 + cap * 2 ^ 30 ≤ a)
    || 0x50000000000 ≤ a

/-- A canonical pointer: bits [63:57] equal bit 56 (R74). -/
def canonical (va : Word) : Bool := va.toNat / 2 ^ 56 == 0 || va.toNat / 2 ^ 56 == 255

/-- The kinds and permissions an access may need (R77). sys marks an access that may reach system-kind pages. -/
inductive Access where
  | join | tread | xread | freeze | fetch | any
  deriving DecidableEq, Repr

/-- The PERMISSION row of R76: the kind test first, then the permission of R77. -/
def permTrap (t : Tlb) (a : Access) (va : Word) : Option Trap :=
  let bad (n : Nat) : Option Trap := some ⟨Cause.permission, va, BitVec.ofNat 64 n⟩
  match a with
  | .any => none
  | .fetch => if t.kind != .system then bad 5 else if !t.x then bad 3 else none
  | .join => if t.kind == .system then bad 5 else if !t.j then bad 1 else none
  | .tread => if t.kind == .system then bad 5 else if !t.t then bad 2 else none
  | .xread => if t.kind == .system then bad 5 else if !t.x then bad 3 else none
  | .freeze => if t.kind == .system then bad 5 else if !t.f then bad 4 else none

/-- The page-size field of R225. -/
def Tlb.pageField (t : Tlb) : Nat :=
  if t.bits = 12 then (if t.c then 1 else 0)
  else if t.bits = 21 then 2
  else if t.c then 4 else 3

/-- A page's kind, width and permissions, in the layout of R225. -/
def Tlb.kindDesc (t : Tlb) : Nat :=
  t.kind.code.toNat + t.wd.code.toNat * 8 + b2n t.j * 32 + b2n t.t * 64 + b2n t.x * 128 + b2n t.f * 256

/-- The page's description in the layout of R225: kind, width, permissions, page size. -/
def Tlb.desc (t : Tlb) : Nat := t.kindDesc + t.pageField * 512

/-- KIND_MISMATCH with the page's kind, width and permissions (R49, R363; log 33). -/
def kindTrap (t : Tlb) (k : Kind) (w : Width) (va : Word) : Option Trap :=
  if t.kind == k && (t.wd == w || k == .fill || k == .ver || k == .kmax) then none
  else some ⟨Cause.kindMismatch, va, BitVec.ofNat 64 t.kindDesc⟩

/-- The physical address of a virtual address under a translation. -/
def Tlb.phys (t : Tlb) (va : Word) : Nat := t.pa + va.toNat % 2 ^ t.bits

/-- Whether a translation covers an address. -/
def Tlb.covers (t : Tlb) (asid : Nat) (va : Word) : Bool := t.asid == asid && va.toNat / 2 ^ t.bits == t.va / 2 ^ t.bits

/-- The malformed-entry row of R76 for an entry e at a table level. -/
def pteBad (s : State) (here level e : Nat) : Bool :=
  let frame := bits e 59 14
  let leaf := bit e 1
  let c := bit e 2
  let k := Kind.ofCode (BitVec.ofNat 3 (bits e 5 3))
  let w := Width.ofCode (BitVec.ofNat 2 (bits e 7 6))
  bits e 13 12 != 0 || bits e 63 60 != 0
    || (leaf && level ≤ 2) || (!leaf && level == 5)
    || (c && (!leaf || level == 4))
    || (!leaf && (bits e 11 2 != 0))
    || (leaf && !kindWidthOk k w)
    || (leaf && level == 4 && frame % 2 ^ 9 != 0)
    || (leaf && level == 3 && frame % 2 ^ 18 != 0)
    || reservedG s here (frame * 4096)

/-- One table walk: the levels left with the shift of each index, from a table (R74-R76, R374). bad says which dwords
hold an uncorrectable error or a poison marker. -/
def walkFrom (s : State) (here asid : Nat) (va : Word) (bad : Nat → Bool) : List (Nat × Nat) → Nat → Except Trap Tlb
  | [], _ => .error ⟨Cause.pteInvalid, va, 5⟩
  | (lv, sh) :: rest, table =>
    let a := table + va.toNat / 2 ^ sh % 512 * 8
    let e := leNat (s.readG a 8)
    let lvw : Word := BitVec.ofNat 64 lv
    if bad a then .error ⟨Cause.memUncorr, va, lvw⟩
    else if !bit e 0 then .error ⟨Cause.pageAbsent, va, lvw⟩
    else if pteBad s here lv e then .error ⟨Cause.pteInvalid, va, lvw⟩
    else if bit e 1 then
      let grp := if bit e 2 then (if lv == 5 then 4 else 6) else 0
      let own := if bit e 2 then va.toNat / 2 ^ sh % 2 ^ grp * 2 ^ sh else 0
      let base := bits e 59 14 * 4096
      if bit e 2 && (base < own || (base - own) % 2 ^ (sh + grp) != 0) then .error ⟨Cause.pteInvalid, va, lvw⟩
      else .ok
        { asid := asid, va := va.toNat / 2 ^ sh * 2 ^ sh, bits := sh, pa := base, c := bit e 2
          kind := Kind.ofCode (BitVec.ofNat 3 (bits e 5 3)), wd := Width.ofCode (BitVec.ofNat 2 (bits e 7 6))
          j := bit e 8, t := bit e 9, x := bit e 10, f := bit e 11 }
    else walkFrom s here asid va bad rest (bits e 59 14 * 4096)

/-- A translation of an address of an address space by a walker of a device: the address-space table of R418, then the
five levels of R74. -/
def walk (s : State) (here die asid : Nat) (va : Word) : Except Trap Tlb :=
  let x := s.device here
  let bad (g : Nat) : Bool := (s.device (gDev g)).badDwords.contains (gLocal g) || x.pcache.contains (die, g)
  let e := x.bar0.astbase + 16 * (asid % 65536)
  let d0 := leNat (s.readG e 8)
  let d1 := leNat (s.readG (e + 8) 8)
  let root := bits d0 57 12 * 4096
  if !canonical va then .error ⟨Cause.addrNoncanon, va, 0⟩
  else if bad e || bad (e + 8) then .error ⟨Cause.memUncorr, va, 1⟩
  else if !bit d0 0 then .error ⟨Cause.pageAbsent, va, 1⟩
  else if bits d0 11 1 != 0 || bits d0 63 58 != 0 || d1 / 64 != 0 || reservedG s here root then
    .error ⟨Cause.pteInvalid, va, 1⟩
  else walkFrom s here asid va bad [(1, 48), (2, 39), (3, 30), (4, 21), (5, 12)] root

/-- The trust domain of an address space (R418). -/
def domainOf (s : State) (here asid : Nat) : Nat :=
  leNat (s.readG ((s.device here).bar0.astbase + 16 * (asid % 65536) + 8) 8) % 64

/-- The dword that a failing walk found damaged, of the address-space table or of a page table: the marker its die installs
(R374, R418). -/
def markersOf (s : State) (here die asid : Nat) (va : Word) : List (Nat × Nat) :=
  let hit (g : Nat) : Bool := (s.device (gDev g)).badDwords.contains (gLocal g)
  let e := (s.device here).bar0.astbase + 16 * (asid % 65536)
  let rec go : List (Nat × Nat) → Nat → List (Nat × Nat)
    | [], _ => []
    | (_, sh) :: rest, table =>
      let a := table + va.toNat / 2 ^ sh % 512 * 8
      if hit a then [(die, a)] else go rest (bits (leNat (s.readG a 8)) 59 14 * 4096)
  if hit e then [(die, e)]
  else if hit (e + 8) then [(die, e + 8)]
  else go [(1, 48), (2, 39), (3, 30), (4, 21), (5, 12)] (bits (leNat (s.readG e 8)) 57 12 * 4096)

/-- The translation that a port die has, of its own cache or of a new walk (R79). The walkers of the compute dies keep none: their cores
do. -/
def portTr (s : State) (here die asid : Nat) (va : Word) : Except Trap Tlb :=
  match (s.device here).ptlb.find? (fun p => p.1 == die && p.2.covers asid va) with
  | some p => .ok p.2
  | none => walk s here die asid va

/-- What a walk leaves at its die: at a port die its translation (R79), at any the marker of a dword that it found damaged (R374). -/
def State.noteWalk (s : State) (here die asid : Nat) (va : Word) : State :=
  if !canonical va then s
  else match portTr s here die asid va with
  | .ok t =>
    if die < 4 || (s.device here).ptlb.contains (die, t) then s else s.modDev here (fun x => { x with ptlb := x.ptlb ++ [(die, t)] })
  | .error t =>
    if t.cause == Cause.memUncorr then
      s.modDev here (fun x => { x with pcache := (x.pcache ++ markersOf s here die asid va).eraseDups })
    else s

/-- Translating and checking in one go, as the Curator and the host link do (R79, R311, R308): canonical form, walk,
permission. -/
def translateNow (s : State) (here die asid : Nat) (a : Access) (va : Word) : Except Trap Tlb :=
  if !canonical va then .error ⟨Cause.addrNoncanon, va, 0⟩
  else match portTr s here die asid va with
    | .error t => .error t
    | .ok t => match permTrap t a va with
      | some p => .error p
      | none => .ok t

/-- What the issue stage finds for an address. -/
inductive Tr where
  | hit (t : Tlb)
  | miss
  | bad (t : Trap)

/-- The translation a core has: the failure its walk returned, a cached entry, or none yet (R79). -/
def lookup (c : Core) (x : Context) (asid : Nat) (va : Word) : Tr :=
  match x.walkErr with
  | some (a, t) => if a = va then .bad t else
    match c.tlb.find? (fun t => t.covers asid va) with
    | some t => .hit t
    | none => .miss
  | none => match c.tlb.find? (fun t => t.covers asid va) with
    | some t => .hit t
    | none => .miss

/-- The translations of every page of a range, in ascending order, or the address of the first that misses or fails; n
bounds the pages. -/
def lookupRange (c : Core) (x : Context) (asid : Nat) (acc : Access) : Nat → Word → Nat → Except (Word × Option Trap) (List Tlb)
  | 0, _, _ => .ok []
  | n + 1, va, left =>
    if !canonical va then .error (va, some ⟨Cause.addrNoncanon, va, 0⟩)
    else match lookup c x asid va with
    | .miss => .error (va, none)
    | .bad t => .error (va, some t)
    | .hit t =>
      match permTrap t acc va with
      | some p => .error (va, some p)
      | none =>
        let step := 2 ^ t.bits - va.toNat % 2 ^ t.bits
        if left ≤ step then .ok [t]
        else match lookupRange c x asid acc n (va + BitVec.ofNat 64 step) (left - step) with
          | .ok ts => .ok (t :: ts)
          | .error e => .error e

/-- Queueing a walk for a requester (R79). -/
def State.askWalk (s : State) (dev : Nat) (w : Walk) : State :=
  s.modDev dev (fun x => if x.walks.contains w then x else { x with walks := x.walks ++ [w] })

end Sys2Proof.Machine
end

