-- ==== Sys2Proof/Machine/Net.lean ====
section
/-! DEFINITION. Messages: inside a device, and between devices with sequence numbers and the retry store (R13, R65,
R298, R301-R303, R379, R380). -/

namespace Sys2Proof.Machine
open Sys2Proof

/-- Bytes of a packet in the retry store: a 32-byte header and its data (log 16). -/
def JoinData.bytes : JoinData → Nat
  | .elems _ _ es => 16 * es.length
  | .fill .. => 20
  | .ver .. => 68

def Body.bytes : Body → Nat
  | .req _ _ (.swrite _ bs) => 32 + bs.length
  | .req _ _ (.join ps) => 32 + (ps.map (fun p => p.data.bytes)).foldl (· + ·) 0
  | .land l => 32 + l.data.length
  | .coll _ ops _ c => 32 + 4 * ops.length + c.data.length
  | .result _ ops _ _ _ _ d => 32 + 4 * ops.length + d.length
  | _ => 32

/-- The traffic class of a message (R298). -/
def Body.cls : Body → Cls
  | .req _ _ (.xread (.cmd ..) ..) => .copy
  | .req _ _ (.join (⟨.cmd .., _, _, _, _⟩ :: _)) => .copy
  | .req _ _ (.join (⟨.deposit .., _, _, _, _⟩ :: _)) => .coll
  | .req .. => .join
  | .land l => if l.cmd.isSome then .copy else .join
  | .coll .. | .result .. => .coll
  | _ => .control

/-! ## The form of a packet (R293, R294, R383) -/

/-- The number of a class in a header (R293). -/
def Cls.idx : Cls → Nat
  | .control => 0
  | .coll => 1
  | .copy => 2
  | .join => 3

/-- The word of an op-list entry (R294). -/
def CollAct.word : CollAct → Nat
  | .forward port => port % 64 * 8
  | .multicast grp => 1 + grp % 2 ^ 16 * 2 ^ 16
  | .reduce n slot port => 2 + port % 64 * 8 + n % 128 * 2 ^ 9 + slot % 2 ^ 16 * 2 ^ 16
  | .deposit => 3

/-- The op list of a message. -/
def Body.ops : Body → List CollAct
  | .coll _ ops .. | .result _ ops .. => ops
  | _ => []

/-- What the header says of a contribution. -/
def Contrib.head (c : Contrib) : CollHead := ⟨BitVec.ofNat 8 (c.digest.getD 0 0), BitVec.ofNat 4 (c.digest.getD 1 0), c.typed, c.topx⟩

/-- What the header says of a message's payload; zero for one that has no collective's. -/
def Body.head : Body → CollHead
  | .coll _ _ _ c => c.head
  | .result _ _ _ h .. => h
  | _ => ⟨0, 0, false, false⟩

/-- Source, sequence number and body of a packet's first contribution. -/
def FabKind.first : FabKind → Nat × Nat × Body
  | .packet (q :: _) => (q.src, q.seq, q.body)
  | .packet [] | .collAck .. => (0, 0, .void)
  | .ack src seq => (src, seq, .void)
  | .hop src b => (src, 0, b)

/-- The header of a packet and its op list, byte by byte (R293, R294). -/
def FabPkt.wire (p : FabPkt) : List Byte :=
  let f := p.kind.first
  let b := f.2.2
  let h := b.head
  let fb : Bool := match b with
    | .coll _ _ fb _ => fb
    | _ => false
  let k : CollKey := b.collKey?.getD ⟨⟨0, 0⟩, false, 0, 0, 0⟩
  natBytes 2 p.rver ++ natBytes 1 (p.cls.idx + 4 * b2n h.typed + 8 * b2n h.topx + 16 * b2n fb) ++ natBytes 1 b.ops.length
    ++ natBytes 2 f.1 ++ natBytes 2 p.dst ++ natBytes 4 f.2.1 ++ natBytes 3 p.weights.toNat ++ natBytes 1 0
    ++ natBytes 8 k.launch.acc ++ natBytes 2 k.seq ++ natBytes 4 (k.node % 2 ^ 24 + k.level % 64 * 2 ^ 24)
    ++ natBytes 1 h.cop.toNat ++ natBytes 1 h.fmt.toNat ++ b.ops.flatMap (fun a => natBytes 4 a.word)

/-- Whether the bytes of a header and an op list keep to their format (R383): no reserved bit set, at most 24 entries, actions 0 to 3,
a destination device of at most 9,215. -/
def wireOk (bs : List Byte) : Bool :=
  let f (o n : Nat) : Nat := leNat ((bs.drop o).take n)
  f 2 1 < 32 && f 3 1 ≤ 24 && f 4 2 < 2 ^ 14 && f 6 2 ≤ 9215 && f 15 1 == 0 && f 26 4 < 2 ^ 30
    && (List.range (f 3 1)).all (fun i => f (32 + 4 * i) 1 % 8 ≤ 3)

/-- Whether a packet breaks its format: an error has broken it, or it was formed so. -/
def FabPkt.broken (p : FabPkt) : Bool := p.bad || !wireOk p.wire

/-! ## Sending (R301-R303, R379, R380) -/

/-- The launch of a collective; a group's belongs to none. -/
def CollKey.launch? (k : CollKey) : Option LaunchId := if k.group then none else some k.launch

/-- The launch charged with an undeliverable packet (R380). -/
def Body.launch? : Body → Option LaunchId
  | .req _ la _ => la
  | .land l => some l.launch
  | .count l _ _ => some l
  | .answer (.deposit _ k _) _ | .ack (.deposit _ k _) _ => k.launch?
  | b => b.collKey?.bind CollKey.launch?

/-- The core that an answer is for. -/
def Body.forCore? : Body → Option (Nat × Nat)
  | .answer o _ | .ack o _ => o.core?
  | .landAck w .. => some (w.dev, w.core)
  | _ => none

/-- The launch charged with an undeliverable packet, an answer's being that of its core (R380). -/
def State.charged (s : State) (b : Body) : Option LaunchId :=
  match b.launch? with
  | some l => some l
  | none => b.forCore?.bind (fun p => (s.core p.1 p.2).bound.map (·.launch))

/-- Bytes in a device's retry store of non-control classes, and the store's and spill pool's sizes (R303, R379). -/
def Device.storeUsed (x : Device) : Nat :=
  ((x.store.filter (fun p => p.cls != .control)).map (fun p => p.body.bytes)).foldl (· + ·) 0

def Device.spillBytes (x : Device) : Nat := x.bar0.capool.toNat % 65536 * 2 ^ 20

/-- Whether the port die accepts no new non-control packet (R379). -/
def Device.storeFull (x : Device) : Bool := 15 * 2 ^ 20 + x.spillBytes ≤ x.storeUsed

/-- The first switch on the way from a device to a destination: the lowest-numbered one that delivers to the device and knows the
destination, else the lowest that knows it; none when no switch does, and the packet then goes there directly (log 13). -/
def State.firstSwitch (s : State) (src dst : Nat) : Option Nat :=
  match s.switches.find? (fun p => aget p.2.table src == some 0 && (aget p.2.table dst).isSome) with
  | some p => some p.1
  | none => (s.switches.find? (fun p => (aget p.2.table dst).isSome)).map (·.1)

/-- The port that leads from a switch towards a destination, or from a device: one for each neighbour. -/
def portTo (next : Option Nat) (dst : Nat) : Nat :=
  match next with
  | some sw => 2 * sw + 1
  | none => 2 * dst

/-- Logging the first spill after a period without one (R379). -/
def Device.noteSpill (x : Device) : Device :=
  if x.storeUsed > 15 * 2 ^ 20 then
    if x.spilled then x else ({ x with spilled := true }).logEv Cause.retrySpill 0
  else { x with spilled := false }

/-- Putting a packet on the fabric under the sender's routing version (R301), at a port of the sender. -/
def State.fabPut (s : State) (src dst : Nat) (cls : Cls) (weights : BitVec 24) (kind : FabKind) : State :=
  { s with fab := s.fab ++ [
    { dst := dst, rver := (s.device src).rver, cls := cls, weights := weights, out := some src, sw := none, held := none
      bad := false, kind := kind }] }

/-- The reset message of R380, which has no number of its own. -/
def State.sendReset (s : State) (src dst : Nat) : State :=
  s.fabPut src dst .control 0x010101 (.packet [⟨src, 0, .seqReset src⟩])

/-- A packet of the retry store as it travels. -/
def Sent.kind (p : Sent) (src : Nat) : FabKind := if p.numbered then .packet [⟨src, p.seq, p.body⟩] else .hop src p.body

/-- The port die takes a packet to another device (R302, R303). To a destination that must be reset first the packet waits unsent in
the store, and the first such packet has the reset message sent (R380). -/
def State.fabAccept (s : State) (src : Nat) (e : Sent) : State :=
  let x := s.device src
  let wait := x.needReset.contains e.dst
  let seq := acount x.seqOut e.dst
  let e := { e with seq := if e.numbered then seq else 0, sends := if wait then 0 else 1 }
  let s := s.modDev src (fun x => ({ x with
    seqOut := if e.numbered then aset x.seqOut e.dst ((seq + 1) % 2 ^ 32) else x.seqOut, store := x.store ++ [e] } : Device).noteSpill)
  if !wait then s.fabPut src e.dst e.cls e.weights (e.kind src)
  else if x.unreach.contains e.dst || x.store.any (fun p => p.dst == e.dst && p.sends == 0) then s
  else s.sendReset src e.dst

/-- Sending a packet to another device: one that is not of the control class waits while the store is full, behind those that wait
already (R379). -/
def State.fabSend (s : State) (src dst : Nat) (weights : BitVec 24) (body : Body) (numbered : Bool := true) : State :=
  let x := s.device src
  let e : Sent :=
    { dst := dst, seq := 0, cls := body.cls, weights := weights, body := body, launch := s.charged body, sends := 0, age := 0
      numbered := numbered }
  if body.cls != .control && (x.storeFull || !x.portq.isEmpty) then s.modDev src (fun x => { x with portq := x.portq ++ [e] })
  else s.fabAccept src e

/-- Entries of a retry store have been freed: the port die takes the packets that waited, in order (R379). -/
def State.pump (s : State) (d : Nat) : State :=
  let q := (s.device d).portq
  let s := s.modDev d (fun x => { x with portq := [] }.noteSpill)
  q.foldl (fun s e => if (s.device d).storeFull then s.modDev d (fun x => { x with portq := x.portq ++ [e] }) else s.fabAccept d e) s

/-- Whether a router may hold a message for combining: a join of any kind but .ver (R67). -/
def Body.mergeable : Body → Bool
  | .req _ _ (.join ps) => ps.all (fun p => match p.data with
    | .ver .. => false
    | _ => true)
  | _ => false

/-- Joins that the routers of a device hold. -/
def State.heldJoins (s : State) (dev : Nat) : Nat := (s.net.filter (fun m => m.dev == dev && m.hold.isSome)).length

/-- A message entering a device's mesh: a router with room in its combining buffer may hold a mergeable join (R67). -/
def State.mesh (s : State) (dev : Nat) (weights : BitVec 24) (body : Body) : State :=
  let hold := body.mergeable && decide (s.heldJoins dev < 32) && Config.pick s.stepNo % 2 == 1
  { s with net := s.net ++ [⟨dev, if hold then some 0 else none, weights, body⟩] }

/-- Sending a message from a device to a device (R13). -/
def State.send (s : State) (src dst : Nat) (weights : BitVec 24) (body : Body) : State :=
  if src = dst then s.mesh dst weights body else s.fabSend src dst weights body

/-- The weights of a core's packets (R284). -/
def Core.weights (c : Core) : BitVec 24 := c.arbw.setWidth 24

/-- Where an origin's answer goes. -/
def Origin.dev : Origin → Nat
  | .ctx w _ => w.dev
  | .stash d .. | .cmd d .. | .lattice d .. | .deposit d .. | .host d .. | .cur d .. => d

/-- Changing one context of a core and of its partner. -/
def State.modCtx (s : State) (w : Who) (f : Context → Context) : State :=
  s.modCore w.dev w.core (fun c => c.modCtx w.ctx f)

/-- Whether a fault goes before a recorded one of the same cycle (R364): the lower cause, then the lower address. -/
def Trap.before (t : Trap) (d : Deferred) : Bool := t.cause < d.cause || (t.cause == d.cause && t.addr.toNat < d.addr.toNat)

/-- The record of a fault (R365, R370): the detail's 32 bits, and the halted CX command, if any, whose fault it is. -/
def Trap.record (t : Trap) (halted : Option Nat) (ovf : Nat) : Deferred :=
  ⟨t.cause, t.addr, (t.aux.setWidth 32).setWidth 36 ||| (if halted.isSome then 1 <<< 32 else 0), ovf, true, halted⟩

/-- Recording a deferred fault in a context (R364): the first fills the record, and of several in one cycle the one with the
lowest cause and address; every other counts as overflow. -/
def Context.defer (x : Context) (t : Trap) (halted : Option Nat := none) : Context :=
  match x.deferred with
  | none => { x with deferred := some (t.record halted 0) }
  | some d =>
    let n := min (d.ovf + 1) 0xFFFF
    { x with deferred := some (if d.fresh && t.before d then t.record halted n else { d with ovf := n }) }

/-- The trap that delivers a deferred record (R364, R365). -/
def Deferred.trap (d : Deferred) : Trap :=
  ⟨d.cause, d.addr, d.detail.setWidth 64 ||| (BitVec.ofNat 64 d.ovf <<< 48)⟩

/-- The number of the next push or join of a context. It counts on from 4096 times the step, so that no two contexts ever
give one number, whichever core a launch is bound to. -/
def State.postNo (s : State) (w : Who) : Nat := max ((s.core w.dev w.core).ctx w.ctx).issueNo (4096 * s.stepNo)

/-- Posting a join of a context: the request to the home and the outstanding record (R65). -/
def State.postJoin (s : State) (w : Who) (b : Binding) (j : JoinOut) : State :=
  let no := s.postNo w
  let o := outOf (s.device w.dev).peers b w.dev w.core no (.home (gDev j.line) (gLocal j.line))
  let s := s.modCtx w (fun x => { x with issueNo := no + 1, out := x.out ++ [o] })
  s.send w.dev (gDev j.line) (s.core w.dev w.core).weights
    (.req (gLocal j.line / 64) (some b.launch) (.join [⟨.ctx w no, some b.launch, b.asid, j.va, j.data⟩]))

/-- Releasing a push (R216, R36): a receiver beyond the bound cores records EXCHANGE_VIOLATION and sends nothing. -/
def State.postPush (s : State) (w : Who) (b : Binding) (rcv off : Word) (data : List Byte) (typed topx : Bool) : State :=
  match b.cores[rcv.toNat]? with
  | none => s.modCtx w (fun x => x.defer ⟨Cause.exchangeViolation, off, rcv⟩)
  | some (d, p) =>
    let no := s.postNo w
    let o := outOf (s.device w.dev).peers b w.dev w.core no (.core d p)
    let s := s.modCtx w (fun x => { x with issueNo := no + 1, out := x.out ++ [o] })
    s.send w.dev d (s.core w.dev w.core).weights (.land
      { src := w, no := no, cmd := none, from_ := b.lcore, rcv := rcv.toNat, off := off, data := data
        seq := (s.core w.dev w.core).plan.seq, topx := topx, typed := typed, launch := b.launch, passed := false })

/-! ## The Curator's threads and their requests (R13, R319, R321, R323) -/

def Device.slot (x : Device) (t : Nat) : QSlot := (aget x.qslots t).getD QSlot.empty

def Device.modSlot (x : Device) (t : Nat) (f : QSlot → QSlot) : Device := { x with qslots := aset x.qslots t (f (x.slot t)) }

/-- What a thread runs now: the command, or the node of its graph. -/
def QSlot.current (q : QSlot) : Option Running :=
  match q.graph with
  | some g => g.node
  | none => q.cmd

/-- Changing what a thread runs. -/
def QSlot.setCurrent (q : QSlot) (r : Running) : QSlot :=
  match q.graph with
  | some g => { q with graph := some { g with node := some r } }
  | none => { q with cmd := some r }

def Device.modCurrent (x : Device) (t : Nat) (f : Running → Running) : Device :=
  x.modSlot t (fun q => match q.current with
    | some r => q.setCurrent (f r)
    | none => q)

/-- A command's next piece of work, once its requests so far have been answered. -/
def Running.turn (r : Running) (phase : Nat) : Running :=
  { r with started := true, phase := phase, await := [], data := [], err := none }

/-- An answer to a thread's request: data is gathered, the first failure kept. One that it no longer awaits is discarded. -/
def Running.answered (r : Running) (no : Nat) (a : Answer) : Running :=
  if !r.await.contains no then r
  else
    let r := { r with await := setDel r.await no }
    match a with
    | .data bs => { r with data := r.data ++ bs }
    | .trap t => { r with err := some (r.err.getD t) }
    | .index _ | .ok => r

/-- What has become of the requests of a command. -/
inductive CurRes where
  | waits
  | fails (t : Trap)
  | answered (bs : List Byte)
  deriving DecidableEq, Repr

def Running.result (r : Running) : CurRes :=
  if !r.await.isEmpty then .waits
  else match r.err with
    | some t => .fails t
    | none => .answered r.data

/-- A thread's request to the home of a line, under a number of its own (R13, R66). -/
def State.curSend (s : State) (d slot g : Nat) (mk : Origin → Req) : State :=
  let no := max (s.device d).curNo (4096 * s.stepNo)
  let s := s.modDev d (fun x =>
    { x.modCurrent slot (fun r => { r with await := r.await ++ [no] }) with curNo := no + 1 })
  s.send d (gDev g) 0x010101 (.req (gLocal g / 64) none (mk (.cur d slot no)))

/-- A join that a thread makes at a global address (R319). -/
def State.curJoin (s : State) (d slot asid g : Nat) (va : Word) (j : JoinData) : State :=
  s.curSend d slot g (fun o => .join [⟨o, none, asid, va, j⟩])

/-- An answer at a thread. -/
def State.curAnswer (s : State) (d slot no : Nat) (a : Answer) : State :=
  s.modDev d (fun x => x.modCurrent slot (fun r => r.answered no a))

/-- Whether a thread runs a FREEZE, whose answers are FREEZE_ACKs. -/
def State.curFreezes (s : State) (d slot : Nat) : Bool := (((s.device d).slot slot).current).any (fun r => r.op == 6)

/-- Whether an origin is some Curator thread. -/
def Origin.isCur : Origin → Bool
  | .cur .. => true
  | _ => false

/-- Whether an origin is a thread's. -/
def Origin.ofSlot (o : Origin) (d slot : Nat) : Bool :=
  match o with
  | .cur e t _ => e == d && t == slot
  | _ => false

/-- Whether a request is a thread's. -/
def Req.ofSlot (r : Req) (d slot : Nat) : Bool :=
  match r with
  | .join ps => ps.any (fun p => p.from_.ofSlot d slot)
  | r => r.origin?.any (fun o => o.ofSlot d slot)

/-- Withdrawing the parked and retried requests of a thread whose command has ended (R59, R389). -/
def State.withdrawSlot (s : State) (d slot : Nat) : State :=
  s.mapDevs (fun _ x => { x with
    park := x.park.filter (fun k => !k.r.ofSlot d slot)
    retry := x.retry.filter (fun q => match q.body with
      | .req _ _ r => !r.ofSlot d slot
      | _ => true) })

/-- Whether a binding is the leader's own: a checker sends nothing (R395). -/
def Binding.sends (b : Binding) : Bool := !b.checker

end Sys2Proof.Machine
end

