-- ==== Sys2Proof/Machine/Kill.lean ====
section
/-! DEFINITION. The core kill (R407) and its report (R285, R408). -/

namespace Sys2Proof.Machine
open Sys2Proof

/-- A RECOV event: valid, kind, lcore (R285). -/
def recovWord (kind lcore : Nat) : Word := BitVec.ofNat 64 (1 + kind * 2 + lcore * 65536)

/-- Holding an event in the supervisor's RECOV: one and 15 more; a 17th is discarded (R408). -/
def Core.pushRecov (c : Core) (v : Word) : Core := if c.recov.length < 16 then { c with recov := c.recov ++ [v] } else c

/-- The core of a logical core of a launch. -/
def Binding.place (b : Binding) (lcore : Nat) : Option (Nat × Nat) := b.cores[lcore]?

/-- Reporting to the supervisor core. -/
def State.reportRecov (s : State) (b : Binding) (v : Word) : State :=
  match b.place b.super with
  | some (d, p) => s.modCore d p (fun c => c.pushRecov v)
  | none => s

/-- A stopped core: every context stops; commands go; park entries and landings are refused from now on (R407 steps 1, 2). -/
def Core.kill (c : Core) (egressFailed : Bool) : Core :=
  let live := (List.range 10).any (fun h => (c.ctx (h + 1)).st != .idle)
  { c with
    ctxs := c.ctxs.map Context.stop
    helperLive := live, ckptBad := egressFailed, portLost := !(c.port.filter (fun k => !k.done)).isEmpty
    mx := [], cx := [], port := [], killed := true, sealed := true, stopped := true, testAge := 0, eccHit := false
    killWait := none }

/-- The windows of a core's current plan and phase (R36). -/
def Binding.windows (b : Binding) (p : Plan) : List PlanWin :=
  match b.plan.wins.find? (fun w => w.1 == (b.lcore, p.p, p.f)) with
  | some w => w.2
  | none => []

/-- Poisoning a receiver's windows from a killed sender: empty granules become full and marked (R407 step 3). -/
def Core.poisonFrom (c : Core) (b : Binding) (lcore : Nat) : Core :=
  let gs := ((b.windows c.plan).filter (fun w => w.sender == lcore)).flatMap (fun w => span w.first w.len)
  let gs := gs.filter (fun g => !c.ls.isFull g)
  { c with ls := (c.ls.setFull gs).setPoison gs }

/-- Whether a request is one that a core of a device waits for. -/
def Req.ofCore (r : Req) (dev core : Nat) : Bool :=
  match r.origin? with
  | some o => o.core? == some (dev, core)
  | none => false

/-- At device here, the park entries and retries of a core go, and on its own device its walks (R407 step 1, R44). -/
def Device.dropCore (x : Device) (here dev core : Nat) : Device :=
  { x with
    park := x.park.filter (fun k => !k.r.ofCore dev core)
    retry := x.retry.filter (fun q => match q.body with
      | .req _ _ r => !r.ofCore dev core
      | _ => true)
    walks := x.walks.filter (fun w => here != dev || (match w.for_ with
      | .ctx c _ => c != core
      | .cmd c _ => c != core)) }

/-- THE CORE KILL (R407): the core and its partner stop and are sealed, receivers' windows are poisoned, the supervisor
is told, and the self-test starts. pair marks a kill after a disagreement; egressFailed a failing egress buffer or
checkpoint store (R409). -/
def State.killNow (s : State) (dev core : Nat) (pair egressFailed : Bool) : State :=
  match (s.core dev core).bound with
  | none => s.modCore1 dev core (fun c => { c with killed := true, sealed := true, testAge := 0 })
  | some b =>
    if (s.core dev core).killed then s
    else
      let lead := if b.checker then b.peer.getD core else core
      let s := s.modCore dev core (fun c => c.kill egressFailed)
      let s := s.mapDevs (fun d x => (x.dropCore d dev core).dropCore d dev (b.peer.getD core))
      let s := s.mapDevs (fun _ x => { x with cores := x.cores.map (fun p => match p.2.bound with
        | some r => if r.launch = b.launch && r.lcore != b.lcore then (p.1, p.2.poisonFrom r b.lcore) else p
        | none => p) })
      let s := s.reportRecov b (recovWord (if pair then 2 else 1) b.lcore)
      s.modDev b.launch.owner (fun x => x.modLaunch b.launch.acc (fun l =>
        { l with killed := l.killed ++ [⟨dev, lead, b.lcore, pair, none⟩] }))

/-- Whether a context of a core is releasing its commit's effects. -/
def Core.committing (c : Core) : Bool := c.ctxs.toList.any (·.committing)

/-- A kill (R406, R412): one that falls during a commit waits until the commit retires, unless the egress buffer or the
checkpoint store failed. -/
def State.killCore (s : State) (dev core : Nat) (pair egressFailed : Bool) : State :=
  let c := s.core dev core
  if c.bound.isSome && c.committing && !egressFailed then
    s.modCore dev core (fun c => { c with killWait := some (c.killWait.getD pair) })
  else s.killNow dev core pair egressFailed

/-- A kill that has waited takes effect once no context of the core is committing (R406). -/
def State.settleKill (s : State) (dev core : Nat) : State :=
  let c := s.core dev core
  match c.killWait with
  | some pair => if c.committing then s else s.killNow dev core pair false
  | none => s

/-- Counting an uncorrectable error (R404). -/
def Device.countUnc (x : Device) : Device := { x with bar0 := { x.bar0 with unc := min (x.bar0.unc + 1) 65535 } }

/-- Finding an uncorrectable error in a core's own state (R403, R404): counted, and the core is killed. An error found again while
the kill waits is the same one. -/
def State.eccKill (s : State) (dev core : Nat) : State :=
  if (s.core dev core).killWait.isSome then s else (s.modDev dev Device.countUnc).killCore dev core false false

/-- An instruction that finds an uncorrectable error in its core (R403, R405): it has no other effect. -/
def eccFound (e : Env) (c : Core) (post : State → State := id) : Res :=
  ⟨{ c with eccHit := true }, fun s => (post s).eccKill e.who.dev e.who.core⟩

end Sys2Proof.Machine
end

