-- ==== Sys2Proof/Machine/Lattice.lean ====
section
/-! DEFINITION. The lattice kinds: joins, triggers and final values of elements and granules (R50-R53, R57). -/

namespace Sys2Proof.Machine
open Sys2Proof

/-- The top of an element width (R50). -/
def top (w : Nat) : Nat := 2 ^ w - 1

/-- Bottom of an element (R50). -/
def bottomOf (k : Kind) (w : Nat) : Nat := if k == .min then top w else 0

/-- join(old, new) of an element (R50). -/
def joinVal (k : Kind) (w old new : Nat) : Nat :=
  match k with
  | .min => min old new
  | .or => old ||| new
  | .cnt => min (old + new) (top w)
  | _ => max old new

/-- Whether a value has passed a trigger (R50). -/
def passed (k : Kind) (v t : Nat) : Bool :=
  match k with
  | .min => decide (v ≤ t)
  | .or | .fill => v &&& t == t
  | _ => decide (t ≤ v)

/-- Whether an element can no longer change (R50). -/
def isFinal (k : Kind) (w v : Nat) : Bool := if k == .min then v == 0 else v == top w

/-- The bytes of a bottom line of a kind. -/
def bottomLine (k : Kind) : List Byte := List.replicate 64 (if k == .min then 0xFF else 0)

/-- Nibble i of a granule (R52). -/
def nib (d : BitVec 128) (i : Nat) : BitVec 4 := d.extractLsb' (4 * i) 4

/-- Whether a .fill join conflicts with the granule (R52). -/
def fillConflict (mask : BitVec 32) (old : BitVec 128) (n : BitVec 32) (new : BitVec 128) : Bool :=
  (List.range 32).any (fun i => n.getLsbD i && mask.getLsbD i && nib new i != nib old i)

/-- The bits of the nibbles of a mask. -/
def nibMask (n : BitVec 32) : BitVec 128 :=
  (List.range 32).foldl (fun m i => if n.getLsbD i then m ||| ((0xF : BitVec 128) <<< (4 * i)) else m) 0

/-- The granule after a .fill join without conflict (R52). -/
def fillData (old : BitVec 128) (n : BitVec 32) (new : BitVec 128) : BitVec 128 :=
  (old &&& ~~~(nibMask n)) ||| (new &&& nibMask n)

/-- The datum of an element of a kind from a register (R218): a .cnt datum saturates. -/
def datum (k : Kind) (w : Nat) (v : Word) : Nat := if k == .cnt then min v.toNat (top w) else v.toNat % 2 ^ w

/-- The trigger of a kind from a register (R218). -/
def trigger (k : Kind) (w : Nat) (v : Word) : Word :=
  match k with
  | .fill | .ver => BitVec.ofNat 64 (v.toNat % 2 ^ 32)
  | _ => BitVec.ofNat 64 (v.toNat % 2 ^ w)

end Sys2Proof.Machine
end

