-- ==== Sys2Proof/Machine/Issue.lean ====
section
/-! DEFINITION. What every instruction of a context shares: the checks of R165, retirement, waiting, the pair check
(R397), the block signature (R402), and running both cores of a pair (R395). -/

namespace Sys2Proof.Machine
open Sys2Proof

/-! ## Checksums -/

/-- One byte of CRC-32, reflected polynomial 0xEDB88320 (R401). -/
def crc32Byte (c : BitVec 32) (b : Byte) : BitVec 32 :=
  (List.range 8).foldl (fun c _ => if c.getLsbD 0 then (c >>> 1) ^^^ 0xEDB88320 else c >>> 1) (c ^^^ b.setWidth 32)

def crc32 (c : BitVec 32) (bs : List Byte) : BitVec 32 := bs.foldl crc32Byte c

/-- One byte of CRC-64, polynomial 0x42F0E1EBA9EA3693, not reflected (R396). -/
def crc64Byte (c : Word) (b : Byte) : Word :=
  (List.range 8).foldl (fun c _ => if c.getLsbD 63 then (c <<< 1) ^^^ 0x42F0E1EBA9EA3693 else c <<< 1)
    (c ^^^ (b.setWidth 64 <<< 56))

/-- Feeding a record of dwords, each least significant byte first (R396). -/
def fpFeed (fp : Word) (ds : List Word) : Word :=
  ds.foldl (fun c d => (natBytes 8 d.toNat).foldl crc64Byte c) fp

/-- A header dword: tag, and bits [63:8] (R396). -/
def fpHdr (tag rest : Nat) : Word := BitVec.ofNat 64 (tag + 256 * rest)

/-- Feeding a record into a context's fingerprint in a paired launch. -/
def Context.feed (x : Context) (b : Binding) (ds : List Word) : Context :=
  if b.pair then { x with fp := fpFeed x.fp ds } else x

/-- The records of an instruction's register writes (R396 tags 1 to 4). -/
def fpWrites (r : Regs) (u : RegUse) : List Word :=
  (u.sw.filter (· != 0)).flatMap (fun i => [fpHdr 1 i.toNat, r.getS i])
    ++ (u.pw.filter (· != 0)).flatMap (fun i => [fpHdr 2 i.toNat, if r.getP i then 1 else 0])
    ++ u.mw.flatMap (fun i => [fpHdr 3 i.toNat, r.getM i])
    ++ u.vw.flatMap (fun i => [fpHdr 4 (i.toNat + (r.getV i).tag.toNat * 256)]
      ++ (List.range 4).map (fun k => (r.getV i).bits.extractLsb' (64 * k) 64))

/-! ## Retirement -/

def Env.ctx (e : Env) (c : Core) : Context := c.ctx e.who.ctx

def Env.regs (e : Env) (c : Core) : Regs := (e.ctx c).regs

def Env.modCtx (e : Env) (c : Core) (f : Context → Context) : Core := c.modCtx e.who.ctx f

def Env.modRegs (e : Env) (c : Core) (f : Regs → Regs) : Core := e.modCtx c (fun x => { x with regs := f x.regs })

/-- Injected errors land in, or are replaced by, the registers written (R405). -/
def Core.eccWrites (c : Core) (ctx : Nat) (u : RegUse) : Core :=
  let hitS := (u.sw.filter (· != 0)).any (fun r => c.eccArm == some (ctx, 0, r.toNat))
  let hitV := u.vw.any (fun r => c.eccArm == some (ctx, 1, r.toNat))
  let keepS := c.eccS.filter (fun p => !(p.1 == ctx && u.sw.any (fun r => r.toNat == p.2)))
  let keepV := c.eccV.filter (fun p => !(p.1 == ctx && u.vw.any (fun r => r.toNat == p.2)))
  match c.eccArm with
  | some (_, _, k) =>
    { c with eccS := if hitS then (ctx, k) :: keepS else keepS, eccV := if hitV then (ctx, k) :: keepV else keepV
             eccArm := if hitS || hitV then none else c.eccArm }
  | none => { c with eccS := keepS, eccV := keepV }

/-- Whether a source register holds an injected error (R405). -/
def Core.eccRead (c : Core) (ctx : Nat) (u : RegUse) : Bool :=
  u.sr.any (fun r => c.eccS.contains (ctx, r.toNat)) || u.vr.any (fun r => c.eccV.contains (ctx, r.toNat))

/-- Writes and reads of local-store granules meeting injected errors (R405). -/
def Core.eccGran (c : Core) (a n : Nat) : Bool := (granules a n).any (fun g => c.eccG.contains g)

/-- Writing local store, with an armed injection taking effect (R405). -/
def Core.lsWrite (c : Core) (full : Bool) (a : Nat) (bs : List Byte) : Core :=
  let gs := granules a bs.length
  let c := { c with ls := if full then c.ls.writeFull a bs else c.ls.write a bs }
  match c.eccArm with
  | some (_, 2, g) => if gs.contains g then { c with eccArm := none, eccG := setIns c.eccG g } else c
  | _ => if c.eccG.isEmpty then c
    else { c with eccG := (wholeGranules a bs.length).foldl setDel c.eccG }

/-- An engine or a landing writes local store, the granules becoming full (R90). -/
def Core.engineWrite (c : Core) (a : Nat) (bs : List Byte) : Core := { c.lsWrite true a bs with wrote := true }

/-- The signature check after an instruction that issued while it was armed (R402 step 2). -/
def sigNext (i : Instr) (s : Option Sig) : Option Sig :=
  s.map (fun s => { s with crc := crc32 s.crc (wordToBytes i.bytes (encode i)), ended := i.isTransfer })

/-- Retirement at a given next pc: the wait and the watchdog end, the instruction counts in its region (R23, R368, R399). One that
does not run under its predicate writes and feeds nothing (R160, R396). -/
def retireAt (e : Env) (i : Instr) (next : Word) (c : Core) (ran : Bool := true) : Core :=
  let x := e.ctx c
  let x := if ran then x.feed e.b (fpWrites x.regs i.use) else x
  let x := { x with
    pc := next, st := .ready, wait := none, watchdog := 0, walkErr := none, sig := sigNext i x.sig
    region := { x.region with retired := x.region.retired + 1 } }
  (if ran then c.eccWrites e.who.ctx i.use else c).setCtx e.who.ctx x

/-- Retirement at the sequential successor (R189). -/
def retire (e : Env) (i : Instr) (c : Core) (ran : Bool := true) : Core :=
  retireAt e i (seqNext e.pad (e.ctx c).pc i.bytes) c ran

/-- The result of an instruction that retires and leaves nothing outside the core. -/
def done (e : Env) (i : Instr) (c : Core) (ran : Bool := true) : Res := ⟨retire e i c ran, id⟩

/-- A precise trap at the instruction (R362). -/
def trapI (e : Env) (i : Instr) (c : Core) (t : Trap) : Res := takeTrap e c (e.ctx c).pc i.word t

/-- Trapping with a cause and no detail. -/
def trapC (e : Env) (i : Instr) (c : Core) (cause : Nat) (aux : Nat := 0) (addr : Word := 0) : Res :=
  trapI e i c ⟨cause, addr, BitVec.ofNat 64 aux⟩

/-- Waiting at the instruction: stalled, or parked (R16, R17), with a wait code of R369. The order of parking is kept
while the same instruction waits on. -/
def waitI (e : Env) (i : Instr) (c : Core) (code : Nat) (parked poll : Bool) (no : Nat := 0) (left : Nat := 0)
    (post : State → State := id) : Res :=
  let x := e.ctx c
  let (order, c) := match x.wait with
    | some w => (w.order, c)
    | none => (c.nextId, { c with nextId := c.nextId + 1 })
  ⟨c.setCtx e.who.ctx { x with
      st := if parked then .parked else .stalled
      wait := some ⟨i, no, code, poll, order, left, none, false⟩ }, post⟩

/-- Stalling for a translation (R79). -/
def walkI (e : Env) (i : Instr) (c : Core) (va : Word) : Res :=
  let r := waitI e i c 0 false true
  ⟨r.core, fun s => s.askWalk e.who.dev ⟨dieOf e.who.core, .ctx e.who.core e.who.ctx, e.b.asid, va⟩⟩

/-! ## Pairs (R397, R398) -/

/-- Restoring the commit checkpoint and rerunning the region (R398); a context that a pre-emption lets run stops there (R400). -/
def rollback (x : Context) : Context :=
  { x with
    st := .ready, wait := none, pc := x.ckpt.entry
    regs := { x.ckpt.regs with
      s := Vector.ofFn (fun i => if x.ckpt.slive.getLsbD i.val then x.ckpt.regs.s[i.val] else x.regs.s[i.val])
      v := Vector.ofFn (fun i => if x.ckpt.vlive.getLsbD i.val then x.ckpt.regs.v[i.val] else x.regs.v[i.val]) }
    trap := x.ckpt.trap, pre := if x.pre == .drain then .stopped else x.pre
    region := { x.region with entry := x.ckpt.entry, d := x.ckpt.d, m := x.ckpt.m, slive := x.ckpt.slive
                              vlive := x.ckpt.vlive, retired := 0, rerun := true, ldfClr := false }
    egress := [], hold := [], committing := false, committed := false, sig := none, fp := 0, watchdog := 0, walkErr := none }

/-- The slot a load command fills. -/
def Cmd.loads (k : Cmd) : Option Nat :=
  match k.instr with
  | .mload _ _ o _ _ _ => some o.toNat
  | _ => none

/-- Whether a command names a slot. -/
def Cmd.names (k : Cmd) (o : Nat) : Bool :=
  match k.instr with
  | .mload _ _ d _ _ _ => d.toNat == o
  | .mma _ _ _ _ a b _ => a.toNat == o || b.toNat == o
  | _ => false

/-- The format an MLOAD names. -/
def Cmd.mf (k : Cmd) : Option Mf :=
  match k.instr with
  | .mload _ mf _ _ _ _ => some mf
  | _ => none

/-- The state and format of a slot as the issue stage sees them (R95, R263): loading while an MLOAD of the present claim is
in the queue, ready when its data is the claim's, else claimed; a pending release completes once no command names it. -/
def Core.settle (c : Core) (o : Nat) : Core :=
  let s := c.slot o
  if s.st == .free then c
  else if s.release then
    if c.mx.any (fun k => k.names o) then c else c.setSlot o Slot.free
  else match (c.mx.filter (fun k => k.loads == some o && k.e0.toNat == s.gen)).getLast? with
    | some k => c.setSlot o { s with st := .loading, fmt := k.mf }
    | none =>
      if s.dataGen == s.gen then c.setSlot o { s with st := .ready, fmt := s.dataFmt }
      else c.setSlot o { s with st := .claimed, fmt := none }

/-- Settling every slot. -/
def Core.settleAll (c : Core) : Core := (List.range 16).foldl Core.settle c

/-- Removing the unstarted commands that the current region of a context issued (R44, R95, R279). -/
def Core.dropRegionCmds (c : Core) (ctx : Nat) : Core :=
  let keep (k : Cmd) : Bool := !(k.ctx == ctx && k.uncommitted && !k.started)
  ({ c with mx := c.mx.filter keep, cx := c.cx.filter keep }).settleAll

/-- The elements of a line of width w. -/
def lineElems (wd : Width) (bs : List Byte) : List (Nat × Nat) :=
  let n := wd.bits / 8
  (List.range (64 / n)).map (fun j => (j * n, leNat ((bs.drop (j * n)).take n)))

/-- A line of 64 bytes with elements joined to it (R50). -/
def joinElemsInto (k : Kind) (wd : Width) (bs : List Byte) (es : List (Nat × Nat)) : List Byte :=
  let n := wd.bits / 8
  es.foldl (fun bs p => bs.take p.1 ++ natBytes n (joinVal k wd.bits (leNat ((bs.drop p.1).take n)) p.2) ++ bs.drop (p.1 + n)) bs

/-- The counts that a context's egress buffer has for a line of a .cnt window (R83). -/
def Context.counts (x : Context) (win line : Nat) : Option (List Byte) :=
  x.egress.findSome? (fun g => match g with
    | .cntLine w l bs => if w == win && l == line then some bs else none
    | _ => none)

/-- The counts that the other contexts of a core have for it. -/
def Core.otherCounts (c : Core) (ctx win line : Nat) : List (List Byte) :=
  ((List.range 11).filter (· != ctx)).filterMap (fun n => (c.ctx n).counts win line)

/-- The bytes of a window line that a context's commit writes back: the local copy, or its own counts where another context has
counts in the line too (R83, R87; log 96). -/
def Core.ownLine (c : Core) (ctx win line : Nat) (k : Window) (counts : List Byte) : List Byte :=
  if (c.otherCounts ctx win line).isEmpty then c.ls.read (16 * k.loc + 64 * line) 64 else counts

/-- A line of a .cnt window without a context's counts: those of the others stay (R83, R87). -/
def Core.leaveLine (c : Core) (ctx win line : Nat) : Core :=
  match c.window win with
  | some k =>
    let rest := c.otherCounts ctx win line
    let bs := rest.foldl (fun a b => joinElemsInto .cnt k.wd a (lineElems k.wd b)) (List.replicate 64 0)
    (c.lsWrite false (16 * k.loc + 64 * line) bs).setWindow win
      (some { k with busy := if rest.isEmpty then setDel k.busy line else k.busy })
  | none => c

/-- The .cnt accumulate windows lose a context's counts when its region is discarded (R83). -/
def Core.dropCounts (c : Core) (ctx : Nat) : Core :=
  ((c.ctx ctx).egress).foldl (fun c g => match g with
    | .cntLine w l _ => c.leaveLine ctx w l
    | _ => c) c

/-- The pair check (R397): on agreement the held joins are released in program order, and the rest runs; a disagreement
rolls the region back, or kills the pair (R398). feed is what the instruction itself feeds each copy before the comparison. -/
def pairCheck (e : Env) (c : Core) (rest : Core → Res) (feed : Core → Core := id) : Res :=
  match e.peer with
  | none => rest (feed c)
  | some p =>
    let c := feed c
    let x := e.ctx c
    if x.fp = (e.ctx (feed p)).fp then
      let r := rest (c.setCtx e.who.ctx { x with hold := [] })
      ⟨r.core, fun s => r.post (x.hold.foldl (fun s j => s.postJoin e.who e.b j) s)⟩
    else if x.region.rerun || x.region.ldfClr then
      ⟨c, fun s => s.killCore e.who.dev e.who.core true false⟩
    else ⟨(((c.dropCounts e.who.ctx).dropRegionCmds e.who.ctx).dropSwap e.who.ctx).setCtx e.who.ctx (rollback x), id⟩

/-! ## The front of every instruction -/

/-- Check of the block signature at the issue of an instruction (R402 steps 3 to 5): the computed value on a mismatch. ILL stops at
check 2 of R165, before it (log 67). -/
def sigTrap (i : Instr) (x : Context) : Option Trap :=
  match x.sig with
  | none => none
  | some s =>
    let (isIll, isB) : Bool × Bool := match i with
      | .ill _ => (true, false)
      | .bbsig _ => (false, true)
      | _ => (false, false)
    let v := if isIll then none
      else if s.ended || isB then some s.crc
      else if i.selfChecked then some (crc32 s.crc (wordToBytes i.bytes (encode i))) else none
    match v with
    | some v => if ~~~v = s.expect then none else some ⟨Cause.cfsig, s.at_, (~~~v).setWidth 64⟩
    | none => none

/-- A match disarms the check (R402 step 5). -/
def sigDisarm (i : Instr) (x : Context) : Context :=
  match x.sig with
  | none => x
  | some s =>
    let isB := match i with
      | .bbsig _ => true
      | _ => false
    if s.ended || isB || i.selfChecked then { x with sig := none } else x

/-- Whether a context can execute: ready, stalled or parked (R16). -/
def CtxSt.live : CtxSt → Bool
  | .ready | .stalled | .parked => true
  | .idle | .exited | .ended => false

/-- The checks of R165 from the third on, then the instruction's own checks and effect. A block signature (R402) is checked after
the checks that depend only on the instruction word, the context and the header, and an injected error is found by an instruction
that runs (R405; log 92). A context that is not live has no head instruction, and nothing happens. -/
def front (i : Instr) (own : Env → Core → Res) (e : Env) (c : Core) : Res :=
  let x := e.ctx c
  if !x.st.live then Res.only c
  else if !roleOk i e.who.ctx then trapC e i c Cause.ctxRole
  else match boundsTrap e.b.hdr i with
    | some t => trapI e i c t
    | none => match sigTrap i x with
      | some t => trapI e i c t
      | none =>
        let c := c.setCtx e.who.ctx (sigDisarm i x)
        if !runs x.regs i.pred then done e i c false
        else if c.eccRead e.who.ctx i.use then eccFound e c
        else own e c

/-- Whether the word at offset 24 of the fetch block of a pc is a pad word (R155), read through the translation that the
core holds for it. -/
def State.padWord (s : State) (c : Core) (asid : Nat) (pc : Word) : Bool :=
  match c.tlb.find? (fun t => t.covers asid pc) with
  | some t => leNat (s.readG (t.phys pc / 32 * 32 + 24) 1) % 4 == 0
  | none => false

/-- The environment of a context of a core. -/
def State.env (s : State) (w : Who) (b : Binding) : Env :=
  { who := w, b := b, clk := (s.device w.dev).clk
    peer := b.peer.map (fun p => s.core w.dev p), storeFull := (s.device w.dev).storeFull
    pad := s.padWord (s.core w.dev w.core) b.asid ((s.core w.dev w.core).ctx w.ctx).pc
    walking := (s.device w.dev).walks.any (fun k => match k.for_ with
      | .ctx c _ | .cmd c _ => c == w.core || some c == b.peer) }

/-- Running one context step on a core, and in a paired launch the same step on the partner, whose messages stay inside
the pair (R395); an uncorrectable error that only the partner finds kills both (R400). -/
def runCtx (s : State) (w : Who) (f : Env → Core → Res) : Host.Outcome State Fault Refusal :=
  match (s.core w.dev w.core).bound with
  | none => .fault .noContext
  | some b =>
    let r := f (s.env w b) (s.core w.dev w.core)
    let s1 := s.setCore w.dev w.core r.core
    match b.peer with
    | none => .next (r.post s1)
    | some p =>
      let w2 : Who := { w with core := p }
      match (s.core w.dev p).bound with
      | none => .next (r.post s1)
      | some b2 =>
        let r2 := f (s.env w2 b2) (s.core w.dev p)
        let s2 := r.post (s1.setCore w.dev p r2.core)
        .next (if r2.core.eccHit && !r.core.eccHit then s2.eccKill w.dev p else s2)

/-- An instruction of the current context: the shared front, then its own meaning. -/
def issue (i : Instr) (own : Env → Core → Res) (s : State) : Host.Outcome State Fault Refusal :=
  runCtx s s.cur (front i own)

/-- An instruction that computes registers and retires. -/
def compute (i : Instr) (f : Env → Context → Regs) (s : State) : Host.Outcome State Fault Refusal :=
  issue i (fun e c => done e i (e.modCtx c (fun x => { x with regs := f e x }))) s

/-- Transferring control (R155, R189): an invalid target traps at the instruction. -/
def jump (e : Env) (i : Instr) (c : Core) (t : Word) (f : Regs → Regs := id) : Res :=
  if targetInvalid t then trapC e i c Cause.misaligned 0 t
  else ⟨retireAt e i t (e.modRegs c f), id⟩

/-- The pc is read as the address of the instruction being executed. -/
def Env.pc (e : Env) (c : Core) : Word := (e.ctx c).pc

end Sys2Proof.Machine
end

