-- ==== Sys2Proof/Machine/Det.lean ====
section
/-! DEFINITION. The determinism rules of R92 and R93, and the local ranges of engine commands. -/

namespace Sys2Proof.Machine
open Sys2Proof

/-- The local access classes of R93. -/
inductive LocalAcc where
  | load | store | ldfKeep | ldfClr | stf | feset
  deriving DecidableEq, Repr

def inRange (r : Nat × Nat) (g : Nat) : Bool := r.1 ≤ g && g < r.1 + r.2

/-- The partition of a context (R92). -/
def Binding.part (b : Binding) (ctx : Nat) : Nat × Nat := b.hdr.parts[ctx]?.getD (0, 0)

/-- Inbox granules: those of every window of every plan (R93). -/
def Binding.isInbox (b : Binding) (g : Nat) : Bool :=
  b.plan.wins.any (fun w => w.1.1 == b.lcore && w.2.any (fun v => inRange (v.first, v.len) g))

/-- A byte range of local store. -/
abbrev ByteRange := Nat × Nat

def overlaps (a b : ByteRange) : Bool := decide (0 < a.2) && decide (0 < b.2) && decide (a.1 < b.1 + b.2) && decide (b.1 < a.1 + a.2)

/-- Bytes an element of a tag takes in MSTORE (R272). -/
def tagBytes (t : Tag) : Nat := tagBits t / 8

/-- The extent of an MLOAD (R265). -/
def mloadBytes : Mf → Nat
  | .fp4 => 5120
  | _ => 4096

/-- The local source of a command. -/
def Cmd.src (k : Cmd) : ByteRange :=
  match k.instr with
  | .mload _ mf _ _ _ _ => (k.a.toNat, mloadBytes mf)
  | .mwrite .. => (k.a.toNat, 16384)
  | .cpyPutj .. | .coll .. => (k.d.toNat, k.b.toNat)
  | .send _ _ _ _ len _ _ => (k.d.toNat, 16 * (len.toNat + 1))
  | _ => (0, 0)

/-- The local destination of a command. -/
def Cmd.dst (k : Cmd) : ByteRange :=
  match k.instr with
  | .mstore _ t _ _ _ _ _ => (k.a.toNat, 4096 * tagBytes t)
  | .cpyFetch .. => (k.d.toNat, k.b.toNat)
  | _ => (0, 0)

/-- Whether a granule lies in the local source or destination of an accepted, uncompleted command (R93). -/
def Core.engineTouches (c : Core) (g : Nat) : Bool :=
  (c.mx ++ c.cx ++ c.port).any (fun k => !k.done && (overlaps k.src (16 * g, 16) || overlaps k.dst (16 * g, 16)))

/-- Whether every helper of a core is idle. -/
def Core.helpersIdle (c : Core) : Bool := (List.range 10).all (fun h => (c.ctx (h + 1)).st == .idle)

/-- Whether R93 permits an access of a context to a granule. -/
def detGranule (b : Binding) (c : Core) (ctx : Nat) (a : LocalAcc) (g : Nat) : Bool :=
  let reads := a == .load || a == .ldfKeep
  let place :=
    if b.isInbox g then ctx == 0 && (a == .load || a == .ldfKeep || a == .ldfClr || a == .feset)
    else if inRange (b.part ctx) g then true
    else if inRange b.hdr.shared g then reads || (ctx == 0 && c.helpersIdle)
    else (List.range b.hdr.helpers).any (fun h => inRange (b.part (h + 1)) g && ctx == 0 && reads
      && ((c.ctx (h + 1)).st == .idle || (c.ctx (h + 1)).st == .exited))
  place && !(a == .load && !c.ls.isFull g && (b.isInbox g || c.engineTouches g))
    && !(a == .store && c.engineTouches g)

/-- R93 for a local range. -/
def detLocal (e : Env) (c : Core) (a : LocalAcc) (off n : Nat) : Bool :=
  !e.b.det || (granules off n).all (detGranule e.b c e.who.ctx a)

/-- R93 for the local source of a command: the ranges that a plain load of its issuer may read. -/
def detSrc (e : Env) (c : Core) (r : ByteRange) : Bool :=
  !e.b.det || (granules r.1 r.2).all (fun g => (e.who.ctx == 0 && e.b.isInbox g) || detGranule e.b c e.who.ctx .ldfKeep g)

/-- R93 for the local destination of a command: the ranges that a store of its issuer may reach. -/
def detDst (e : Env) (c : Core) (r : ByteRange) : Bool :=
  !e.b.det || (granules r.1 r.2).all (detGranule e.b c e.who.ctx .stf)

/-- Whether a COLL waits for a location of the lattice that orders its source read after other work (R276). -/
def Cmd.latticePending (k : Cmd) : Bool :=
  match k.instr with
  | .coll _ _ _ _ _ _ _ _ lw _ => lw.isSome && !(k.started && k.await.isEmpty)
  | _ => false

/-- R93: a command whose local range overlaps the destination of an uncompleted command of another queue, or whose
destination overlaps the source of an uncompleted COLL; one whose lattice wait has still to pass reads its source only after that
(R355, R356; log 108). -/
def detQueues (e : Env) (c : Core) (q : EngQ) (src dst : ByteRange) : Bool :=
  let others := (if q == .mx then [] else c.mx) ++ (if q == .cx then [] else c.cx) ++ (if q == .port then [] else c.port)
  !e.b.det || (others.all (fun k => k.done || !(overlaps k.dst src || overlaps k.dst dst))
    && (q == .port || c.port.all (fun k => k.done || k.latticePending || !overlaps k.src dst)))

/-- R93 for an accumulator: the context to which it is assigned. -/
def detAcc (e : Env) (acc : Bool) : Bool :=
  !e.b.det || (if acc then e.b.hdr.c1ctx else e.b.hdr.c0ctx) == e.who.ctx

/-- R93 for GARM and GRES: no accepted, not yet evaluated command of another context names the guard. -/
def detGuard (e : Env) (c : Core) (g : Nat) (sync : Cmd → Sync) : Bool :=
  !e.b.det || (c.mx ++ c.cx ++ c.port).all (fun k => k.step == .run || k.ctx == e.who.ctx
    || (match (sync k).grd with
      | some v => v.toNat != g
      | none => true))

/-- Whether a local range lies within the declared store (R88). The whole range is one number of bytes from an offset. -/
def inStore (b : Binding) (off : Word) (n : Nat) : Bool := off.toNat + n ≤ b.hdr.lstore

/-- RES_BOUNDS for a local range (R363: resource 2). -/
def storeTrap (off : Word) : Trap := resBounds 2 0 off

end Sys2Proof.Machine
end

