-- ==== Sys2Proof/Machine/Commit.lean ====
section
/-! DEFINITION. Commits: the steps of R39 that REGION, END, HEXIT, ARRIVE, SYNC, VOTE and HSTART share, the region they
open (R43, R206), the checkpoint (R406), and the delivery of deferred faults (R71, R370). -/

namespace Sys2Proof.Machine
open Sys2Proof

/-- Every declared register is live-in (R43). -/
def allS (h : KHeader) : Word := BitVec.ofNat 64 (2 ^ h.sregs - 2)
def allV (h : KHeader) : BitVec 32 := BitVec.ofNat 32 (2 ^ h.vregs - 1)

/-- Opening a region: the limit and the fingerprint start from zero (R206, R396); a context that a pre-emption lets run to
its commit stops here (R44). -/
def Context.open_ (x : Context) (entry : Word) (d m : Bool) (slive : Word) (vlive : BitVec 32) : Context :=
  { x with region := ⟨entry, d, m, vlive, slive, 0, 0, false, false⟩, fp := 0, committing := false
           pre := if x.pre == .drain then .stopped else x.pre }

/-- The implicit region of R43. -/
def Context.openImplicit (x : Context) (h : KHeader) (entry : Word) : Context := x.open_ entry true true (allS h) (allV h)

/-- The checkpoint of a context (R406), with TCAUSE.act 0. -/
def Context.snapshot (x : Context) (c : Core) : Ckpt :=
  { entry := x.region.entry, d := x.region.d, m := x.region.m, slive := x.region.slive, vlive := x.region.vlive
    regs := x.regs, trap := { x.trap with tcause := x.trap.tcause &&& 0xFFFF }, st := x.st, arrivals := c.arrivals
    plan := c.plan, out := x.out, deferred := x.deferred, committed := x.committed }

/-- Writing a context's checkpoint. -/
def Core.checkpoint (c : Core) (ctx : Nat) : Core := c.modCtx ctx (fun x => { x with ckpt := x.snapshot c })

/-- Whether a live-in register holds an injected error, which the copy into the checkpoint finds (R405). -/
def Core.eccLive (c : Core) (ctx : Nat) : Bool :=
  let r := (c.ctx ctx).region
  c.eccS.any (fun p => p.1 == ctx && r.slive.getLsbD p.2) || c.eccV.any (fun p => p.1 == ctx && r.vlive.getLsbD p.2)

/-- Finishing an opened region: the checkpoint is written, or its copy finds an uncorrectable error and the core is
killed (R405, R406); a kill that waited for this commit takes effect (R406, R412). -/
def finishRegion (e : Env) (c : Core) (post : State → State := id) : Res :=
  let c' := c.checkpoint e.who.ctx
  if c'.killWait.isSome then ⟨c', fun s => (post s).settleKill e.who.dev e.who.core⟩
  else if c.eccLive e.who.ctx then eccFound e c' post
  else ⟨c', post⟩

/-- What a commit that retires counts (R373), and the region's commands become committed (R44). -/
def countCommit (e : Env) (entry : Word) (c : Core) : Core :=
  let c := { c with
    mx := c.mx.map (fun k => if k.ctx == e.who.ctx then { k with uncommitted := false } else k)
    cx := c.cx.map (fun k => if k.ctx == e.who.ctx then { k with uncommitted := false } else k) }
  if e.who.ctx == 0 then { c with commits := c.commits + 1, rentry := entry } else c

/-- Delivering a deferred fault: the record is emptied and the handler entered as at a precise trap (R364, R370). Halted
commands that the context answers for become restartable by the TRET that ends this handler, at the offset it leaves when the
record is that command's own (R370). -/
def deliver (e : Env) (i : Instr) (c : Core) (d : Deferred) (clear : Core → Core) : Res :=
  let c := clear c
  let mark (k : Cmd) : Cmd := if c.answersFor e.who.ctx k && k.halted.isSome then { k with recorded := true } else k
  let c := { c with cx := c.cx.map mark }
  let c := e.modCtx c (fun x => { x with delivered := some d.cmd })
  takeTrap e c (e.ctx c).pc i.word d.trap

/-- Emptying the record and the egress buffer of the committing context (R39 step 1). -/
def clearOwn (e : Env) (c : Core) : Core :=
  (c.dropCounts e.who.ctx).modCtx e.who.ctx (fun x => { x with deferred := none, egress := [], committing := false })

/-- Members of a node (R286, R29). -/
def memberCount (b : Binding) (k : Nat) : Nat := coresPerNode b.tree k

/-- Checks 1 to 4 of R262 for a withheld SEND or COLL, made at the committing instruction; the address is the one that
fails (log 34). red uses the tile of rank 0 only (R288). -/
def withheldTrap (e : Env) (c : Core) (g : Egress) : Option Trap :=
  let r := e.regs c
  match g with
  | .cmd (.send _ d _ b len _ _) =>
    let src := r.getS d
    let n := 16 * (len.toNat + 1)
    if !inStore e.b src n then some (storeTrap src)
    else if src.toNat % 16 != 0 then some ⟨Cause.misaligned, src, 0⟩
    else if (r.getS b).toNat % 16 != 0 then some ⟨Cause.misaligned, r.getS b, 0⟩
    else if !(detSrc e c (src.toNat, n) && detQueues e c .cx (src.toNat, n) (0, 0)) then
      some ⟨Cause.nondet, src, 0xCB⟩
    else none
  | .cmd (.coll _ k cop _ d a b _ lw _) =>
    let src := r.getS d
    let n := (r.getS b).toNat
    let mult := if cop.toNat / 16 == 4 then 64 * memberCount e.b k.toNat else 64
    let tile := cop.toNat / 16 != 1 || e.b.lcore % memberCount e.b k.toNat == 0
    if !inStore e.b src n then some (storeTrap src)
    else if src.toNat % 64 != 0 || n % 64 != 0 || n == 0 || 262144 < n || n % mult != 0 then
      some ⟨Cause.misaligned, src, 0⟩
    else if tile && (r.getS a).toNat % 64 != 0 then some ⟨Cause.misaligned, r.getS a, 0⟩
    else if tile && !canonical (r.getS a) then some ⟨Cause.addrNoncanon, r.getS a, 0⟩
    else if (match lw with
        | some w => !canonical (r.getS w)
        | none => false) then some ⟨Cause.addrNoncanon, (match lw with
          | some w => r.getS w
          | none => 0), 0⟩
    else if !(detSrc e c (src.toNat, n) && detQueues e c .port (src.toNat, n) (0, 0)) then
      some ⟨Cause.nondet, src, 0xCC⟩
    else none
  | _ => none

/-- What checks 1 to 5 of R209 for one Flowstone access find: a walk to wait for, a trap, or the translation. -/
inductive Flow where
  | walk
  | trap (t : Trap)
  | ok (t : Tlb)

/-- Checks 1 to 5 of R209 for one Flowstone access of n bytes: canonical form, alignment, line, walk and permission, kind
and width. -/
def flowCheck (c : Core) (x : Context) (asid : Nat) (acc : Access) (ea : Word) (align n : Nat) (kind : Kind) (wd : Width) : Flow :=
  if !canonical ea then .trap ⟨Cause.addrNoncanon, ea, 0⟩
  else if ea.toNat % align != 0 then .trap ⟨Cause.misaligned, ea, 0⟩
  else if 64 < ea.toNat % 64 + n then .trap ⟨Cause.lineCross, ea, 0⟩
  else match lookup c x asid ea with
    | .miss => .walk
    | .bad t => .trap t
    | .hit t => match permTrap t acc ea with
      | some p => .trap p
      | none => match kindTrap t kind wd ea with
        | some p => .trap p
        | none => .ok t

/-- The access of a withheld .cnt JOIN or JOINV as the registers stand (R109, R219, R220): address, alignment, extent, width. -/
def cntAccess (r : Regs) : Instr → Option (Word × Nat × Nat × Width)
  | .join _ _ wd _ _ a o => some (effAddr r a o, wd.bits / 8, wd.bits / 8, wd)
  | .joinv _ (.elems _ wd _) _ a o => some (effAddr r a o, wd.bits / 8, 32, wd)
  | _ => none

/-- The global address of a line of a window. -/
def Window.lineVa (k : Window) (l : Nat) : Word := k.va + BitVec.ofNat 64 (64 * l)

/-- The translation that a withheld join needs at its release: of the address its registers give (R109), or of its window line,
whose write-back needs permission J (R77); with that address. -/
def egressFlow (c : Core) (x : Context) (asid : Nat) : Egress → Option (Word × Flow)
  | .join i => (cntAccess x.regs i).map (fun a => (a.1, flowCheck c x asid .join a.1 a.2.1 a.2.2.1 .cnt a.2.2.2))
  | .cntLine w l _ => (c.window w).map (fun k => (k.lineVa l, flowCheck c x asid .join (k.lineVa l) 64 64 k.kind k.wd))
  | _ => none

/-- What keeps a commit from releasing an entry of the egress buffer: a walk for an address, or a trap (R262; log 97). -/
def egressStop (e : Env) (c : Core) (g : Egress) : Option (Sum Word Trap) :=
  match egressFlow c (e.ctx c) e.b.asid g with
  | some (va, .walk) => some (.inl va)
  | some (_, .trap t) => some (.inr t)
  | some (_, .ok _) => none
  | none => (withheldTrap e c g).map .inr

/-- The record of a window line as it is written back (R396 tag 5). -/
def lineRecord (k : Window) (l : Nat) (bs : List Byte) : List Word :=
  fpHdr 5 (k.kind.code.toNat + k.wd.code.toNat * 8) :: k.lineVa l
    :: (List.range 8).map (fun j => BitVec.ofNat 64 (leNat ((bs.drop (8 * j)).take 8)))

/-- Feeding the .cnt write-backs of a commit, before its comparison (R396, R397). -/
def feedLines (e : Env) (c : Core) : Core :=
  (e.ctx c).egress.foldl (fun c g => match g with
    | .cntLine w l bs => match c.window w with
      | some k => e.modCtx c (fun x => x.feed e.b (lineRecord k l (c.ownLine e.who.ctx w l k bs)))
      | none => c
    | _ => c) c

/-- Whether a commit would read an injected error: in a register that a withheld effect reads at its release (R109) or the committing
instruction at its step 4, or in a window line that it writes back. It is found before the first effect is released, so that the commit
stays whole (R405, R406; log 111). -/
def Core.eccCommit (c : Core) (ctx : Nat) (own : RegUse) : Bool :=
  c.eccRead ctx own || (c.ctx ctx).egress.any (fun g => match g with
    | .join i | .cmd i => c.eccRead ctx i.use
    | .cntLine w l _ => (c.window w).any (fun k => c.eccGran (16 * k.loc + 64 * l) 64)
    | _ => false)

/-- THE COMMIT (R39, R31, R197, R262). own is step 4: the committing instruction's own effect, and reads the registers that it reads
beside its operands. While egress entries are left, the instruction stalls, and EGRESS_RELEASE takes them one by one; then it is
evaluated again. -/
def commit (e : Env) (i : Instr) (own : Env → Core → Res) (c : Core) (reads : RegUse := {}) : Res :=
  let x := e.ctx c
  if x.trap.act then trapC e i c Cause.handlerCommit i.toFields.maj.toNat
  else if x.committing then
    if x.egress.isEmpty then own e (e.modCtx c (fun x => { x with committing := false }))
    else waitI e i c ((x.wait.map (·.code)).getD 0) false true
  else match x.deferred with
    | some d => deliver e i c d (clearOwn e)
    | none => match x.egress.findSome? (egressStop e c) with
      | some (.inl va) => walkI e i c va
      | some (.inr t) => trapI e i c t
      | none => pairCheck e c (fun c =>
        if c.eccCommit e.who.ctx reads then eccFound e c
        else if x.egress.isEmpty && x.hold.isEmpty then own e c
        else waitI e i (e.modCtx c (fun x => { x with committing := true, begun := false })) 0 false true) (feedLines e)

/-- Adding a withheld effect, with its fingerprint record: one egress entry, or REGION_OVERFLOW at the 33rd (R40, R396). -/
def withhold (e : Env) (i : Instr) (c : Core) (g : Egress) (rec_ : List Word := []) : Res :=
  let x := e.ctx c
  if 32 ≤ x.egress.length then trapC e i c Cause.regionOverflow 32
  else done e i (e.modCtx c (fun x => { x.feed e.b rec_ with egress := x.egress ++ [g] }))

end Sys2Proof.Machine
end

