-- ==== Sys2Proof/Machine/Scalar.lean ====
section
/-! DEFINITION. The scalar instructions, majors 0x00 to 0x20 (R179-R188). None reads or writes FLAGS (R124). -/

namespace Sys2Proof.Machine
open Sys2Proof

/-! ## Results (R181, R182, R124) -/

/-- Bits [127:64] of the exact product (R181). -/
def mulhVal (n : Bool) (a b : Word) : Word :=
  if n then BitVec.ofNat 64 (a.toNat * b.toNat / 2 ^ 64) else BitVec.ofInt 64 ((a.toInt * b.toInt) / 2 ^ 64)

/-- Division under R124: by zero all ones, INT_MIN by −1 itself, otherwise truncated toward zero. -/
def divVal (n : Bool) (a b : Word) : Word :=
  if b = 0 then -1 else if n then a / b else BitVec.ofInt 64 (a.toInt.tdiv b.toInt)

/-- Remainder under R124: by zero the dividend, otherwise dividend − quotient × divisor. -/
def remVal (n : Bool) (a b : Word) : Word :=
  if b = 0 then a else if n then a % b else BitVec.ofInt 64 (a.toInt.tmod b.toInt)

def shlVal (a b : Word) : Word := if 64 ≤ b.toNat then 0 else a <<< b.toNat
def shrVal (a b : Word) : Word := if 64 ≤ b.toNat then 0 else a >>> b.toNat
def sarVal (a b : Word) : Word := a.sshiftRight (min b.toNat 64)
def rolVal (a b : Word) : Word := a.rotateLeft (b.toNat % 64)

/-- Comparison, unsigned (n) or signed. -/
def ltVal (n : Bool) (a b : Word) : Bool := if n then decide (a.toNat < b.toNat) else decide (a.toInt < b.toInt)

def minVal (n : Bool) (a b : Word) : Word := if ltVal n b a then b else a
def maxVal (n : Bool) (a b : Word) : Word := if ltVal n a b then b else a

/-- |A|; INT_MIN gives itself (R182). -/
def absVal (a : Word) : Word := if a.getLsbD 63 then -a else a

/-- Leading zero bits among the n lowest bits. -/
def clzFrom (a : Word) : Nat → Nat
  | 0 => 0
  | n + 1 => if a.getLsbD n then 0 else clzFrom a n + 1

def clzVal (a : Word) : Word := BitVec.ofNat 64 (clzFrom a 64)

/-- Trailing zero bits, from bit 64 − n on. -/
def ctzFrom (a : Word) : Nat → Nat
  | 0 => 0
  | n + 1 => if a.getLsbD (63 - n) then 0 else ctzFrom a n + 1

def ctzVal (a : Word) : Word := BitVec.ofNat 64 (ctzFrom a 64)

/-- The number of one bits. -/
def popCount (a : Word) : Nat := ((List.range 64).filter a.getLsbD).length

def popcVal (a : Word) : Word := BitVec.ofNat 64 (popCount a)

def brevVal (a : Word) : Word := a.reverse

/-- The field of R183. -/
def bfxVal (n : Bool) (a : Word) (pos len : Nat) : Word :=
  let f := (a >>> pos) <<< (64 - len)
  if n then f >>> (64 - len) else f.sshiftRight (64 - len)

/-- Bits pos to pos + len − 1 set. -/
def fieldMask (pos len : Nat) : Word := ((BitVec.allOnes 64) >>> (64 - len)) <<< pos

def bfiVal (d a : Word) (pos len : Nat) : Word :=
  (d &&& ~~~(fieldMask pos len)) ||| ((a <<< pos) &&& fieldMask pos len)

/-- The condition of CMP (R187). -/
def condVal (c : Cond) (n : Bool) (a b : Word) : Bool :=
  match c with
  | .eq => a == b
  | .ne => a != b
  | .lt => ltVal n a b
  | .ge => !ltVal n a b
  | .le => !ltVal n b a
  | .gt => ltVal n b a

/-! ## Shared shapes -/

/-- s[d] := f(s[a], src2). -/
def scalar2 (i : Instr) (d a : SReg) (x : Src2) (f : Word → Word → Word) (s : State) : Host.Outcome State Fault Refusal :=
  compute i (fun _ c => c.regs.setS d (f (c.regs.getS a) (src2Val c.regs x))) s

/-- s[d] := f(s[a]). -/
def scalar1 (i : Instr) (d a : SReg) (f : Word → Word) (s : State) : Host.Outcome State Fault Refusal :=
  compute i (fun _ c => c.regs.setS d (f (c.regs.getS a))) s

/-- p[d] := a function of the predicates. -/
def predicate (i : Instr) (d : PReg) (f : Regs → Bool) (s : State) : Host.Outcome State Fault Refusal :=
  compute i (fun _ c => c.regs.setP d (f c.regs)) s

/-! ## Meanings -/

/-- ADD (R181). -/
def execAdd (p : Pred) (d a : SReg) (x : Src2) (s : State) : Host.Outcome State Fault Refusal :=
  scalar2 (.add p d a x) d a x (· + ·) s

/-- SUB (R181). -/
def execSub (p : Pred) (d a : SReg) (x : Src2) (s : State) : Host.Outcome State Fault Refusal :=
  scalar2 (.sub p d a x) d a x (· - ·) s

/-- MUL (R181). -/
def execMul (p : Pred) (d a : SReg) (x : Src2) (s : State) : Host.Outcome State Fault Refusal :=
  scalar2 (.mul p d a x) d a x (· * ·) s

/-- AND (R181). -/
def execAnd (p : Pred) (d a : SReg) (x : Src2) (s : State) : Host.Outcome State Fault Refusal :=
  scalar2 (.and p d a x) d a x (· &&& ·) s

/-- OR (R181). -/
def execOr (p : Pred) (d a : SReg) (x : Src2) (s : State) : Host.Outcome State Fault Refusal :=
  scalar2 (.or p d a x) d a x (· ||| ·) s

/-- XOR (R181). -/
def execXor (p : Pred) (d a : SReg) (x : Src2) (s : State) : Host.Outcome State Fault Refusal :=
  scalar2 (.xor p d a x) d a x (· ^^^ ·) s

/-- ANDN (R181). -/
def execAndn (p : Pred) (d a : SReg) (x : Src2) (s : State) : Host.Outcome State Fault Refusal :=
  scalar2 (.andn p d a x) d a x (fun a b => a &&& ~~~b) s

/-- SHL (R181). -/
def execShl (p : Pred) (d a : SReg) (x : Src2) (s : State) : Host.Outcome State Fault Refusal :=
  scalar2 (.shl p d a x) d a x shlVal s

/-- SHR (R181). -/
def execShr (p : Pred) (d a : SReg) (x : Src2) (s : State) : Host.Outcome State Fault Refusal :=
  scalar2 (.shr p d a x) d a x shrVal s

/-- SAR (R181). -/
def execSar (p : Pred) (d a : SReg) (x : Src2) (s : State) : Host.Outcome State Fault Refusal :=
  scalar2 (.sar p d a x) d a x sarVal s

/-- ROL (R181). -/
def execRol (p : Pred) (d a : SReg) (x : Src2) (s : State) : Host.Outcome State Fault Refusal :=
  scalar2 (.rol p d a x) d a x rolVal s

/-- MULH (R181). -/
def execMulh (p : Pred) (n : Bool) (d a : SReg) (x : Src2) (s : State) : Host.Outcome State Fault Refusal :=
  scalar2 (.mulh p n d a x) d a x (mulhVal n) s

/-- DIV (R181). -/
def execDiv (p : Pred) (n : Bool) (d a : SReg) (x : Src2) (s : State) : Host.Outcome State Fault Refusal :=
  scalar2 (.div p n d a x) d a x (divVal n) s

/-- REM (R181). -/
def execRem (p : Pred) (n : Bool) (d a : SReg) (x : Src2) (s : State) : Host.Outcome State Fault Refusal :=
  scalar2 (.rem p n d a x) d a x (remVal n) s

/-- MIN (R181). -/
def execMin (p : Pred) (n : Bool) (d a : SReg) (x : Src2) (s : State) : Host.Outcome State Fault Refusal :=
  scalar2 (.min p n d a x) d a x (minVal n) s

/-- MAX (R181). -/
def execMax (p : Pred) (n : Bool) (d a : SReg) (x : Src2) (s : State) : Host.Outcome State Fault Refusal :=
  scalar2 (.max p n d a x) d a x (maxVal n) s

/-- ABS (R182). -/
def execAbs (p : Pred) (d a : SReg) (s : State) : Host.Outcome State Fault Refusal :=
  scalar1 (.abs p d a) d a absVal s

/-- CLZ (R182). -/
def execClz (p : Pred) (d a : SReg) (s : State) : Host.Outcome State Fault Refusal :=
  scalar1 (.clz p d a) d a clzVal s

/-- CTZ (R182). -/
def execCtz (p : Pred) (d a : SReg) (s : State) : Host.Outcome State Fault Refusal :=
  scalar1 (.ctz p d a) d a ctzVal s

/-- POPC (R182). -/
def execPopc (p : Pred) (d a : SReg) (s : State) : Host.Outcome State Fault Refusal :=
  scalar1 (.popc p d a) d a popcVal s

/-- BREV (R182). -/
def execBrev (p : Pred) (d a : SReg) (s : State) : Host.Outcome State Fault Refusal :=
  scalar1 (.brev p d a) d a brevVal s

/-- BFX (R183). -/
def execBfx (p : Pred) (n : Bool) (d a : SReg) (pos : BitVec 6) (len : BitVec 7) (s : State) : Host.Outcome State Fault Refusal :=
  scalar1 (.bfx p n d a pos len) d a (fun v => bfxVal n v pos.toNat len.toNat) s

/-- BFI (R183): s[d] is a source. -/
def execBfi (p : Pred) (d a : SReg) (pos : BitVec 6) (len : BitVec 7) (s : State) : Host.Outcome State Fault Refusal :=
  compute (.bfi p d a pos len)
    (fun _ c => c.regs.setS d (bfiVal (c.regs.getS d) (c.regs.getS a) pos.toNat len.toNat)) s

/-- SEL (R184). -/
def execSel (p : Pred) (d a b : SReg) (k : PReg) (neg : Bool) (s : State) : Host.Outcome State Fault Refusal :=
  compute (.sel p d a b k neg)
    (fun _ c => c.regs.setS d (if c.regs.getP k != neg then c.regs.getS a else c.regs.getS b)) s

/-- LI (R185). -/
def execLi (p : Pred) (n : Bool) (d : SReg) (v : BitVec 32) (s : State) : Host.Outcome State Fault Refusal :=
  compute (.li p n d v) (fun _ c => c.regs.setS d (if n then v.setWidth 64 else v.signExtend 64)) s

/-- LIH (R185): the low half of s[d] stays. -/
def execLih (p : Pred) (d : SReg) (v : BitVec 32) (s : State) : Host.Outcome State Fault Refusal :=
  compute (.lih p d v) (fun _ c => c.regs.setS d (v ++ (c.regs.getS d).setWidth 32)) s

/-- The address LEA forms (R186). -/
def leaVal (r : Regs) (pc : Word) : LeaForm → Word
  | .scaled a b sh => r.getS a + (r.getS b <<< sh.toNat)
  | .disp a x => r.getS a + dispVal x
  | .label x => pc + dispVal x

/-- LEA (R186). -/
def execLea (p : Pred) (d : SReg) (f : LeaForm) (s : State) : Host.Outcome State Fault Refusal :=
  compute (.lea p d f) (fun _ c => c.regs.setS d (leaVal c.regs c.pc f)) s

/-- CMP (R187). -/
def execCmp (p : Pred) (c : Cond) (n : Bool) (d : PReg) (a : SReg) (x : Src2) (s : State) : Host.Outcome State Fault Refusal :=
  predicate (.cmp p c n d a x) d (fun r => condVal c n (r.getS a) (src2Val r x)) s

/-- PAND (R188). -/
def execPand (p : Pred) (d a b : PReg) (s : State) : Host.Outcome State Fault Refusal :=
  predicate (.pand p d a b) d (fun r => r.getP a && r.getP b) s

/-- POR (R188). -/
def execPor (p : Pred) (d a b : PReg) (s : State) : Host.Outcome State Fault Refusal :=
  predicate (.por p d a b) d (fun r => r.getP a || r.getP b) s

/-- PXOR (R188). -/
def execPxor (p : Pred) (d a b : PReg) (s : State) : Host.Outcome State Fault Refusal :=
  predicate (.pxor p d a b) d (fun r => r.getP a != r.getP b) s

/-- PNOT (R188). -/
def execPnot (p : Pred) (d a : PReg) (s : State) : Host.Outcome State Fault Refusal :=
  predicate (.pnot p d a) d (fun r => !r.getP a) s

/-- What PMOV writes (R188). -/
def pmovRegs (r : Regs) : PmovForm → Regs
  | .pp d a => r.setP d (r.getP a)
  | .ps d a => r.setP d (r.getS a != 0)
  | .sp d a => r.setS d (if r.getP a then 1 else 0)

/-- PMOV (R188). -/
def execPmov (p : Pred) (f : PmovForm) (s : State) : Host.Outcome State Fault Refusal :=
  compute (.pmov p f) (fun _ c => pmovRegs c.regs f) s

end Sys2Proof.Machine
end

