-- ==== Sys2Proof/Machine/Control.lean ====
section
/-! DEFINITION. Control flow, traps, helpers, barriers, votes and regions: majors 0x40 to 0x52 (R189-R206). -/

namespace Sys2Proof.Machine
open Sys2Proof

/-- The sequential successor of the current instruction (R189). -/
def Env.succ (e : Env) (c : Core) (i : Instr) : Word := seqNext e.pad (e.pc c) i.bytes

/-! ## Transfers (R189-R193) -/

/-- BR (R190). -/
def execBr (p : Pred) (t : Disp) (s : State) : Host.Outcome State Fault Refusal :=
  issue (.br p t) (fun e c => jump e (.br p t) c (relTarget (e.pc c) t)) s

/-- BRI (R190). -/
def execBri (p : Pred) (a : SReg) (s : State) : Host.Outcome State Fault Refusal :=
  issue (.bri p a) (fun e c => jump e (.bri p a) c ((e.regs c).getS a)) s

/-- CALL (R190): the link is the sequential successor. -/
def execCall (p : Pred) (d : SReg) (t : Disp) (s : State) : Host.Outcome State Fault Refusal :=
  let i : Instr := .call p d t
  issue i (fun e c => jump e i c (relTarget (e.pc c) t) (fun r => r.setS d (e.succ c i))) s

/-- CALLI (R190): the target is read before the link is written. -/
def execCalli (p : Pred) (d a : SReg) (s : State) : Host.Outcome State Fault Refusal :=
  let i : Instr := .calli p d a
  issue i (fun e c => jump e i c ((e.regs c).getS a) (fun r => r.setS d (e.succ c i))) s

/-- RET (R190). -/
def execRet (p : Pred) (a : SReg) (s : State) : Host.Outcome State Fault Refusal :=
  issue (.ret p a) (fun e c => jump e (.ret p a) c ((e.regs c).getS a)) s

/-- LOOP (R191). -/
def execLoop (p : Pred) (d : SReg) (t : Disp) (s : State) : Host.Outcome State Fault Refusal :=
  let i : Instr := .loop p d t
  issue i (fun e c =>
    let v := (e.regs c).getS d - 1
    if v != 0 then jump e i c (relTarget (e.pc c) t) (fun r => r.setS d v)
    else done e i (e.modRegs c (fun r => r.setS d v))) s

/-- NOP (R192). -/
def execNop (p : Pred) (v : Option (BitVec 32)) (s : State) : Host.Outcome State Fault Refusal :=
  compute (.nop p v) (fun _ x => x.regs) s

/-- BBSIG (R193, R402): retiring it arms the check. -/
def execBbsig (v : BitVec 32) (s : State) : Host.Outcome State Fault Refusal :=
  issue (.bbsig v) (fun e c =>
    let at_ := e.pc c
    let c := retire e (.bbsig v) c
    ⟨e.modCtx c (fun x => { x with sig := some ⟨v, 0xFFFFFFFF, at_, false⟩ }), id⟩) s

/-! ## Traps (R198, R199) -/

/-- TRAP (R198): it retires, and traps with SOFTWARE; TPC is its successor. -/
def execTrap (p : Pred) (code : BitVec 24) (s : State) : Host.Outcome State Fault Refusal :=
  let i : Instr := .trap p code
  issue i (fun e c =>
    let next := e.succ c i
    takeTrap e (retire e i c) next i.word ⟨Cause.software, 0, code.setWidth 64⟩) s

/-- TRET (R199). -/
def execTret (s : State) : Host.Outcome State Fault Refusal :=
  issue .tret (fun e c =>
    let x := e.ctx c
    if !x.trap.act then trapC e .tret c Cause.illegal
    else if targetInvalid x.trap.tpc then trapC e .tret c Cause.misaligned 0 x.trap.tpc
    else ⟨trapReturn (retire e .tret c) e.who.ctx, id⟩) s

/-! ## Operand slots at the end of a context (R95, R97) -/

/-- Releasing a slot as MREL does: free at once, or once no accepted command names it (R95). -/
def Core.releaseSlot (c : Core) (o : Nat) : Core :=
  (c.setSlot o { c.slot o with release := true }).settle o

/-- A slot counts as free when its release is pending (R96). -/
def Slot.isFree (x : Slot) : Bool := x.st == .free || x.release

/-- Releasing every slot a context owns (R97). -/
def Core.releaseOwned (c : Core) (ctx : Nat) : Core :=
  (List.range 16).foldl (fun c o => if !(c.slot o).isFree && (c.slot o).owner == ctx then c.releaseSlot o else c) c

/-! ## Helpers (R19, R20, R200-R202) -/

/-- The state HSTART gives a helper (R19, R195). -/
def startHelper (ctl old : Context) (h : KHeader) (pc : Word) : Context :=
  let s0 := Vector.ofFn (fun (i : Fin 64) => if 1 ≤ i.val && i.val ≤ 7 then ctl.regs.s[i.val] else 0)
  let x : Context :=
    { Context.reset .ready with
      pc := pc, regs := { Regs.zero with s := s0, topx := ctl.regs.topx, rngctr := old.rngSaved }
      trap := { TrapRegs.zero with tvec := ctl.trap.tvec }, rngSaved := old.rngSaved, reqNo := old.reqNo
      issueNo := old.issueNo }
  x.openImplicit h pc

/-- The registers of the control context that HSTART copies, and those of the helper that it writes (R19, R405). -/
def startReads : RegUse := { sr := (List.range 7).map (fun k => BitVec.ofNat 6 (k + 1)) }
def startWrites : RegUse :=
  { sw := (List.range 63).map (fun k => BitVec.ofNat 6 (k + 1)), vw := (List.range 32).map (BitVec.ofNat 5) }

/-- HSTART (R19, R201). It disarms the block signature check (R402). -/
def execHstart (p : Pred) (h : BitVec 4) (t : Disp) (s : State) : Host.Outcome State Fault Refusal :=
  let i : Instr := .hstart p h t
  issue i (fun e c =>
    let n := h.toNat
    let target := relTarget (e.pc c) t
    if (e.ctx c).trap.act then trapC e i c Cause.handlerCommit i.toFields.maj.toNat
    else if n = 0 || e.b.hdr.helpers < n then trapI e i c (resBounds 4 n)
    else if (c.ctx n).st != .idle then trapC e i c Cause.helperBusy n
    else if targetInvalid target then trapC e i c Cause.misaligned 0 target
    else commit e i (fun e c =>
      let c := retire e i (countCommit e (e.succ c i) c)
      let c := e.modCtx c (fun x => { x.openImplicit e.b.hdr x.pc with sig := none })
      let c := ((c.setCtx n (startHelper (e.ctx c) (c.ctx n) e.b.hdr target)).eccWrites n startWrites).checkpoint n
      finishRegion e c) c startReads) s

/-- HEXIT (R20, R202). -/
def execHexit (s : State) : Host.Outcome State Fault Refusal :=
  issue .hexit (fun e c => commit e .hexit (fun e c =>
    let c := retire e .hexit (countCommit e (e.succ c .hexit) c)
    let c := c.releaseOwned e.who.ctx
    finishRegion e (e.modCtx c (fun x => { x.openImplicit e.b.hdr x.pc with st := .exited, rngSaved := x.regs.rngctr }))) c) s

/-- HWAIT (R20, R202): it waits for the helper's exit and acknowledgements, delivers the helper's deferred fault, or ORs
its FLAGS and returns it to idle. -/
def execHwait (p : Pred) (h : BitVec 4) (s : State) : Host.Outcome State Fault Refusal :=
  let i : Instr := .hwait p h
  issue i (fun e c =>
    let n := h.toNat
    if n = 0 || e.b.hdr.helpers < n then trapI e i c (resBounds 4 n)
    else
      let x := c.ctx n
      if x.st == .idle then done e i c
      else if x.st == .exited && x.out.isEmpty then
        match x.deferred with
        | some d => deliver e i c d (fun c => c.modCtx n (fun x => { x with deferred := none }))
        | none =>
          let c := e.modRegs c (fun r => r.orFlags x.regs.flags)
          done e i (c.modCtx n (fun x => { x with st := .idle }))
      else waitI e i c 5 true true) s

/-! ## END (R21, R194) -/

/-- The records END delivers, in order: the control context's, then the exited helpers' (R21). -/
def endRecord (c : Core) : Option (Nat × Deferred) :=
  (List.range 11).findSome? (fun n =>
    if n = 0 || (c.ctx n).st == .exited then ((c.ctx n).deferred).map (fun d => (n, d)) else none)

/-- What END waits for after its commit (R21): acknowledgements, engine commands, COLL source reads. -/
def endDrained (c : Core) : Bool :=
  (List.range 11).all (fun n => (n != 0 && (c.ctx n).st != .exited) || (c.ctx n).out.isEmpty)
    && c.mx.isEmpty && c.cx.isEmpty && c.port.all (·.done)

/-- END retires: slots released, exited helpers idle, the context ended. -/
def endCore (e : Env) (c : Core) : Core :=
  let c := (retire e .endK c).releaseOwned 0
  let c := { c with ctxs := c.ctxs.map (fun (x : Context) => if x.st == CtxSt.exited then { x with st := CtxSt.idle } else x) }
  c.modCtx 0 (fun x => { x with st := .ended, committed := false })

/-- The part of END after its commit. -/
def endWait (e : Env) (c : Core) : Res :=
  match endRecord c with
  | some (n, d) => deliver e .endK c d (fun c => c.modCtx n (fun x => { x with deferred := none }))
  | none => if endDrained c then ⟨endCore e c, id⟩ else waitI e .endK c 6 true true

/-- END (R21, R194). -/
def execEndK (s : State) : Host.Outcome State Fault Refusal :=
  issue .endK (fun e c =>
    if (e.ctx c).trap.act then trapC e .endK c Cause.handlerCommit 0x46
    else if (List.range 10).any (fun h => (c.ctx (h + 1)).st.live) then waitI e .endK c 6 true true
    else if (e.ctx c).committed then endWait e c
    else commit e .endK (fun e c =>
      let c := countCommit e (e.pc c) c
      let c := e.modCtx c (fun x => { x.openImplicit e.b.hdr x.pc with committed := true })
      let r := finishRegion e c
      let w := endWait e r.core
      ⟨w.core, fun s => w.post (r.post s)⟩) c) s

/-! ## Barriers and votes (R28-R37, R203, R204) -/

/-- LEVEL_RANGE for a barrier, vote or collective level (R28). -/
def levelTrap (e : Env) (k : Nat) : Option Trap :=
  if barrierLevel e.b k then none else some ⟨Cause.levelRange, 0, BitVec.ofNat 64 k⟩

/-- RES_BOUNDS beyond the header's barriers in flight (R29); the index named is the level (R363). -/
def arriveTrap (e : Env) (k : Nat) (c : Core) : Option Trap :=
  if e.b.hdr.barriers ≤ c.arrivals.length then some (resBounds 5 k) else none

/-- Registering the arrival of the next generation at a level (R29, R30): it counts once the pushes and joins it covers
have been acknowledged. -/
def registerArrival (e : Env) (k : Nat) (vote : Option (VoteOp × Word)) (sel : Bool) (c : Core) : Core :=
  let g := acount c.gens k + 1
  let pend := covered (e.ctx c) k
  { c with
    gens := aset c.gens k g
    arrivals := c.arrivals ++ [⟨k, g, pend, pend.isEmpty, false, vote, sel, none, false⟩] }

/-- The home device of a barrier node's count location: the lowest-numbered member device (R32). -/
def barrierHome (b : Binding) (k node : Nat) : Nat :=
  ((nodeMembers b.tree k node).filterMap (fun l => (b.place l).map (·.1))).foldl min (2 ^ 14)

/-- Whether every member core of a node on a device has counted an arrival of a generation. -/
def deviceCounted (x : Device) (b : Binding) (k node g dev : Nat) : Bool :=
  (nodeMembers b.tree k node).all (fun l => match b.place l with
    | some (d, p) => d != dev || (match (x.core p).arrivals.find? (fun a => a.level == k && a.gen == g) with
      | some a => a.counted
      | none => decide (g ≤ acount (x.core p).gens k))
    | none => true)

/-- After an arrival has counted at a node, rack or cavern level: the device's count join of R32, sent once when its last
member core has counted. -/
def noteCounted (w : Who) (b : Binding) (k g : Nat) (s : State) : State :=
  match b.level? k with
  | some l =>
    if 7 ≤ l.code then
      let node := nodeIndex b.tree k b.lcore
      if deviceCounted (s.device w.dev) b k node g w.dev then
        s.send w.dev (barrierHome b k node) 0x010101 (.count b.launch k node)
      else s
    else s
  | none => s

/-- The generation an arrival just registered has, when it counted at once. -/
def countedNow (c : Core) : Option (Nat × Nat) :=
  match c.arrivals.getLast? with
  | some a => if a.counted then some (a.level, a.gen) else none
  | none => none

/-- After a registration: the fabric count join, if the arrival counted. -/
def postArrival (e : Env) (c : Core) (s : State) : State :=
  match countedNow c with
  | some (k, g) => noteCounted e.who e.b k g s
  | none => s

/-- Commit, then register the arrival; the region from then on is the implicit one (R31, R43). wait keeps the context at
the instruction for its wait part. -/
def arriveCommit (e : Env) (i : Instr) (k : Nat) (vote : Core → Option (VoteOp × Word)) (sel : Bool) (wait : Bool)
    (c : Core) : Res :=
  commit e i (fun e c =>
    let c := registerArrival e k (vote c) sel c
    if wait then
      let c := countCommit e (e.pc c) c
      let c := e.modCtx c (fun x => { x.openImplicit e.b.hdr x.pc with committed := true })
      let r := finishRegion e c (postArrival e c)
      let w := waitI e i r.core 4 true true
      ⟨w.core, fun s => w.post (r.post s)⟩
    else
      let p := postArrival e c
      let c := retire e i (countCommit e (e.succ c i) c)
      finishRegion e (e.modCtx c (fun x => x.openImplicit e.b.hdr x.pc)) p) c

/-- Retiring from a wait part: the implicit region opens after the instruction (R43). -/
def leaveWait (e : Env) (i : Instr) (c : Core) : Res :=
  let next := e.succ c i
  let c := retire e i c
  let c := if e.who.ctx == 0 then { c with rentry := next } else c
  finishRegion e (e.modCtx c (fun x => { x.openImplicit e.b.hdr x.pc with committed := false }))

/-- The oldest outstanding arrival at a level. -/
def oldest (c : Core) (k : Nat) : Option Arrival := c.arrivals.find? (fun a => a.level == k)

/-- Removing one arrival. -/
def dropArrival (c : Core) (a : Arrival) : Core :=
  { c with arrivals := c.arrivals.filter (fun b => !(b.level == a.level && b.gen == a.gen)) }

/-- Advancing plan and phase at a SYNC at or above the exchange level (R35). -/
def Plan.advance (p : Plan) (t : PlanTable) : Plan :=
  match p.pending with
  | some n => ⟨n, 0, (p.seq + 1) % 4, none⟩
  | none => ⟨p.p, (p.f + 1) % (t.nph[p.p]?.getD 1), (p.seq + 1) % 4, none⟩

/-- ARRIVE (R203). -/
def execArrive (k : Level) (s : State) : Host.Outcome State Fault Refusal :=
  let i : Instr := .arrive k
  issue i (fun e c =>
    if (e.ctx c).trap.act then trapC e i c Cause.handlerCommit i.toFields.maj.toNat
    else match levelTrap e k.toNat with
      | some t => trapI e i c t
      | none => match (if (e.ctx c).committing then none else arriveTrap e k.toNat c) with
        | some t => trapI e i c t
        | none => arriveCommit e i k.toNat (fun _ => none) false false c) s

/-- EXCHANGE_VIOLATION of a generation whose VOTE.p chose no plan (R37, R204, R365): the vote result. -/
def badVote (a : Arrival) : Trap := ⟨Cause.exchangeViolation, 0, (a.result.getD 0) &&& 0xFFFFFFFFFFFF⟩

/-- The generation is consumed at a SYNC or VOTE that traps for it (R204): the region whose entry the instruction is stands as if
it had arrived at nothing, so that a return to it, or a D = 1 stop, runs it in full. -/
def rejectWait (e : Env) (i : Instr) (a : Arrival) (c : Core) : Res :=
  trapI e i ((e.modCtx c (fun x => { x with committed := false })).checkpoint e.who.ctx) (badVote a)

/-- A WAITB whose release a pre-emption found retires, and its context stops in the implicit region behind it (R207; log 78). -/
def leaveForStop (e : Env) (i : Instr) (c : Core) : Res :=
  leaveWait e i (e.modCtx c (fun x => { x with pre := .drain }))

/-- WAITB (R203): no commit. -/
def execWaitb (k : Level) (s : State) : Host.Outcome State Fault Refusal :=
  let i : Instr := .waitb k
  issue i (fun e c =>
    match levelTrap e k.toNat with
    | some t => trapI e i c t
    | none => match oldest c k.toNat with
      | none => trapC e i c Cause.barrierOrder k.toNat
      | some a =>
        if !a.released then waitI e i c 4 true true
        else if a.bad then trapI e i (dropArrival c a) (badVote a)
        else if (e.ctx c).pre == .leave then leaveForStop e i (dropArrival c a)
        else done e i (dropArrival c a)) s

/-- SYNC (R203, R35). -/
def execSync (k : Level) (s : State) : Host.Outcome State Fault Refusal :=
  let i : Instr := .sync k
  issue i (fun e c =>
    if (e.ctx c).trap.act then trapC e i c Cause.handlerCommit i.toFields.maj.toNat
    else if (e.ctx c).committed then
      match oldest c k.toNat with
      | some a =>
        if !a.released then waitI e i c 4 true true
        else if a.bad then rejectWait e i a (dropArrival c a)
        else
          let c := dropArrival c a
          leaveWait e i (if k.toNat ≤ e.b.plan.xlevel then { c with plan := c.plan.advance e.b.plan } else c)
      | none => leaveWait e i c
    else match levelTrap e k.toNat with
      | some t => trapI e i c t
      | none => match (if (e.ctx c).committing then none else arriveTrap e k.toNat c) with
        | some t => trapI e i c t
        | none => arriveCommit e i k.toNat (fun _ => none) false true c) s

/-- The newest arrival at a level: the VOTE's own generation, whose combination it receives (R37; log 94). -/
def newest (c : Core) (k : Nat) : Option Arrival := c.arrivals.reverse.find? (fun a => a.level == k)

/-- VOTE and VOTE.p (R37, R204). A deferred fault that an acknowledgement of its wait part has brought is delivered before it
retires, and a return goes on with the wait (R353; log 93). -/
def voteOwn (i : Instr) (sel : Bool) (op : VoteOp) (d a : SReg) (k : Level) (e : Env) (c : Core) : Res :=
  if (e.ctx c).trap.act then trapC e i c Cause.handlerCommit i.toFields.maj.toNat
  else if (e.ctx c).committed then
    match newest c k.toNat with
    | some v =>
      if !v.released then waitI e i c 4 true true
      else if v.bad then rejectWait e i v (dropArrival c v)
      else match (e.ctx c).deferred with
        | some f => deliver e i c f (fun c => e.modCtx c (fun x => { x with deferred := none }))
        | none =>
          let c := e.modRegs (dropArrival c v) (fun r => r.setS d (v.result.getD 0))
          leaveWait e i (if sel then { c with plan := { c.plan with pending := some (v.result.getD 0).toNat } } else c)
    | none => leaveWait e i c
  else match levelTrap e k.toNat with
    | some t => trapI e i c t
    | none =>
      if sel && e.b.plan.xlevel < k.toNat then trapC e i c Cause.levelRange k.toNat
      else match (if (e.ctx c).committing then none else arriveTrap e k.toNat c) with
        | some t => trapI e i c t
        | none => arriveCommit e i k.toNat (fun c => some (op, (e.regs c).getS a)) sel true c

/-- VOTE (R204). -/
def execVote (op : VoteOp) (d a : SReg) (k : Level) (s : State) : Host.Outcome State Fault Refusal :=
  issue (.vote op d a k) (voteOwn (.vote op d a k) false op d a k) s

/-- VOTE.p (R204). -/
def execVoteP (op : VoteOp) (d a : SReg) (k : Level) (s : State) : Host.Outcome State Fault Refusal :=
  issue (.voteP op d a k) (voteOwn (.voteP op d a k) true op d a k) s

/-! ## REGION (R38, R205, R206) -/

/-- REGION (R206). -/
def execRegion (dbit mbit : Bool) (vmask : BitVec 32) (smask : BitVec 63) (s : State) :
    Host.Outcome State Fault Refusal :=
  let i : Instr := .region dbit mbit vmask smask
  let slive : Word := smask.setWidth 64 <<< 1
  issue i (fun e c =>
    if (e.ctx c).trap.act then trapC e i c Cause.handlerCommit i.toFields.maj.toNat
    else match (List.range 64).find? (fun n => slive.getLsbD n && e.b.hdr.sregs ≤ n) with
      | some n => trapI e i c (resBounds 1 n)
      | none => match (List.range 32).find? (fun n => vmask.getLsbD n && e.b.hdr.vregs ≤ n) with
        | some n => trapI e i c (resBounds 1 n)
        | none => commit e i (fun e c =>
          let c := retire e i (countCommit e (e.succ c i) c)
          finishRegion e (e.modCtx c (fun x => x.open_ x.pc dbit mbit slive vmask))) c) s

end Sys2Proof.Machine
end

