-- ==== Sys2Proof/Machine/Local.lean ====
section
/-! DEFINITION. Local-store instructions, majors 0x60 to 0x6C (R208-R217): loads, stores, full-empty operations, PUSH and
FENCE. -/

namespace Sys2Proof.Machine
open Sys2Proof

/-! ## Shared checks (R209, R227, R234, R367) -/

/-- The failed tag check of R234: POISON for tag 15, else TAG_MISMATCH; register, tag found, tag required. -/
def tagTrap (i : VReg) (found required : Tag) : Trap :=
  ⟨if found == 15 then Cause.poison else Cause.tagMismatch, 0,
    BitVec.ofNat 64 (i.toNat + found.toNat * 256 + required.toNat * 4096)⟩

/-- A format-blind source: only tag 15 fails (R137). -/
def blindTrap (r : Regs) (i : VReg) : Option Trap :=
  if (r.getV i).tag == 15 then some (tagTrap i 15 0) else none

/-- How an access meets the stash windows (R227). -/
inductive WinAcc where
  | load | keep | write
  deriving DecidableEq, Repr

/-- STASH_INVALID for local granules (R227, R229): an empty granule of a read window for a plain load, any window for a
write. -/
def winTrap (c : Core) (a : WinAcc) (off n : Nat) (addr : Word) : Option Trap :=
  let hit (k : Window) (g : Nat) : Bool := k.loc ≤ g && g < k.loc + 4 * k.len
  match a with
  | .keep => none
  | .load =>
    if (granules off n).any (fun g => !c.ls.isFull g && c.windows.any (fun k => !k.2.acc && hit k.2 g)) then
      some ⟨Cause.stashInvalid, addr, 8⟩ else none
  | .write =>
    if (granules off n).any (fun g => c.windows.any (fun k => hit k.2 g)) then some ⟨Cause.stashInvalid, addr, 9⟩
    else none

/-- The checks 1 to 5 of R209 for one local range: range, alignment, stash windows, determinism. -/
def localTrap (e : Env) (c : Core) (maj : Nat) (a : LocalAcc) (w : WinAcc) (ea : Word) (n align : Nat) : Option Trap :=
  if !inStore e.b ea n then some (storeTrap ea)
  else if ea.toNat % align != 0 then some ⟨Cause.misaligned, ea, 0⟩
  else match winTrap c w ea.toNat n ea with
    | some t => some t
    | none => if detLocal e c a ea.toNat n then none else some ⟨Cause.nondet, ea, BitVec.ofNat 64 maj⟩

/-- Reading local store in an instruction: an injected error kills the core (R405), a poisoned granule traps (R367). -/
def localRead (e : Env) (i : Instr) (c : Core) (ranges : List ByteRange) (k : Core → Res) : Res :=
  if ranges.any (fun r => c.eccGran r.1 r.2) then eccFound e c
  else match ranges.findSome? (fun r => c.ls.poisonAt r.1 r.2) with
    | some g => trapC e i c Cause.poison 0 (BitVec.ofNat 64 (16 * g))
    | none => k c

/-- Extending the n-byte value of a load (R211). -/
def extend (sx : Bool) (n v : Nat) : Word :=
  if sx && v / 2 ^ (8 * n - 1) % 2 == 1 then BitVec.ofNat 64 (2 ^ 64 - 2 ^ (8 * n) + v) else BitVec.ofNat 64 v

/-- The register a 32-byte value makes, byte j at bits [8j+7:8j]. -/
def vecOf (bs : List Byte) : Vec := BitVec.ofNat 256 (leNat bs)

def vecBytes (v : Vec) : List Byte := natBytes 32 v.toNat

/-- Lane i, w bits wide, of a register. -/
def laneGet (v : Vec) (w i : Nat) : Nat := v.toNat / 2 ^ (w * i) % 2 ^ w

/-- A register from lanes of w bits, lane 0 lowest. -/
def lanesVec (w : Nat) : List Nat → Nat
  | [] => 0
  | x :: xs => x % 2 ^ w + 2 ^ w * lanesVec w xs

/-! ## Scalar loads and stores (R211) -/

/-- LD (R211). -/
def execLd (p : Pred) (sz : Size) (sx : Bool) (d a : SReg) (o : Disp) (s : State) : Host.Outcome State Fault Refusal :=
  let i : Instr := .ld p sz sx d a o
  issue i (fun e c =>
    let ea := effAddr (e.regs c) a o
    match localTrap e c 0x60 .load .load ea sz.bytes sz.bytes with
    | some t => trapI e i c t
    | none => localRead e i c [(ea.toNat, sz.bytes)] (fun c =>
      done e i (e.modRegs c (fun r => r.setS d (extend sx sz.bytes (leNat (c.ls.read ea.toNat sz.bytes))))))) s

/-- ST (R211). -/
def execSt (p : Pred) (sz : Size) (d a : SReg) (o : Disp) (s : State) : Host.Outcome State Fault Refusal :=
  let i : Instr := .st p sz d a o
  issue i (fun e c =>
    let ea := effAddr (e.regs c) a o
    match localTrap e c 0x61 .store .write ea sz.bytes sz.bytes with
    | some t => trapI e i c t
    | none => done e i (c.lsWrite false ea.toNat (natBytes sz.bytes ((e.regs c).getS d).toNat))) s

/-- The byte STN leaves (R211). -/
def stnByte (hi : Bool) (old : Byte) (v : Word) : Byte :=
  if hi then v.extractLsb' 0 4 ++ old.extractLsb' 0 4 else old.extractLsb' 4 4 ++ v.extractLsb' 0 4

/-- STN (R211): the other nibble stays. -/
def execStn (p : Pred) (hi : Bool) (d a : SReg) (o : Disp) (s : State) : Host.Outcome State Fault Refusal :=
  let i : Instr := .stn p hi d a o
  issue i (fun e c =>
    let ea := effAddr (e.regs c) a o
    match localTrap e c 0x62 .store .write ea 1 1 with
    | some t => trapI e i c t
    | none =>
      if c.eccGran ea.toNat 1 then eccFound e c
      else done e i (c.lsWrite false ea.toNat [stnByte hi (cellRead c.ls.bytes ea.toNat) ((e.regs c).getS d)])) s

/-! ## Vector loads and stores (R212, R213) -/

/-- The byte ranges of the enabled lanes of a 32-byte access at an offset; the whole for tag 0. -/
def laneRanges (r : Regs) (fmt : Tag) (mk : Option MReg) (ea : Nat) : List ByteRange :=
  match mk with
  | none => [(ea, 32)]
  | some _ =>
    let w := tagBits fmt
    if w % 8 != 0 then ((List.range 64).filter (laneOn r mk)).map (fun i => (ea + i / 2, 1))
    else ((List.range (tagElems fmt)).filter (laneOn r mk)).map (fun i => (ea + i * (w / 8), w / 8))

/-- Checks of a masked 32-byte access: range and alignment over the whole, the rest over the enabled lanes (R212). -/
def vecTrap (e : Env) (c : Core) (maj : Nat) (a : LocalAcc) (w : WinAcc) (ea : Word) (ranges : List ByteRange) :
    Option Trap :=
  if !inStore e.b ea 32 then some (storeTrap ea)
  else if ea.toNat % 32 != 0 then some ⟨Cause.misaligned, ea, 0⟩
  else match ranges.findSome? (fun r => winTrap c w r.1 r.2 ea) with
    | some t => some t
    | none =>
      if ranges.all (fun r => detLocal e c a r.1 r.2) then none else some ⟨Cause.nondet, ea, BitVec.ofNat 64 maj⟩

/-- Zero in the lanes that a mask turns off (R212). -/
def maskedVec (r : Regs) (fmt : Tag) (mk : Option MReg) (v : Vec) : Vec :=
  match mk with
  | none => v
  | some _ =>
    let w := tagBits fmt
    BitVec.ofNat 256 (lanesVec w ((List.range (tagElems fmt)).map (fun i => if laneOn r mk i then laneGet v w i else 0)))

/-- The lanes of new where the mask is on, those of old elsewhere. -/
def mergedVec (r : Regs) (fmt : Tag) (mk : Option MReg) (new old : Vec) : Vec :=
  match mk with
  | none => new
  | some _ =>
    let w := tagBits fmt
    BitVec.ofNat 256 (lanesVec w ((List.range (tagElems fmt)).map (fun i =>
      if laneOn r mk i then laneGet new w i else laneGet old w i)))

/-- LDV (R212): disabled lanes are written zero. -/
def execLdv (p : Pred) (fmt : Tag) (mk : Option MReg) (d : VReg) (a : SReg) (o : Disp) (s : State) :
    Host.Outcome State Fault Refusal :=
  let i : Instr := .ldv p fmt mk d a o
  issue i (fun e c =>
    let r := e.regs c
    let ea := effAddr r a o
    let rs := laneRanges r fmt mk ea.toNat
    match vecTrap e c 0x63 .load .load ea rs with
    | some t => trapI e i c t
    | none => localRead e i c rs (fun c =>
      done e i (e.modRegs c (fun r => r.setV d ⟨maskedVec r fmt mk (vecOf (c.ls.read ea.toNat 32)), fmt⟩)))) s

/-- STV (R212): format-blind; the bytes of disabled lanes stay, so an enabled byte run clears a poison mark only where it
covers a granule (R367). -/
def execStv (p : Pred) (fmt : Tag) (mk : Option MReg) (d : VReg) (a : SReg) (o : Disp) (s : State) :
    Host.Outcome State Fault Refusal :=
  let i : Instr := .stv p fmt mk d a o
  issue i (fun e c =>
    let r := e.regs c
    match blindTrap r d with
    | some t => trapI e i c t
    | none =>
      let ea := effAddr r a o
      let rs := laneRanges r fmt mk ea.toNat
      match vecTrap e c 0x64 .store .write ea rs with
      | some t => trapI e i c t
      | none =>
        let old := vecOf (c.ls.read ea.toNat 32)
        let bs := vecBytes (mergedVec r fmt mk (r.getV d).bits old)
        let c' := c.lsWrite false ea.toNat bs
        let keep := (wholeGranules ea.toNat 32).filter (fun g => c.ls.isPoison g
          && !(List.range 16).all (fun k => rs.any (fun q => q.1 ≤ 16 * g + k && 16 * g + k < q.1 + q.2)))
        done e i { c' with ls := c'.ls.setPoison keep }) s

/-- The index register's lane width (R213). -/
def idxBits (n : Nat) : Nat := if n == 2 then 16 else 32

/-- The index tag check of R213: 3 or 4 for two-byte elements, 5 or 6 otherwise. -/
def idxTrap (r : Regs) (n : Nat) (b : VReg) : Option Trap :=
  let t := (r.getV b).tag
  let ok := if n == 2 then t == 3 || t == 4 else t == 5 || t == 6
  if ok then none else some (tagTrap b t (if n == 2 then 3 else 5))

/-- The enabled lanes of a gather or scatter with their addresses (R213). -/
def gatherLanes (r : Regs) (fmt : Tag) (mk : Option MReg) (ea : Word) (b : VReg) : List (Nat × Nat) :=
  let n := tagBits fmt / 8
  ((List.range (32 / n)).filter (laneOn r mk)).map (fun i => (i, ea.toNat + laneGet (r.getV b).bits (idxBits n) i * n))

/-- The checks of R213. -/
def gatherTrap (e : Env) (c : Core) (maj : Nat) (a : LocalAcc) (w : WinAcc) (ea : Word) (n : Nat)
    (ls : List (Nat × Nat)) : Option Trap :=
  match ls.find? (fun l => e.b.hdr.lstore < l.2 + n) with
  | some l => some (storeTrap (BitVec.ofNat 64 l.2))
  | none =>
    if ea.toNat % n != 0 then some ⟨Cause.misaligned, ea, 0⟩
    else match ls.findSome? (fun l => winTrap c w l.2 n (BitVec.ofNat 64 l.2)) with
      | some t => some t
      | none => match ls.find? (fun l => !detLocal e c a l.2 n) with
        | some l => some ⟨Cause.nondet, BitVec.ofNat 64 l.2, BitVec.ofNat 64 maj⟩
        | none => none

/-- LDVX (R213). -/
def execLdvx (p : Pred) (fmt : Tag) (mk : Option MReg) (d : VReg) (a : SReg) (b : VReg) (o : Disp) (s : State) :
    Host.Outcome State Fault Refusal :=
  let i : Instr := .ldvx p fmt mk d a b o
  issue i (fun e c =>
    let r := e.regs c
    let n := tagBits fmt / 8
    match idxTrap r n b with
    | some t => trapI e i c t
    | none =>
      let ea := effAddr r a o
      let ls := gatherLanes r fmt mk ea b
      match gatherTrap e c 0x65 .load .load ea n ls with
      | some t => trapI e i c t
      | none => localRead e i c (ls.map (fun l => (l.2, n))) (fun c =>
        let lane (k : Nat) : Nat := match ls.find? (fun l => l.1 == k) with
          | some l => leNat (c.ls.read l.2 n)
          | none => 0
        done e i (e.modRegs c (fun r =>
          r.setV d ⟨BitVec.ofNat 256 (lanesVec (8 * n) ((List.range (32 / n)).map lane)), fmt⟩)))) s

/-- STVX (R213): lanes in ascending order; lanes that together cover a granule clear its mark (R367). -/
def execStvx (p : Pred) (fmt : Tag) (mk : Option MReg) (d : VReg) (a : SReg) (b : VReg) (o : Disp) (s : State) :
    Host.Outcome State Fault Refusal :=
  let i : Instr := .stvx p fmt mk d a b o
  issue i (fun e c =>
    let r := e.regs c
    let n := tagBits fmt / 8
    match idxTrap r n b with
    | some t => trapI e i c t
    | none => match blindTrap r d with
      | some t => trapI e i c t
      | none =>
        let ea := effAddr r a o
        let ls := gatherLanes r fmt mk ea b
        match gatherTrap e c 0x66 .store .write ea n ls with
        | some t => trapI e i c t
        | none =>
          let c := ls.foldl (fun c l => c.lsWrite false l.2 (natBytes n (laneGet (r.getV d).bits (8 * n) l.1))) c
          let gs := (ls.flatMap (fun l => granules l.2 n)).filter (fun g =>
            (List.range 16).all (fun k => ls.any (fun l => l.2 ≤ 16 * g + k && 16 * g + k < l.2 + n)))
          done e i { c with ls := { c.ls with poison := gs.foldl setDel c.ls.poison } }) s

/-! ## Full-empty instructions (R214, R215) -/

def LdfForm.bytes : LdfForm → Nat
  | .s sz _ _ => sz.bytes
  | .v _ _ => 32

def StfForm.bytes : StfForm → Nat
  | .s sz _ => sz.bytes
  | .v _ => 32

/-- Whether an LDF of another context that is parked and finds all its granules full returns before some of the granules gs are
emptied (R91): any LDF.keep; an LDF.clr unless the emptying one is an LDF.clr that parked before it, in the place mine. -/
def Core.ldfFirst (c : Core) (ctx : Nat) (mine : Option Nat) (gs : List Nat) : Bool :=
  (List.range 11).any (fun n => n != ctx && match (c.ctx n).wait with
    | some w => w.poll && (match w.instr with
      | .ldf _ clr f a o =>
        let q := granules (effAddr (c.ctx n).regs a o).toNat (LdfForm.bytes f)
        q.any gs.contains && q.all c.ls.isFull && (!clr || (match mine with
          | some m => w.order < m
          | none => true))
      | _ => false)
    | none => false)

/-- The exact read that a first touch of an empty granule of a read window sends (R81): window and line. An aligned access of up
to 32 bytes lies in one line. -/
def stashFill (c : Core) (off n : Nat) : Option (Nat × Nat) :=
  c.windows.findSome? (fun k =>
    if k.2.acc then none
    else ((granules off n).filter (fun g => k.2.loc ≤ g && g < k.2.loc + 4 * k.2.len && !c.ls.isFull g)).findSome? (fun g =>
      let l := (g - k.2.loc) / 4
      if k.2.busy.contains l then none else some (k.1, l)))

/-- Sending the exact read of a window line at its physical address (R81). -/
def State.askStash (s : State) (e : Env) (win : Nat) (k : Window) (l pa : Nat) : State :=
  s.send e.who.dev (gDev pa) (s.core e.who.dev e.who.core).weights
    (.req (gLocal pa / 64) (some e.b.launch) (.xread (.stash e.who.dev e.who.core win k.id l) (k.lineVa l) k.kind k.wd 0 64 0))

/-- An LDF parks on an empty granule (R91); the first to touch a line of a read window translates it, with permission X (R77), and
sends its exact read (R81). -/
def ldfPark (e : Env) (i : Instr) (c : Core) (off n : Nat) : Res :=
  match (stashFill c off n).bind (fun f => (c.window f.1).map (fun k => (f, k))) with
  | none => waitI e i c 3 true true
  | some ((win, l), k) => match flowCheck c (e.ctx c) e.b.asid .xread (k.lineVa l) 64 64 k.kind k.wd with
    | .walk => walkI e i c (k.lineVa l)
    | .trap t => trapI e i c t
    | .ok t => pairCheck e c (fun c =>
      waitI e i (c.setWindow win (some { k with busy := setIns k.busy l })) 3 true true 0 0
        (fun s => s.askStash e win k l (t.phys (k.lineVa l))))

/-- What LDF writes. -/
def ldfRegs (f : LdfForm) (bs : List Byte) (r : Regs) : Regs :=
  match f with
  | .s sz sx d => r.setS d (extend sx sz.bytes (leNat bs))
  | .v fmt d => r.setV d ⟨vecOf bs, fmt⟩

/-- LDF (R214, R91, R81). -/
def execLdf (p : Pred) (clr : Bool) (f : LdfForm) (a : SReg) (o : Disp) (s : State) : Host.Outcome State Fault Refusal :=
  let i : Instr := .ldf p clr f a o
  issue i (fun e c =>
    let ea := effAddr (e.regs c) a o
    let n := LdfForm.bytes f
    if !inStore e.b ea n then trapI e i c (storeTrap ea)
    else if ea.toNat % n != 0 then trapC e i c Cause.misaligned 0 ea
    else match winTrap c (if clr then .write else .keep) ea.toNat n ea with
      | some t => trapI e i c t
      | none =>
        if clr && (e.ctx c).region.d then trapC e i c Cause.regionIllegal 0x67
        else if !detLocal e c (if clr then .ldfClr else .ldfKeep) ea.toNat n then trapC e i c Cause.nondet 0x67 ea
        else
          let gs := granules ea.toNat n
          let mine := ((e.ctx c).wait.map (·.order)).getD c.nextId
          if !gs.all c.ls.isFull || (clr && c.ldfFirst e.who.ctx (some mine) gs) then ldfPark e i c ea.toNat n
          else localRead e i c [(ea.toNat, n)] (fun c =>
            let bs := c.ls.read ea.toNat n
            let c := e.modRegs c (ldfRegs f bs)
            let c := if clr then
                e.modCtx { c with ls := c.ls.setEmpty gs } (fun x => { x with region := { x.region with ldfClr := true } })
              else c
            done e i c)) s

/-- STF (R214): the data is written and every touched granule set full. -/
def execStf (p : Pred) (f : StfForm) (a : SReg) (o : Disp) (s : State) : Host.Outcome State Fault Refusal :=
  let i : Instr := .stf p f a o
  issue i (fun e c =>
    let r := e.regs c
    let ea := effAddr r a o
    let n := StfForm.bytes f
    match (match f with
      | .v d => blindTrap r d
      | .s _ _ => none) with
    | some t => trapI e i c t
    | none => match localTrap e c 0x68 .stf .write ea n n with
      | some t => trapI e i c t
      | none =>
        let bs := match f with
          | .s sz d => natBytes sz.bytes (r.getS d).toNat
          | .v d => vecBytes (r.getV d).bits
        done e i (c.lsWrite true ea.toNat bs)) s

/-- FEQ (R215). -/
def execFeq (p : Pred) (d : PReg) (a : SReg) (o : Disp) (s : State) : Host.Outcome State Fault Refusal :=
  let i : Instr := .feq p d a o
  issue i (fun e c =>
    let ea := effAddr (e.regs c) a o
    if !inStore e.b ea 1 then trapI e i c (storeTrap ea)
    else if e.b.det then trapC e i c Cause.nondet 0x69 ea
    else done e i (e.modRegs c (fun r => r.setP d (c.ls.isFull (ea.toNat / 16))))) s

/-- FESET (R215). LDFs that are parked and can return go before the granules are emptied (R91). -/
def execFeset (p : Pred) (full : Bool) (cnt : BitVec 7) (a : SReg) (o : Disp) (s : State) :
    Host.Outcome State Fault Refusal :=
  let i : Instr := .feset p full cnt a o
  issue i (fun e c =>
    let ea := effAddr (e.regs c) a o
    let n := 16 * (cnt.toNat + 1)
    match localTrap e c 0x6A .feset .write ea n 16 with
    | some t => trapI e i c t
    | none =>
      let gs := granules ea.toNat n
      if !full && c.ldfFirst e.who.ctx none gs then waitI e i c 0 false true
      else done e i { c with ls := if full then c.ls.setFull gs else c.ls.setEmpty gs }) s

/-! ## PUSH and FENCE (R216, R217) -/

/-- PUSH (R216): the data is captured and withheld until commit. -/
def execPush (p : Pred) (big : Bool) (d : VReg) (a b : SReg) (o : Disp) (s : State) : Host.Outcome State Fault Refusal :=
  let i : Instr := .push p big d a b o
  issue i (fun e c =>
    let r := e.regs c
    let ea := effAddr r a o
    let n := if big then 32 else 16
    match blindTrap r d with
    | some t => trapI e i c t
    | none =>
      if ea.toNat % n != 0 then trapC e i c Cause.misaligned 0 ea
      else
        let v := r.getV d
        let bs := (vecBytes v.bits).take n
        withhold e i c (.push (r.getS b) ea bs (isTyped v.tag) (r.topx.getLsbD 0)) ([fpHdr 6 (b2n big), r.getS b, ea]
          ++ (List.range (n / 8)).map (fun k => v.bits.extractLsb' (64 * k) 64))) s

/-- Whether a fence at a level waits: its counter is not zero (R107, R217); a level bound to context or lane waits for
nothing. -/
def fenceWaits (e : Env) (c : Core) (k : Nat) : Bool :=
  match e.b.level? k with
  | some l => 2 ≤ l.code && ackCount (e.ctx c) k != 0
  | none => false

/-- LEVEL_RANGE beyond the tree's depth (R28). -/
def depthTrap (e : Env) (k : Nat) : Option Trap :=
  if k < e.b.tree.length then none else some ⟨Cause.levelRange, 0, BitVec.ofNat 64 k⟩

/-- FENCE (R217). -/
def execFence (p : Pred) (k : Level) (s : State) : Host.Outcome State Fault Refusal :=
  let i : Instr := .fence p k
  issue i (fun e c =>
    match depthTrap e k.toNat with
    | some t => trapI e i c t
    | none =>
      let held := !(e.ctx c).hold.isEmpty
      pairCheck e c (fun c => if fenceWaits e c k.toNat || held then waitI e i c 11 false true else done e i c)) s

end Sys2Proof.Machine
end

