-- ==== Sys2Proof/Machine/Flowstone.lean ====
section
/-! DEFINITION. Flowstone instructions, majors 0x6D to 0x76 (R218-R229), at the core. -/

namespace Sys2Proof.Machine
open Sys2Proof

/-- Checks 1 to 5 of R209 for one Flowstone access of n bytes, then the rest with the translation. -/
def flowAccess (e : Env) (i : Instr) (c : Core) (acc : Access) (ea : Word) (align n : Nat) (kind : Kind) (wd : Width)
    (k : Tlb → Res) : Res :=
  match flowCheck c (e.ctx c) e.b.asid acc ea align n kind wd with
  | .walk => walkI e i c ea
  | .trap t => trapI e i c t
  | .ok t => k t

/-- The window whose global range holds an address (R227). -/
def globalWin (c : Core) (va : Word) : Option (Nat × Window) :=
  c.windows.find? (fun k => k.2.va.toNat ≤ va.toNat && va.toNat < k.2.va.toNat + 64 * k.2.len)

/-- The record of a join as it is sent (R396 tag 5): address, data, and for .fill the mask or for .ver the version. -/
def joinRecord (k : Kind) (w : Width) (va : Word) (payload : List Word) : List Word :=
  fpHdr 5 (k.code.toNat + w.code.toNat * 8) :: va :: payload

/-- Applying element joins to the local copy of an accumulate window (R82). -/
def Core.localJoin (c : Core) (win : Nat) (k : Window) (va : Word) (es : List (Nat × Nat)) : Core :=
  let base := 16 * k.loc + (va.toNat / 64 * 64 - k.va.toNat)
  let w := k.wd.bits
  let c := es.foldl (fun (c : Core) (p : Nat × Nat) =>
    c.lsWrite false (base + p.1) (natBytes (w / 8) (joinVal k.kind w (leNat (c.ls.read (base + p.1) (w / 8))) p.2))) c
  c.setWindow win (some { k with busy := setIns k.busy ((va.toNat - k.va.toNat) / 64) })

/-- After a join that carries a level: the rest of it acts as FENCE does (R221). Request number 1 marks the wait. -/
def thenFence (e : Env) (i : Instr) (c : Core) (lv : Option Level) : Res :=
  match lv with
  | none => done e i c
  | some k => pairCheck e c (fun c => if fenceWaits e c k.toNat then waitI e i c 11 false true 1 else done e i c)

/-- Adding a join to the counts that the context's region has in a line. -/
def Context.addCounts (x : Context) (win line : Nat) (wd : Width) (es : List (Nat × Nat)) : Context :=
  { x with egress := x.egress.map (fun g => match g with
    | .cntLine w l bs => if w == win && l == line then .cntLine w l (joinElemsInto .cnt wd bs es) else g
    | _ => g) }

/-- A join into an accumulate window: local, and for .cnt an egress entry when the line first becomes dirty in the region (R83, R87). It
is an access to the local range, which in a DET launch lies in the partition of the context that mapped it (R93). -/
def windowJoin (e : Env) (i : Instr) (c : Core) (win : Nat) (k : Window) (va : Word) (lv : Option Level) (es : List (Nat × Nat)) :
    Res :=
  let l := (va.toNat - k.va.toNat) / 64
  let base := 16 * k.loc + (va.toNat / 64 * 64 - k.va.toNat)
  if !(es.all (fun p => detLocal e c .stf (base + p.1) (k.wd.bits / 8))) then trapC e i c Cause.nondet i.toFields.maj.toNat va
  else if es.any (fun p => c.eccGran (base + p.1) (k.wd.bits / 8)) then eccFound e c
  else if k.kind != .cnt then thenFence e i (c.localJoin win k va es) lv
  else if ((e.ctx c).counts win l).isSome then
    thenFence e i (e.modCtx (c.localJoin win k va es) (fun x => x.addCounts win l k.wd es)) lv
  else
    withhold e i (if (e.ctx c).egress.length < 32 then c.localJoin win k va es else c)
      (.cntLine win l (joinElemsInto .cnt k.wd (List.replicate 64 0) es))

/-- Whether the next push or join must stall (R65, R379): 1,024 outstanding, or a full retry store. -/
def postLimit (e : Env) (c : Core) (line : Nat) (more : Nat := 0) : Bool :=
  1024 ≤ (e.ctx c).out.length + (e.ctx c).hold.length + more || (e.storeFull && gDev line != e.who.dev)

/-- Posting a join and retiring; in a paired launch it is held (R395, R397). -/
def postNow (e : Env) (i : Instr) (c : Core) (j : JoinOut) (rec_ : Regs → List Word) : Res :=
  let x := e.ctx c
  if e.b.pair then
    let put (c : Core) : Res :=
      done e i (e.modCtx c (fun x => { x.feed e.b (rec_ x.regs) with hold := x.hold ++ [j] }))
    if 256 ≤ x.hold.length then pairCheck e c put else put c
  else
    let c := retire e i c
    ⟨c, fun s => s.postJoin e.who e.b j⟩

/-- Sending a join that meets no window: a .cnt join is withheld (R40), any other is posted (R65); with a level the
instruction then waits as FENCE does (R221), and in a pair the comparison before it covers the join (R397). -/
def sendJoin (e : Env) (i : Instr) (c : Core) (cnt : Bool) (lv : Option Level) (j : JoinOut) (rec_ : Regs → List Word) : Res :=
  if cnt then withhold e i c (.join i) (rec_ (e.regs c))
  else if postLimit e c j.line then waitI e i c 12 false true
  else match lv with
    | none => postNow e i c j rec_
    | some _ =>
      if e.b.pair then
        pairCheck e c (fun c => waitI e i c 11 false true 1)
          (fun c => e.modCtx c (fun x => { x.feed e.b (rec_ x.regs) with hold := x.hold ++ [j] }))
      else
        let r := waitI e i c 11 false true 1
        ⟨r.core, fun s => s.postJoin e.who e.b j⟩

/-- Whether the context is in the fence part of a JOIN Lk. -/
def inFence (e : Env) (c : Core) : Bool :=
  match (e.ctx c).wait with
  | some w => w.no == 1 && w.code == 11
  | none => false

/-- Whether a join has no element: every lane of a JOINV is disabled, and nothing is sent (R220). -/
def JoinData.isNone : JoinData → Bool
  | .elems _ _ es => es.isEmpty
  | _ => false

/-- The common course of JOIN and JOINV. A JOINV without an enabled lane sends nothing; a .cnt one is withheld like any other, its
registers being read at its release (R40, R109, R220). -/
def joinOwn (e : Env) (i : Instr) (c : Core) (kind : Kind) (wd : Width) (lv : Option Level) (ea : Word) (align n : Nat)
    (data : JoinData) (es : List (Nat × Nat)) (rec_ : Regs → List Word) : Res :=
  match (match lv with
    | some k => depthTrap e k.toNat
    | none => none) with
  | some t => trapI e i c t
  | none =>
    if inFence e c then
      if fenceWaits e c ((lv.map (·.toNat)).getD 0) then waitI e i c 11 false true 1 else done e i c
    else flowAccess e i c .join ea align n kind wd (fun t =>
      match globalWin c ea with
      | some (w, k) =>
        if !k.acc then trapC e i c Cause.stashInvalid 9 ea
        else if data.isNone then done e i c else windowJoin e i c w k ea lv es
      | none =>
        if data.isNone && kind != .cnt then done e i c
        else sendJoin e i c (kind == .cnt) lv ⟨ea, t.phys ea / 64 * 64, data⟩ rec_)

/-- The element of a JOIN (R218, R219), as offset in the line and datum. -/
def joinElem (r : Regs) (kind : Kind) (wd : Width) (d : SReg) (ea : Word) : List (Nat × Nat) :=
  [(ea.toNat % 64, datum kind wd.bits (r.getS d))]

/-- The elements of a JOINV's enabled lanes (R220). -/
def joinvElems (r : Regs) (wd : Width) (mk : Option MReg) (d : VReg) (ea : Word) : List (Nat × Nat) :=
  let n := wd.bits / 8
  ((List.range (32 / n)).filter (laneOn r mk)).map (fun k => (ea.toNat % 64 + k * n, laneGet (r.getV d).bits wd.bits k))

/-- The four dwords of a JOINV's data, zero in disabled lanes. -/
def joinvPayload (r : Regs) (wd : Width) (mk : Option MReg) (d : VReg) : List Word :=
  let v := lanesVec wd.bits ((List.range (256 / wd.bits)).map (fun k => if laneOn r mk k then laneGet (r.getV d).bits wd.bits k else 0))
  (List.range 4).map (fun j => BitVec.ofNat 64 (v / 2 ^ (64 * j)))

/-- A withheld .cnt JOIN or JOINV as its registers stand at its release (R109), under a translation. -/
def cntJoin (r : Regs) (t : Tlb) : Instr → Option JoinOut
  | .join _ _ wd _ d a o =>
    let ea := effAddr r a o
    some ⟨ea, t.phys ea / 64 * 64, .elems .cnt wd (joinElem r .cnt wd d ea)⟩
  | .joinv _ (.elems _ wd mk) d a o =>
    let ea := effAddr r a o
    some ⟨ea, t.phys ea / 64 * 64, .elems .cnt wd (joinvElems r wd mk d ea)⟩
  | _ => none

/-- JOIN (R219, R221). -/
def execJoin (p : Pred) (kind : Kind) (wd : Width) (lv : Option Level) (d a : SReg) (o : Disp) (s : State) :
    Host.Outcome State Fault Refusal :=
  let i : Instr := .join p kind wd lv d a o
  issue i (fun e c =>
    let r := e.regs c
    let ea := effAddr r a o
    let n := wd.bits / 8
    let es := joinElem r kind wd d ea
    joinOwn e i c kind wd lv ea n n (.elems kind wd es) es
      (fun r => joinRecord kind wd (effAddr r a o) [BitVec.ofNat 64 (datum kind wd.bits (r.getS d))])) s

/-- The integer tags of a width, signed first (R220). -/
def widthTags : Width → Tag × Tag
  | .w8 => (1, 2)
  | .w16 => (3, 4)
  | .w32 => (5, 6)
  | .w64 => (14, 14)

/-- The 64 bytes of two registers. -/
def pairData (r : Regs) (d : VReg) : BitVec 512 := (r.getV (d + 1)).bits ++ (r.getV d).bits

/-- The tag check of JOINV (R220, R234). -/
def joinvTrap (r : Regs) (f : JoinvForm) (d : VReg) : Option Trap :=
  let t := (r.getV d).tag
  match f with
  | .elems _ wd _ =>
    let ok := widthTags wd
    if t == ok.1 || t == ok.2 then none else some (tagTrap d t ok.1)
  | .fill _ => blindTrap r d
  | .ver _ => match blindTrap r d with
    | some t => some t
    | none => blindTrap r (d + 1)

/-- JOINV (R220). -/
def execJoinv (p : Pred) (f : JoinvForm) (d : VReg) (a : SReg) (o : Disp) (s : State) :
    Host.Outcome State Fault Refusal :=
  let i : Instr := .joinv p f d a o
  issue i (fun e c =>
    let r := e.regs c
    let ea := effAddr r a o
    match joinvTrap r f d with
    | some t => trapI e i c t
    | none => match f with
      | .elems kind wd mk =>
        let es := joinvElems r wd mk d ea
        joinOwn e i c kind wd none ea (wd.bits / 8) 32 (.elems kind wd es) es
          (fun r => joinRecord kind wd (effAddr r a o) (joinvPayload r wd mk d))
      | .fill b =>
        joinOwn e i c .fill .w8 none ea 16 16
          (.fill (ea.toNat % 64 / 16) ((r.getS b).setWidth 32) ((r.getV d).bits.setWidth 128)) []
          (fun r => joinRecord .fill .w8 (effAddr r a o)
            [(r.getV d).bits.extractLsb' 0 64, (r.getV d).bits.extractLsb' 64 64, (r.getS b).setWidth 32 |>.setWidth 64])
      | .ver b => joinOwn e i c .ver .w8 none ea 64 64 (.ver ((r.getS b).setWidth 32) (pairData r d)) []
          (fun r => joinRecord .ver .w8 (effAddr r a o)
            ((List.range 8).map (fun k => (pairData r d).extractLsb' (64 * k) 64) ++ [(r.getS b).setWidth 32 |>.setWidth 64]))) s

/-- Sending a read and parking until its answer (R54, R57): the request carries the context's next request number. -/
def sendRead (e : Env) (i : Instr) (c : Core) (code : Nat) (pa : Nat) (req : Origin → Req) : Res :=
  pairCheck e c (fun c =>
    let no := (e.ctx c).reqNo + 2
    let c := e.modCtx c (fun x => { x with reqNo := no })
    waitI e i c code true false no 1 (fun s =>
      s.send e.who.dev (gDev pa) (s.core e.who.dev e.who.core).weights
        (.req (gLocal pa / 64) (some e.b.launch) (req (.ctx e.who no)))))

/-- TREAD (R222, R56, R221). -/
def execTread (p : Pred) (kind : Kind) (wd : Width) (lv : Option Level) (nt : BitVec 2) (d a : SReg) (o : Disp)
    (s : State) : Host.Outcome State Fault Refusal :=
  let i : Instr := .tread p kind wd lv nt d a o
  issue i (fun e c =>
    let r := e.regs c
    let ea := effAddr r a o
    let n := elemBytes kind wd
    match (match lv with
      | some k => depthTrap e k.toNat
      | none => none) with
    | some t => trapI e i c t
    | none => flowAccess e i c .tread ea n n kind wd (fun t =>
      if e.b.det && nt != 0 then trapC e i c Cause.nondet 0x6F ea
      else
        let held := !(e.ctx c).hold.isEmpty
        let trig := (List.range (nt.toNat + 1)).map (fun k => trigger kind wd.bits (r.getS (d + BitVec.ofNat 6 k)))
        let go (c : Core) : Res := sendRead e i c 1 (t.phys ea) (fun w => .tread w ea kind wd (ea.toNat % 64) trig)
        match lv with
        | none => go c
        | some k =>
          if fenceWaits e c k.toNat || held then pairCheck e c (fun c => waitI e i c 11 false true) else go c)) s

/-- XREAD (R223). -/
def execXread (p : Pred) (kind : Kind) (wd : Width) (d a : SReg) (o : Disp) (s : State) :
    Host.Outcome State Fault Refusal :=
  let i : Instr := .xread p kind wd d a o
  issue i (fun e c =>
    let ea := effAddr (e.regs c) a o
    let n := wd.bits / 8
    flowAccess e i c .xread ea n n kind wd (fun t =>
      sendRead e i c 2 (t.phys ea) (fun w => .xread w ea kind wd (ea.toNat % 64) n 0))) s

/-- XREADV (R223). -/
def execXreadv (p : Pred) (f : XreadvForm) (d : VReg) (a : SReg) (o : Disp) (s : State) :
    Host.Outcome State Fault Refusal :=
  let i : Instr := .xreadv p f d a o
  issue i (fun e c =>
    let r := e.regs c
    let ea := effAddr r a o
    match f with
    | .elems kind wd => flowAccess e i c .xread ea (wd.bits / 8) 32 kind wd (fun t =>
      sendRead e i c 2 (t.phys ea) (fun w => .xread w ea kind wd (ea.toNat % 64) 32 0))
    | .fill => flowAccess e i c .xread ea 16 16 .fill .w8 (fun t =>
      sendRead e i c 2 (t.phys ea) (fun w => .xread w ea .fill .w8 (ea.toNat % 64) 16 0))
    | .ver b => flowAccess e i c .xread ea 64 64 .ver .w8 (fun t =>
      sendRead e i c 2 (t.phys ea) (fun w => .xread w ea .ver .w8 0 64 ((r.getS b).setWidth 32)))) s

/-- What an answer writes into the registers of the parked read (R218, R222, R223). -/
def answerRegs (i : Instr) (a : Answer) (r : Regs) : Regs :=
  match i, a with
  | .tread _ _ _ _ _ d _ _, .index n => r.setS d (BitVec.ofNat 64 n)
  | .xread _ _ _ d _ _, .data bs => r.setS d (BitVec.ofNat 64 (leNat bs))
  | .xreadv _ (.elems k w) d _ _, .data bs =>
    r.setV d ⟨vecOf bs, if k == .kmax then 14 else (widthTags w).2⟩
  | .xreadv _ .fill d _ _, .data bs => r.setV d ⟨vecOf bs, 0⟩
  | .xreadv _ (.ver _) d _ _, .data bs =>
    (r.setV d ⟨vecOf (bs.take 32), 0⟩).setV (d + 1) ⟨vecOf (bs.drop 32), 0⟩
  | _, _ => r

/-! ## FRZ and LKIND (R224, R225) -/

/-- The lines of a range under the translations found for it: address, physical address, and the page's translation. -/
def rangeLines (ts : List Tlb) (va : Word) (n : Nat) : List (Word × Nat × Tlb) :=
  (List.range n).filterMap (fun k =>
    let a := va + BitVec.ofNat 64 (64 * k)
    (ts.find? (fun t => t.va / 2 ^ t.bits == a.toNat / 2 ^ t.bits)).map (fun t => (a, t.phys a, t)))

/-- FRZ (R62, R224): it waits for the context's earlier pushes and joins, then for every line. -/
def execFrz (p : Pred) (a b : SReg) (o : Disp) (s : State) : Host.Outcome State Fault Refusal :=
  let i : Instr := .frz p a b o
  issue i (fun e c =>
    let r := e.regs c
    let ea := effAddr r a o
    let len := (r.getS b).toNat
    if !canonical ea then trapC e i c Cause.addrNoncanon 0 ea
    else if ea.toNat % 64 != 0 || len % 64 != 0 || 2 ^ 36 < len then trapC e i c Cause.misaligned 0 ea
    else if len = 0 then done e i c
    else match lookupRange c (e.ctx c) e.b.asid .freeze (len / 4096 + 2) ea len with
      | .error (va, none) => walkI e i c va
      | .error (_, some t) => trapI e i c t
      | .ok ts =>
        let held := !(e.ctx c).hold.isEmpty
        pairCheck e c (fun c =>
          if held || !(e.ctx c).out.isEmpty then waitI e i c 15 false true
          else
            let ls := rangeLines ts ea (len / 64)
            let no := (e.ctx c).reqNo + 2
            let c := e.modCtx c (fun x => { x with reqNo := no })
            waitI e i c 15 false false no ls.length (fun s => ls.foldl (fun s l =>
              s.send e.who.dev (gDev l.2.1) (s.core e.who.dev e.who.core).weights
                (.req (gLocal l.2.1 / 64) (some e.b.launch) (.freeze (.ctx e.who no) l.1 l.2.2.kind l.2.2.wd))) s))) s

/-- LKIND (R225). -/
def execLkind (p : Pred) (d a : SReg) (o : BitVec 24) (s : State) : Host.Outcome State Fault Refusal :=
  let i : Instr := .lkind p d a o
  issue i (fun e c =>
    let ea := effAddr (e.regs c) a (.imm o)
    if !canonical ea then trapC e i c Cause.addrNoncanon 0 ea
    else match lookup c (e.ctx c) e.b.asid ea with
      | .miss => walkI e i c ea
      | .bad t => trapI e i c t
      | .hit t => done e i (e.modRegs c (fun r => r.setS d (BitVec.ofNat 64 t.desc)))) s

/-! ## Stash windows (R226-R229) -/

/-- The STASH_INVALID subcode of an SMAP, in the order 7, 4, 1, 2, 3 (R229; log 23), with the address at fault. -/
def smapBad (e : Env) (c : Core) (win : Nat) (acc : Bool) (off ea : Word) (len : Nat) (ts : List Tlb) : Option (Nat × Word) :=
  let meets (k : Window) : Bool :=
    overlaps (16 * k.loc, 64 * k.len) (off.toNat, len) || overlaps (k.va.toNat, 64 * k.len) (ea.toNat, len)
  if (c.window win).isSome then some (7, ea)
  else if !inStore e.b off len then some (4, off)
  else match ts with
    | [] => none
    | t :: rest =>
      if rest.any (fun u => u.kind != t.kind || u.wd != t.wd) then some (1, ea)
      else if t.kind == .ver || (t.kind == .fill && acc) then some (2, ea)
      else if c.windows.any (fun k => meets k.2) || (granules off.toNat len).any e.b.isInbox then some (3, ea)
      else none

/-- Mapping a window (R81, R82): a read window's granules are set empty; an accumulate window's hold bottom and are
full. -/
def Core.map (c : Core) (win : Nat) (acc : Bool) (off ea : Word) (len : Nat) (t : Tlb) : Core :=
  let gs := granules off.toNat len
  let c := if acc then c.lsWrite true off.toNat (List.replicate len (if t.kind == .min then 0xFF else 0))
    else { c with ls := c.ls.setEmpty gs }
  { c with nextId := c.nextId + 1 }.setWindow win
    (some ⟨c.nextId, off.toNat / 16, ea, len / 64, acc, t.kind, t.wd, []⟩)

/-- SMAP (R80, R226). LDFs that are parked and can return go before a read window's granules are emptied (R91). -/
def execSmap (p : Pred) (win : BitVec 3) (acc : Bool) (d a b : SReg) (o : Disp) (s : State) :
    Host.Outcome State Fault Refusal :=
  let i : Instr := .smap p win acc d a b o
  issue i (fun e c =>
    let r := e.regs c
    let ea := effAddr r a o
    let off := r.getS d
    let len := (r.getS b).toNat
    if !canonical ea then trapC e i c Cause.addrNoncanon 0 ea
    else if ea.toNat % 64 != 0 || off.toNat % 64 != 0 || len % 64 != 0 || len = 0 || 65536 < len then
      trapC e i c Cause.stashInvalid 6 (if off.toNat % 64 != 0 then off else ea)
    else match lookupRange c (e.ctx c) e.b.asid (if acc then .join else .xread) 18 ea len with
      | .error (va, none) => walkI e i c va
      | .error (_, some t) => trapI e i c t
      | .ok ts => match smapBad e c win.toNat acc off ea len ts with
        | some (n, va) => trapC e i c Cause.stashInvalid n va
        | none =>
          if e.b.det && !(granules off.toNat len).all (inRange (e.b.part e.who.ctx)) then
            trapC e i c Cause.nondet 0x74 ea
          else if !acc && c.ldfFirst e.who.ctx none (granules off.toNat len) then waitI e i c 0 false true
          else match ts with
            | t :: _ => done e i (c.map win.toNat acc off ea len t)
            | [] => done e i c) s

/-- The join that writes back a line of an accumulate window under a translation: every element of the line (R82, R83). -/
def windowLine (k : Window) (l : Nat) (t : Tlb) (bs : List Byte) : JoinOut :=
  ⟨k.lineVa l, t.phys (k.lineVa l), .elems k.kind k.wd (lineElems k.wd bs)⟩

/-- Writing bottom into a line of a window, which is then clean. -/
def Core.cleanLine (c : Core) (win l : Nat) : Core :=
  match c.window win with
  | some k => (c.lsWrite false (16 * k.loc + 64 * l) (bottomLine k.kind)).setWindow win (some { k with busy := setDel k.busy l })
  | none => c

/-- SFLUSH from the first dirty line on (R82): a join posted for each in turn, which stalls alone at the limit of R65; n bounds the
lines, sent counts those that this evaluation has posted or held. In a pair the joins are held; a full hold buffer is compared and
released first, before the evaluation has fed the fingerprint (R395, R397). -/
def flushLines (e : Env) (i : Instr) (win : Nat) : Nat → Nat → Core → Res
  | 0, _, c => done e i c
  | n + 1, sent, c =>
    match c.window win with
    | none => done e i c
    | some k => match k.busy with
      | [] => done e i c
      | l :: _ => match flowCheck c (e.ctx c) e.b.asid .join (k.lineVa l) 64 64 k.kind k.wd with
        | .walk => walkI e i c (k.lineVa l)
        | .trap t => trapI e i c t
        | .ok t =>
          let base := 16 * k.loc + 64 * l
          let bs := c.ls.read base 64
          let j := windowLine k l t bs
          if !detLocal e c .stf base 64 then trapC e i c Cause.nondet 0x75 (k.lineVa l)
          else if postLimit e c j.line (if e.b.pair then 0 else sent) then waitI e i c 12 false true
          else if c.eccGran base 64 then eccFound e c
          else if e.b.pair then
            let put (c : Core) : Res := flushLines e i win n (sent + 1) (e.modCtx (c.cleanLine win l) (fun x =>
              { x.feed e.b (lineRecord k l bs) with hold := x.hold ++ [j] }))
            if (e.ctx c).hold.length < 256 then put c
            else if sent = 0 then pairCheck e c put
            else waitI e i c 0 false true
          else
            let r := flushLines e i win n (sent + 1) (c.cleanLine win l)
            ⟨r.core, fun s => r.post (s.postJoin e.who e.b j)⟩

/-- SFLUSH (R82, R228): one join per dirty line of a non-.cnt accumulate window. -/
def execSflush (p : Pred) (win : BitVec 3) (s : State) : Host.Outcome State Fault Refusal :=
  let i : Instr := .sflush p win
  issue i (fun e c =>
    match c.window win.toNat with
    | none => trapC e i c Cause.stashInvalid 7
    | some k =>
      if !k.acc || k.kind == .cnt then done e i c
      else flushLines e i win.toNat (k.busy.length + 1) 0 c) s

/-- SDROP (R84, R228): the window is unmapped; a .cnt window's egress entries go. -/
def execSdrop (p : Pred) (win : BitVec 3) (s : State) : Host.Outcome State Fault Refusal :=
  let i : Instr := .sdrop p win
  issue i (fun e c =>
    match c.window win.toNat with
    | none => trapC e i c Cause.stashInvalid 7
    | some _ =>
      let keep (g : Egress) : Bool := match g with
        | .cntLine w .. => w != win.toNat
        | _ => true
      let c := (List.range 11).foldl (fun c n => c.modCtx n (fun x => { x with egress := x.egress.filter keep })) c
      done e i (c.setWindow win.toNat none)) s

end Sys2Proof.Machine
end

