-- ==== Sys2Proof/Machine/Flags.lean ====
section
/-! DEFINITION. FLAGS (R133-R135), the floating-point formats (R125-R127), exact values, and rounding (R140-R142, R146). -/

namespace Sys2Proof.Machine
open Sys2Proof

/-! ## The flag bits (R133) -/

namespace Flag
def nv : Word := 1
def dz : Word := 2
def of : Word := 4
def uf : Word := 8
def nx : Word := 16
def sz : Word := 32
def sat : Word := 64
end Flag

/-- Flags raised when a condition holds. -/
def flagIf (b : Bool) (f : Word) : Word := if b then f else 0

/-- The union of flags. -/
def orAll (fs : List Word) : Word := fs.foldl (· ||| ·) 0

/-- The flags of an engine command go to its issuer, or to the control context when the issuing helper is idle or exited
(R135), after every MTS of the cycle (R280). -/
def Core.engineFlags (c : Core) (ctx : Nat) (f : Word) : Core :=
  let n := if (c.ctx ctx).st == .idle || (c.ctx ctx).st == .exited then 0 else ctx
  { c.modCtx n (fun x => { x with regs := x.regs.orFlags f }) with wrote := c.wrote || f != 0 }

/-! ## Formats (R125, R126) -/

/-- The classes of top exponent codes: IEEE, dependent on TOPX, and FP4 without specials. -/
inductive FpCls where
  | ieee | narrow | fp4
  deriving DecidableEq, Repr

/-- A floating-point format: mantissa and exponent widths, bias, sign bit, class. -/
structure FpFmt where
  man : Nat
  exp : Nat
  bias : Nat
  signed : Bool
  cls : FpCls
  deriving DecidableEq, Repr

def fp32 : FpFmt := ⟨23, 8, 127, true, .ieee⟩
def fp16 : FpFmt := ⟨10, 5, 15, true, .ieee⟩
def bf16 : FpFmt := ⟨7, 8, 127, true, .ieee⟩
def e4m3 : FpFmt := ⟨3, 4, 7, true, .narrow⟩
def e5m2 : FpFmt := ⟨2, 5, 15, true, .narrow⟩
def e3m5 : FpFmt := ⟨5, 3, 3, false, .narrow⟩
def fp4 : FpFmt := ⟨1, 2, 1, true, .fp4⟩

/-- The floating-point format of a tag (R136). -/
def fpOf (t : Tag) : FpFmt :=
  match t.toNat with
  | 8 => bf16
  | 9 => fp16
  | 10 => e4m3
  | 11 => e5m2
  | 12 => fp4
  | 13 => e3m5
  | _ => fp32

/-- Bits below the sign bit. -/
def FpFmt.mag (f : FpFmt) : Nat := f.man + f.exp

/-- Whether the top exponent encodes infinity and NaNs as IEEE formats do. -/
def FpFmt.hasInf (f : FpFmt) (topx : Bool) : Bool := f.cls == .ieee || (f.cls == .narrow && topx)

def FpFmt.infCode (f : FpFmt) : Nat := (2 ^ f.exp - 1) * 2 ^ f.man

/-- The magnitude code of the largest finite value (R126). -/
def FpFmt.maxCode (f : FpFmt) (topx : Bool) : Nat :=
  if f.hasInf topx then f.infCode - 1 else if f.cls == .fp4 then 7 else 2 ^ f.mag - 2

/-- The canonical NaN (R131); FP4 has none and takes +0 (R142). -/
def FpFmt.nan (f : FpFmt) : Nat :=
  match f.cls with
  | .ieee => f.infCode + 2 ^ (f.man - 1)
  | .narrow => 2 ^ f.mag - 1
  | .fp4 => 0

/-- The smallest normal exponent. -/
def FpFmt.emin (f : FpFmt) : Int := 1 - f.bias

/-- A sign at its place. -/
def FpFmt.sign (f : FpFmt) (neg : Bool) : Nat := if f.signed && neg then 2 ^ f.mag else 0

/-- A decoded value: a NaN (sig: its quiet bit is 0 in FP32, FP16 or BF16), an infinity, or the exact m × 2^e. -/
inductive Fv where
  | nan (sig : Bool)
  | inf (neg : Bool)
  | num (neg : Bool) (m : Nat) (e : Int)
  deriving DecidableEq, Repr

/-- Decoding a code (R125-R127). -/
def FpFmt.decode (f : FpFmt) (topx : Bool) (c : Nat) : Fv :=
  let neg := f.signed && bit c f.mag
  let g := c % 2 ^ f.mag
  let ex := g / 2 ^ f.man
  let m := g % 2 ^ f.man
  if f.cls != .fp4 && ex == 2 ^ f.exp - 1 && f.hasInf topx then
    (if m = 0 then .inf neg else .nan (f.cls == .ieee && !bit m (f.man - 1)))
  else if f.cls == .narrow && g == 2 ^ f.mag - 1 then .nan false
  else if ex = 0 then .num neg m (f.emin - f.man)
  else .num neg (m + 2 ^ f.man) (f.emin - f.man + (ex - 1 : Nat))

def Fv.isNan : Fv → Bool
  | .nan _ => true
  | _ => false

/-- NV of a NaN input (R131). -/
def Fv.nv : Fv → Word
  | .nan true => Flag.nv
  | _ => 0

def Fv.neg : Fv → Bool
  | .nan _ => false
  | .inf n => n
  | .num n _ _ => n

def Fv.isInf : Fv → Bool
  | .inf _ => true
  | _ => false

def Fv.isZero : Fv → Bool
  | .num _ m _ => m == 0
  | _ => false

def Fv.flip (n : Bool) : Fv → Fv
  | .inf s => .inf (s != n)
  | .num s m e => .num (s != n) m e
  | .nan q => .nan q

/-! ## Rounding (R140, R146) -/

/-- Rounding m × 2^e, plus less than a unit of m when st, to a multiple of 2^q: the count, whether it is inexact, and
whether it went away from zero. d holds the 16 random bits of R146. -/
def quantize (rm : Rm) (neg : Bool) (d : Nat) (m : Nat) (e : Int) (st : Bool) (q : Int) : Nat × Bool × Bool :=
  let sh := (q - e).toNat
  let mm := m * 2 ^ (e - q).toNat
  let n := mm / 2 ^ sh
  let rem := mm % 2 ^ sh
  let inex := rem != 0 || st
  let up := match rm with
    | .rne => decide (2 ^ sh < 2 * rem) || (2 * rem == 2 ^ sh && (st || n % 2 == 1))
    | .rtz => false
    | .rdn => inex && neg
    | .rup => inex && !neg
    | .rna => decide (2 ^ sh ≤ 2 * rem)
    | .sr => inex && decide (2 ^ 16 ≤ rem * 2 ^ 16 / 2 ^ sh + d)
  let up := up && inex
  (n + b2n up, inex, up)

/-- The exponent of the leading bit of m × 2^e. -/
def leadExp (m : Nat) (e : Int) : Int := e + (Nat.log2 m : Nat)

/-- Whether a value is tiny after rounding with an unbounded exponent (R132, R134, R146). -/
def isTiny (f : FpFmt) (rm : Rm) (neg : Bool) (d : Nat) (m : Nat) (e : Int) (st : Bool) : Bool :=
  let t := leadExp m e
  if f.emin ≤ t then false
  else if t + 1 < f.emin then true
  else decide ((quantize rm neg d m e st (t - f.man)).1 < 2 ^ (f.man + 1))

/-- Rounding a value into a format: its code and flags (R134, R140, R141, R146). A zero keeps the sign given. -/
def roundTo (f : FpFmt) (topx : Bool) (rm : Rm) (d : Nat) (neg : Bool) (m : Nat) (e : Int) (st : Bool := false) : Nat × Word :=
  if m = 0 then (f.sign neg, 0)
  else if neg && !f.signed then (f.nan, Flag.nv)
  else
    let q := max (leadExp m e) f.emin - f.man
    let (n, inex, up) := quantize rm neg d m e st q
    let code := (q + f.man - f.emin).toNat * 2 ^ f.man + n
    if f.maxCode topx < code then
      let toInf := f.hasInf topx && (match rm with
        | .rne | .rna => true
        | .rtz => false
        | .rdn => neg
        | .rup => !neg
        | .sr => up)
      (f.sign neg + (if toInf then f.infCode else f.maxCode topx), Flag.of ||| Flag.nx)
    else
      (f.sign neg + code,
        flagIf inex Flag.nx ||| flagIf (inex && isTiny f rm neg d m e st) Flag.uf)

/-- An infinity in a format, or the largest value with OF and NX where there is none (R142). -/
def FpFmt.ofInf (f : FpFmt) (topx neg : Bool) : Nat × Word :=
  if neg && !f.signed then (f.nan, Flag.nv)
  else if f.hasInf topx then (f.sign neg + f.infCode, 0)
  else (f.sign neg + f.maxCode topx, Flag.of ||| Flag.nx)

/-- Converting a decoded value to a format (R142): FP4 takes +0 with NV for a NaN. -/
def Fv.toFp (v : Fv) (f : FpFmt) (topx : Bool) (rm : Rm) (d : Nat) : Nat × Word :=
  match v with
  | .nan _ => (f.nan, if f.cls == .fp4 then Flag.nv else v.nv)
  | .inf n => f.ofInf topx n
  | .num n m e => if m = 0 then (f.sign n, 0) else roundTo f topx rm d n m e

/-- The bounds of an integer format of w bits. -/
def intMin (signed : Bool) (w : Nat) : Int := if signed then -(2 ^ (w - 1)) else 0
def intMax (signed : Bool) (w : Nat) : Int := if signed then 2 ^ (w - 1) - 1 else 2 ^ w - 1

/-- The w low bits of an integer. -/
def ofInt (w : Nat) (v : Int) : Nat := (v % 2 ^ w).toNat

/-- The integer that w bits hold. -/
def intVal (signed : Bool) (w v : Nat) : Int := if signed && bit v (w - 1) then (v : Int) - 2 ^ w else v

/-- Clamping an integer to a format: whether it was clamped. -/
def clamp (signed : Bool) (w : Nat) (v : Int) : Int × Bool :=
  if v < intMin signed w then (intMin signed w, true)
  else if intMax signed w < v then (intMax signed w, true)
  else (v, false)

/-- Converting a decoded value to an integer format (R142). -/
def Fv.toInt (v : Fv) (signed : Bool) (w : Nat) (rm : Rm) (d : Nat) : Nat × Word :=
  match v with
  | .nan _ => (0, Flag.nv)
  | .inf n => (ofInt w (if n then intMin signed w else intMax signed w), Flag.nv ||| Flag.sat)
  | .num n m e =>
    let (k, inex, _) := quantize rm n d m e false 0
    let (c, out) := clamp signed w (if n then -(k : Int) else k)
    (ofInt w c, if out then Flag.nv ||| Flag.sat else flagIf inex Flag.nx)

/-- Converting an integer to a floating-point format: 0 gives +0 (R132). -/
def intToFp (v : Int) (f : FpFmt) (topx : Bool) (rm : Rm) (d : Nat) : Nat × Word :=
  roundTo f topx rm d (decide (v < 0)) v.natAbs 0

/-! ## The random generator (R143, R144) -/

/-- splitmix64_fin (R143). -/
def splitmixFin (z : Word) : Word :=
  let z := (z ^^^ (z >>> 30)) * 0xBF58476D1CE4E5B9
  let z := (z ^^^ (z >>> 27)) * 0x94D049BB133111EB
  z ^^^ (z >>> 31)

/-- F(k, n) (R143). -/
def rngF (k n : Word) : Word := splitmixFin (k ^^^ (n * 0x9E3779B97F4A7C15))

/-- The key of a context (R143). -/
def rngKey (b : Binding) (ctx : Nat) : Word := rngF b.seed (BitVec.ofNat 64 (b.lcore * 16 + ctx))

/-- The 16 bits of element n of an instruction that rounds in SR mode (R144). -/
def drawBits (b : Binding) (ctx : Nat) (r : Regs) (n : Nat) : Nat :=
  bits (rngF (rngKey b ctx) (r.rngctr + BitVec.ofNat 64 (n / 4))).toNat (16 * (n % 4) + 15) (16 * (n % 4))

/-- RNGCTR after an instruction that defines n elements (R144). -/
def Regs.advance (r : Regs) (rm : Rm) (n : Nat) : Regs :=
  if rm == .sr then { r with rngctr := r.rngctr + BitVec.ofNat 64 ((n + 3) / 4) } else r

end Sys2Proof.Machine
end

