-- ==== Sys2Proof/Machine/Fp.lean ====
section
/-! DEFINITION. Floating-point arithmetic from exact values with one rounding (R132, R134, R238-R242), products with
scales (R139), and the special functions (R151, R152). -/

namespace Sys2Proof.Machine
open Sys2Proof

/-! ## Sums, products, quotients, roots (R238, R239) -/

/-- The exact signed sum of two finite values over their smaller exponent. -/
def exactSum (n1 : Bool) (m1 : Nat) (e1 : Int) (n2 : Bool) (m2 : Nat) (e2 : Int) : Int × Int :=
  let e := min e1 e2
  let a : Int := m1 * 2 ^ (e1 - e).toNat
  let b : Int := m2 * 2 ^ (e2 - e).toNat
  ((if n1 then -a else a) + (if n2 then -b else b), e)

/-- The exact sum of two decoded values: canonical NaN and NV for opposite infinities, +0 for an exact zero (R132). -/
def fvAdd (a b : Fv) : Fv × Word :=
  match a, b with
  | .nan _, _ | _, .nan _ => (.nan false, a.nv ||| b.nv)
  | .inf x, .inf y => if x = y then (.inf x, 0) else (.nan false, Flag.nv)
  | .inf x, .num .. => (.inf x, 0)
  | .num .., .inf y => (.inf y, 0)
  | .num n1 m1 e1, .num n2 m2 e2 =>
    let s := exactSum n1 m1 e1 n2 m2 e2
    (.num (decide (s.1 < 0)) s.1.natAbs s.2, 0)

/-- The exact product of two decoded values: canonical NaN and NV for zero times infinity. -/
def fvMul (a b : Fv) : Fv × Word :=
  match a, b with
  | .nan _, _ | _, .nan _ => (.nan false, a.nv ||| b.nv)
  | .inf x, .inf y => (.inf (x != y), 0)
  | .inf x, .num y m _ => if m = 0 then (.nan false, Flag.nv) else (.inf (x != y), 0)
  | .num x m _, .inf y => if m = 0 then (.nan false, Flag.nv) else (.inf (x != y), 0)
  | .num n1 m1 e1, .num n2 m2 e2 => (.num (n1 != n2) (m1 * m2) (e1 + e2), 0)

/-- Rounding an exact value with RNE, its flags added. -/
def rneOf (f : FpFmt) (v : Fv × Word) : Nat × Word :=
  let r := v.1.toFp f false .rne 0
  (r.1, r.2 ||| v.2)

/-- An IEEE-format operand (TOPX plays no part in FP32, BF16 and FP16). -/
def FpFmt.val (f : FpFmt) (c : Nat) : Fv := f.decode false c

def fpAdd (f : FpFmt) (a b : Nat) : Nat × Word := rneOf f (fvAdd (f.val a) (f.val b))
def fpSub (f : FpFmt) (a b : Nat) : Nat × Word := rneOf f (fvAdd (f.val a) ((f.val b).flip true))
def fpMul (f : FpFmt) (a b : Nat) : Nat × Word := rneOf f (fvMul (f.val a) (f.val b))

/-- VFMA (R239): NV of 0 × ∞ whatever c holds. -/
def fpFma (f : FpFmt) (np nc : Bool) (a b c : Nat) : Nat × Word :=
  let z := f.val c
  let p := fvMul ((f.val a).flip np) (f.val b)
  let r := fvAdd p.1 (z.flip nc)
  rneOf f (r.1, p.2 ||| r.2)

/-- A quotient of finite non-zero magnitudes: at least 80 bits of it, and whether more follow. -/
def quotient (m1 : Nat) (e1 : Int) (m2 : Nat) (e2 : Int) : Nat × Int × Bool :=
  let k := 80 + Nat.log2 m2
  (m1 * 2 ^ k / m2, e1 - e2 - k, m1 * 2 ^ k % m2 != 0)

/-- The quotient of two decoded values rounded into a format (R238, R255). -/
def fvDiv (f : FpFmt) (topx : Bool) (rm : Rm) (d : Nat) (a b : Fv) : Nat × Word :=
  let bad : Nat × Word := (f.nan, Flag.nv)
  match a, b with
  | .nan _, _ | _, .nan _ => (f.nan, a.nv ||| b.nv ||| flagIf (f.cls == .fp4) Flag.nv)
  | .inf _, .inf _ => bad
  | .inf x, .num y _ _ => f.ofInf topx (x != y)
  | .num x _ _, .inf y => (f.sign (x != y), 0)
  | .num x m1 e1, .num y m2 e2 =>
    if m2 = 0 then
      if m1 = 0 then bad
      else
        let r := f.ofInf topx (x != y)
        (r.1, r.2 ||| Flag.dz)
    else if m1 = 0 then (f.sign (x != y), 0)
    else
      let (q, e, st) := quotient m1 e1 m2 e2
      roundTo f topx rm d (x != y) q e st

def fpDiv (f : FpFmt) (a b : Nat) : Nat × Word := fvDiv f false .rne 0 (f.val a) (f.val b)

/-- VRCP (R238). -/
def fpRcp (f : FpFmt) (a : Nat) : Nat × Word := fvDiv f false .rne 0 (.num false 1 0) (f.val a)

/-- The bits of an integer square root, from bit n − 1 down. -/
def isqrtFrom (v : Nat) : Nat → Nat → Nat
  | 0, r => r
  | n + 1, r => isqrtFrom v n (if (r + 2 ^ n) * (r + 2 ^ n) ≤ v then r + 2 ^ n else r)

/-- The root of a non-zero magnitude: at least 80 bits of it, and whether more follow. -/
def rootOf (m : Nat) (e : Int) : Nat × Int × Bool :=
  let k := 160 + (e % 2).toNat
  let v := m * 2 ^ k
  let r := isqrtFrom v (k / 2 + Nat.log2 m + 2) 0
  (r, (e - k) / 2, r * r != v)

/-- VSQRT (R238). -/
def fpSqrt (f : FpFmt) (a : Nat) : Nat × Word :=
  match f.val a with
  | .nan q => (f.nan, (Fv.nan q).nv)
  | .inf n => if n then (f.nan, Flag.nv) else (f.infCode, 0)
  | .num n m e =>
    if m = 0 then (f.sign n, 0)
    else if n then (f.nan, Flag.nv)
    else
      let (r, x, st) := rootOf m e
      roundTo f false .rne 0 false r x st

/-! ## Order (R240, R246) -/

/-- Whether a finite or infinite value lies below another, numerically; strict orders −0 below +0. -/
def fvLt (strict : Bool) (a b : Fv) : Bool :=
  match a, b with
  | .inf x, .inf y => x && !y
  | .inf x, .num .. => x
  | .num .., .inf y => !y
  | .num n1 m1 e1, .num n2 m2 e2 =>
    let s := exactSum n1 m1 e1 (!n2) m2 e2
    decide (s.1 < 0) || (strict && m1 == 0 && m2 == 0 && n1 && !n2)
  | _, _ => false

/-- VMIN and VMAX of floats (R240). -/
def fpMinMax (f : FpFmt) (isMax : Bool) (a b : Nat) : Nat × Word :=
  let x := f.val a
  let y := f.val b
  if x.isNan || y.isNan then (f.nan, x.nv ||| y.nv)
  else if (if isMax then fvLt true x y else fvLt true y x) then (b, 0) else (a, 0)

/-- VMIN and VMAX of integers. -/
def intMinMax (isMax signed : Bool) (w a b : Nat) : Nat :=
  if (if isMax then decide (intVal signed w a < intVal signed w b) else decide (intVal signed w b < intVal signed w a)) then b else a

/-- VCMP of floats: a NaN makes every condition false but ne (R246). -/
def fpCond (f : FpFmt) (c : Cond) (a b : Nat) : Bool × Word :=
  let x := f.val a
  let y := f.val b
  if x.isNan || y.isNan then (c == .ne, x.nv ||| y.nv)
  else
    let lt := fvLt false x y
    let gt := fvLt false y x
    (match c with
      | .eq => !lt && !gt
      | .ne => lt || gt
      | .lt => lt
      | .ge => !lt
      | .le => !gt
      | .gt => gt, 0)

def intCond (c : Cond) (x y : Int) : Bool :=
  match c with
  | .eq => x == y
  | .ne => x != y
  | .lt => decide (x < y)
  | .ge => decide (y ≤ x)
  | .le => decide (x ≤ y)
  | .gt => decide (y < x)

/-! ## Scaled products (R139) -/

/-- The product of element a times element b times scales, exactly: a zero factor against an infinity that only a scale
brings gives a signed zero and SZ; an infinity encoded in an element against a zero gives NaN and NV (R139). -/
def scaledProduct (es scales : List Fv) : Fv × Word :=
  let all := es ++ scales
  let neg := all.foldl (fun n v => n != v.neg) false
  if all.any (·.isNan) then (.nan false, orAll (all.map (·.nv)))
  else if all.any (·.isInf) then
    if all.any (·.isZero) then
      if es.any (·.isInf) then (.nan false, Flag.nv) else (.num neg 0 0, Flag.sz)
    else (.inf neg, 0)
  else
    let p := all.foldl (fun (p : Nat × Int) v => match v with
      | .num _ m e => (p.1 * m, p.2 + e)
      | _ => p) (1, 0)
    (.num neg p.1 p.2, 0)

/-- A bank value times its band factor (R139, R150): a zero value against an infinite factor gives zero and SZ; a zero
factor against an infinite value gives NaN and NV. -/
def timesFactor (acc factor : Fv) : Fv × Word :=
  match acc, factor with
  | .num n m _, .inf y => if m = 0 then (.num (n != y) 0 0, Flag.sz) else fvMul acc factor
  | _, _ => fvMul acc factor

/-! ## Special functions in fixed point (R151): values over 2^fx, the error below 2^32 units of the last place -/

/-- Fraction bits. -/
def fx : Nat := 704

def one : Nat := 2 ^ fx

/-- Σ t, t·r/1, t·r²/(1·2) … : the exponential series. -/
def expSeries (r : Nat) : Nat → Nat → Nat → Nat → Nat
  | 0, _, _, s => s
  | n + 1, k, t, s => expSeries r n (k + 1) (t * r / one / k) (s + t)

/-- Σ z^(2k+1)/(2k+1): the series of artanh. -/
def atanhSeries (z2 : Nat) : Nat → Nat → Nat → Nat → Nat
  | 0, _, _, s => s
  | n + 1, k, t, s => atanhSeries z2 n (k + 2) (t * z2 / one) (s + t / k)

/-- ln 2 = 2 artanh(1/3). -/
def ln2 : Nat := 2 * atanhSeries (one / 9) 240 1 (one / 3) 0

/-- Σ (−1)^k x^(2k+1)/(2k+1), added where pos. -/
def atanSeries (x2 : Nat) : Nat → Nat → Bool → Nat → Int → Int
  | 0, _, _, _, s => s
  | n + 1, k, pos, t, s => atanSeries x2 n (k + 2) (!pos) (t / x2) (if pos then s + (t / k : Nat) else s - (t / k : Nat))

/-- π over 2^n by Machin's formula. -/
def piAt (n : Nat) : Nat :=
  (4 * (4 * atanSeries 25 ((n + 64) / 4) 1 true (2 ^ (n + 64) / 5) 0
    - atanSeries 57121 ((n + 64) / 15) 1 true (2 ^ (n + 64) / 239) 0)).toNat / 2 ^ 64

/-- Σ (−1)^k t with t shrinking by r²/(k(k+1)): sine from t = r, cosine from t = 1. -/
def trigSeries (r2 : Nat) : Nat → Nat → Bool → Nat → Int → Int
  | 0, _, _, _, s => s
  | n + 1, k, pos, t, s =>
    trigSeries r2 n (k + 2) (!pos) (t * r2 / one / (k * (k + 1))) (if pos then s + t else s - t)

def sinFx (r : Nat) : Nat := (trigSeries (r * r / one) 90 2 true r 0).toNat
def cosFx (r : Nat) : Nat := (trigSeries (r * r / one) 90 1 true one 0).toNat

/-- m × 2^e over 2^fx, for values below 2^160. -/
def toFx (m : Nat) (e : Int) : Nat := if e + fx < 0 then m / 2 ^ (-(e + fx)).toNat else m * 2 ^ (e + fx).toNat

/-- e^x for x ≥ 0 as a mantissa over 2^fx and a power of two. -/
def expPos (x : Nat) : Nat × Int := (expSeries (x % ln2) 220 1 one 0, (x / ln2 : Nat))

/-- e^−x over 2^fx, for x ≥ 0. -/
def expNeg (x : Nat) : Nat :=
  let p := expPos x
  one * one / p.1 / 2 ^ p.2.toNat

/-- ln (m × 2^e), signed, over 2^fx. -/
def lnFx (m : Nat) (e : Int) : Int :=
  let k := Nat.log2 m
  let y := m * one / 2 ^ k
  let z := (y - one) * one / (y + one)
  (2 * atanhSeries (z * z / one) 240 1 z 0 : Nat) + (e + k) * ln2

/-- Σ of erf's series with positive terms: 2^k x^(2k+1)/(1·3·…·(2k+1)). -/
def erfSeries (x2 : Nat) : Nat → Nat → Nat → Nat → Nat
  | 0, _, _, s => s
  | n + 1, k, t, s => erfSeries x2 n (k + 2) (t * x2 / one * 2 / (k + 2)) (s + t)

/-- erf x over 2^fx, for 0 ≤ x < 16. -/
def erfFx (x : Nat) : Nat :=
  let s := erfSeries (x * x / one) 1400 1 x 0
  let p := expPos (x * x / one)
  let rootPi := isqrtFrom (piAt fx * one) (fx + 2) 0
  min (2 * (s * one / p.1 / 2 ^ p.2.toNat) * one / rootPi) (one - 1)

/-- √2 over 2^fx. -/
def root2 : Nat := isqrtFrom (2 * one * one) (fx + 2) 0

/-- An exact or approximated result: sign, magnitude, exponent, and whether the exact magnitude is above it by less than a
unit. -/
structure Approx where
  neg : Bool
  m : Nat
  e : Int
  st : Bool

/-- A value over 2^fx that is known to 32 bits fewer. -/
def Approx.ofFx (neg : Bool) (v : Nat) (e : Int := 0) : Approx :=
  ⟨neg, (v - 2 ^ 32) / 2 ^ 34, e - (fx - 34 : Nat), true⟩

/-- A magnitude above every format, and one below every half subnormal. -/
def Approx.huge : Approx := ⟨false, 3, 300, true⟩
def Approx.tiny (neg : Bool) : Approx := ⟨neg, 1, -300, true⟩

/-- Sine and cosine of a magnitude: the quadrant's series and sign (R151: at every finite argument). -/
def trigAt (cosine neg : Bool) (m : Nat) (e : Int) : Approx :=
  let g : Nat := 192
  let x := toFx m (e + g)
  let half := piAt (fx + g) / 2
  let q := x / half + b2n cosine
  let r := x % half / 2 ^ g
  Approx.ofFx ((neg && !cosine) != decide (q % 4 ≥ 2)) (if q % 2 == 1 then cosFx r else sinFx r)

/-- Whether m × 2^e is an integer, and the integer. -/
def asInt (m : Nat) (e : Int) : Option Nat :=
  if 0 ≤ e then some (m * 2 ^ e.toNat) else if m % 2 ^ (-e).toNat == 0 then some (m / 2 ^ (-e).toNat) else none

/-- The functions of R151 at a finite, non-zero argument that R152 does not settle. -/
def sfuFinite (fn : Sfu) (neg : Bool) (m : Nat) (e : Int) : Approx :=
  let big (k : Int) : Bool := decide (k ≤ leadExp m e)
  let x := if big 160 then 0 else toFx m e
  let expOf (x : Nat) (far : Bool) : Approx :=
    if far then (if neg then Approx.tiny false else Approx.huge)
    else if neg then Approx.ofFx false (expNeg x) else let p := expPos x; Approx.ofFx false p.1 p.2
  match fn with
  | .exp2 =>
    match if big 8 then none else asInt m e with
    | some n => ⟨false, 1, if neg then -(n : Int) else n, false⟩
    | none => expOf (x * ln2 / one) (big 8)
  | .exp => expOf x (big 8)
  | .log2 =>
    let k := Nat.log2 m
    if m == 2 ^ k then ⟨decide (e + k < 0), (e + k).natAbs, 0, false⟩
    else
      let v := lnFx m e
      Approx.ofFx (decide (v < 0)) (v.natAbs * one / ln2)
  | .log =>
    let v := lnFx m e
    if m == 2 ^ Nat.log2 m && e + (Nat.log2 m : Nat) == 0 then ⟨false, 0, 0, false⟩ else Approx.ofFx (decide (v < 0)) v.natAbs
  | .sin => trigAt false neg m e
  | .cos => trigAt true neg m e
  | .tanh =>
    if big 8 then Approx.ofFx neg (one - 1)
    else
      let v := expNeg (2 * x)
      Approx.ofFx neg ((one - v) * one / (one + v))
  | .sigm =>
    if big 8 then (if neg then Approx.tiny false else Approx.ofFx false (one - 1))
    else
      let v := expNeg x
      Approx.ofFx false ((if neg then v else one) * one / (one + v))
  | .erf => if big 4 then Approx.ofFx neg (one - 1) else Approx.ofFx neg (erfFx x)
  | .gelu =>
    if big 4 then
      if neg then Approx.tiny true else ⟨false, m * 2 ^ 512 - 1, e - 512, true⟩
    else
      let v := erfFx (x * one / root2)
      Approx.ofFx neg (x * (if neg then one - v else one + v) / one / 2)
  | .rsq =>
    let k := 2 * (Nat.log2 m + 100) + (e % 2).toNat
    let v := 2 ^ k / m
    let r := isqrtFrom v (Nat.log2 v / 2 + 1) 0
    ⟨false, r, -(e + k) / 2, r * r * m != 2 ^ k⟩

/-- The error bounds of R151 in hundredths of a unit in the last place. -/
def sfuBound : Sfu → Nat
  | .exp2 | .log2 | .rsq => 51
  | .exp | .log => 75
  | .sin | .cos | .tanh | .sigm | .erf => 90
  | .gelu => 95

/-- An FP32 result (R151): the exact value where it is representable; else the neighbour within the bound, and where both
are, a free choice fixed by the device (R242; log 6). -/
def sfuFp32 (fn : Sfu) (arg : Nat) (a : Approx) : Nat × Word :=
  if a.m = 0 then (fp32.sign a.neg, 0)
  else
    let q := max (leadExp a.m a.e) fp32.emin - fp32.man
    let lo := quantize .rtz a.neg 0 a.m a.e a.st q
    if !lo.2.1 then roundTo fp32 false .rne 0 a.neg a.m a.e a.st
    else
      let sh := (q - a.e).toNat
      let pos := a.m % 2 ^ sh * 100 / 2 ^ sh
      let up := if sfuBound fn ≤ pos then true else if pos + sfuBound fn < 100 then false
        else Config.sfuAbove fn.code.toNat (BitVec.ofNat 32 arg)
      let r := roundTo fp32 false (if up then (if a.neg then .rdn else .rup) else .rtz) 0 a.neg a.m a.e a.st
      if r.2 &&& Flag.of != 0 then roundTo fp32 false .rne 0 a.neg a.m a.e a.st else r

/-- VSFU (R151, R152, R242). -/
def fpSfu (f : FpFmt) (fn : Sfu) (a : Nat) : Nat × Word :=
  let one' := (f.bias) * 2 ^ f.man
  let nanv : Nat × Word := (f.nan, Flag.nv)
  match f.val a with
  | .nan q => (f.nan, (Fv.nan q).nv)
  | .inf n =>
    match fn with
    | .exp2 | .exp => (if n then 0 else f.infCode, 0)
    | .log2 | .log => if n then nanv else (f.infCode, 0)
    | .sin | .cos => nanv
    | .tanh | .erf => (f.sign n + one', 0)
    | .sigm => (if n then 0 else one', 0)
    | .gelu => (if n then f.sign true else f.infCode, 0)
    | .rsq => if n then nanv else (0, 0)
  | .num n m e =>
    if m = 0 then
      match fn with
      | .exp2 | .exp | .cos => (one', 0)
      | .log2 | .log => (f.sign true + f.infCode, Flag.dz)
      | .sin | .tanh | .erf | .gelu => (f.sign n, 0)
      | .sigm => ((f.bias - 1) * 2 ^ f.man, 0)
      | .rsq => (f.sign n + f.infCode, Flag.dz)
    else if n && (match fn with
        | .log2 | .log | .rsq => true
        | _ => false) then nanv
    else
      let v := sfuFinite fn n m e
      if f == fp32 then sfuFp32 fn a v else roundTo f false .rne 0 v.neg v.m v.e v.st

end Sys2Proof.Machine
end

