-- ==== Sys2Proof/Machine/Vector.lean ====
section
/-! DEFINITION. The vector instructions, majors 0x80 to 0xA6 (R232-R260). -/

namespace Sys2Proof.Machine
open Sys2Proof

/-! ## Tag checks (R137, R234) -/

/-- What a source's tag must be. -/
inductive TagReq where
  | blind
  | exact (t : Tag)
  | int (t : Tag)
  deriving DecidableEq, Repr

/-- The signed tag of an integer tag's width. -/
def signedTag (t : Tag) : Tag := if t == 14 then 14 else if t.toNat % 2 == 0 then t - 1 else t

/-- The requirement of an arithmetic form: either integer tag of the width, or the float tag itself. -/
def arithReq (f : Tag) : TagReq := if tagIsInt f then .int (signedTag f) else .exact f

/-- One tag check: tag 15 is POISON, any other wrong tag TAG_MISMATCH. -/
def tagCheck (r : Regs) (c : VReg × TagReq) : Option Trap :=
  let t := (r.getV c.1).tag
  match c.2 with
  | .blind => if t == 15 then some (tagTrap c.1 t 0) else none
  | .exact q => if t == q then none else some (tagTrap c.1 t q)
  | .int q => if t == q || (q != 14 && t == q + 1) then none else some (tagTrap c.1 t q)

/-- A vector instruction: the tag checks in order, then the registers it leaves (R234, R235). -/
def vecOp (i : Instr) (checks : Regs → List (VReg × TagReq)) (f : Env → Regs → Regs) (s : State) :
    Host.Outcome State Fault Refusal :=
  issue i (fun e c =>
    let r := e.regs c
    match (checks r).findSome? (tagCheck r) with
    | some t => trapI e i c t
    | none => done e i (e.modRegs c (f e))) s

/-- The check of v[d] where its lanes can keep their bits (R233). -/
def keepCheck (vm : VMask) (d : VReg) : List (VReg × TagReq) := (mergeRead vm d).map (·, .blind)

/-! ## Lanes (R233) -/

/-- Lane i of a register under a format. -/
def lane (r : Regs) (f : Tag) (v : VReg) (i : Nat) : Nat := laneGet (r.getV v).bits (tagBits f) i

/-- A register's bits from lanes. -/
def ofLanes (f : Tag) (l : List Nat) : Vec := BitVec.ofNat 256 (lanesVec (tagBits f) l)

/-- Writing the lanes of a result under a mask, with the flags of its enabled lanes (R233, R235). tag is the result's. -/
def putLanes (r : Regs) (f : Tag) (vm : VMask) (d : VReg) (tag : Tag) (g : Nat → Nat × Word) : Regs :=
  let is := List.range (tagElems f)
  let val (i : Nat) : Nat := if laneOn r vm.mask i then (g i).1 else if vm.zm then 0 else lane r f d i
  (r.setV d ⟨ofLanes f (is.map val), tag⟩).orFlags
    (orAll ((is.filter (laneOn r vm.mask)).map (fun i => (g i).2)))

/-- A lane-wise form of two sources. -/
def lanes2 (i : Instr) (f : Tag) (vm : VMask) (d a b : VReg) (g : Nat → Nat → Nat × Word) (s : State) :
    Host.Outcome State Fault Refusal :=
  vecOp i (fun _ => [(a, arithReq f), (b, arithReq f)] ++ keepCheck vm d)
    (fun _ r => putLanes r f vm d f (fun k => g (lane r f a k) (lane r f b k))) s

/-- A lane-wise form of one source. -/
def lanes1 (i : Instr) (f : Tag) (vm : VMask) (d a : VReg) (g : Nat → Nat × Word) (s : State) :
    Host.Outcome State Fault Refusal :=
  vecOp i (fun _ => (a, arithReq f) :: keepCheck vm d) (fun _ r => putLanes r f vm d f (fun k => g (lane r f a k))) s

/-- Signedness of an integer format: tags 1, 3, 5, and tag 14 unless u (R240). -/
def fmtSigned (f : Tag) (u : Bool) : Bool := if f == 14 then !u else f.toNat % 2 == 1

/-! ## Floating-point arithmetic (R238-R242) -/

/-- VADD (R238). -/
def execVadd (p : Pred) (fmt : Tag) (vm : VMask) (d a b : VReg) (s : State) : Host.Outcome State Fault Refusal :=
  lanes2 (.vadd p fmt vm d a b) fmt vm d a b (fpAdd (fpOf fmt)) s

/-- VSUB (R238). -/
def execVsub (p : Pred) (fmt : Tag) (vm : VMask) (d a b : VReg) (s : State) : Host.Outcome State Fault Refusal :=
  lanes2 (.vsub p fmt vm d a b) fmt vm d a b (fpSub (fpOf fmt)) s

/-- VMUL (R238). -/
def execVmul (p : Pred) (fmt : Tag) (vm : VMask) (d a b : VReg) (s : State) : Host.Outcome State Fault Refusal :=
  lanes2 (.vmul p fmt vm d a b) fmt vm d a b (fpMul (fpOf fmt)) s

/-- VDIV (R238). -/
def execVdiv (p : Pred) (fmt : Tag) (vm : VMask) (d a b : VReg) (s : State) : Host.Outcome State Fault Refusal :=
  lanes2 (.vdiv p fmt vm d a b) fmt vm d a b (fpDiv (fpOf fmt)) s

/-- VFMA (R239). -/
def execVfma (p : Pred) (fmt : Tag) (np nc : Bool) (vm : VMask) (d a b c : VReg) (s : State) :
    Host.Outcome State Fault Refusal :=
  vecOp (.vfma p fmt np nc vm d a b c)
    (fun _ => [(a, .exact fmt), (b, .exact fmt), (c, .exact fmt)] ++ keepCheck vm d)
    (fun _ r => putLanes r fmt vm d fmt (fun k =>
      fpFma (fpOf fmt) np nc (lane r fmt a k) (lane r fmt b k) (lane r fmt c k))) s

/-- The minimum or maximum of R240 in a format. -/
def minMaxLane (isMax : Bool) (f : Tag) (u : Bool) (x y : Nat) : Nat × Word :=
  if tagIsFloat f then fpMinMax (fpOf f) isMax x y else (intMinMax isMax (fmtSigned f u) (tagBits f) x y, 0)

/-- VMIN (R240). -/
def execVmin (p : Pred) (fmt : Tag) (u : Bool) (vm : VMask) (d a b : VReg) (s : State) : Host.Outcome State Fault Refusal :=
  lanes2 (.vmin p fmt u vm d a b) fmt vm d a b (minMaxLane false fmt u) s

/-- VMAX (R240). -/
def execVmax (p : Pred) (fmt : Tag) (u : Bool) (vm : VMask) (d a b : VReg) (s : State) : Host.Outcome State Fault Refusal :=
  lanes2 (.vmax p fmt u vm d a b) fmt vm d a b (minMaxLane true fmt u) s

/-- The float part of VABS and VNEG: the sign bit alone (R241). -/
def fpSignOp (f : FpFmt) (g : Nat → Nat) (a : Nat) : Nat × Word :=
  let v := f.val a
  if v.isNan then (f.nan, v.nv) else (g a, 0)

/-- |a| and −a of signed integers: modulo 2^w, or saturated (R241). -/
def intSignOp (w : Nat) (sat : Bool) (v : Int) : Nat × Word :=
  if sat && v == 2 ^ (w - 1) then (2 ^ (w - 1) - 1, Flag.sat) else (ofInt w v, 0)

/-- VABS (R241). -/
def execVabs (p : Pred) (fmt : Tag) (sat : Bool) (vm : VMask) (d a : VReg) (s : State) : Host.Outcome State Fault Refusal :=
  lanes1 (.vabs p fmt sat vm d a) fmt vm d a (fun x =>
    if tagIsFloat fmt then fpSignOp (fpOf fmt) (· % 2 ^ (tagBits fmt - 1)) x
    else intSignOp (tagBits fmt) sat (intVal true (tagBits fmt) x).natAbs) s

/-- VNEG (R241). -/
def execVneg (p : Pred) (fmt : Tag) (sat : Bool) (vm : VMask) (d a : VReg) (s : State) : Host.Outcome State Fault Refusal :=
  lanes1 (.vneg p fmt sat vm d a) fmt vm d a (fun x =>
    if tagIsFloat fmt then fpSignOp (fpOf fmt) (fun x => (x + 2 ^ (tagBits fmt - 1)) % 2 ^ tagBits fmt) x
    else intSignOp (tagBits fmt) sat (-(intVal true (tagBits fmt) x))) s

/-- VSQRT (R238). -/
def execVsqrt (p : Pred) (fmt : Tag) (vm : VMask) (d a : VReg) (s : State) : Host.Outcome State Fault Refusal :=
  lanes1 (.vsqrt p fmt vm d a) fmt vm d a (fpSqrt (fpOf fmt)) s

/-- VRCP (R238). -/
def execVrcp (p : Pred) (fmt : Tag) (vm : VMask) (d a : VReg) (s : State) : Host.Outcome State Fault Refusal :=
  lanes1 (.vrcp p fmt vm d a) fmt vm d a (fpRcp (fpOf fmt)) s

/-- VSFU (R242). -/
def execVsfu (p : Pred) (fmt : Tag) (fn : Sfu) (vm : VMask) (d a : VReg) (s : State) : Host.Outcome State Fault Refusal :=
  lanes1 (.vsfu p fmt fn vm d a) fmt vm d a (fpSfu (fpOf fmt) fn) s

/-! ## Integer arithmetic (R243) -/

/-- Wrapping or clamping an exact integer result (R124, R243). -/
def intResult (f : Tag) (sat u : Bool) (v : Int) : Nat × Word :=
  if sat then
    let c := clamp (fmtSigned f u) (tagBits f) v
    (ofInt (tagBits f) c.1, flagIf c.2 Flag.sat)
  else (ofInt (tagBits f) v, 0)

/-- The integer of a lane. -/
def intLane (f : Tag) (u : Bool) (x : Nat) : Int := intVal (fmtSigned f u) (tagBits f) x

/-- VIADD (R243). -/
def execViadd (p : Pred) (fmt : Tag) (sat u : Bool) (vm : VMask) (d a b : VReg) (s : State) : Host.Outcome State Fault Refusal :=
  lanes2 (.viadd p fmt sat u vm d a b) fmt vm d a b (fun x y => intResult fmt sat u (intLane fmt u x + intLane fmt u y)) s

/-- VISUB (R243). -/
def execVisub (p : Pred) (fmt : Tag) (sat u : Bool) (vm : VMask) (d a b : VReg) (s : State) : Host.Outcome State Fault Refusal :=
  lanes2 (.visub p fmt sat u vm d a b) fmt vm d a b (fun x y => intResult fmt sat u (intLane fmt u x - intLane fmt u y)) s

/-- VIMUL (R243): with hi the upper half of the double-width product. -/
def execVimul (p : Pred) (fmt : Tag) (sat hi u : Bool) (vm : VMask) (d a b : VReg) (s : State) :
    Host.Outcome State Fault Refusal :=
  lanes2 (.vimul p fmt sat hi u vm d a b) fmt vm d a b (fun x y =>
    let v := intLane fmt u x * intLane fmt u y
    if hi then (ofInt (tagBits fmt) (v / 2 ^ tagBits fmt), 0) else intResult fmt sat u v) s

/-! ## Bitwise operations and shifts (R244, R245) -/

/-- A bitwise form: format-blind, the whole register for fmt 0 (R244). -/
def bitwise (i : Instr) (fmt : Tag) (vm : VMask) (d a b : VReg) (g : Vec → Vec → Vec) (s : State) :
    Host.Outcome State Fault Refusal :=
  vecOp i (fun _ => [(a, .blind), (b, .blind)] ++ keepCheck vm d) (fun _ r =>
    let v := g (r.getV a).bits (r.getV b).bits
    if fmt == 0 then r.setV d ⟨v, 0⟩
    else putLanes r fmt vm d fmt (fun k => (laneGet v (tagBits fmt) k, 0))) s

/-- VAND (R244). -/
def execVand (p : Pred) (fmt : Tag) (vm : VMask) (d a b : VReg) (s : State) : Host.Outcome State Fault Refusal :=
  bitwise (.vand p fmt vm d a b) fmt vm d a b (· &&& ·) s

/-- VOR (R244). -/
def execVor (p : Pred) (fmt : Tag) (vm : VMask) (d a b : VReg) (s : State) : Host.Outcome State Fault Refusal :=
  bitwise (.vor p fmt vm d a b) fmt vm d a b (· ||| ·) s

/-- VXOR (R244). -/
def execVxor (p : Pred) (fmt : Tag) (vm : VMask) (d a b : VReg) (s : State) : Host.Outcome State Fault Refusal :=
  bitwise (.vxor p fmt vm d a b) fmt vm d a b (· ^^^ ·) s

/-- Shift results at width w (R245). -/
def shlLane (w x n : Nat) : Nat := if w ≤ n then 0 else x * 2 ^ n % 2 ^ w
def shrLane (w x n : Nat) : Nat := if w ≤ n then 0 else x / 2 ^ n
def sarLane (w x n : Nat) : Nat := ofInt w (intVal true w x / 2 ^ min n w)

/-- A shift: the count from a lane of an integer register of the width, or the immediate (R245). -/
def shiftOp (i : Instr) (fmt : Tag) (vm : VMask) (d a : VReg) (n : VCount) (g : Nat → Nat → Nat → Nat) (s : State) :
    Host.Outcome State Fault Refusal :=
  vecOp i (fun _ => (a, arithReq fmt) :: n.regs.map (·, arithReq fmt) ++ keepCheck vm d)
    (fun _ r => putLanes r fmt vm d fmt (fun k =>
      (g (tagBits fmt) (lane r fmt a k) (match n with
        | .reg b => lane r fmt b k
        | .imm v => v.toNat), 0))) s

/-- VSHL (R245). -/
def execVshl (p : Pred) (fmt : Tag) (vm : VMask) (d a : VReg) (n : VCount) (s : State) : Host.Outcome State Fault Refusal :=
  shiftOp (.vshl p fmt vm d a n) fmt vm d a n shlLane s

/-- VSHR (R245). -/
def execVshr (p : Pred) (fmt : Tag) (vm : VMask) (d a : VReg) (n : VCount) (s : State) : Host.Outcome State Fault Refusal :=
  shiftOp (.vshr p fmt vm d a n) fmt vm d a n shrLane s

/-- VSAR (R245). -/
def execVsar (p : Pred) (fmt : Tag) (vm : VMask) (d a : VReg) (n : VCount) (s : State) : Host.Outcome State Fault Refusal :=
  shiftOp (.vsar p fmt vm d a n) fmt vm d a n sarLane s

/-! ## Comparison, selection, rearrangement (R246-R251) -/

/-- One comparison of VCMP. -/
def cmpLane (fmt : Tag) (c : Cond) (u : Bool) (x y : Nat) : Bool × Word :=
  if tagIsFloat fmt then fpCond (fpOf fmt) c x y else (intCond c (intLane fmt u x) (intLane fmt u y), 0)

/-- The mask VCMP leaves: bits at and above E clear, disabled bits kept or cleared (R246). -/
def cmpMask (r : Regs) (fmt : Tag) (c : Cond) (u : Bool) (vm : VMask) (d : MReg) (a b : VReg) : Word :=
  BitVec.ofNat 64 (lanesVec 1 ((List.range (tagElems fmt)).map (fun k =>
    b2n (if laneOn r vm.mask k then (cmpLane fmt c u (lane r fmt a k) (lane r fmt b k)).1
      else !vm.zm && (r.getM d).getLsbD k))))

/-- VCMP (R246). -/
def execVcmp (p : Pred) (fmt : Tag) (c : Cond) (u : Bool) (vm : VMask) (d : MReg) (a b : VReg) (s : State) :
    Host.Outcome State Fault Refusal :=
  vecOp (.vcmp p fmt c u vm d a b) (fun _ => [(a, arithReq fmt), (b, arithReq fmt)])
    (fun _ r => (r.setM d (cmpMask r fmt c u vm d a b)).orFlags (orAll
      (((List.range (tagElems fmt)).filter (laneOn r vm.mask)).map (fun k =>
        (cmpLane fmt c u (lane r fmt a k) (lane r fmt b k)).2)))) s

/-- VSEL (R247). -/
def execVsel (p : Pred) (fmt : Tag) (mk : MReg) (d a b : VReg) (s : State) : Host.Outcome State Fault Refusal :=
  vecOp (.vsel p fmt mk d a b) (fun _ => [(a, .blind), (b, .blind)])
    (fun _ r => putLanes r fmt ⟨none, false⟩ d fmt (fun k =>
      (if (r.getM mk).getLsbD k then lane r fmt a k else lane r fmt b k, 0))) s

/-- The integer tag, signed, of a format's element width (R248). -/
def widthTag (fmt : Tag) : Tag :=
  match tagBits fmt with
  | 8 => 1
  | 16 => 3
  | 32 => 5
  | _ => 14

/-- VPERM (R248): sources read before any lane is written. -/
def execVperm (p : Pred) (fmt : Tag) (vm : VMask) (d a b c : VReg) (s : State) : Host.Outcome State Fault Refusal :=
  vecOp (.vperm p fmt vm d a b c) (fun _ => [(a, .blind), (b, .blind), (c, .int (widthTag fmt))] ++ keepCheck vm d)
    (fun _ r => putLanes r fmt vm d fmt (fun k =>
      let n := tagElems fmt
      let j := lane r fmt c k % (2 * n)
      (if j < n then lane r fmt a j else lane r fmt b (j - n), 0))) s

/-- The lane that VSHUF moves (R249): from b or not, and its number. -/
def shufLane (n k : Nat) : Shuf → Bool × Nat
  | .rev => (false, n - 1 - k)
  | .ziplo _ => (k % 2 == 1, k / 2)
  | .ziphi _ => (k % 2 == 1, n / 2 + k / 2)
  | .uzev _ => (decide (n / 2 ≤ k), 2 * (k % (n / 2)))
  | .uzod _ => (decide (n / 2 ≤ k), 2 * (k % (n / 2)) + 1)
  | .rot m => (false, (k + m.toNat) % n)

/-- VSHUF (R249). -/
def execVshuf (p : Pred) (fmt : Tag) (vm : VMask) (d a : VReg) (pat : Shuf) (s : State) : Host.Outcome State Fault Refusal :=
  vecOp (.vshuf p fmt vm d a pat) (fun _ => (a, .blind) :: pat.regs.map (·, .blind) ++ keepCheck vm d)
    (fun _ r => putLanes r fmt vm d fmt (fun k =>
      let q := shufLane (tagElems fmt) k pat
      (lane r fmt (if q.1 then pat.regs.headD a else a) q.2, 0))) s

/-- The value of VBCAST (R250): for fmt 14 the literal is extended by u. -/
def bcastVal (r : Regs) (u : Bool) : BcastSrc → Word
  | .reg a => r.getS a
  | .lit v => if u then v.setWidth 64 else v.signExtend 64

/-- VBCAST (R250). -/
def execVbcast (p : Pred) (fmt : Tag) (u : Bool) (vm : VMask) (d : VReg) (src : BcastSrc) (s : State) :
    Host.Outcome State Fault Refusal :=
  vecOp (.vbcast p fmt u vm d src) (fun _ => keepCheck vm d)
    (fun _ r => putLanes r fmt vm d fmt (fun _ => ((bcastVal r u src).toNat % 2 ^ tagBits fmt, 0))) s

/-- The lane index of VEXT and VINS (R251). -/
def laneIndex (r : Regs) (fmt : Tag) : LaneIx → Nat
  | .imm n => n.toNat
  | .reg b => (r.getS b).toNat % tagElems fmt

/-- VEXT (R251): sign-extended for tags 1, 3 and 5. -/
def execVext (p : Pred) (fmt : Tag) (u : Bool) (d : SReg) (a : VReg) (ix : LaneIx) (s : State) :
    Host.Outcome State Fault Refusal :=
  vecOp (.vext p fmt u d a ix) (fun _ => [(a, .blind)])
    (fun _ r =>
      let v := lane r fmt a (laneIndex r fmt ix)
      r.setS d (BitVec.ofInt 64 (intVal (fmt == 1 || fmt == 3 || fmt == 5) (tagBits fmt) v))) s

/-- VINS (R251): the other lanes keep their bits. -/
def execVins (p : Pred) (fmt : Tag) (d : VReg) (a : SReg) (ix : LaneIx) (s : State) : Host.Outcome State Fault Refusal :=
  vecOp (.vins p fmt d a ix) (fun _ => [(d, .blind)])
    (fun _ r => putLanes r fmt ⟨none, false⟩ d fmt (fun k =>
      (if k = laneIndex r fmt ix then (r.getS a).toNat % 2 ^ tagBits fmt else lane r fmt d k, 0))) s

/-! ## Reductions and scans (R252, R253) -/

/-- How VRED and VSCAN combine two lanes: working format, signedness, saturation. -/
def comb (op : RedOp) (f : Tag) (sat u : Bool) (x y : Nat) : Nat × Word :=
  match op with
  | .sum => if tagIsFloat f then fpAdd (fpOf f) x y else intResult f sat u (intLane f u x + intLane f u y)
  | .min => minMaxLane false f u x y
  | .max => minMaxLane true f u x y

/-- comb with absent lanes, flags carried along. -/
def combOpt (op : RedOp) (f : Tag) (sat u : Bool) (x y : Option (Nat × Word)) : Option (Nat × Word) :=
  match x, y with
  | some a, some b =>
    let c := comb op f sat u a.1 b.1
    some (c.1, a.2 ||| b.2 ||| c.2)
  | some a, none => some a
  | none, y => y

/-- The neutral value (R252). -/
def redIdent (op : RedOp) (f : Tag) (u : Bool) : Nat :=
  let g := fpOf f
  match op with
  | .sum => 0
  | .min => if tagIsFloat f then g.infCode else ofInt (tagBits f) (intMax (fmtSigned f u) (tagBits f))
  | .max => if tagIsFloat f then g.sign true + g.infCode else ofInt (tagBits f) (intMin (fmtSigned f u) (tagBits f))

/-- Entering a lane: a NaN becomes canonical, with NV under R131. -/
def redLane (f : Tag) (x : Nat) : Nat × Word :=
  if tagIsFloat f && ((fpOf f).val x).isNan then ((fpOf f).nan, ((fpOf f).val x).nv) else (x, 0)

/-- One level of the pairwise tree. -/
def pairUp {α : Type} (c : α → α → α) : List α → List α
  | a :: b :: t => c a b :: pairUp c t
  | l => l

/-- The tree of VRED over n levels (R252). -/
def treeReduce {α : Type} (c : α → α → α) : Nat → List α → List α
  | 0, l => l
  | n + 1, l => treeReduce c n (pairUp c l)

/-- The enabled lanes as VRED and VSCAN read them. w converts exactly to FP32 for a float format. -/
def redLanes (r : Regs) (fmt : Tag) (w : Bool) (mk : Option MReg) (a : VReg) : List (Option (Nat × Word)) :=
  (List.range (tagElems fmt)).map (fun k =>
    if laneOn r mk k then
      let x := lane r fmt a k
      if w && tagIsFloat fmt then some (((fpOf fmt).val x).toFp fp32 false .rne 0) else some (redLane fmt x)
    else none)

/-- What VRED leaves (R252). -/
def redRegs (fmt : Tag) (op : RedOp) (w u : Bool) (mk : Option MReg) (d a : VReg) (r : Regs) : Regs :=
  let f : Tag := if w && tagIsFloat fmt then 7 else fmt
  let sat := w && tagIsInt fmt
  match treeReduce (combOpt op f sat u) 5 (redLanes r fmt w mk a) with
  | some x :: _ => (r.setV d ⟨BitVec.ofNat 256 (x.1 % 2 ^ tagBits f), f⟩).orFlags x.2
  | _ => r.setV d ⟨BitVec.ofNat 256 (redIdent op f u), f⟩

/-- VRED (R252). -/
def execVred (p : Pred) (fmt : Tag) (op : RedOp) (w u : Bool) (mk : Option MReg) (d a : VReg) (s : State) :
    Host.Outcome State Fault Refusal :=
  vecOp (.vred p fmt op w u mk d a) (fun _ => [(a, arithReq fmt)]) (fun _ r => redRegs fmt op w u mk d a r) s

/-- One step of the scan: lanes from s on combine with the lane s below; every comb's flags are noted. -/
def scanStep (op : RedOp) (f : Tag) (sat u : Bool) (s : Nat) (y : List (Option (Nat × Word))) : List (Option (Nat × Word)) :=
  (List.range y.length).map (fun k =>
    if k < s then (y[k]?).join else combOpt op f sat u ((y[k - s]?).join) ((y[k]?).join))

def scanFrom (op : RedOp) (f : Tag) (sat u : Bool) : Nat → Nat → List (Option (Nat × Word)) → List (Option (Nat × Word))
  | 0, _, y => y
  | n + 1, s, y => if s < y.length then scanFrom op f sat u n (2 * s) (scanStep op f sat u s y) else y

/-- What VSCAN leaves (R253). -/
def scanRegs (fmt : Tag) (op : RedOp) (w u : Bool) (mk : Option MReg) (d a : VReg) (r : Regs) : Regs :=
  let y := scanFrom op fmt w u 5 1 (redLanes r fmt false mk a)
  let val (o : Option (Nat × Word)) : Nat := match o with
    | some x => x.1
    | none => redIdent op fmt u
  (r.setV d ⟨ofLanes fmt (y.map val), fmt⟩).orFlags (orAll (y.map (fun o => match o with
    | some x => x.2
    | none => 0)))

/-- VSCAN (R253). -/
def execVscan (p : Pred) (fmt : Tag) (op : RedOp) (w u : Bool) (mk : Option MReg) (d a : VReg) (s : State) :
    Host.Outcome State Fault Refusal :=
  vecOp (.vscan p fmt op w u mk d a) (fun _ => [(a, arithReq fmt)]) (fun _ r => scanRegs fmt op w u mk d a r) s

/-! ## Conversion (R254) -/

/-- One element of VCVT. -/
def cvtLane (df sf : Tag) (su du topx : Bool) (rm : Rm) (dr x : Nat) : Nat × Word :=
  if tagIsInt sf then
    let v := intLane sf su x
    if tagIsInt df then
      let c := clamp (fmtSigned df du) (tagBits df) v
      (ofInt (tagBits df) c.1, flagIf c.2 Flag.sat)
    else intToFp v (fpOf df) topx rm dr
  else
    let v := (fpOf sf).decode topx x
    if tagIsInt df then v.toInt (fmtSigned df du) (tagBits df) rm dr else v.toFp (fpOf df) topx rm dr

/-- What VCVT leaves: narrowing writes a window of lanes, widening reads one (R254). -/
def cvtRegs (b : Binding) (ctx : Nat) (df sf : Tag) (su du : Bool) (part : Nat) (rm : Rm) (vm : VMask) (d a : VReg)
    (r : Regs) : Regs :=
  let es := tagElems sf
  let ed := tagElems df
  let topx := r.topx.getLsbD 0
  let conv (src n : Nat) : Nat × Word := cvtLane df sf su du topx rm (drawBits b ctx r n) (lane r sf a src)
  let out :=
    if es < ed then
      let is := List.range ed
      let inW (k : Nat) : Bool := part * es ≤ k && k < part * es + es
      let val (k : Nat) : Nat :=
        if !inW k then lane r df d k
        else if laneOn r vm.mask k then (conv (k - part * es) (k - part * es)).1
        else if vm.zm then 0 else lane r df d k
      (r.setV d ⟨ofLanes df (is.map val), df⟩).orFlags (orAll ((is.filter (fun k => inW k && laneOn r vm.mask k)).map
        (fun k => (conv (k - part * es) (k - part * es)).2)))
    else putLanes r df vm d df (fun k => conv (if ed < es then part * ed + k else k) k)
  out.advance rm (min es ed)

/-- VCVT (R254): a same-format conversion only makes NaNs canonical. -/
def execVcvt (p : Pred) (dfmt sfmt : Tag) (su du : Bool) (part : BitVec 3) (rm : Rm) (vm : VMask) (d a : VReg) (s : State) :
    Host.Outcome State Fault Refusal :=
  vecOp (.vcvt p dfmt sfmt su du part rm vm d a)
    (fun _ => (a, arithReq sfmt) :: (if tagElems sfmt < tagElems dfmt then [(d, .blind)] else keepCheck vm d))
    (fun e r => cvtRegs e.b e.who.ctx dfmt sfmt su du part.toNat rm vm d a r) s

/-! ## Blocks (R255, R256) -/

/-- The scale VQBLK chooses for a largest magnitude: the smallest finite code that suffices, else the largest finite. -/
def chooseScale (topx : Bool) (mx : Fv) : Nat :=
  let top := e3m5.maxCode topx
  ((List.range (top + 1)).find? (fun c => !fvLt false (fvMul (.num false 6 0) (e3m5.decode topx c)).1 mx)).getD top

/-- The magnitude of a value. -/
def Fv.mag (v : Fv) : Fv := v.flip v.neg

/-- The quotient of one element in FP4 (R255): every non-zero value over a scale of 0 raises DZ, an infinite one too (log 24), and a
quotient above 6 in magnitude raises OF and NX even where it rounds to 6. -/
def quantOne (topx : Bool) (rm : Rm) (dr : Nat) (x scale : Fv) : Nat × Word :=
  let q := fvDiv fp4 topx rm dr x scale
  let above := fvLt false (fvMul (.num false 6 0) scale.mag).1 x.mag
  (q.1, q.2 ||| flagIf (x.isInf && scale.isZero) Flag.dz ||| flagIf above (Flag.of ||| Flag.nx))

/-- One block of VQBLK: the codes, the scale and the flags. given is the scale for sc = 1. -/
def quantBlock (topx : Bool) (rm : Rm) (dr : Nat → Nat) (xs : List Fv) (given : Option Nat) : List Nat × Nat × Word :=
  let mx := xs.foldl (fun m v => if fvLt false m v.mag then v.mag else m) (.num false 0 0)
  if xs.any (·.isNan) then (xs.map (fun _ => 0), given.getD 0xFF, Flag.nv)
  else if given.isNone && mx.isZero then (xs.map (fun x => fp4.sign x.neg), 0, 0)
  else
    let sc := given.getD (chooseScale topx mx)
    let qs := (List.range xs.length).map (fun k => quantOne topx rm (dr k) (xs[k]?.getD (.num false 0 0)) (e3m5.decode topx sc))
    (qs.map (·.1), sc, orAll (qs.map (·.2)))

/-- What VQBLK leaves (R255). -/
def qblkRegs (b : Binding) (ctx : Nat) (sf : Tag) (sc : Bool) (part : Nat) (rm : Rm) (d a c : VReg) (r : Regs) : Regs :=
  let topx := r.topx.getLsbD 0
  let nb := tagElems sf / 8
  let blocks := (List.range nb).map (fun k =>
    quantBlock topx rm (fun j => drawBits b ctx r (8 * k + j))
      ((List.range 8).map (fun j => (fpOf sf).decode topx (lane r sf a (8 * k + j))))
      (if sc then some (laneGet (r.getV c).bits 8 (part * nb + k)) else none))
  let put (w n : Nat) (old : Vec) (val : List Nat × Nat × Word → Nat) : Vec :=
    BitVec.ofNat 256 (lanesVec w ((List.range n).map (fun k =>
      if part * nb ≤ k && k < part * nb + nb then val (blocks[k - part * nb]?.getD ([], 0, 0)) else laneGet old w k)))
  let dv := put 32 8 (r.getV d).bits (fun q => lanesVec 4 q.1)
  let cv := put 8 32 (r.getV c).bits (fun q => q.2.1)
  let r1 := r.setV d ⟨dv, 12⟩
  ((if sc then r1 else r1.setV c ⟨cv, 13⟩).orFlags (orAll (blocks.map (fun q => q.2.2)))).advance rm (8 * nb)

/-- VQBLK (R255). A v[c] whose other bytes keep their bits is read as v[d] is, and traps when poisoned (log 110). -/
def execVqblk (p : Pred) (sfmt : Tag) (sc : Bool) (part : BitVec 3) (rm : Rm) (d a c : VReg) (s : State) :
    Host.Outcome State Fault Refusal :=
  vecOp (.vqblk p sfmt sc part rm d a c)
    (fun _ => [(a, .exact sfmt), (c, if sc then .exact 13 else .blind), (d, .blind)])
    (fun e r => qblkRegs e.b e.who.ctx sfmt sc part.toNat rm d a c r) s

/-- VDQBLK (R256). -/
def execVdqblk (p : Pred) (fmt : Tag) (part : BitVec 3) (d a c : VReg) (s : State) : Host.Outcome State Fault Refusal :=
  vecOp (.vdqblk p fmt part d a c) (fun _ => [(a, .exact 12), (c, .exact 13)])
    (fun _ r =>
      let nb := tagElems fmt / 8
      let topx := r.topx.getLsbD 0
      putLanes r fmt ⟨none, false⟩ d fmt (fun k =>
        let el := laneGet (r.getV a).bits 4 (8 * (part.toNat * nb) + k)
        let sc := laneGet (r.getV c).bits 8 (part.toNat * nb + k / 8)
        rneOf (fpOf fmt) (scaledProduct [fp4.decode topx el] [e3m5.decode topx sc]))) s

/-! ## Keys, tags, moves, masks (R257-R260) -/

/-- R153. -/
def keyOf (b : Nat) : Nat :=
  let b := if (fp32.val b).isNan then 0x7FC00000 else b
  let b := if b == 0x80000000 then 0 else b
  if b / 2 ^ 31 == 0 then b + 2 ^ 31 else 2 ^ 32 - 1 - b

/-- The inverse of R153, NaNs made canonical (R257). -/
def keyInv (k : Nat) : Nat :=
  let b := if k / 2 ^ 31 == 1 then k - 2 ^ 31 else 2 ^ 32 - 1 - k
  if (fp32.val b).isNan then 0x7FC00000 else b

/-- VKEY (R257). -/
def execVkey (p : Pred) (fmt : Tag) (vm : VMask) (d a : VReg) (s : State) : Host.Outcome State Fault Refusal :=
  vecOp (.vkey p fmt vm d a) (fun _ => (a, if fmt == 6 then .exact 7 else .int 5) :: keepCheck vm d)
    (fun _ r => putLanes r fmt vm d fmt (fun k => ((if fmt == 6 then keyOf else keyInv) (lane r fmt a k), 0))) s

/-- VTAG (R258). -/
def execVtag (p : Pred) (fmt : Tag) (d a : VReg) (s : State) : Host.Outcome State Fault Refusal :=
  vecOp (.vtag p fmt d a) (fun _ => [(a, .blind)]) (fun _ r => r.setV d ⟨(r.getV a).bits, fmt⟩) s

/-- VMOV (R258): the result takes v[a]'s tag. -/
def execVmov (p : Pred) (fmt : Tag) (vm : VMask) (d a : VReg) (s : State) : Host.Outcome State Fault Refusal :=
  vecOp (.vmov p fmt vm d a) (fun _ => (a, .blind) :: keepCheck vm d)
    (fun _ r =>
      if fmt == 0 then r.setV d (r.getV a)
      else putLanes r fmt vm d (r.getV a).tag (fun k => (lane r fmt a k, 0))) s

/-- VZERO (R258): it reads nothing. -/
def execVzero (p : Pred) (fmt : Tag) (d : VReg) (s : State) : Host.Outcome State Fault Refusal :=
  vecOp (.vzero p fmt d) (fun _ => []) (fun _ r => r.setV d ⟨0, fmt⟩) s

/-- VIOTA (R259). -/
def execViota (p : Pred) (fmt : Tag) (u : Bool) (vm : VMask) (d : VReg) (a : SReg) (s : State) :
    Host.Outcome State Fault Refusal :=
  vecOp (.viota p fmt u vm d a) (fun _ => keepCheck vm d)
    (fun _ r => putLanes r fmt vm d fmt (fun k => (((r.getS a).toNat + k) % 2 ^ tagBits fmt, 0))) s

/-- The effects of MLOGIC (R260). -/
def mopRegs (r : Regs) : MOp → Regs
  | .and d a b => r.setM d (r.getM a &&& r.getM b)
  | .or d a b => r.setM d (r.getM a ||| r.getM b)
  | .xor d a b => r.setM d (r.getM a ^^^ r.getM b)
  | .andn d a b => r.setM d (r.getM a &&& ~~~(r.getM b))
  | .not d a => r.setM d (~~~(r.getM a))
  | .mov d a => r.setM d (r.getM a)
  | .froms d a => r.setM d (r.getS a)
  | .tos d a => r.setS d (r.getM a)
  | .popc d a => r.setS d (popcVal (r.getM a))
  | .first d a => r.setS d (ctzVal (r.getM a))
  | .set fmt d => r.setM d (BitVec.ofNat 64 (2 ^ tagElems fmt - 1))

/-- MLOGIC (R260). -/
def execMlogic (p : Pred) (op : MOp) (s : State) : Host.Outcome State Fault Refusal :=
  compute (.mlogic p op) (fun _ x => mopRegs x.regs op) s

end Sys2Proof.Machine
end

