-- ==== Sys2Proof/Machine/Matrix.lean ====
section
/-! DEFINITION. Matrix and engine instructions at issue, majors 0xC0 to 0xD2 (R261-R278): checks, acceptance into the
queues, and the instructions that are not queued. -/

namespace Sys2Proof.Machine
open Sys2Proof

/-! ## The banks a command finds (R99) -/

/-- How many MSWAPs of an accumulator are issued and not yet exchanged: an odd number turns the banks (R99). -/
def Acc.turned (a : Acc) : Bool := a.swap.length % 2 == 1

/-- The bank that a command accepted now will find working, and the one it will find visible (R99). -/
def Acc.nextWork (a : Acc) : Bank := if a.turned then a.vis else a.work
def Acc.nextVis (a : Acc) : Bank := if a.turned then a.work else a.vis

/-! ## Commands (R100, R159, R262) -/

/-- The synchronisation fields of a command. -/
def cmdSync : Instr → Sync
  | .mload _ _ _ _ _ y | .mstore _ _ _ _ _ _ y | .mma _ _ _ _ _ _ y | .mwrite _ _ _ _ _ y | .mzero _ _ _ y
  | .cpyFetch _ _ _ _ _ y | .cpyPutj _ _ _ _ _ _ y | .send _ _ _ _ _ _ y | .coll _ _ _ _ _ _ _ _ _ y => y
  | _ => Sync.none

/-- The queue of a command. -/
def cmdQueue : Instr → EngQ
  | .mload .. | .mstore .. | .mma .. | .mwrite .. | .mzero .. => .mx
  | .coll .. => .port
  | _ => .cx

/-- The entries a queue holds (R100, R276). -/
def queueCap : EngQ → Nat
  | .port => 4
  | _ => 16

/-- The values of a register pair, or zeros. -/
def pairVal (r : Regs) : Option SReg → Word × Word
  | some s => (r.getS s, r.getS (s + 1))
  | none => (0, 0)

/-- A command with its operands as the registers stand: the local address or d, a, b, version, the pair of the e-field, and
for slots the claims named, for an MSTORE the accepted mode checked (R95, R263, R272-R276). -/
def newCmd (c : Core) (ctx : Nat) (r : Regs) (i : Instr) : Cmd :=
  let k : Cmd :=
    { id := c.nextId, ctx := ctx, instr := i, d := 0, a := 0, b := 0, ver := 0, e0 := 0, e1 := 0, topx := r.topx.getLsbD 0
      bandA := 0, bandB := 0, seq := c.plan.seq, alg := 0, descVer := 0, started := false, off := 0, await := [], failAt := none, walkErr := none
      halted := none, low := none, recorded := false, done := false, stamped := false, flags := 0, uncommitted := true, weights := c.weights
      step := .wait }
  match i with
  | .mload _ _ o a off _ =>
    { k with a := r.getS a + off.signExtend 64, e0 := BitVec.ofNat 64 (c.slot o.toNat).gen }
  | .mstore _ _ acc _ a off _ =>
    { k with a := r.getS a + off.signExtend 64, e0 := if (c.acc acc).nextVis.accInt then 1 else 0 }
  | .mwrite _ _ _ a off _ => { k with a := r.getS a + off.signExtend 64 }
  | .mma _ _ _ _ a b _ =>
    { k with bandA := (c.slot a.toNat).band, bandB := (c.slot b.toNat).band
             e0 := BitVec.ofNat 64 (c.slot a.toNat).gen, e1 := BitVec.ofNat 64 (c.slot b.toNat).gen }
  | .cpyFetch _ d a b v _ => { k with d := r.getS d, a := r.getS a, b := r.getS b, ver := r.getS v }
  | .cpyPutj _ d a b v st _ =>
    { k with d := r.getS d, a := r.getS a, b := r.getS b, ver := r.getS v, e0 := (pairVal r st).1, e1 := (pairVal r st).2 }
  | .send _ d a b _ _ _ => { k with d := r.getS d, a := r.getS a, b := r.getS b }
  | .coll _ _ _ _ d a b v lw _ =>
    { k with d := r.getS d, a := r.getS a, b := r.getS b, ver := r.getS v, e0 := (pairVal r lw).1, e1 := (pairVal r lw).2 }
  | _ => k

/-- Putting a command into its queue. -/
def Core.enqueue (c : Core) (k : Cmd) : Core :=
  let q := cmdQueue k.instr
  { c.setQueue q (c.queue q ++ [k]) with nextId := c.nextId + 1 }

/-- The granules of a command's local destination become empty at its acceptance (R89). -/
def Core.emptyDst (c : Core) (k : Cmd) : Core := { c with ls := c.ls.setEmpty (granules k.dst.1 k.dst.2) }

/-- The fingerprint record of an engine command (R396 tag 7): the instruction, then the scalar registers it reads. -/
def cmdRecord (r : Regs) (i : Instr) : List Word :=
  fpHdr 7 0 :: (encode i).extractLsb' 0 64 :: (encode i).extractLsb' 64 64 :: i.use.sr.map r.getS

/-- Acceptance at issue: a full queue stalls the context (R100); LDFs that are parked and can return go before a destination is
emptied (R91). -/
def accept (e : Env) (i : Instr) (c : Core) (f : Core → Core := id) : Res :=
  let q := cmdQueue i
  if queueCap q ≤ (c.queue q).length then waitI e i c 13 false true
  else
    let k := newCmd c e.who.ctx (e.regs c) i
    if c.ldfFirst e.who.ctx none (granules k.dst.1 k.dst.2) then waitI e i c 0 false true
    else
      let c := e.modCtx c (fun x => x.feed e.b (cmdRecord x.regs i))
      done e i (f ((c.enqueue k).emptyDst k))

/-- Check 5 of R262 for an engine command (R41). -/
def regionBad (e : Env) (c : Core) (i : Instr) : Bool := (e.ctx c).region.d && (cmdSync i).sig.isSome

/-- SLOT_STATE with the slot. -/
def slotTrap (o : OReg) : Trap := ⟨Cause.slotState, 0, o.setWidth 64⟩

/-- Whether a context owns a slot in the claimed, loading or ready state (R96). -/
def ownsSlot (c : Core) (ctx : Nat) (o : OReg) : Bool := !(c.slot o.toNat).isFree && (c.slot o.toNat).owner == ctx

/-! ## Slots (R96, R264-R266) -/

/-- Whether another context that parked earlier on an MCLAIM of the slot is served first (R96). -/
def claimYields (e : Env) (c : Core) (o : OReg) : Bool :=
  let mine := ((e.ctx c).wait.map (·.order)).getD c.nextId
  (List.range 11).any (fun n => n != e.who.ctx && match (c.ctx n).wait with
    | some w => w.order < mine && (match w.instr with
      | .mclaim _ q => q == o
      | _ => false)
    | none => false)

/-- MCLAIM (R96, R264). -/
def execMclaim (p : Pred) (o : OReg) (s : State) : Host.Outcome State Fault Refusal :=
  let i : Instr := .mclaim p o
  issue i (fun e c =>
    let x := c.slot o.toNat
    if ownsSlot c e.who.ctx o then done e i c
    else if x.isFree && !claimYields e c o then
      done e i ({ c with nextId := c.nextId + 1 }.setSlot o.toNat
        { x with st := .claimed, owner := e.who.ctx, fmt := none, band := 0x3F80, release := false, gen := c.nextId + 1 })
    else waitI e i c 7 true true) s

/-- MREL (R95, R96, R264). -/
def execMrel (p : Pred) (o : OReg) (s : State) : Host.Outcome State Fault Refusal :=
  let i : Instr := .mrel p o
  issue i (fun e c => if ownsSlot c e.who.ctx o then done e i (c.releaseSlot o.toNat) else trapI e i c (slotTrap o)) s

/-- MLOAD (R265): the checks of R262 in order. -/
def execMload (p : Pred) (mf : Mf) (o : OReg) (a : SReg) (off : BitVec 24) (y : Sync) (s : State) :
    Host.Outcome State Fault Refusal :=
  let i : Instr := .mload p mf o a off y
  issue i (fun e c =>
    let ea := (e.regs c).getS a + off.signExtend 64
    let src : ByteRange := (ea.toNat, mloadBytes mf)
    if !inStore e.b ea (mloadBytes mf) then trapI e i c (storeTrap ea)
    else if ea.toNat % 64 != 0 then trapC e i c Cause.misaligned 0 ea
    else if !ownsSlot c e.who.ctx o then trapI e i c (slotTrap o)
    else if !(detSrc e c src && detQueues e c .mx src (0, 0)) then trapC e i c Cause.nondet 0xC2 ea
    else if regionBad e c i then trapC e i c Cause.regionIllegal 0xC2
    else accept e i c (fun c => c.settle o.toNat)) s

/-- MBAND (R266): not queued. -/
def execMband (p : Pred) (o : OReg) (a : SReg) (s : State) : Host.Outcome State Fault Refusal :=
  let i : Instr := .mband p o a
  issue i (fun e c =>
    if !ownsSlot c e.who.ctx o then trapI e i c (slotTrap o)
    else done e i (c.setSlot o.toNat { c.slot o.toNat with band := ((e.regs c).getS a).setWidth 16 })) s

/-! ## Accumulators (R98, R99, R149, R267-R272) -/

/-- Setting the accepted mode of the bank that a command accepted now will write (R99). -/
def Acc.acceptMode (a : Acc) (isInt : Bool) : Acc :=
  if a.turned then { a with vis := { a.vis with accInt := isInt } } else { a with work := { a.work with accInt := isInt } }

def Core.acceptMode (c : Core) (acc isInt : Bool) : Core := c.setAcc acc ((c.acc acc).acceptMode isInt)

/-- The state check of an MMA operand: free or claimed traps (R96, R267). -/
def mmaSlotTrap (c : Core) (o : OReg) : Option Trap :=
  let x := c.slot o.toNat
  if x.isFree || x.st == .claimed then some (slotTrap o) else none

/-- The format check of an MMA operand (R267). -/
def mmaFmtTrap (c : Core) (mf : Mf) (o : OReg) : Option Trap :=
  if (c.slot o.toNat).fmt == some mf then none else some ⟨Cause.tagMismatch, 0, o.setWidth 64⟩

/-- The slot checks of an MMA in order (R262, R267). -/
def mmaTrap (c : Core) (mf : Mf) (a b : OReg) : Option Trap :=
  match mmaSlotTrap c a with
  | some t => some t
  | none => match mmaSlotTrap c b with
    | some t => some t
    | none => match mmaFmtTrap c mf a with
      | some t => some t
      | none => mmaFmtTrap c mf b

/-- MMA at issue (R267). -/
def execMma (p : Pred) (mf : Mf) (ow acc : Bool) (a b : OReg) (y : Sync) (s : State) : Host.Outcome State Fault Refusal :=
  let i : Instr := .mma p mf ow acc a b y
  issue i (fun e c =>
    match mmaTrap c mf a b with
    | some t => trapI e i c t
    | none =>
      if !detAcc e acc then trapC e i c Cause.nondet 0xC5
      else if ((e.ctx c).region.d && !ow) || regionBad e c i then trapC e i c Cause.regionIllegal 0xC5
      else accept e i c (fun c => if ow then c.acceptMode acc (mf == .i8) else c)) s

/-- MZERO (R269). -/
def execMzero (p : Pred) (tag : Tag) (acc : Bool) (y : Sync) (s : State) : Host.Outcome State Fault Refusal :=
  let i : Instr := .mzero p tag acc y
  issue i (fun e c =>
    if !detAcc e acc then trapC e i c Cause.nondet 0xC9
    else if regionBad e c i then trapC e i c Cause.regionIllegal 0xC9
    else accept e i c (fun c => c.acceptMode acc (tag == 5))) s

/-- MWRITE (R269). -/
def execMwrite (p : Pred) (tag : Tag) (acc : Bool) (a : SReg) (off : BitVec 24) (y : Sync) (s : State) :
    Host.Outcome State Fault Refusal :=
  let i : Instr := .mwrite p tag acc a off y
  issue i (fun e c =>
    let ea := (e.regs c).getS a + off.signExtend 64
    let src : ByteRange := (ea.toNat, 16384)
    if !inStore e.b ea 16384 then trapI e i c (storeTrap ea)
    else if ea.toNat % 64 != 0 then trapC e i c Cause.misaligned 0 ea
    else if !(detSrc e c src && detQueues e c .mx src (0, 0) && detAcc e acc) then trapC e i c Cause.nondet 0xC8 ea
    else if regionBad e c i then trapC e i c Cause.regionIllegal 0xC8
    else accept e i c (fun c => c.acceptMode acc (tag == 5))) s

/-- The legal pairs of tag and bank mode (R271). -/
def readTagOk (isInt : Bool) (t : Tag) : Bool :=
  if isInt then t == 5 || t == 3 || t == 1 || t == 7 else 7 ≤ t.toNat && t.toNat ≤ 11

/-- TAG_MISMATCH of MREAD and MSTORE (R271). -/
def bankTrap (t : Tag) (isInt : Bool) : Trap :=
  ⟨Cause.tagMismatch, 0, BitVec.ofNat 64 (t.toNat * 256 + (if isInt then 5 else 7) * 4096)⟩

/-- The band factor of a bank: the product of its two scales under R139, with its flags (R149). -/
def bandFactor (a b : BitVec 16) : Fv × Word := scaledProduct [] [bf16.val a.toNat, bf16.val b.toNat]

/-- Whether two band factors are one value (R149): numerically equal with one sign, or both NaN (log 26). -/
def factorEq (x y : Fv) : Bool :=
  match x, y with
  | .nan _, .nan _ => true
  | .inf a, .inf b => a == b
  | .num a m e, .num b n f => a == b && (exactSum a m e (!b) n f).1 == 0
  | _, _ => false

/-- A value of a bank as MREAD and MSTORE convert it (R150, R271): by the accepted mode that was checked, int or float. -/
def bankValue (isInt : Bool) (k : Bank) (t : Tag) (topx : Bool) (rm : Rm) (dr : Nat) (v : BitVec 32) : Nat × Word :=
  if isInt then
    if t == 5 then (v.toNat, 0)
    else if t == 7 then intToFp v.toInt fp32 topx rm dr
    else
      let c := clamp true (tagBits t) v.toInt
      (ofInt (tagBits t) c.1, flagIf c.2 Flag.sat)
  else
    let r := rneOf fp32 (timesFactor (fp32.val v.toNat) (bandFactor k.bandA k.bandB).1)
    if t == 7 then r
    else
      let q := (fp32.val r.1).toFp (fpOf t) topx rm dr
      (q.1, r.2 ||| q.2)

/-- Element n of a bank (a shorter list stands for zeros). -/
def Bank.get (k : Bank) (n : Nat) : BitVec 32 := (k.el[n]?).getD 0

/-- What MREAD writes (R271): lanes outside the window keep their bits. -/
def mreadRegs (b : Binding) (ctx : Nat) (isInt : Bool) (k : Bank) (t : Tag) (rm : Rm) (part : Nat) (d : VReg) (a : SReg) (r : Regs) : Regs :=
  let seg := (r.getS a).toNat % 512
  let out (j : Nat) : Nat × Word :=
    bankValue isInt k t (r.topx.getLsbD 0) rm (drawBits b ctx r j) (k.get (64 * (seg / 8) + 8 * (seg % 8) + j))
  let val (n : Nat) : Nat := if 8 * part ≤ n && n < 8 * part + 8 then (out (n - 8 * part)).1 else lane r t d n
  ((r.setV d ⟨ofLanes t ((List.range (tagElems t)).map val), t⟩).orFlags
    (orAll ((List.range 8).map (fun j => (out j).2)))).advance rm 8

/-- The MSWAPs that a context's MREAD waits for, and the accepted mode of the bank it reads: those of its issue where it stalls
already (R99). -/
def Acc.readOf (a : Acc) (ctx : Nat) : StalledRead :=
  (a.reads.find? (fun p => p.ctx == ctx)).getD ⟨ctx, a.swap.length, a.nextVis.accInt⟩

/-- The stalled MREADs of an accumulator with one of a context, or without it. -/
def Acc.stall (a : Acc) (p : StalledRead) : Acc := { a with reads := a.reads.filter (fun q => q.ctx != p.ctx) ++ [p] }
def Acc.unstall (a : Acc) (ctx : Nat) : Acc := { a with reads := a.reads.filter (fun q => q.ctx != ctx) }

/-- MREAD (R270, R271): it stalls until the MSWAPs of its accumulator issued before it have exchanged. -/
def execMread (p : Pred) (tag : Tag) (acc : Bool) (rm : Rm) (part : BitVec 3) (d : VReg) (a : SReg) (s : State) :
    Host.Outcome State Fault Refusal :=
  let i : Instr := .mread p tag acc rm part d a
  issue i (fun e c =>
    let k := c.acc acc
    let p := k.readOf e.who.ctx
    if !readTagOk p.isInt tag then trapI e i c (bankTrap tag p.isInt)
    else match (if tagElems tag > 8 then blindTrap (e.regs c) d else none) with
      | some t => trapI e i c t
      | none =>
        if !detAcc e acc then trapC e i c Cause.nondet 0xC7
        else if p.ahead != 0 then waitI e i (c.setAcc acc (k.stall p)) 0 false true
        else done e i (e.modRegs (c.setAcc acc (k.unstall e.who.ctx)) (mreadRegs e.b e.who.ctx p.isInt k.vis tag rm part.toNat d a))) s

/-- MSTORE at issue (R272). -/
def execMstore (p : Pred) (tag : Tag) (acc : Bool) (rm : Rm) (a : SReg) (off : BitVec 24) (y : Sync) (s : State) :
    Host.Outcome State Fault Refusal :=
  let i : Instr := .mstore p tag acc rm a off y
  issue i (fun e c =>
    let ea := (e.regs c).getS a + off.signExtend 64
    let n := 4096 * tagBytes tag
    let dst : ByteRange := (ea.toNat, n)
    let k := c.acc acc
    if !inStore e.b ea n then trapI e i c (storeTrap ea)
    else if ea.toNat % 64 != 0 then trapC e i c Cause.misaligned 0 ea
    else if !readTagOk k.nextVis.accInt tag then trapI e i c (bankTrap tag k.nextVis.accInt)
    else match winTrap c .write ea.toNat n ea with
      | some t => trapI e i c t
      | none =>
        if !(detDst e c dst && detQueues e c .mx (0, 0) dst && detAcc e acc) then trapC e i c Cause.nondet 0xC3 ea
        else if regionBad e c i then trapC e i c Cause.regionIllegal 0xC3
        else accept e i c) s

/-- What an MSWAP waits for (R99): the queued commands that write the bank it finds working or read the one it finds
visible. -/
def Cmd.usesBank (k : Cmd) (acc : Bool) : Bool :=
  match k.instr with
  | .mma _ _ _ c _ _ _ | .mstore _ _ c _ _ _ _ | .mwrite _ _ c _ _ _ | .mzero _ _ c _ => c == acc
  | _ => false

/-- The exchange of an issued MSWAP, once its commands have completed, the MREADs issued before it have read, and it is the oldest
(R99). -/
def Core.exchange (c : Core) (ctx : Nat) (acc : Bool) : Option Core :=
  let a := c.acc acc
  match a.swap with
  | (n, ids) :: rest =>
    if n == ctx && c.mx.all (fun k => !ids.contains k.id) && a.reads.all (fun p => p.ahead != 0) then
      some (c.setAcc acc ⟨a.vis, a.work, rest, a.reads.map (fun p => { p with ahead := p.ahead - 1 })⟩)
    else none
  | [] => none

/-- MSWAP (R99, R270): it parks; the exchange retires it (MSWAP_EXCHANGE). With nothing to wait for it exchanges at once. -/
def execMswap (p : Pred) (acc : Bool) (s : State) : Host.Outcome State Fault Refusal :=
  let i : Instr := .mswap p acc
  issue i (fun e c =>
    if !detAcc e acc then trapC e i c Cause.nondet 0xC6
    else
      let a := c.acc acc
      let c' := if a.swap.any (fun p => p.1 == e.who.ctx) then c
        else c.setAcc acc { a with swap := a.swap ++ [(e.who.ctx, (c.mx.filter (·.usesBank acc)).map (·.id))] }
      match c'.exchange e.who.ctx acc with
      | some c => done e i c
      | none => waitI e i c' 8 true false) s

/-! ## Copy engine and collectives at issue (R262, R273-R276) -/

/-- CPY fetch at issue (R273); in a pair the check comes before acceptance (R397). -/
def execCpyFetch (p : Pred) (d a b vr : SReg) (y : Sync) (s : State) : Host.Outcome State Fault Refusal :=
  let i : Instr := .cpyFetch p d a b vr y
  issue i (fun e c =>
    let r := e.regs c
    let dst := r.getS d
    let n := (r.getS b).toNat
    if !inStore e.b dst n then trapI e i c (storeTrap dst)
    else if dst.toNat % 64 != 0 then trapC e i c Cause.misaligned 0 dst
    else if (r.getS a).toNat % 64 != 0 || n % 64 != 0 || n == 0 || 262144 < n then
      trapC e i c Cause.misaligned 0 (r.getS a)
    else if !canonical (r.getS a) then trapC e i c Cause.addrNoncanon 0 (r.getS a)
    else match winTrap c .write dst.toNat n dst with
      | some t => trapI e i c t
      | none =>
        if !(detDst e c (dst.toNat, n) && detQueues e c .cx (0, 0) (dst.toNat, n)) then trapC e i c Cause.nondet 0xCA dst
        else if regionBad e c i then trapC e i c Cause.regionIllegal 0xCA
        else if queueCap .cx ≤ c.cx.length then waitI e i c 13 false true
        else pairCheck e c (fun c => accept e i c)) s

/-- CPY putj at issue (R273, R274). -/
def execCpyPutj (p : Pred) (d a b vr : SReg) (st : Option SReg) (y : Sync) (s : State) : Host.Outcome State Fault Refusal :=
  let i : Instr := .cpyPutj p d a b vr st y
  issue i (fun e c =>
    let r := e.regs c
    let src := r.getS d
    let n := (r.getS b).toNat
    if !inStore e.b src n then trapI e i c (storeTrap src)
    else if src.toNat % 64 != 0 then trapC e i c Cause.misaligned 0 src
    else if (r.getS a).toNat % 64 != 0 || n % 64 != 0 || n == 0 || 262144 < n then
      trapC e i c Cause.misaligned 0 (r.getS a)
    else if !canonical (r.getS a) then trapC e i c Cause.addrNoncanon 0 (r.getS a)
    else if !(detSrc e c (src.toNat, n) && detQueues e c .cx (src.toNat, n) (0, 0)) then trapC e i c Cause.nondet 0xCA src
    else if regionBad e c i then trapC e i c Cause.regionIllegal 0xCA
    else accept e i c) s

/-- A withheld command: forbidden in D = 1 regions, one egress entry (R40, R41, R262). -/
def withholdCmd (e : Env) (i : Instr) (maj : Nat) (c : Core) : Res :=
  if (e.ctx c).region.d then trapC e i c Cause.regionIllegal maj
  else withhold e i c (.cmd i) (cmdRecord (e.regs c) i)

/-- SEND (R275). -/
def execSend (p : Pred) (d a b : SReg) (len : BitVec 14) (fmt : Tag) (y : Sync) (s : State) : Host.Outcome State Fault Refusal :=
  let i : Instr := .send p d a b len fmt y
  issue i (withholdCmd · i 0xCB) s

/-- COLL (R276): the level is checked at issue (R28). -/
def execColl (p : Pred) (k : Level) (cop : BitVec 8) (fmt : Tag) (d a b vr : SReg) (lw : Option SReg) (y : Sync) (s : State) :
    Host.Outcome State Fault Refusal :=
  let i : Instr := .coll p k cop fmt d a b vr lw y
  issue i (fun e c => match levelTrap e k.toNat with
    | some t => trapI e i c t
    | none => withholdCmd e i 0xCC c) s

/-! ## Semaphores, guards, engine waits (R277, R278) -/

/-- Whether a wait with a threshold passes (R102). -/
def semPasses (q : Nat) (t : BitVec 16) : Bool := (q + 65536 - t.toNat) % 65536 < 32768

/-- Applying an increment (R102). -/
def Core.addSem (c : Core) (q inc : Nat) : Core := { c with sems := aset c.sems q ((acount c.sems q + inc) % 65536) }

/-- SEMW (R277). -/
def execSemw (p : Pred) (q : BitVec 8) (t : BitVec 16) (s : State) : Host.Outcome State Fault Refusal :=
  let i : Instr := .semw p q t
  issue i (fun e c => if semPasses (acount c.sems q.toNat) t then done e i c else waitI e i c 9 true true) s

/-- SEMS (R277): withheld. -/
def execSems (p : Pred) (q inc : BitVec 8) (s : State) : Host.Outcome State Fault Refusal :=
  let i : Instr := .sems p q inc
  issue i (fun e c =>
    if (e.ctx c).region.d then trapC e i c Cause.regionIllegal 0xCE
    else withhold e i c (.sems q.toNat inc.toNat)) s

/-- SEMR (R277). -/
def execSemr (p : Pred) (d : SReg) (q : BitVec 8) (s : State) : Host.Outcome State Fault Refusal :=
  let i : Instr := .semr p d q
  issue i (fun e c =>
    if e.b.det then trapC e i c Cause.nondet 0xCF
    else done e i (e.modRegs c (fun r => r.setS d (BitVec.ofNat 64 (acount c.sems q.toNat))))) s

/-- Setting a guard (R103). -/
def Core.setGuard (c : Core) (g : BitVec 4) (v : Option Bool) : Core := { c with guards := c.guards.set g.toNat v g.isLt }

/-- GARM (R103, R277). -/
def execGarm (p : Pred) (g : BitVec 4) (s : State) : Host.Outcome State Fault Refusal :=
  let i : Instr := .garm p g
  issue i (fun e c =>
    if !detGuard e c g.toNat (fun k => cmdSync k.instr) then trapC e i c Cause.nondet 0xD0
    else done e i (c.setGuard g none)) s

/-- GRES (R103, R277). -/
def execGres (p : Pred) (g : BitVec 4) (a : PReg) (neg : Bool) (s : State) : Host.Outcome State Fault Refusal :=
  let i : Instr := .gres p g a neg
  issue i (fun e c =>
    if !detGuard e c g.toNat (fun k => cmdSync k.instr) then trapC e i c Cause.nondet 0xD1
    else done e i (c.setGuard g (some ((e.regs c).getP a != neg)))) s

/-- EWAIT (R278, R370): it waits for the context's own commands; a halted one's undelivered fault is delivered here. -/
def execEwait (p : Pred) (mx cx ce : Bool) (s : State) : Host.Outcome State Fault Refusal :=
  let i : Instr := .ewait p mx cx ce
  issue i (fun e c =>
    let mine (k : Cmd) : Bool := k.ctx == e.who.ctx && !k.done
    if !((mx && c.mx.any mine) || (cx && c.cx.any mine) || (ce && c.port.any mine)) then done e i c
    else match (if cx && !(e.ctx c).trap.act && c.cx.any (fun k => mine k && k.halted.isSome && !k.recorded) then
        (e.ctx c).deferred else none) with
      | some d => deliver e i c d (fun c => e.modCtx c (fun x => { x with deferred := none }))
      | none => waitI e i c 10 true true) s

end Sys2Proof.Machine
end

