-- ==== Sys2Proof/Machine/System.lean ====
section
/-! DEFINITION. The system instructions, majors 0xE0 to 0xE5 and 0xFF (R282-R285), and the encoding trap (R164). -/

namespace Sys2Proof.Machine
open Sys2Proof

/-- Whether RECOV is visible: the control context of the supervisor core (R285). -/
def seesRecov (e : Env) : Bool := e.who.ctx == 0 && e.b.lcore == e.b.super

/-- TREEPOS of a level (R284). -/
def treePos (e : Env) (l : TreeLevel) (k : Nat) : Word :=
  let child := if l.code == 1 then e.who.ctx else if l.code == 0 then 0 else (e.b.child[k]?).getD 0
  BitVec.ofNat 64 (child % 65536 + l.arity % 65536 * 2 ^ 16 + l.code % 16 * 2 ^ 32 + b2n l.re * 2 ^ 36
    + e.b.tree.length % 128 * 2 ^ 40 + coreLevel e.b.tree % 64 * 2 ^ 48)

/-- What MFS reads from a register other than TREEPOS (R283). -/
def sregVal (e : Env) (c : Core) (n : Nat) : Word :=
  let x := e.ctx c
  let n64 := BitVec.ofNat 64
  match n with
  | 0x000 => n64 e.b.lcore
  | 0x001 => n64 (if e.b.checker then e.b.peer.getD e.who.core else e.who.core)
  | 0x002 => n64 e.who.ctx
  | 0x003 => n64 e.b.launch.acc
  | 0x004 => n64 (b2n e.b.det)
  | 0x005 => n64 (b2n e.b.pair)
  | 0x008 => (e.b.seed.setWidth 32).setWidth 64
  | 0x009 => e.b.seed >>> 32
  | 0x00A => x.regs.rngctr
  | 0x00B => x.regs.topx
  | 0x00C => x.regs.flags
  | 0x010 => x.region.entry ||| n64 (b2n x.region.d + 2 * b2n x.region.m)
  | 0x018 => x.trap.tvec
  | 0x019 => x.trap.tcause
  | 0x01A => x.trap.tpc
  | 0x01B => x.trap.tword
  | 0x01C => x.trap.taddr
  | 0x01D => x.trap.taux
  | 0x020 => if seesRecov e then c.recov.headD 0 else 0
  | 0x028 => c.arbw
  | 0x030 => n64 e.clk
  | 0x038 => n64 e.b.asid
  | _ => 0

/-- MFS (R282, R283). -/
def execMfs (p : Pred) (d : SReg) (sreg : BitVec 12) (s : State) : Host.Outcome State Fault Refusal :=
  let i : Instr := .mfs p d sreg
  issue i (fun e c =>
    let n := sreg.toNat
    if 0x100 ≤ n then
      match e.b.level? (n - 0x100) with
      | none => trapC e i c Cause.levelRange (n - 0x100)
      | some l => done e i (e.modRegs c (fun r => r.setS d (treePos e l (n - 0x100))))
    else if n == 0x030 && e.b.det then trapC e i c Cause.nondet 0xE0
    else done e i (e.modRegs c (fun r => r.setS d (sregVal e c n)))) s

/-- Taking the held RECOV event: the next one, if any, is loaded (R285, R408). -/
def Core.takeRecov (c : Core) (v : Word) : Core := if v.getLsbD 0 then { c with recov := c.recov.drop 1 } else c

/-- What MTS writes (R7, R283): reserved bits stay zero, read-only registers and fields keep their value. -/
def mtsCore (e : Env) (c : Core) (n : Nat) (v : Word) : Core :=
  let reg (f : Regs → Regs) : Core := e.modRegs c f
  let trap (f : TrapRegs → TrapRegs) : Core := e.modCtx c (fun x => { x with trap := f x.trap })
  match n with
  | 0x00A => reg (fun r => { r with rngctr := v })
  | 0x00B => reg (fun r => { r with topx := v &&& 1 })
  | 0x00C => reg (fun r => { r with flags := v &&& 0x7F })
  | 0x018 => trap (fun t => { t with tvec := v })
  | 0x019 => trap (fun t => { t with tcause := (t.tcause &&& (1 <<< 63)) ||| (v &&& 0xFFFF) })
  | 0x01A => trap (fun t => { t with tpc := v })
  | 0x01B => trap (fun t => { t with tword := v })
  | 0x01C => trap (fun t => { t with taddr := v })
  | 0x01D => trap (fun t => { t with taux := v })
  | 0x020 => if seesRecov e then c.takeRecov v else c
  | 0x028 => { c with arbw := v &&& 0xFFFFFF }
  | _ => c

/-- MTS (R282, R283, R396 tag 8). -/
def execMts (p : Pred) (a : SReg) (sreg : BitVec 12) (s : State) : Host.Outcome State Fault Refusal :=
  let i : Instr := .mts p a sreg
  issue i (fun e c =>
    let v := (e.regs c).getS a
    let c := mtsCore e c sreg.toNat v
    done e i (e.modCtx c (fun x => x.feed e.b [fpHdr 8 sreg.toNat, v]))) s

/-- CLKR (R282). -/
def execClkr (p : Pred) (d : SReg) (s : State) : Host.Outcome State Fault Refusal :=
  let i : Instr := .clkr p d
  issue i (fun e c =>
    if e.b.det then trapC e i c Cause.nondet 0xE2
    else done e i (e.modRegs c (fun r => r.setS d (BitVec.ofNat 64 e.clk)))) s

/-- RNGR (R143, R282). -/
def execRngr (p : Pred) (d : SReg) (s : State) : Host.Outcome State Fault Refusal :=
  compute (.rngr p d)
    (fun e x => { x.regs with rngctr := x.regs.rngctr + 1 }.setS d (rngF (rngKey e.b e.who.ctx) x.regs.rngctr)) s

/-- Which cached translations a TLBF drops (R282). -/
def tlbfKeeps (e : Env) (r : Regs) (f : TlbfForm) (t : Tlb) : Bool :=
  match f with
  | .all => false
  | .page a => !t.covers e.b.asid (r.getS a)

/-- TLBF (R282): it stalls while a walk of the core is under way. -/
def execTlbf (p : Pred) (f : TlbfForm) (s : State) : Host.Outcome State Fault Refusal :=
  let i : Instr := .tlbf p f
  issue i (fun e c =>
    if e.walking then waitI e i c 0 false true
    else done e i { c with tlb := c.tlb.filter (tlbfKeeps e (e.regs c) f) }) s

/-- BKPT (R282): like TRAP it retires. -/
def execBkpt (p : Pred) (code : BitVec 12) (s : State) : Host.Outcome State Fault Refusal :=
  let i : Instr := .bkpt p code
  issue i (fun e c =>
    let next := e.succ c i
    takeTrap e (retire e i c) next i.word ⟨Cause.breakpoint, 0, code.setWidth 64⟩) s

/-- The encoding trap (R164): TWORD and TAUX hold the instruction's bits. -/
def illegalTrap (raw : BitVec 128) (e : Env) (c : Core) : Res :=
  takeTrap e c (e.pc c) (raw.extractLsb' 0 64) ⟨Cause.illegal, 0, raw.extractLsb' 64 64⟩

/-- ILL (R282): ILLEGAL at every length. -/
def execIll (raw : BitVec 128) (s : State) : Host.Outcome State Fault Refusal := issue (.ill raw) (illegalTrap raw) s

end Sys2Proof.Machine
end

