-- ==== Sys2Proof/Machine/Rsu.lean ====
section
/-! DEFINITION. The home RSUs: joins, reads, freezes, parking, wakes and retries (R50-R63, R66, R403, R411), and the
combining of joins in the mesh (R67). An event whose condition does not hold changes nothing (log 17). -/

namespace Sys2Proof.Machine
open Sys2Proof

/-! ## Evaluating one line -/

/-- What becomes of a join (R50, R52, R53, R63). -/
inductive JoinRes where
  | applied
  | fails (t : Trap)
  | parks
  deriving DecidableEq, Repr

/-- The 64 bytes of a line. -/
def Device.lineBytes (x : Device) (n : Nat) : List Byte := cellsRead x.mem (64 * n) 64

/-- The kind and width of a join's data. -/
def JoinData.kw : JoinData → Kind × Width
  | .elems k w _ => (k, w)
  | .fill .. => (.fill, .w8)
  | .ver .. => (.ver, .w8)

/-- Whether a line holds nothing but the bottom of a kind (R64). -/
def Device.atBottom (x : Device) (n : Nat) (k : Kind) : Bool :=
  let l := x.line n
  !l.frozen && !l.bad && l.ver == 0 && l.masks.toList.all (fun m => m == 0) && x.lineBytes n == bottomLine k

/-- A request of a kind reaching a line: a line at the bottom of the kind that it was last requested under, or fresh, holds
the new kind's bottom (R50, R64; log 5). -/
def Device.touch (x : Device) (n : Nat) (k : Kind) (w : Width) : Device :=
  let l := x.line n
  let was := l.kind.getD .max
  let x := if bottomLine was != bottomLine k && x.atBottom n was then
      { x with mem := cellsWrite x.mem (64 * n) (bottomLine k) }
    else x
  x.setLine n { l with kind := some k, wd := w }

/-- MEM_UNCORR of a poisoned line (R403). -/
def lineBad (va : Word) : Trap := ⟨Cause.memUncorr, va, 0⟩

/-- The elements of an element join, each joined on its own (R50, R87). -/
def Device.joinElems (x : Device) (n : Nat) (k : Kind) (w : Width) (es : List (Nat × Nat)) : Device :=
  let wb := w.bits / 8
  { x with mem := es.foldl (fun m p =>
      let a := 64 * n + p.1
      cellsWrite m a (natBytes wb (joinVal k w.bits (leNat (cellsRead m a wb)) p.2))) x.mem }

/-- A .fill join (R52). -/
def Device.joinFill (x : Device) (n g : Nat) (mask : BitVec 32) (data : BitVec 128) (va : Word) : Device × JoinRes :=
  let l := x.line n
  let a := 64 * n + 16 * g
  let old : BitVec 128 := BitVec.ofNat 128 (leNat (cellsRead x.mem a 16))
  let have_ : BitVec 32 := (l.masks[g]?).getD 0
  if fillConflict have_ old mask data then (x, .fails ⟨Cause.latticeConflict, va, 0⟩)
  else
    let x := { x with mem := cellsWrite x.mem a (natBytes 16 (fillData old mask data).toNat) }
    (x.setLine n { l with masks := l.masks.setIfInBounds g (have_ ||| mask) }, .applied)

/-- A .ver join (R53). -/
def Device.joinVer (x : Device) (n : Nat) (v : BitVec 32) (data : BitVec 512) (va : Word) : Device × JoinRes :=
  let l := x.line n
  if v.toNat = l.ver.toNat + 1 then
    let x := { x with mem := cellsWrite x.mem (64 * n) (natBytes 64 data.toNat) }
    (x.setLine n { l with ver := v }, .applied)
  else if l.ver.toNat < v.toNat then (x, .parks)
  else if v = l.ver then
    (x, if leNat (x.lineBytes n) = data.toNat then .applied else .fails ⟨Cause.latticeConflict, va, 0⟩)
  else (x, .fails ⟨Cause.staleVersion, va, l.ver.setWidth 64⟩)

/-- One part of a join at a line (R50, R52, R53, R63, R403). -/
def Device.joinLine (x : Device) (n : Nat) (d : JoinData) (va : Word) : Device × JoinRes :=
  let l := x.line n
  if l.bad then (x, .fails (lineBad va))
  else if l.frozen then (x, .fails ⟨Cause.writeAfterFreeze, va, 0⟩)
  else match d with
    | .elems k w es => (x.joinElems n k w es, .applied)
    | .fill g m data => x.joinFill n g m data va
    | .ver v data => x.joinVer n v data va

/-- A threshold read at a line: the lowest passed trigger, 4 when frozen, or nothing yet (R54). -/
def Device.treadNow (x : Device) (n : Nat) (va : Word) (k : Kind) (w : Width) (off : Nat) (trig : List Word) :
    Option Answer :=
  let l := x.line n
  if l.bad then some (.trap (lineBad va))
  else
    let v := match k with
      | .fill => ((l.masks[off / 16]?).getD 0).toNat
      | .ver => l.ver.toNat
      | _ => leNat (cellsRead x.mem (64 * n + off) (w.bits / 8))
    match trig.findIdx? (fun t => passed k v t.toNat) with
    | some i => some (.index i)
    | none => if l.frozen then some (.index 4) else none

/-- Whether every element of a range can no longer change (R57). -/
def Device.rangeFinal (x : Device) (n : Nat) (k : Kind) (w : Width) (off len : Nat) : Bool :=
  let l := x.line n
  let wb := w.bits / 8
  l.frozen || (match k with
    | .fill => (granules off len).all (fun g => (l.masks[g]?).getD 0 == 0xFFFFFFFF)
    | _ => (List.range (len / wb)).all (fun i => isFinal k w.bits (leNat (cellsRead x.mem (64 * n + off + i * wb) wb))))

/-- An exact read at a line (R57, R58): its answer, or nothing yet. -/
def Device.xreadNow (x : Device) (n : Nat) (va : Word) (k : Kind) (w : Width) (off len : Nat) (v : BitVec 32) :
    Option Answer :=
  let l := x.line n
  if l.bad then some (.trap (lineBad va))
  else if k == .ver then
    if l.ver = v then some (.data (x.lineBytes n))
    else if v.toNat < l.ver.toNat then some (.trap ⟨Cause.staleVersion, va, l.ver.setWidth 64⟩)
    else if l.frozen then some (.trap ⟨Cause.versionUnreachable, va, l.ver.setWidth 64⟩)
    else none
  else if x.rangeFinal n k w off len then some (.data (cellsRead x.mem (64 * n + off) len))
  else none

/-- The answer to a read at its line, if it has one (R54, R57, R58). -/
def Device.readNow (x : Device) (n : Nat) : Req → Option (Origin × Answer)
  | .tread o va k w off trig => (x.treadNow n va k w off trig).map (fun a => (o, a))
  | .xread o va k w off len v => (x.xreadNow n va k w off len v).map (fun a => (o, a))
  | .freeze .. | .join _ | .sread .. | .swrite .. | .bottom .. => none

/-! ## The park table (R59-R61) -/

/-- The entries in the park table of a line's RSU (R59, R73). -/
def Device.parkUsed (x : Device) (n : Nat) : Nat :=
  (x.park.filter (fun p => homeDie (64 * p.line) == homeDie (64 * n) && homeRsu (64 * p.line) == homeRsu (64 * n))).length

/-- Answering the parked reads of a line that now have an answer, in park-table order (R54, R57, R61). -/
def Device.wakeReads (x : Device) (n : Nat) : Device × List Body :=
  let answer (p : Park) : Option (Origin × Answer) := if p.line == n then x.readNow n p.r else none
  ({ x with park := x.park.filter (fun p => (answer p).isNone) },
   (x.park.filterMap answer).map (fun a => .answer a.1 a.2))

/-- Whether a parked .ver join of a line need wait no longer: its predecessor has come, or the line is frozen or poisoned. -/
def Device.joinDue (x : Device) (n : Nat) (p : Park) : Bool :=
  p.line == n && (match p.r with
    | .join [q] => (x.joinLine n q.data q.va).2 != .parks
    | _ => false)

/-- Acknowledging a part (R67). -/
def Part.ack (p : Part) (r : JoinRes) : Body :=
  .ack p.from_ (match r with
    | .fails t => some t
    | _ => none)

/-- Evaluating the requests parked on a line until none can go on: the reads first, then the earliest .ver join that is
due, each advance before the next (R53, R54, R58, R63). The number bounds the joins. -/
def Device.settleLine (x : Device) (n : Nat) : Nat → Device × List Body
  | 0 => x.wakeReads n
  | fuel + 1 =>
    let (x, ws) := x.wakeReads n
    match x.park.find? (x.joinDue n) with
    | some ⟨l, la, .join [q]⟩ =>
      let x := { x with park := x.park.erase ⟨l, la, .join [q]⟩ }
      let (x, r) := x.joinLine n q.data q.va
      let (x, more) := x.settleLine n fuel
      (x, ws ++ q.ack r :: more)
    | _ => (x, ws)

def Device.settle (x : Device) (n : Nat) : Device × List Body := x.settleLine n (x.park.length + 1)

/-! ## Requests at a home -/

/-- Sending the answers of a home to those they go to. -/
def State.sendAll (s : State) (dev : Nat) (bs : List Body) : State :=
  bs.foldl (fun s b => match b with
    | .answer o a => s.send dev o.dev 0x010101 (.answer o a)
    | .ack o t => s.send dev o.dev 0x010101 (.ack o t)
    | b => s.send dev dev 0x010101 b) s

/-- Marking a context's wait as a park-table retry (R60, R369). -/
def State.markRetry (s : State) (o : Origin) : State :=
  match o with
  | .ctx w no => s.modCtx w (fun x => { x with wait := x.wait.map (fun v =>
      if v.no == no then { v with retry := true, code := 14 } else v) })
  | _ => s

/-- Parking a request, or its retry when the park table is full (R59, R60): the requester sends it again after 256
cycles. -/
def State.parkReq (s : State) (dev n : Nat) (weights : BitVec 24) (la : Option LaunchId) (o : Origin) (r : Req) : State :=
  if (s.device dev).parkUsed n < 8192 then s.modDev dev (fun x => { x with park := x.park ++ [⟨n, la, r⟩] })
  else (s.modDev o.dev (fun x => { x with retry := x.retry ++ [⟨weights, .req (dev * 2 ^ 38 + n) la r, 0⟩] })).markRetry o

/-- Reporting a line to which a .cnt join of a launch was applied (R411). -/
def State.reportCnt (s : State) (dev n : Nat) (p : Part) : State :=
  match p.launch, p.data.kw.1 with
  | some l, .cnt =>
    if (s.device dev).cntSeen.contains (l, n) then s
    else
      let va : Word := BitVec.ofNat 64 (p.va.toNat / 64 * 64)
      (s.modDev dev (fun x => { x with cntSeen := x.cntSeen ++ [(l, n)] })).modDev l.owner (fun x => x.modLaunch l.acc
        (fun y => if y.cnts.contains va then y
          else if y.cnts.length < 1024 then { y with cnts := y.cnts ++ [va] } else { y with cover := true }))
  | _, _ => s

/-- A join's part at its home: applied, failed or parked, with its acknowledgement (R50, R53, R60, R67). -/
def State.homePart (s : State) (dev n : Nat) (weights : BitVec 24) (p : Part) : State :=
  let x := (s.device dev).touch n p.data.kw.1 p.data.kw.2
  let (x, r) := x.joinLine n p.data p.va
  let s := s.modDev dev (fun _ => x)
  match r with
  | .parks => s.parkReq dev n weights p.launch p.from_ (.join [p])
  | .applied => (s.reportCnt dev n p).sendAll dev [p.ack r]
  | .fails _ => s.sendAll dev [p.ack r]

/-- The re-evaluation of the requests parked on a line, after an act at it. -/
def State.settleHome (s : State) (dev n : Nat) : State :=
  let (x, bs) := (s.device dev).settle n
  (s.modDev dev (fun _ => x)).sendAll dev bs

/-- A join at its home (R50-R53, R63, R66, R67). -/
def State.homeJoin (s : State) (dev n : Nat) (weights : BitVec 24) (ps : List Part) : State :=
  (ps.foldl (fun s p => s.homePart dev n weights p) s).settleHome dev n

/-- A read at its home: answered, or parked (R54, R57-R60). -/
def State.homeRead (s : State) (dev n : Nat) (weights : BitVec 24) (la : Option LaunchId) (r : Req) : State :=
  let s := match r with
    | .tread _ _ k w _ _ | .xread _ _ k w _ _ _ => s.modDev dev (fun x => x.touch n k w)
    | _ => s
  match (s.device dev).readNow n r with
  | some (o, a) => s.sendAll dev [.answer o a]
  | none => match r.origin? with
    | some o => s.parkReq dev n weights la o r
    | none => s

/-- A freeze at its home (R62): the bit, the parked requests, the answer. -/
def State.homeFreeze (s : State) (dev n : Nat) (o : Origin) (va : Word) (k : Kind) (w : Width) : State :=
  if ((s.device dev).line n).bad then s.sendAll dev [.answer o (.trap (lineBad va))]
  else
    let s := s.modDev dev (fun x =>
      let x := x.touch n k w
      x.setLine n { x.line n with frozen := true })
    (s.settleHome dev n).sendAll dev [.answer o .ok]

/-- A Curator's request for a line of a system-kind page, or for a line back at bottom, at its home (R13, R64, R319): carried out and
answered; a line with an uncorrectable error fails the read. -/
def State.homeSystem (s : State) (dev n : Nat) : Req → State
  | .sread o va =>
    s.sendAll dev [.answer o (if ((s.device dev).line n).bad then .trap (lineBad va) else .data ((s.device dev).lineBytes n))]
  | .swrite o bs =>
    (s.modDev dev (fun x => { x with
      mem := cellsWrite x.mem (64 * n) bs, badDwords := x.badDwords.filter (fun a => a / 64 != n) })).sendAll dev [.answer o .ok]
  | .bottom o k =>
    ((s.modDev dev (fun x =>
      ({ x with mem := cellsWrite x.mem (64 * n) (bottomLine k) } : Device).setLine n { Line.fresh with kind := some k })).settleHome
        dev n).sendAll dev [.answer o .ok]
  | _ => s

/-! ## Messages in the mesh -/

/-- Taking a message out of the mesh. -/
def State.dropMsg (s : State) (n : Nat) : State := { s with net := s.net.eraseIdx n }

/-- The contexts whose requests a message carries. -/
def Body.callers : Body → List Who
  | .req _ _ (.join ps) => ps.filterMap (fun p => match p.from_ with
    | .ctx w _ => some w
    | _ => none)
  | .req _ _ r => match r.origin? with
    | some (.ctx w _) => [w]
    | _ => []
  | _ => []

/-- The line a message asks for. -/
def Body.line? : Body → Option Nat
  | .req l _ _ => some l
  | _ => none

/-- Whether two messages are requests of one context to one line, which reach the home in order (R66). -/
def Msg.sameLane (a b : Msg) : Bool :=
  a.dev == b.dev && a.body.line? == b.body.line? && a.body.callers.any b.body.callers.contains

/-- Whether no earlier request of the same context to the same line is still under way (R66). -/
def State.isNext (s : State) (n : Nat) (m : Msg) : Bool := (s.net.take n).all (fun q => !q.sameLane m)

/-- A request that can reach its home now: no router holds it, and it is next in its order. -/
def State.atHome (s : State) (n : Nat) : Option (Nat × Nat × BitVec 24 × Option LaunchId × Req) :=
  match s.net[n]? with
  | some m => match m.body with
    | .req l la r => if m.hold.isNone && s.isNext n m then some (m.dev, l, m.weights, la, r) else none
    | _ => none
  | none => none

/-- RSU_JOIN (R50-R53, R63, R66): message n, a join, a barrier's count join (R32) or a Curator's write of a line, takes effect at its home. -/
def execRsuJoin (n : Nat) (s : State) : Host.Outcome State Fault Refusal :=
  match s.atHome n with
  | some (dev, l, wt, _, .join ps) => .next ((s.dropMsg n).homeJoin dev l wt ps)
  | some (dev, l, _, _, .swrite o bs) => .next ((s.dropMsg n).homeSystem dev l (.swrite o bs))
  | some (dev, l, _, _, .bottom o k) => .next ((s.dropMsg n).homeSystem dev l (.bottom o k))
  | _ => match s.net[n]? with
    | some ⟨dev, _, _, .count la k node⟩ =>
      .next ((s.dropMsg n).modDev dev (fun x =>
        let key := (la, k, node)
        match x.barCnt.find? (fun p => p.1 == key) with
        | some p => { x with barCnt := x.barCnt.map (fun q => if q.1 == key then (key, min (p.2 + 1) (2 ^ 64 - 1)) else q) }
        | none => { x with barCnt := x.barCnt ++ [(key, 1)] }))
    | _ => .next s

/-- RSU_THRESHOLD_READ (R54-R56). -/
def execRsuThresholdRead (n : Nat) (s : State) : Host.Outcome State Fault Refusal :=
  match s.atHome n with
  | some (dev, l, wt, la, .tread o va k w off t) => .next ((s.dropMsg n).homeRead dev l wt la (.tread o va k w off t))
  | _ => .next s

/-- RSU_EXACT_READ (R57, R58, R319): message n, an exact read, or a Curator's read of a line of a system-kind page. -/
def execRsuExactRead (n : Nat) (s : State) : Host.Outcome State Fault Refusal :=
  match s.atHome n with
  | some (dev, l, _, _, .sread o va) => .next ((s.dropMsg n).homeSystem dev l (.sread o va))
  | some (dev, l, wt, la, .xread o va k w off len v) =>
    .next ((s.dropMsg n).homeRead dev l wt la (.xread o va k w off len v))
  | _ => .next s

/-- RSU_FREEZE (R62). -/
def execRsuFreeze (n : Nat) (s : State) : Host.Outcome State Fault Refusal :=
  match s.atHome n with
  | some (dev, l, _, _, .freeze o va k w) => .next ((s.dropMsg n).homeFreeze dev l o va k w)
  | _ => .next s

/-! ## Answers at a context -/

/-- Running a step of a context that another agent causes; a core that holds no launch has no context to step. -/
def State.onCtx (s : State) (w : Who) (f : Env → Core → Res) : State :=
  match runCtx s w f with
  | .next s => s
  | _ => s

/-- The wait that an answer with a number ends: an answer for a withdrawn wait is discarded (R368). -/
def Context.waitFor (x : Context) (no : Nat) : Option Wait :=
  match x.wait with
  | some v => if v.no == no && !v.poll then some v else none
  | none => none

/-- Whether an instruction is a FRZ. -/
def isFrz : Instr → Bool
  | .frz .. => true
  | _ => false

/-- A line's freeze answer at its FRZ (R62): it completes, or traps, with the last one. -/
def freezeStep (no : Nat) (a : Answer) (e : Env) (c : Core) : Res :=
  match (e.ctx c).waitFor no with
  | some v =>
    if !isFrz v.instr then Res.only c
    else
      let err := match v.err, a with
        | none, .trap t => some t
        | x, _ => x
      if 1 < v.left then
        Res.only (e.modCtx c (fun x => { x with wait := some { v with left := v.left - 1, err := err } }))
      else match err with
        | some t => trapI e v.instr c t
        | none => done e v.instr c
  | none => Res.only c

/-- FREEZE_ACK (R62, R319): message n, a line's answer to a FRZ or to a FREEZE, arrives. -/
def execFreezeAck (n : Nat) (s : State) : Host.Outcome State Fault Refusal :=
  match s.net[n]? with
  | some ⟨_, _, _, .answer (.ctx w no) a⟩ =>
    let frz := match ((s.core w.dev w.core).ctx w.ctx).wait with
      | some v => isFrz v.instr
      | none => false
    if frz then .next ((s.dropMsg n).onCtx w (freezeStep no a)) else .next s
  | some ⟨_, _, _, .answer (.cur d slot no) a⟩ =>
    if s.curFreezes d slot then .next ((s.dropMsg n).curAnswer d slot no a) else .next s
  | _ => .next s

/-- A parked read's answer (R54, R57): the result is written and the read retires, or it traps. -/
def wakeStep (no : Nat) (a : Answer) (e : Env) (c : Core) : Res :=
  match (e.ctx c).waitFor no with
  | some v =>
    match a with
    | .trap t => trapI e v.instr c t
    | a => done e v.instr (e.modRegs c (answerRegs v.instr a))
  | none => Res.only c

/-- WAKE (R54, R57, R61, R319, R368): message n, the answer to a context's or a Curator thread's read, arrives; one for a withdrawn wait is
discarded. -/
def execWake (n : Nat) (s : State) : Host.Outcome State Fault Refusal :=
  match s.net[n]? with
  | some ⟨_, _, _, .answer (.ctx w no) a⟩ =>
    let frz := match ((s.core w.dev w.core).ctx w.ctx).wait with
      | some v => isFrz v.instr
      | none => false
    if frz then .next s else .next ((s.dropMsg n).onCtx w (wakeStep no a))
  | some ⟨_, _, _, .answer (.cur d slot no) a⟩ =>
    if s.curFreezes d slot then .next s else .next ((s.dropMsg n).curAnswer d slot no a)
  | _ => .next s

/-- The wait code of an instruction whose request is at its home (R369). -/
def readCode : Instr → Nat
  | .tread .. => 1
  | .frz .. => 15
  | _ => 2

/-- A request that is sent again waits at its home as it did before the retry (R369). -/
def State.clearRetry (s : State) (r : Req) : State :=
  match r.origin? with
  | some (.ctx w no) => s.modCtx w (fun x => { x with wait := x.wait.map (fun v =>
      if v.no == no && v.retry then { v with retry := false, code := readCode v.instr } else v) })
  | _ => s

/-- PARK_RETRY (R60, R284): request n of those that wait for a retry, the devices in order, is sent again once 256 cycles have
passed. -/
def execParkRetry (n : Nat) (s : State) : Host.Outcome State Fault Refusal :=
  let all := s.devs.flatMap (fun p => (List.range p.2.retry.length).map (fun i => (p.1, i)))
  match all[n]? with
  | some (d, i) => match (s.device d).retry[i]? with
    | some ⟨weights, .req g la r, age⟩ =>
      if age < 256 then .next s
      else .next (((s.modDev d (fun x => { x with retry := x.retry.eraseIdx i })).clearRetry r).send d (g / 2 ^ 38) weights
        (.req (g % 2 ^ 38) la r))
    | _ => .next s
  | none => .next s

/-! ## Combining in the mesh (R67) -/

/-- Whether two joins may merge: one line, kind and width; .fill parts with disjoint masks. -/
def canMerge (a b : List Part) : Bool :=
  a.all (fun p => b.all (fun q => p.data.kw == q.data.kw && (match p.data, q.data with
    | .fill g m _, .fill h k _ => g != h || m &&& k == 0
    | .ver .., _ => false
    | _, _ => true)))

/-- ROUTER_JOIN_MERGE (R67): join m meets the held join n within 64 cycles; the merged join carries both lists of parts,
and nothing later of the same contexts is passed. -/
def execRouterJoinMerge (n m : Nat) (s : State) : Host.Outcome State Fault Refusal :=
  match s.net[n]?, s.net[m]? with
  | some ⟨d, some age, weights, .req l la (.join ps)⟩, some ⟨d2, h2, weights2, .req l2 la2 (.join qs)⟩ =>
    let next := ((s.net.take m).eraseIdx n).all (fun q => !q.sameLane ⟨d2, h2, weights2, .req l2 la2 (.join qs)⟩)
    if n < m && age ≤ 64 && d == d2 && l == l2 && canMerge ps qs && next then
      .next { s with net := (s.net.set n ⟨d, some age, weights, .req l la (.join (ps ++ qs))⟩).eraseIdx m }
    else .next s
  | _, _ => .next s

/-- ROUTER_COMBINE_TIMEOUT (R66, R67): a held join is forwarded after 64 cycles, when the buffer needs room, or before a
later request of one of its contexts to the line. -/
def execRouterCombineTimeout (n : Nat) (s : State) : Host.Outcome State Fault Refusal :=
  match s.net[n]? with
  | some m => match m.hold with
    | some age =>
      if 64 ≤ age || 32 ≤ s.heldJoins m.dev || (s.net.drop (n + 1)).any (fun q => m.sameLane q) then
        .next { s with net := s.net.set n { m with hold := none } }
      else .next s
    | none => .next s
  | none => .next s

end Sys2Proof.Machine
end

