-- ==== Sys2Proof/Machine/Fetch.lean ====
section
/-! DEFINITION. Instruction fetch (R154-R156, R164, R165, R403) and the issue of a core's next context (R22). -/

namespace Sys2Proof.Machine
open Sys2Proof

/-- What stands at the head of a context (R165 checks 1 and 2): a translation to wait for, a failed fetch, bits that are no
instruction, or an instruction. -/
inductive Head where
  | walk
  | trap (t : Trap)
  | illegal (raw : BitVec 128)
  | ins (i : Instr)

/-- The head's bits [63:0]; a fetch that fails delivers none, and TWORD then holds 0. -/
def Head.word : Head → Word
  | .ins i => i.word
  | .illegal raw => raw.extractLsb' 0 64
  | .walk | .trap _ => 0

/-- Decoding the 16 bytes at an offset of a fetch block: an instruction that would pass offset 27 is illegal, and for it
and for length 0b00 the trap holds 64 bits only (R155, R164). -/
def headOf (off : Nat) (w : BitVec 128) : Head :=
  let low : BitVec 128 := (w.extractLsb' 0 64).setWidth 128
  let n := lenBytes (w.extractLsb' 0 2)
  if w.extractLsb' 0 2 == 0 || 28 < off + n then .illegal low
  else match decodeWord w with
    | .ok i => .ins i
    | .error _ => .illegal (trimWord w)

/-- Fetching at a pc for a context of a core (R156). -/
def State.fetch (s : State) (c : Core) (x : Context) (asid : Nat) (pc : Word) : Head :=
  if !canonical pc then .trap ⟨Cause.addrNoncanon, pc, 0⟩
  else match lookup c x asid pc with
    | .miss => .walk
    | .bad t => .trap t
    | .hit t => match permTrap t .fetch pc with
      | some p => .trap p
      | none =>
        let a := t.phys pc
        if ((s.device (gDev a)).line (gLocal a / 64)).bad then .trap (lineBad pc)
        else headOf (pc.toNat % 32) (bytesToWord (s.readG a 16))

/-- The address of the head instruction: a pad word at offset 24 is skipped (R155). -/
def State.headPc (s : State) (c : Core) (asid : Nat) (pc : Word) : Word :=
  if pc.toNat % 32 == 24 && s.padWord c asid pc then pc + 8 else pc

/-- The head of a context: its address, and what stands there. A waiting instruction is its own head. -/
def State.headAt (s : State) (w : Who) (b : Binding) : Word × Head :=
  let c := s.core w.dev w.core
  let x := c.ctx w.ctx
  match x.wait with
  | some v =>
    let pc := s.headPc c b.asid x.pc
    if v.code == 0 && v.poll then (pc, s.fetch c x b.asid pc) else (x.pc, .ins v.instr)
  | none =>
    let pc := s.headPc c b.asid x.pc
    (pc, s.fetch c x b.asid pc)

/-- The wait of a context for the translation of its own fetch, which is no instruction's wait: NOP stands for it. -/
def fetchWait : Instr := .nop Pred.always none

end Sys2Proof.Machine
end

