-- ==== Sys2Proof/Machine/Events.lean ====
section
/-! DEFINITION. What reaches a context or a core from outside its instructions: limits and the watchdog (R42, R368, R399),
egress release (R39, R40), barrier release (R29-R32, R37), walks (R79, R374), stash fills (R81), landings (R36, R93, R130,
R371), the MSWAP exchange (R99) and RECOV (R285). An event whose condition does not hold changes nothing (log 17). -/

namespace Sys2Proof.Machine
open Sys2Proof

/-! ## RECOV -/

/-- RECOV_TAKE (R285, R408): a write to RECOV by the control context of the supervisor core. -/
def execRecovTake (w : Who) (v : Word) (s : State) : Host.Outcome State Fault Refusal :=
  .next (s.onCtx w (fun e c => Res.only (if seesRecov e then c.takeRecov v else c)))

/-! ## Traps that time brings -/

/-- Withdrawing a context's requests: its park-table entries and retries go, joins stay (R368). -/
def State.withdraw (s : State) (w : Who) : State :=
  let mine (r : Req) : Bool := match r.origin? with
    | some (.ctx v _) => v == w
    | _ => false
  s.mapDevs (fun _ x => { x with
    park := x.park.filter (fun p => !mine p.r)
    retry := x.retry.filter (fun q => match q.body with
      | .req _ _ r => !mine r
      | _ => true) })

/-- Trapping a context at its head from outside: the wait is withdrawn first; a commit that this ends may let a kill take effect
(R406). -/
def State.trapHead (s : State) (w : Who) (t : Context → Trap) : State :=
  match (s.core w.dev w.core).bound with
  | none => s
  | some b =>
    let (pc, h) := s.headAt w b
    ((s.withdraw w).onCtx w (fun e c => takeTrap e c pc h.word (t (e.ctx c)))).settleKill w.dev w.core

/-- Whether a context is live on a bound core that runs, and no pre-emption has stopped it. -/
def State.liveCtx (s : State) (w : Who) : Bool :=
  let c := s.core w.dev w.core
  c.bound.isSome && !c.stopped && (c.ctx w.ctx).st.live && (c.ctx w.ctx).pre != .stopped

/-- REGION_TOO_LONG's trap (R42, R363, R365): TAUX[47:0] is the region's entry. -/
def tooLong (x : Context) : Trap := ⟨Cause.regionTooLong, 0, x.region.entry &&& 0xFFFFFFFFFFFF⟩

/-- Whether R42 ends the region: D = 0 and 65,536 cycles old. -/
def Context.expired (x : Context) : Bool := !x.region.d && 65536 ≤ x.region.cycles

/-- REGION_TOO_LONG (R42). -/
def execRegionTooLong (w : Who) (s : State) : Host.Outcome State Fault Refusal :=
  if s.liveCtx w && ((s.core w.dev w.core).ctx w.ctx).expired then .next (s.trapHead w tooLong) else .next s

/-- Whether R399 stops the head: in a pair, the region has retired 4,096 instructions. -/
def Core.pairLimit (c : Core) (ctx : Nat) : Bool :=
  match c.bound with
  | some b => b.pair && decide (4096 ≤ (c.ctx ctx).region.retired)
  | none => false

/-- PAIR_REGION_LIMIT (R399). -/
def execPairRegionLimit (w : Who) (s : State) : Host.Outcome State Fault Refusal :=
  if s.liveCtx w && (s.core w.dev w.core).pairLimit w.ctx then .next (s.trapHead w tooLong) else .next s

/-- The address that a waiting instruction has, or 0 (R363): of its access, of the line that SFLUSH has come to, or of an engine
command's memory, which for a copy is its global range (log 114). -/
def waitAddr (c : Core) (r : Regs) : Instr → Word
  | .tread _ _ _ _ _ _ a o | .xread _ _ _ _ a o | .xreadv _ _ _ a o | .ldf _ _ _ a o | .join _ _ _ _ _ a o
  | .joinv _ _ _ a o | .frz _ a _ o => effAddr r a o
  | .mload _ _ _ a o _ | .mstore _ _ _ _ a o _ | .mwrite _ _ _ a o _ => r.getS a + o.signExtend 64
  | .cpyFetch _ _ a _ _ _ | .cpyPutj _ _ a _ _ _ _ => r.getS a
  | .sflush _ w => match c.window w.toNat with
    | some k => (k.busy.head?.map k.lineVa).getD 0
    | none => 0
  | _ => 0

/-! ## The egress buffer (R39 step 3, R40, R65, R100, R216, R276) -/

/-- A launch fault of a collective (R387): level and sequence number of the collective key, the node of the member's core. -/
def State.collFault (s : State) (b : Binding) (level seq cause : Nat) (taddr taux : Word) : State :=
  let node := nodeIndex b.tree level b.lcore
  s.launchFault b.launch (launchCause 4 cause (node * coresPerNode b.tree level)
    (BitVec.ofNat 64 (seq % 65536 + level * 2 ^ 16 + node * 2 ^ 22)) taddr taux)

/-- The level of a COLL. -/
def Cmd.level (k : Cmd) : Nat :=
  match k.instr with
  | .coll _ l _ _ _ _ _ _ _ _ => l.toNat
  | _ => 0

/-- Rank 0's destination tile as a fault record of R387 gives it: the issuer's own when it is rank 0; otherwise what rank
0's device or port holds of the collective; 0 while it holds nothing. -/
def State.rootTile (s : State) (b : Binding) (level seq : Nat) (own : Word) : Word :=
  let root := nodeIndex b.tree level b.lcore * coresPerNode b.tree level
  if b.lcore = root then own
  else match b.place root with
    | none => 0
    | some (d, p) =>
      match ((s.device d).colls.filter (fun c => c.key.launch = b.launch && !c.key.group && c.key.level == level
          && c.key.node == nodeIndex b.tree level b.lcore && c.key.seq == seq % 65536)).findSome?
            (fun c => (c.mine.find? (fun m => m.rank == 0)).map (·.tile)) with
      | some t => t
      | none => (((s.core d p).port.find? (fun k => k.level == level && k.seq % 65536 == seq % 65536)).map (·.a)).getD 0

/-- The algorithm an entry of the collective descriptor gives level k: 0 ring, 1 tree, 2 switch (R289, R290). -/
def collAlg (cmode k : Nat) (data : List Byte) : Nat :=
  let v := leNat (data.take 16) / 4 ^ k % 4
  if v = 0 then cmode else v - 1

/-- Reading the collective descriptor at a release (R290): algorithm and version, or the fault. -/
def State.collDesc (s : State) (w : Who) (b : Binding) (level : Nat) : Except Trap (Nat × Nat) :=
  if b.desc = 0 then .ok (b.cmode, 0)
  else match translateNow s w.dev (dieOf w.core) b.asid .join b.desc with
    | .error t => .error t
    | .ok t => match permTrap t .xread b.desc with
      | some p => .error p
      | none =>
        if t.kind != .ver then .error ⟨Cause.kindMismatch, b.desc, BitVec.ofNat 64 t.kindDesc⟩
        else
          let a := t.phys b.desc
          let l := (s.device (gDev a)).line (gLocal a / 64)
          let data := s.readG (a / 64 * 64) 64
          if l.bad then .error (lineBad b.desc)
          else if (data.drop 16).any (· != 0) then .error ⟨Cause.collMismatch, 0, 0⟩
          else .ok (collAlg b.cmode level data, l.ver.toNat)

/-- Taking the first egress entry off a context and its copy. -/
def State.popEgress (s : State) (w : Who) : State := s.modCtx w (fun x => { x with egress := x.egress.drop 1, begun := true })

/-- Setting the wait code of a paused commit (R369). -/
def State.pauseEgress (s : State) (w : Who) (code : Nat) : State :=
  s.modCtx w (fun x => { x with wait := x.wait.map (fun v => { v with code := code }) })

/-- Whether a push or join must wait: 1,024 outstanding, or a full retry store on the way to another device (R65, R379). -/
def State.outFull (s : State) (w : Who) (dest : Nat) : Bool :=
  1024 ≤ ((s.core w.dev w.core).ctx w.ctx).out.length || ((s.device w.dev).storeFull && dest != w.dev)

/-- Accepting a withheld command at its release, with its operands as the registers stand (R109, R275, R276). -/
def Core.acceptReleased (c : Core) (ctx : Nat) (i : Instr) (f : Cmd → Cmd) : Core :=
  c.enqueue (f { newCmd c ctx (c.ctx ctx).regs i with uncommitted := false })

/-- Releasing a COLL (R276, R286, R290): its sequence number, and the descriptor it captures. -/
def State.releaseColl (s : State) (w : Who) (b : Binding) (i : Instr) (level : Nat) : State :=
  let seq := acount (s.core w.dev w.core).collSeq level
  match s.collDesc w b level with
  | .error t =>
    let s := s.noteWalk w.dev (dieOf w.core) b.asid b.desc
    let own := (newCmd (s.core w.dev w.core) w.ctx ((s.core w.dev w.core).ctx w.ctx).regs i).a
    s.collFault b level seq t.cause (if t.cause == Cause.collMismatch then s.rootTile b level seq own else b.desc) 0
  | .ok (alg, ver) =>
    s.modCore w.dev w.core (fun c =>
      ({ c with collSeq := aset c.collSeq level (seq + 1) }).acceptReleased w.ctx i
        (fun k => { k with seq := seq, alg := alg, descVer := ver }))

/-- Releasing a withheld join that has its translation: f is what else it does to the core (R65, R220). -/
def State.releaseJoin (s : State) (w : Who) (b : Binding) (j : JoinOut) (f : Core → Core) : State :=
  if j.data.isNone then s.popEgress w
  else if s.outFull w (gDev j.line) then s.pauseEgress w 12
  else ((s.popEgress w).modCore w.dev w.core f).postJoin w b j

/-- Whether a window line that a commit writes back holds an injected error, in either core of a pair (R405). -/
def State.eccLine (s : State) (w : Who) (k : Window) (l : Nat) : Bool :=
  let bad (c : Nat) : Bool := (s.core w.dev c).eccGran (16 * k.loc + 64 * l) 64
  bad w.core || (((s.core w.dev w.core).bound).bind (·.peer)).any bad

/-- An error found at a release in what the commit has still to read: the withheld effect is lost, and the kill cannot wait for the
commit (R405, R406; log 111). -/
def State.eccEgress (s : State) (w : Who) : State := (s.modDev w.dev Device.countUnc).killCore w.dev w.core false true

/-- Releasing one entry, when there is room for it. A translation that has gone since the commit began is walked again, and one that
fails traps the committing instruction (log 97). -/
def State.releaseEntry (s : State) (w : Who) (b : Binding) (g : Egress) : State :=
  let c := s.core w.dev w.core
  let x := c.ctx w.ctx
  match egressFlow c x b.asid g with
  | some (va, .walk) => s.askWalk w.dev ⟨dieOf w.core, .ctx w.core w.ctx, b.asid, va⟩
  | some (_, .trap t) => s.trapHead w (fun _ => t)
  | some (_, .ok t) => match g with
    | .join i => match cntJoin x.regs t i with
      | some j => s.releaseJoin w b j id
      | none => s.popEgress w
    | .cntLine win l bs => match c.window win with
      | some k =>
        if s.eccLine w k l then s.eccEgress w
        else s.releaseJoin w b (windowLine k l t (c.ownLine w.ctx win l k bs)) (fun c => c.leaveLine w.ctx win l)
      | none => s.popEgress w
    | _ => s
  | none => match g with
  | .join _ | .cntLine .. => s.popEgress w
  | .push rcv off data typed topx =>
    if s.outFull w ((b.place rcv.toNat).getD (w.dev, 0)).1 then s.pauseEgress w 12
    else (s.popEgress w).postPush w b rcv off data typed topx
  | .cmd i =>
    let q := cmdQueue i
    if queueCap q ≤ (c.queue q).length then s.pauseEgress w 13
    else match i with
      | .coll _ k _ _ _ _ _ _ _ _ => (s.popEgress w).releaseColl w b i k.toNat
      | i => (s.popEgress w).modCore w.dev w.core (fun c => c.acceptReleased w.ctx i id)
  | .sems q inc => (s.popEgress w).modCore w.dev w.core (fun c => c.addSem q inc)

/-- EGRESS_RELEASE (R39 step 3): the commit of a context releases its next entry; in a pair the leader does (R395). -/
def execEgressRelease (w : Who) (s : State) : Host.Outcome State Fault Refusal :=
  let c := s.core w.dev w.core
  let x := c.ctx w.ctx
  match c.bound with
  | some b =>
    if !x.committing || b.checker then .next s
    else match x.egress with
      | g :: _ => .next ((s.pauseEgress w 0).releaseEntry w b g)
      | [] => .next s
  | none => .next s

/-! ## Barrier release (R29, R32, R37, R204) -/

/-- The oldest arrival of a core at a level that is not released. -/
def Core.waitingArrival (c : Core) (k : Nat) : Option Arrival := c.arrivals.find? (fun a => a.level == k && !a.released)

/-- The combination of the contributions under an operation (R37). -/
def voteResult (op : VoteOp) (vs : List Word) : Word :=
  match op, vs with
  | _, [] => 0
  | .and, v :: r => r.foldl (· &&& ·) v
  | .or, v :: r => r.foldl (· ||| ·) v
  | .max, v :: r => r.foldl (fun m x => if m.toNat < x.toNat then x else m) v

/-- The result of the first VOTE.p of a generation that names no plan (R37). -/
def badResult (nplans : Nat) (vs : List Word) (arr : List Arrival) : Option Word :=
  arr.findSome? (fun a => match a.vote with
    | some v => if a.sel && nplans ≤ (voteResult v.1 vs).toNat then some (voteResult v.1 vs) else none
    | none => none)

/-- Releasing a generation: a VOTE receives the result under its own operation; one VOTE.p whose result names no plan makes the
generation bad for every party (R37, R204; log 59). -/
def Arrival.release (k g : Nat) (vs : List Word) (bad : Option Word) (a : Arrival) : Arrival :=
  if a.level == k && a.gen == g && !a.released then
    let r := match a.vote with
      | some v => some (voteResult v.1 vs)
      | none => bad
    { a with released := true, result := r, bad := bad.isSome }
  else a

/-- Releasing a generation at one party, its checkpoint store included (R406). -/
def Core.releaseArrival (c : Core) (k g : Nat) (vs : List Word) (bad : Option Word) : Core :=
  { c with
    arrivals := c.arrivals.map (Arrival.release k g vs bad)
    ctxs := c.ctxs.map (fun x => { x with
      ckpt := { x.ckpt with arrivals := x.ckpt.arrivals.map (Arrival.release k g vs bad) } }) }

/-- Some binding of a launch. -/
def State.bindingOf (s : State) (l : LaunchId) : Option Binding :=
  s.devs.findSome? (fun p => p.2.cores.findSome? (fun q => match q.2.bound with
    | some b => if b.launch = l then some b else none
    | none => none))

/-- The count of a node's fabric barrier at its home (R32). -/
def State.barrierCount (s : State) (l : LaunchId) (home k node : Nat) : Nat :=
  match (s.device home).barCnt.find? (fun p => p.1 == (l, k, node)) with
  | some p => p.2
  | none => 0

/-- BARRIER_RELEASE (R29, R32, R37): once every party of a node has a counted arrival of one generation, and at a node,
rack or cavern level the count has reached members × generation, the generation is released at every party. -/
def execBarrierRelease (l : LaunchId) (k node : Nat) (s : State) : Host.Outcome State Fault Refusal :=
  match s.bindingOf l with
  | none => .next s
  | some b =>
    let places := (nodeMembers b.tree k node).filterMap b.place
    let arr := places.map (fun p => (s.core p.1 p.2).waitingArrival k)
    match arr with
    | some a :: _ =>
      let g := a.gen
      let all := arr.all (fun o => match o with
        | some x => x.gen == g && x.counted
        | none => false)
      let devs := (places.map (·.1)).eraseDups
      let fabric := match b.level? k with
        | some lv => decide (lv.code < 7) || decide (devs.length * g ≤ s.barrierCount l (devs.foldl min (2 ^ 14)) k node)
        | none => false
      if all && fabric then
        let vs := arr.filterMap (fun o => (o.bind (·.vote)).map (·.2))
        let bad := badResult b.plan.nph.length vs (arr.filterMap id)
        .next (places.foldl (fun s p => s.modCore p.1 p.2 (fun c => c.releaseArrival k g vs bad)) s)
      else .next s
    | _ => .next s

/-! ## Walks and stash fills (R79, R81, R374) -/

/-- Giving a failed walk to its requester. -/
def Core.walkFailed (c : Core) (f : WalkFor) (va : Word) (t : Trap) : Core :=
  match f with
  | .ctx _ n => c.modCtx n (fun x => { x with walkErr := some (va, t) })
  | .cmd _ q => match c.queue q with
    | k :: r => c.setQueue q ({ k with walkErr := some (va, t) } :: r)
    | [] => c

/-- The core that a walk is for. -/
def Walk.core (w : Walk) : Nat :=
  match w.for_ with
  | .ctx c _ | .cmd c _ => c

/-- WALK_COMPLETE (R74-R79, R374, R418): walk n of a device, one of the 96 its die has under way, fills the core's
translations or fails its requester. -/
def execWalkComplete (d n : Nat) (s : State) : Host.Outcome State Fault Refusal :=
  let x := s.device d
  match x.walks[n]? with
  | none => .next s
  | some w =>
    if 96 ≤ ((x.walks.take n).filter (fun v => v.die == w.die)).length then .next s
    else
      let core := w.core
      let s1 := s.modDev d (fun x => { x with walks := x.walks.eraseIdx n })
      match walk s d w.die w.asid w.va with
      | .ok t => .next (s1.modCore d core (fun c => { c with tlb := c.tlb ++ [t] }))
      | .error t => .next ((s1.noteWalk d w.die w.asid w.va).modCore d core (fun c => c.walkFailed w.for_ w.va t))

/-- The contexts of a core that wait in an LDF on one of some granules. -/
def Core.ldfWaiters (c : Core) (gs : List Nat) : List Nat :=
  (List.range 11).filter (fun n => match (c.ctx n).wait with
    | some v => (match v.instr with
      | .ldf _ _ f a o => (granules (effAddr (c.ctx n).regs a o).toNat (LdfForm.bytes f)).any gs.contains
      | _ => false)
    | none => false)

/-- STASH_FILL (R81, R63): message n, the answer to a window's exact read, writes the line's four granules and sets them
full; a failure traps the LDFs that wait on them. -/
def execStashFill (n : Nat) (s : State) : Host.Outcome State Fault Refusal :=
  match s.net[n]? with
  | some ⟨_, _, _, .answer (.stash d core win id l) a⟩ =>
    let s := s.dropMsg n
    let c := s.core d core
    match c.window win with
    | some k =>
      if k.id != id then .next s
      else
        let free (c : Core) : Core := c.setWindow win (some { k with busy := setDel k.busy l })
        match a with
        | .data bs => .next (s.modCore d core (fun c => (free c).lsWrite true (16 * k.loc + 64 * l) bs))
        | .trap t =>
          let s := s.modCore d core free
          .next ((c.ldfWaiters (span (k.loc + 4 * l) 4)).foldl (fun s n => s.trapHead ⟨d, core, n⟩ (fun _ => t)) s)
        | _ => .next s
    | none => .next s
  | _ => .next s

/-! ## Landings (R36, R93, R130, R216, R275, R371) -/

/-- What a receiver does with a landing. -/
inductive LandRes where
  | lands
  | holds (passed : Bool)
  | refused (t : Trap)
  | topx
  deriving DecidableEq, Repr

/-- Whether one window of the receiver's present plan and phase holds a landing whole, for a sender inside its level-X
node (R36). -/
def Binding.admits (b : Binding) (p : Plan) (l : Landing) : Bool :=
  let gs := granules l.off.toNat l.data.length
  nodeIndex b.tree b.plan.xlevel l.from_ == nodeIndex b.tree b.plan.xlevel b.lcore
    && (b.windows p).any (fun w => w.sender == l.from_ && gs.all (inRange (w.first, w.len)))

/-- Whether a landing that has passed the checks lands now (R93): not onto a full inbox granule of a DET launch, and not before an
earlier held one of its sender to the same granules. -/
def Core.landsNow (c : Core) (b : Binding) (ahead : List Landing) (l : Landing) : LandRes :=
  let gs := granules l.off.toNat l.data.length
  if ahead.any (fun h => h.from_ == l.from_ && (granules h.off.toNat h.data.length).any gs.contains) then .holds true
  else if b.det && gs.any c.ls.isFull then .holds true
  else .lands

/-- The receiver's decision (R36, R93, R130, R371). The window and TOPX are compared once: a landing that has passed is not
compared again while it is held. -/
def Core.landing (c : Core) (b : Binding) (ahead : List Landing) (l : Landing) : LandRes :=
  let no : LandRes := .refused ⟨Cause.exchangeViolation, l.off, BitVec.ofNat 64 b.lcore⟩
  if c.sealed then no
  else if l.passed then c.landsNow b ahead l
  else if l.seq = c.plan.seq then
    if !b.admits c.plan l then no
    else if l.typed && l.topx != (c.ctx 0).regs.topx.getLsbD 0 then .topx
    else c.landsNow b ahead l
  else if l.seq = (c.plan.seq + 1) % 4 then .holds false
  else no

/-- Acknowledging a landing to its sender (R65, R275). -/
def State.ackLanding (s : State) (dev : Nat) (l : Landing) (t : Option Trap) : State :=
  s.send dev l.src.dev 0x010101 (.landAck l.src l.no l.cmd t)

/-- The effect of a decision at a receiver and its partner. -/
def State.applyLanding (s : State) (dev core : Nat) (b : Binding) (l : Landing) : LandRes → State
  | .lands => (s.modCore dev core (fun c => c.engineWrite l.off.toNat l.data)).ackLanding dev l none
  | .refused t => s.ackLanding dev l (some t)
  | .topx =>
    (s.modCore dev core (fun c => c.modCtx 0 (fun x =>
      x.defer ⟨Cause.topxMismatch, l.off, BitVec.ofNat 64 l.from_⟩))).ackLanding dev l
        (some ⟨Cause.topxMismatch, l.off, BitVec.ofNat 64 b.lcore⟩)
  | .holds p => s.modCore dev core (fun c => { c with held := c.held ++ [{ l with passed := p }] })

/-- The core of a launch's logical core on a device. -/
def Device.coreOf (x : Device) (l : LaunchId) (lcore : Nat) : Option (Nat × Binding) :=
  x.cores.findSome? (fun p => match p.2.bound with
    | some b => if b.launch = l && b.lcore == lcore && !b.checker then some (p.1, b) else none
    | none => none)

/-- Whether a launch still lives, bound or not. -/
def State.alive (s : State) (l : LaunchId) : Bool :=
  match (s.device l.owner).launch? l.acc with
  | some x => x.code != 14 && x.code != 15
  | none => false

/-- PUSH_LANDING (R36, R93, R130, R371): message n, a landing, at its receiver. One for a launch that has gone is dropped;
one for a launch that is pre-empted waits, and follows it to another device. -/
def execPushLanding (n : Nat) (s : State) : Host.Outcome State Fault Refusal :=
  match s.net[n]? with
  | some ⟨dev, _, weights, .land l⟩ =>
    match (s.device dev).coreOf l.launch l.rcv with
    | some (core, b) =>
      let s := s.dropMsg n
      let c := s.core dev core
      .next (s.applyLanding dev core b l (c.landing b c.held l))
    | none =>
      if !s.alive l.launch then .next (s.dropMsg n)
      else match (s.bindingOf l.launch).bind (fun b => b.place l.rcv) with
        | some (d, _) => if d == dev then .next s else .next ((s.dropMsg n).send dev d weights (.land l))
        | none => .next s
  | _ => .next s

/-- HELD_LANDING_RELEASE (R36, R93): landing n held at a core is decided again, and lands, is refused, or stays. -/
def execHeldLandingRelease (d c n : Nat) (s : State) : Host.Outcome State Fault Refusal :=
  let k := s.core d c
  match k.bound, k.held[n]? with
  | some b, some l => match k.landing b (k.held.take n) l with
    | .holds p => .next (s.modCore d c (fun k => { k with held := k.held.modify n (fun l => { l with passed := p }) }))
    | r => .next ((s.modCore d c (fun k => { k with held := k.held.eraseIdx n })).applyLanding d c b l r)
  | _, _ => .next s

/-! ## The exchange of an MSWAP (R99, R280) -/

/-- The exchange of a parked MSWAP and its retirement. -/
def swapStep (e : Env) (c : Core) : Res :=
  match (e.ctx c).wait with
  | some v => match v.instr with
    | .mswap _ acc => match c.exchange e.who.ctx acc with
      | some c => done e v.instr c
      | none => Res.only c
    | _ => Res.only c
  | none => Res.only c

/-- MSWAP_EXCHANGE (R99, R270). -/
def execMswapExchange (w : Who) (s : State) : Host.Outcome State Fault Refusal := .next (s.onCtx w swapStep)

/-! ## The park watchdog (R368, R369, R376) -/

/-- Evaluating again the instruction that a context polls, one that a park watchdog watches (R368); any other waits for a message. -/
def repoll (i : Instr) (s : State) : Host.Outcome State Fault Refusal :=
  match i with
  | .endK => execEndK s
  | .hwait v1 v2 => execHwait v1 v2 s
  | .waitb v1 => execWaitb v1 s
  | .sync v1 => execSync v1 s
  | .vote v1 v2 v3 v4 => execVote v1 v2 v3 v4 s
  | .voteP v1 v2 v3 v4 => execVoteP v1 v2 v3 v4 s
  | .ldf v1 v2 v3 v4 v5 => execLdf v1 v2 v3 v4 v5 s
  | .fence v1 v2 => execFence v1 v2 s
  | .join v1 v2 v3 v4 v5 v6 v7 => execJoin v1 v2 v3 v4 v5 v6 v7 s
  | .joinv v1 v2 v3 v4 v5 => execJoinv v1 v2 v3 v4 v5 s
  | .tread v1 v2 v3 v4 v5 v6 v7 v8 => execTread v1 v2 v3 v4 v5 v6 v7 v8 s
  | .frz v1 v2 v3 v4 => execFrz v1 v2 v3 v4 s
  | .sflush v1 v2 => execSflush v1 v2 s
  | .mclaim v1 v2 => execMclaim v1 v2 s
  | .mload v1 v2 v3 v4 v5 v6 => execMload v1 v2 v3 v4 v5 v6 s
  | .mstore v1 v2 v3 v4 v5 v6 v7 => execMstore v1 v2 v3 v4 v5 v6 v7 s
  | .mma v1 v2 v3 v4 v5 v6 v7 => execMma v1 v2 v3 v4 v5 v6 v7 s
  | .mwrite v1 v2 v3 v4 v5 v6 => execMwrite v1 v2 v3 v4 v5 v6 s
  | .mzero v1 v2 v3 v4 => execMzero v1 v2 v3 v4 s
  | .cpyFetch v1 v2 v3 v4 v5 v6 => execCpyFetch v1 v2 v3 v4 v5 v6 s
  | .cpyPutj v1 v2 v3 v4 v5 v6 v7 => execCpyPutj v1 v2 v3 v4 v5 v6 v7 s
  | .semw v1 v2 v3 => execSemw v1 v2 v3 s
  | .ewait v1 v2 v3 v4 => execEwait v1 v2 v3 v4 s
  | _ => .next s

/-- Whether a context still waits as v says, at the instruction and with the effects of its commit that it had. -/
def State.waitsStill (s u : State) (w : Who) (v : Wait) : Bool :=
  let x := (s.core w.dev w.core).ctx w.ctx
  let y := (u.core w.dev w.core).ctx w.ctx
  y.wait.any (fun k => k.code == v.code && k.instr == v.instr) && y.egress.length == x.egress.length && y.committing == x.committing

/-- What comes of a wait whose event has come by now (R376); none while it has not. -/
def State.eventNow (s : State) (w : Who) (v : Wait) : Option State :=
  let c := s.core w.dev w.core
  let came (o : Host.Outcome State Fault Refusal) : Option State := match o with
    | .next u => if s.waitsStill u w v then none else some u
    | _ => none
  if (c.ctx w.ctx).committing then came (execEgressRelease w s)
  else if v.poll then came (repoll v.instr { s with cur := w })
  else match v.instr with
    | .mswap .. => came (execMswapExchange w s)
    | _ =>
      let mine (m : Msg) : Bool := m.dev == w.dev && (match m.body with
        | .answer (.ctx u n) _ => u == w && n == v.no
        | _ => false)
      if v.left ≤ (s.net.filter mine).length then some s else none

/-- PARK_TIMEOUT (R368, R369): the watchdog has reached 2^32, and the wait's event has not come in the same cycle; one that has
counts first (R376). -/
def execParkTimeout (w : Who) (s : State) : Host.Outcome State Fault Refusal :=
  let x := (s.core w.dev w.core).ctx w.ctx
  match x.wait with
  | some v =>
    if s.liveCtx w && v.code != 0 && decide (2 ^ 32 ≤ x.watchdog) then
      match s.eventNow w v with
      | some u => .next u
      | none => .next (s.trapHead w (fun x => ⟨Cause.parkTimeout, waitAddr (s.core w.dev w.core) x.regs v.instr, BitVec.ofNat 64 v.code⟩))
    else .next s
  | none => .next s

end Sys2Proof.Machine
end

