-- ==== Sys2Proof/Machine/Engine.lean ====
section
/-! DEFINITION. The engines at their queue heads: waits, guards, discards and signals (R100-R103), the matrix commands
(R147-R150, R263-R272), the copy engine (R273-R275, R281, R370), and the collective port up to the source copy (R276).
The commands of a queue run one after another, which R100 allows. -/

namespace Sys2Proof.Machine
open Sys2Proof

/-! ## Heads, signals and records -/

/-- What steps 1 to 3 of R101 decide at a queue head: the command waits at a step, is discarded, or runs. -/
inductive HeadDec where
  | waits (step : HeadStep)
  | discards | runs
  deriving DecidableEq, Repr

/-- Step 2 of R101: the guard is read here, and only here (R103). -/
def Core.guardDec (c : Core) (k : Cmd) : HeadDec :=
  match (cmdSync k.instr).grd with
  | none => .runs
  | some g => match c.guards[g.toNat]'(g.isLt) with
    | none => .waits .guard
    | some true => .runs
    | some false => .discards

/-- Steps 1 to 3 of R101, each taken once: a command keeps the step it has passed. -/
def Core.headDec (c : Core) (k : Cmd) : HeadDec :=
  match k.step with
  | .run => .runs
  | .guard => c.guardDec k
  | .wait => match (cmdSync k.instr).wait with
    | some (q, t) => if semPasses (acount c.sems q.toNat) t then c.guardDec k else .waits .wait
    | none => c.guardDec k

/-- A head that has reached step 2 has read its guard: a GARM or GRES of the cycle came before (R280). -/
def Core.readGuard (c : Core) (k : Cmd) : Core :=
  { c with wrote := c.wrote || (k.step != .run && (cmdSync k.instr).grd.isSome && c.headDec k != .waits .wait) }

/-- Applying a command's signal (R101 step 5, R102). -/
def Core.signal (c : Core) (k : Cmd) : Core :=
  match (cmdSync k.instr).sig with
  | some (q, inc) => c.addSem q.toNat inc.toNat
  | none => c

/-- A core's own copy of a command: in a pair each core runs its own (R395). -/
def Core.own (c : Core) (q : EngQ) (k : Cmd) : Cmd := ((c.queue q).find? (fun j => j.id == k.id)).getD k

/-- Removing a command whose effects are complete: signal, its core's own flags, slot states (R101, R135, R95, R395). -/
def Core.finishCmd (c : Core) (q : EngQ) (k : Cmd) : Core :=
  let k := c.own q k
  (((c.setQueue q ((c.queue q).filter (fun j => j.id != k.id))).signal k).engineFlags k.ctx k.flags).settleAll

/-- A command discarded by its guard: only the full setting of R89 and the signal. -/
def Core.discardCmd (c : Core) (q : EngQ) (k : Cmd) : Core :=
  { c with ls := c.ls.setFull (granules k.dst.1 k.dst.2) }.finishCmd q k

/-- Recording a command's deferred fault in its issuer (R366); a helper that is idle has no delivery of its own, and its
control context records it. -/
def Core.deferTo (c : Core) (ctx : Nat) (t : Trap) (halted : Option Nat := none) : Core :=
  c.modCtx (if (c.ctx ctx).st == .idle then 0 else ctx) (fun x => x.defer t halted)

/-! ## MMA (R139, R147-R149, R263, R267, R268) -/

def mfFmt : Mf → FpFmt
  | .fp4 => fp4
  | .e4m3 => e4m3
  | .e5m2 => e5m2
  | .bf16 => bf16
  | .fp16 => fp16
  | .i8 => fp32

/-- K values per line. -/
def mfK : Mf → Nat
  | .fp4 => 128
  | .e4m3 | .e5m2 | .i8 => 64
  | .bf16 | .fp16 => 32

/-- Products per group (R147). -/
def mfGroup : Mf → Nat
  | .fp4 => 8
  | .e4m3 | .e5m2 => 2
  | _ => 1

/-- A byte of a list that stands for zeros above its end. -/
def byteAt (l : List Byte) (n : Nat) : Nat := ((l[n]?).getD 0).toNat

/-- The code of element k of line r of a slot (R263). -/
def Slot.elem (x : Slot) (mf : Mf) (r k : Nat) : Nat :=
  match mf with
  | .fp4 => byteAt x.data (64 * r + k / 2) / 16 ^ (k % 2) % 16
  | .bf16 | .fp16 => byteAt x.data (64 * r + 2 * k) + 256 * byteAt x.data (64 * r + 2 * k + 1)
  | _ => byteAt x.data (64 * r + k)

/-- The scales of element k of a line: the block's E3M5 scale for FP4, none otherwise. -/
def Slot.scaleOf (x : Slot) (mf : Mf) (topx : Bool) (r k : Nat) : List Fv :=
  match mf with
  | .fp4 => [e3m5.decode topx (byteAt x.scales (16 * r + k / 8))]
  | _ => []

/-- The product of K index k for output (i, j) (R139, R147). -/
def mmaProduct (mf : Mf) (topx : Bool) (a b : Slot) (i j k : Nat) : Fv × Word :=
  scaledProduct [(mfFmt mf).decode topx (a.elem mf i k), (mfFmt mf).decode topx (b.elem mf j k)]
    (a.scaleOf mf topx i k ++ b.scaleOf mf topx j k)

/-- The group term of its products: exact, NaN for a NaN product or infinities of both signs (R147). -/
def groupTerm (ps : List (Fv × Word)) : Fv × Word :=
  let f := orAll (ps.map (·.2))
  if ps.any (fun p => p.1.isNan) then (.nan false, f)
  else
    let s := ps.foldl (fun (t : Fv × Word) p => let r := fvAdd t.1 p.1; (r.1, t.2 ||| r.2)) (.num false 0 0, 0)
    (s.1, f ||| s.2)

/-- One float output element: groups in ascending order, one rounding each (R147). -/
def mmaFloat (mf : Mf) (topx : Bool) (a b : Slot) (i j : Nat) (acc : Nat) : Nat × Word :=
  (List.range (mfK mf / mfGroup mf)).foldl (fun (t : Nat × Word) g =>
    let term := groupTerm ((List.range (mfGroup mf)).map (fun n => mmaProduct mf topx a b i j (g * mfGroup mf + n)))
    let s := fvAdd (fp32.val t.1) term.1
    let r := rneOf fp32 (s.1, s.2 ||| term.2)
    (r.1, t.2 ||| r.2)) (acc, 0)

/-- One I8 output element, modulo 2^32 (R148). -/
def mmaInt (a b : Slot) (i j : Nat) (acc : Nat) : Nat :=
  ofInt 32 ((List.range 64).foldl (fun (t : Int) k =>
    t + intVal true 8 (a.elem .i8 i k) * intVal true 8 (b.elem .i8 j k)) acc)

/-- The bank an MMA leaves, with its flags (R267), those of the band product among them (R139; log 88). -/
def mmaBank (mf : Mf) (ow topx : Bool) (a b : Slot) (bandA bandB : BitVec 16) (w : Bank) : Bank × Word :=
  let acc (n : Nat) : Nat := if ow then 0 else (w.get n).toNat
  let out := (List.range 4096).map (fun n =>
    if mf == .i8 then (mmaInt a b (n / 64) (n % 64) (acc n), 0)
    else mmaFloat mf topx a b (n / 64) (n % 64) (acc n))
  let band (x : BitVec 16) : BitVec 16 := if mf == .i8 then 0x3F80 else x
  ({ w with
      el := out.map (fun p => BitVec.ofNat 32 p.1), isInt := mf == .i8
      bandA := if ow then band bandA else w.bandA, bandB := if ow then band bandB else w.bandB },
   orAll (out.map (·.2)) ||| (if mf == .i8 then 0 else (bandFactor bandA bandB).2))

/-- Why an MMA at its queue head does not run (R95, R149, R367): a slot without data of the claim it was accepted under,
another format, a poisoned slot, another mode or factor. -/
def mmaHeadTrap (c : Core) (k : Cmd) (mf : Mf) (ow acc : Bool) (a b : OReg) : Option Trap :=
  let x := c.slot a.toNat
  let y := c.slot b.toNat
  let at_ (cause : Nat) (o : OReg) : Option Trap := some ⟨cause, 0, o.setWidth 64⟩
  let w := (c.acc acc).work
  if x.dataGen != k.e0.toNat then at_ Cause.slotState a
  else if y.dataGen != k.e1.toNat then at_ Cause.slotState b
  else if x.dataFmt != some mf then at_ Cause.tagMismatch a
  else if y.dataFmt != some mf then at_ Cause.tagMismatch b
  else if x.poison then at_ Cause.poison a
  else if y.poison then at_ Cause.poison b
  else if ow then none
  else if w.isInt != (mf == .i8) then some ⟨Cause.scaleMismatch, 0, 1⟩
  else if mf != .i8 && !factorEq (bandFactor w.bandA w.bandB).1 (bandFactor k.bandA k.bandB).1 then
    some ⟨Cause.scaleMismatch, 0, 0⟩
  else none

/-! ## The matrix queue (R263-R272) -/

/-- Marking a command as started, with the flags of its effects. -/
def Core.startCmd (c : Core) (q : EngQ) (k : Cmd) (flags : Word := 0) : Core :=
  c.modCmd q k.id (fun j => { j with started := true, flags := flags })

/-- The bytes of a list up to n, then those of another. -/
def overlay (new old : List Byte) (len : Nat) : List Byte :=
  (List.range len).map (fun n => (new[n]?).getD ((old[n]?).getD 0))

/-- MLOAD's copy (R263, R265, R367): an abandoned one leaves what it wrote, and a poisoned slot. -/
def Core.loadSlot (c : Core) (k : Cmd) (mf : Mf) (o : Nat) : Core :=
  let n := mloadBytes mf
  let x := c.slot o
  let p := c.ls.poisonAt k.a.toNat n
  let got := match p with
    | some g => 16 * g - k.a.toNat
    | none => n
  let bs := c.ls.read k.a.toNat got
  let x := { x with
    data := overlay (bs.take 4096) x.data 4096
    scales := if mf == .fp4 then overlay (bs.drop 4096) x.scales 1024 else x.scales
    poison := p.isSome, dataGen := k.e0.toNat, dataFmt := some mf }
  let c := c.setSlot o x
  match p with
  | some g => c.deferTo k.ctx ⟨Cause.poison, BitVec.ofNat 64 (16 * g), BitVec.ofNat 64 got⟩
  | none => c

/-- MWRITE's copy (R269); a poisoned granule ends it, and the elements before it stand (R367). -/
def Core.writeBank (c : Core) (k : Cmd) (acc isInt : Bool) : Core :=
  let a := c.acc acc
  let p := c.ls.poisonAt k.a.toNat 16384
  let got := match p with
    | some g => 16 * g - k.a.toNat
    | none => 16384
  let el := (List.range 4096).map (fun n =>
    if 4 * n < got then BitVec.ofNat 32 (leNat (c.ls.read (k.a.toNat + 4 * n) 4)) else a.work.get n)
  let c := c.setAcc acc { a with work := { a.work with el := el, isInt := isInt, bandA := 0x3F80, bandB := 0x3F80 } }
  match p with
  | some g => c.deferTo k.ctx ⟨Cause.poison, BitVec.ofNat 64 (16 * g), BitVec.ofNat 64 got⟩
  | none => c

/-- The effects of a matrix command at its head (R263-R272). -/
def Core.mxRun (c : Core) (k : Cmd) : Core :=
  match k.instr with
  | .mload _ mf o _ _ _ => (c.loadSlot k mf o.toNat).startCmd .mx k
  | .mma _ mf ow acc a b _ =>
    match mmaHeadTrap c k mf ow acc a b with
    | some t => (c.deferTo k.ctx t).startCmd .mx k
    | none =>
      let x := c.acc acc
      let r := mmaBank mf ow k.topx (c.slot a.toNat) (c.slot b.toNat) k.bandA k.bandB x.work
      (c.setAcc acc { x with work := r.1 }).startCmd .mx k r.2
  | .mstore _ tag acc rm _ _ _ =>
    let v := (c.acc acc).vis
    let out := (List.range 4096).map (fun n => bankValue (k.e0 == 1) v tag k.topx rm 0 (v.get n))
    (c.engineWrite k.a.toNat (out.flatMap (fun p => natBytes (tagBytes tag) p.1))).startCmd .mx k (orAll (out.map (·.2)))
  | .mwrite _ tag acc _ _ _ => (c.writeBank k acc (tag == 5)).startCmd .mx k
  | .mzero _ tag acc _ =>
    let x := c.acc acc
    (c.setAcc acc { x with work := { x.work with el := [], isInt := tag == 5, bandA := 0x3F80, bandB := 0x3F80 } }).startCmd .mx k
  | _ => c.startCmd .mx k

/-- Whether a command of an accumulator waits for an MSWAP issued before its acceptance (R99, R267). It comes to wait once its wait
and guard have let it go, so that a discard waits for no exchange (log 98). -/
def Core.swapPending (c : Core) (k : Cmd) : Bool :=
  let f (acc : Bool) : Bool := k.usesBank acc && (c.acc acc).swap.any (fun p => !p.2.contains k.id)
  f false || f true

/-! ## The copy engine: lines, halts, stamps (R273, R274, R281, R367, R395) -/

/-- The translation an engine has for an address. -/
def engineTr (c : Core) (k : Cmd) (asid : Nat) (va : Word) : Tr :=
  if !canonical va then .bad ⟨Cause.addrNoncanon, va, 0⟩
  else
    let cached : Tr := match c.tlb.find? (fun t => t.covers asid va) with
      | some t => .hit t
      | none => .miss
    match k.walkErr with
    | some (a, t) => if a = va then .bad t else cached
    | none => cached

/-- Halting a command at an offset and recording its fault (R281, R370): the lines sent below it go on. The fault is recorded once for
a halt, so a line below that fails later only lowers the offset. -/
def Core.haltCmd (c : Core) (k : Cmd) (off : Nat) (t : Trap) : Core :=
  if (c.own .cx k).halted.isSome then
    c.modCmd .cx k.id (fun j =>
      { j with off := min j.off off, low := some (min off (j.low.getD off)), await := j.await.filter (· < off) })
  else
    (c.modCmd .cx k.id (fun j => { j with
      halted := some t, recorded := false, off := off, await := j.await.filter (· < off), walkErr := none })).deferTo k.ctx
        ⟨t.cause, t.addr, BitVec.ofNat 64 off⟩ (some k.id)

/-- Whether an injected error lies in a range that a core reads, or that its partner reads with it (R395, R405, R407). -/
def State.eccRange (s : State) (d core a n : Nat) : Bool :=
  (s.core d core).eccGran a n || (match (s.core d core).bound.bind (·.peer) with
    | some p => (s.core d p).eccGran a n
    | none => false)

/-- Whether the two cores of a pair hold different bytes in a range (R395). -/
def State.pairDiffers (s : State) (d core a n : Nat) : Bool :=
  match (s.core d core).bound with
  | some b => match b.peer with
    | some p => (s.core d core).ls.read a n != (s.core d p).ls.read a n
    | none => false
  | none => false

/-- Asking for an engine's translation (R79). -/
def State.engineWalk (s : State) (d core : Nat) (q : EngQ) (asid : Nat) (va : Word) : State :=
  s.askWalk d ⟨dieOf core, .cmd core q, asid, va⟩

/-- The permission and kind checks of a copied line (R273, R77). -/
def copyTrap (put : Bool) (t : Tlb) (va : Word) : Option Trap :=
  match permTrap t (if put then .join else .xread) va with
  | some p => some p
  | none => if put && t.kind != .fill && t.kind != .ver then some ⟨Cause.kindMismatch, va, BitVec.ofNat 64 t.kindDesc⟩ else none

/-- Sending a join of a copy command. -/
def State.copyJoin (s : State) (d core : Nat) (b : Binding) (k : Cmd) (tok : Nat) (va : Word) (g : Nat) (data : JoinData) : State :=
  s.send d (gDev g) k.weights (.req (gLocal g / 64) (some b.launch)
    (.join [⟨.cmd d core .cx k.id tok, some b.launch, b.asid, va, data⟩]))

/-- One line of a PUTJ (R273): the joins of its granules up to the first poisoned one, which ends the command (R367). -/
def State.putLine (s : State) (d core : Nat) (b : Binding) (k : Cmd) (t : Tlb) (va : Word) : State :=
  let c := s.core d core
  let a := k.d.toNat + k.off
  let g := t.phys va / 64 * 64
  let bad := (List.range 4).find? (fun i => c.ls.isPoison (a / 16 + i))
  let n := bad.getD 4
  let gs := if t.kind == .ver then (if bad.isSome then [] else [0]) else List.range n
  let data (i : Nat) : JoinData :=
    if t.kind == .ver then .ver (k.ver.setWidth 32) (BitVec.ofNat 512 (leNat (c.ls.read a 64)))
    else .fill i 0xFFFFFFFF (BitVec.ofNat 128 (leNat (c.ls.read (a + 16 * i) 16)))
  let s := s.modCore d core (fun c => c.modCmd .cx k.id (fun j => { j with
    await := j.await ++ gs.map (fun i => k.off + 16 * i), off := if bad.isSome then k.b.toNat else k.off + 64
    stamped := j.stamped || bad.isSome }))
  let s := match bad with
    | some i => s.modCore d core (fun c => c.deferTo k.ctx
        ⟨Cause.poison, BitVec.ofNat 64 (a / 16 * 16 + 16 * i), BitVec.ofNat 64 (k.off + 16 * i)⟩)
    | none => s
  gs.foldl (fun s i => s.copyJoin d core b k (k.off + 16 * i) va g (data i)) s

/-- One line of a FETCH: its exact read (R273). -/
def State.fetchLine (s : State) (d core : Nat) (b : Binding) (k : Cmd) (t : Tlb) (va : Word) : State :=
  let g := t.phys va
  (s.modCore d core (fun c => c.modCmd .cx k.id (fun j => { j with await := j.await ++ [k.off], off := k.off + 64 }))).send
    d (gDev g) k.weights (.req (gLocal g / 64) (some b.launch)
      (.xread (.cmd d core .cx k.id k.off) va t.kind t.wd 0 64 (k.ver.setWidth 32)))

/-- The next line of a started copy: translated, checked, and sent when there is room (R79, R273, R281, R379, R395). -/
def State.copyLine (s : State) (d core : Nat) (b : Binding) (k : Cmd) (put : Bool) : State :=
  let c := s.core d core
  let va := k.a + BitVec.ofNat 64 k.off
  let a := k.d.toNat + k.off
  match engineTr c k b.asid va with
  | .miss => s.engineWalk d core .cx b.asid va
  | .bad t => s.modCore d core (fun c => c.haltCmd k k.off t)
  | .hit t => match copyTrap put t va with
    | some p => s.modCore d core (fun c => c.haltCmd k k.off p)
    | none =>
      if gDev (t.phys va) != d && (s.device d).storeFull then s
      else if !put then s.fetchLine d core b k t va
      else if s.eccRange d core a 64 then s.eccKill d core
      else if s.pairDiffers d core a 64 then s.killCore d core true false
      else s.putLine d core b k t va

/-- The token of a stamp's acknowledgement: above every offset. -/
def stampTok : Nat := 2 ^ 20

/-- The completion stamp (R274). -/
def State.stamp (s : State) (d core : Nat) (b : Binding) (k : Cmd) : State :=
  let va := k.e0
  let halt (t : Trap) : State := s.modCore d core (fun c => c.haltCmd k (max k.off k.b.toNat) t)
  if va.toNat % 8 != 0 then halt ⟨Cause.misaligned, va, 0⟩
  else match engineTr (s.core d core) k b.asid va with
    | .miss => s.engineWalk d core .cx b.asid va
    | .bad t => halt t
    | .hit t => match permTrap t .join va with
      | some p => halt p
      | none => match kindTrap t .max .w64 va with
        | some p => halt p
        | none =>
          let g := t.phys va
          (s.modCore d core (fun c => c.modCmd .cx k.id (fun j => { j with stamped := true, await := [stampTok] }))).copyJoin
            d core b k stampTok va (g / 64 * 64) (.elems .max .w64 [(va.toNat % 64, k.e1.toNat)])

/-- SEND when it runs (R275, R367, R395): its granules leave as one landing. -/
def State.runSend (s : State) (d core : Nat) (b : Binding) (k : Cmd) (fmt : Tag) : State :=
  let c := s.core d core
  let (a, n) := k.src
  let abandon (t : Trap) : State := s.modCore d core (fun c => (c.deferTo k.ctx t).finishCmd .cx k)
  if s.eccRange d core a n then s.eccKill d core
  else match c.ls.poisonAt a n with
    | some g => abandon ⟨Cause.poison, BitVec.ofNat 64 (16 * g), BitVec.ofNat 64 (16 * g - a)⟩
    | none =>
      if s.pairDiffers d core a n then s.killCore d core true false
      else match b.place k.a.toNat with
        | none => abandon ⟨Cause.exchangeViolation, k.b, k.a⟩
        | some (rd, _) =>
          if rd != d && (s.device d).storeFull then s
          else
            (s.modCore d core (fun c => (c.startCmd .cx k).modCmd .cx k.id (fun j => { j with await := [0] }))).send d rd
              k.weights (.land
                { src := ⟨d, core, k.ctx⟩, no := k.id, cmd := some k.id, from_ := b.lcore, rcv := k.a.toNat, off := k.b
                  data := c.ls.read a n, seq := k.seq, topx := k.topx, typed := isTyped fmt, launch := b.launch, passed := false })

/-! ## The collective port up to the engine (R276, R286, R384, R387) -/

/-- A lost contribution (R384, R387): the address at fault, the member's LCORE and the cause that lost it. -/
def State.collLost (s : State) (b : Binding) (k : Cmd) (cause : Nat) (addr : Word) : State :=
  s.collFault b k.level k.seq Cause.collIncomplete addr (BitVec.ofNat 64 (b.lcore + cause * 2 ^ 32))

/-- The key of a core's collective (R286): the number counts modulo 2^16. -/
def collKeyOf (b : Binding) (k : Cmd) : CollKey :=
  ⟨b.launch, false, k.level, nodeIndex b.tree k.level b.lcore, k.seq % 65536⟩

/-- Whether s is lower than t as serial numbers (R286). -/
def serialLt (s t : Nat) : Bool := let d := (t + 65536 - s) % 65536; decide (1 ≤ d) && decide (d ≤ 2 ^ 15 - 1)

/-- Whether R286 holds a COLL at the port's head: a collective of the node to which the member has contributed is still live,
and its number is 2^15 − 1 or more below, on this device or on one that the launch has left. -/
def Device.collHeld (x : Device) (key : CollKey) (lcore : Nat) : Bool :=
  x.colls.any (fun c => c.key.launch = key.launch && !c.key.group && c.key.level == key.level && c.key.node == key.node
    && c.mine.any (fun m => m.lcore == lcore) && 2 ^ 15 - 1 ≤ (key.seq + 65536 - c.key.seq) % 65536)

/-- The collective staging pool of a device in bytes (R276, R341). -/
def Device.stagePool (x : Device) : Nat := x.bar0.capool.toNat / 65536 % 65536 * 2 ^ 20

/-- The lattice wait's read (R276), or the loss of the contribution. -/
def State.latticeRead (s : State) (d core : Nat) (b : Binding) (k : Cmd) : State :=
  let va := k.e0
  let lost (t : Trap) : State := s.collLost b k t.cause va
  match engineTr (s.core d core) k b.asid va with
  | .miss => s.engineWalk d core .port b.asid va
  | .bad t => lost t
  | .hit t => match permTrap t .tread va with
    | some p => lost p
    | none =>
      if va.toNat % elemBytes t.kind t.wd != 0 then lost ⟨Cause.misaligned, va, 0⟩
      else
        let g := t.phys va
        (s.modCore d core (fun c => (c.startCmd .port k).modCmd .port k.id (fun j => { j with await := [0] }))).send d (gDev g)
          k.weights (.req (gLocal g / 64) (some b.launch)
            (.tread (.lattice d core k.id) va t.kind t.wd (va.toNat % 64) [trigger t.kind t.wd.bits k.e1]))

/-- A COLL at the head of its port once its wait and guard let it go (R276): the engine receives it. -/
def State.startColl (s : State) (d core : Nat) (b : Binding) (k : Cmd) (lw : Bool) : State :=
  if s.devs.any (fun p => p.2.collHeld (collKeyOf b k) b.lcore) then s
  else if (s.device d).stagePool < k.b.toNat then
    s.collFault b k.level k.seq Cause.collStaging (s.rootTile b k.level k.seq k.a) 0
  else if lw then s.latticeRead d core b k
  else s.modCore d core (fun c => c.startCmd .port k)

/-! ## The head events (R101) -/

/-- The matrix effects of a command on one core, which in a pair executes it on its own (R395). -/
def State.runMatrix (s : State) (d core : Nat) (k : Cmd) : State :=
  if (s.core d core).eccGran k.src.1 k.src.2 then s.eccKill d core
  else if (s.core d core).swapPending k then s
  else s.modCore1 d core (fun c => c.mxRun k)

/-- Running a command that has passed steps 1 to 3. One that names an accumulator with an exchange pending waits for it here, after its
wait and guard (R99; log 98). -/
def State.runHead (s : State) (d core : Nat) (b : Binding) (q : EngQ) (k : Cmd) : State :=
  match k.instr with
  | .cpyFetch .. | .cpyPutj .. => s.modCore d core (fun c => c.startCmd .cx k)
  | .send _ _ _ _ _ fmt _ => s.runSend d core b k fmt
  | .coll _ _ _ _ _ _ _ _ lw _ => s.startColl d core b k lw.isSome
  | _ => if q == .mx then s.runMatrix d core k else s

/-- A started command that has more to send: the next line, or the stamp. -/
def State.continueHead (s : State) (d core : Nat) (b : Binding) (k : Cmd) : State :=
  match k.instr with
  | .cpyFetch .. => if k.sentAll then s else s.copyLine d core b k false
  | .cpyPutj _ _ _ _ _ st _ =>
    if !k.sentAll then s.copyLine d core b k true
    else if st.isSome && !k.stamped && k.await.isEmpty then s.stamp d core b k
    else s
  | _ => s

/-- Whether a pre-emption has stopped every live context of a core: its unstarted commands stay unstarted (R279). -/
def Core.frozen (c : Core) : Bool :=
  c.ctxs.toList.any (fun x => x.pre == .stopped) && c.ctxs.toList.all (fun x => !x.st.live || x.pre == .stopped)

/-- Whether a command may run as far as the other core of a pair goes: one that takes traffic out of the pair waits until the other
core's copy, unless that core has discarded it, has passed its own wait and guard (R395). -/
def State.peerReady (s : State) (d : Nat) (b : Binding) (q : EngQ) (k : Cmd) : Bool :=
  q == .mx || (match b.peer with
    | some p => ((s.core d p).queue q).all (fun j => j.id != k.id || j.step == .run)
    | none => true)

/-- The head of a queue of one core (R101, R279, R281, R384), decided on its own semaphores and guards (R395). What a command sends, the
leader of a pair sends. -/
def State.headOf (s : State) (d c : Nat) (q : EngQ) : State :=
  let core := s.core d c
  match core.bound, core.queue q with
  | some b, k :: _ =>
    if k.halted.isSome || k.done then s
    else if k.started then if b.checker then s else s.continueHead d c b k
    else if core.frozen then s
    else match core.headDec k with
      | .waits n => s.modCore1 d c (fun x => (x.readGuard k).modCmd q k.id (fun j => { j with step := n }))
      | .runs =>
        let s := s.modCore1 d c (fun x => (x.readGuard k).modCmd q k.id (fun j => { j with step := .run }))
        if (b.checker && q != .mx) || !s.peerReady d b q k then s else s.runHead d c b q { k with step := .run }
      | .discards =>
        if q == .port then (s.modCore1 d c (fun x => x.readGuard k)).collLost b k 0 0
        else s.modCore1 d c (fun x => (x.readGuard k).discardCmd q k)
  | _, _ => s

/-- ENGINE_CMD_HEAD (R101, R395): the head of a queue of a core; in a pair the checker's first, then the leader's, in one cycle. -/
def execEngineCmdHead (d c : Nat) (q : EngQ) (s : State) : Host.Outcome State Fault Refusal :=
  match (s.core d c).bound with
  | some b =>
    if b.checker then .next s
    else .next ((match b.peer with
      | some p => s.headOf d p q
      | none => s).headOf d c q)
  | none => .next s

/-- Whether a started command has nothing left to do. -/
def Cmd.complete (k : Cmd) : Bool :=
  k.started && k.halted.isNone && k.await.isEmpty && (match k.instr with
    | .cpyFetch .. => k.sentAll
    | .cpyPutj _ _ _ _ _ st _ => k.sentAll && (st.isNone || k.stamped)
    | .coll .. => false
    | _ => true)

/-- Completing a command: a FETCH that failed records its lowest failing line (R273). -/
def Core.completeCmd (c : Core) (q : EngQ) (k : Cmd) : Core :=
  (match k.failAt with
    | some (_, t) => c.deferTo k.ctx t
    | none => c).finishCmd q k

/-- Completing the head of a queue of one core, once nothing of it is left. -/
def Core.completeHead (c : Core) (q : EngQ) : Core :=
  match c.queue q with
  | k :: _ => if k.complete then c.completeCmd q k else c
  | [] => c

/-- ENGINE_CMD_COMPLETE (R101, R102, R135, R273, R395): of a pair each core completes its own. -/
def execEngineCmdComplete (d c : Nat) (q : EngQ) (s : State) : Host.Outcome State Fault Refusal :=
  .next (s.modCore d c (fun x => x.completeHead q))

/-! ## Answers to the copy engine (R273, R366, R403) -/

/-- The command of a queue with a number, while it waits for a token. -/
def Core.waiting (c : Core) (q : EngQ) (id tok : Nat) : Option Cmd :=
  (c.queue q).find? (fun k => k.id == id && k.await.contains tok)

/-- A line that came back. -/
def Core.fetched (c : Core) (k : Cmd) (off : Nat) (bs : List Byte) : Core :=
  (c.engineWrite (k.d.toNat + off) bs).modCmd .cx k.id (fun j => { j with await := setDel j.await off })

/-- A line that failed: it and every line after it become full and poisoned, and their reads are withdrawn (R273). -/
def Core.fetchFailed (c : Core) (k : Cmd) (off : Nat) (t : Trap) : Core :=
  let gs := granules (k.d.toNat + off) (k.b.toNat - off)
  { c with ls := (c.ls.setFull gs).setPoison gs, wrote := true }.modCmd .cx k.id (fun j =>
    { j with await := j.await.filter (· < off), failAt := some (off, t) })

/-- Withdrawing the reads of a FETCH from a line on (R273): parked, waiting for a retry, or on their way to a home of the device. One
under way between devices is answered, and its answer discarded. -/
def State.withdrawLines (s : State) (d core id off : Nat) : State :=
  let gone (r : Req) : Bool := match r.origin? with
    | some (.cmd e c .cx n o) => e == d && c == core && n == id && off ≤ o
    | _ => false
  let sent : Body → Bool
    | .req _ _ r => gone r
    | _ => false
  { s.mapDevs (fun _ x => { x with park := x.park.filter (fun p => !gone p.r), retry := x.retry.filter (fun q => !sent q.body) }) with
    net := s.net.filter (fun m => !sent m.body) }

/-- CPY_FETCH_LINE (R273, R281, R403): message n, a line's answer; one that is no longer awaited is discarded. -/
def execCpyFetchLine (n : Nat) (s : State) : Host.Outcome State Fault Refusal :=
  match s.net[n]? with
  | some ⟨_, _, _, .answer (.cmd d c q id off) a⟩ =>
    let s := s.dropMsg n
    match (s.core d c).waiting q id off with
    | none => .next s
    | some k => match a with
      | .data bs => .next (s.modCore d c (fun x => x.fetched k off bs))
      | .trap t =>
        if t.cause == Cause.memUncorr then .next ((s.modCore d c (fun x => x.haltCmd k off t)).withdrawLines d c id off)
        else .next ((s.modCore d c (fun x => x.fetchFailed k off t)).withdrawLines d c id off)
      | _ => .next s
  | _ => .next s

/-- An acknowledgement to a copy command (R273, R274, R366): a failed join is recorded with the line; a poisoned line
halts the command (R403). -/
def Core.copyAck (c : Core) (id tok : Nat) (t : Option Trap) : Core :=
  match c.waiting .cx id tok with
  | none => c
  | some k =>
    let off := if tok = stampTok then max k.off k.b.toNat else tok / 64 * 64
    match t with
    | none => c.modCmd .cx id (fun j => { j with await := j.await.erase tok })
    | some t =>
      if t.cause == Cause.memUncorr then
        (c.haltCmd k off t).modCmd .cx id (fun j =>
          { j with await := j.await.erase tok, stamped := j.stamped && tok != stampTok })
      else (c.modCmd .cx id (fun j => { j with await := j.await.erase tok })).deferTo k.ctx t

/-- A landing's acknowledgement to its SEND (R275). -/
def Core.sendAck (c : Core) (id : Nat) (t : Option Trap) : Core :=
  match c.waiting .cx id 0 with
  | none => c
  | some k =>
    let c := c.modCmd .cx id (fun j => { j with await := [] })
    match t with
    | some t => c.deferTo k.ctx t
    | none => c

end Sys2Proof.Machine
end

