-- ==== Sys2Proof/Machine/Collective.lean ====
section
/-! DEFINITION. Collectives past the port: the lattice wait, the source copy, reservation, contributions, the fold, deposits,
the slot limit and the fallback reducer (R276, R286-R297, R382, R384-R387). The switches on the ways to rank 0's device reduce an
all-reduce or a reduce-scatter under the switch algorithm; the engine of rank 0's device, which is the fallback reducer, reduces every
other collective (log 14). -/

namespace Sys2Proof.Machine
open Sys2Proof

/-! ## What a collective computes (R287-R292) -/

/-- A left fold from the first element. -/
def foldFirst (f : Nat → Nat → Nat) : List Nat → Nat
  | [] => 0
  | x :: t => t.foldl f x

/-- The ring's order for block c (R289). -/
def ringOrder (c : Nat) (l : List Nat) : List Nat := l.drop (c + 1) ++ l.take (c + 1)

/-- Groups of 8 folded left, then the results likewise (R289). -/
def switchFold (f : Nat → Nat → Nat) : Nat → List Nat → Nat
  | 0, l => foldFirst f l
  | n + 1, l =>
    if l.length ≤ 8 then foldFirst f l
    else switchFold f n ((List.range ((l.length + 7) / 8)).map (fun i => foldFirst f ((l.drop (8 * i)).take 8)))

/-- sumo of an element in block c (R289): FP32 additions in the algorithm's order. -/
def sumoElem (alg c : Nat) (xs : List Nat) : Nat :=
  let add (a b : Nat) : Nat := (fpAdd fp32 a b).1
  match alg with
  | 0 => foldFirst add (ringOrder c xs)
  | 1 => (treeReduce add (Nat.log2 xs.length + 1) xs).headD 0
  | _ => switchFold add 32 xs

/-! ### The exact sum (R291, R292) -/

/-- A partial sum of sumx (R292): P in units of 2^-149, and the status bits. -/
structure Sumx where
  p : BitVec 320
  pinf : Bool
  ninf : Bool
  nan : Bool
  deriving DecidableEq, Repr

def Sumx.zero : Sumx := ⟨0, false, false, false⟩

/-- One input as a partial sum. -/
def Sumx.ofVal : Fv → Sumx
  | .nan _ => { Sumx.zero with nan := true }
  | .inf n => { Sumx.zero with pinf := !n, ninf := n }
  | .num n m e => let v : Int := m * 2 ^ (e + 149).toNat; { Sumx.zero with p := BitVec.ofInt 320 (if n then -v else v) }

/-- Combining two partial sums: P exactly, the status bits by OR. -/
def Sumx.add (a b : Sumx) : Sumx := ⟨a.p + b.p, a.pinf || b.pinf, a.ninf || b.ninf, a.nan || b.nan⟩

/-- The value that the destination rounds (R291). -/
def Sumx.val (a : Sumx) : Fv :=
  if a.nan || (a.pinf && a.ninf) then .nan false
  else if a.pinf || a.ninf then .inf a.ninf
  else .num (decide (a.p.toInt < 0)) a.p.toInt.natAbs (-149)

/-- The base of the window form: the largest, up to 192, that P is a multiple of. -/
def Sumx.base (a : Sumx) : Nat := ((List.range 193).reverse.find? (fun b => a.p.toNat % 2 ^ b == 0)).getD 0

/-- A partial sum as it travels (R292): its tag, and a window when one holds it, else the whole of P. -/
def Sumx.wire (a : Sumx) : List Byte :=
  let st := 2 * b2n a.pinf + 4 * b2n a.ninf + 8 * b2n a.nan
  let w := a.p.toInt / 2 ^ a.base
  if -2 ^ 127 ≤ w && w < 2 ^ 127 then natBytes 2 (st + 16 * a.base) ++ natBytes 16 (BitVec.ofInt 128 w).toNat
  else natBytes 2 (1 + st) ++ natBytes 40 a.p.toNat

/-- Reading one partial sum: it, and the bytes behind it. -/
def Sumx.read (bs : List Byte) : Sumx × List Byte :=
  let tag := leNat (bs.take 2)
  let full := bit tag 0
  let body := bs.drop 2
  let w : Int := (BitVec.ofNat 128 (leNat (body.take 16))).toInt
  (⟨if full then BitVec.ofNat 320 (leNat (body.take 40)) else BitVec.ofInt 320 (w * 2 ^ bits tag 11 4), bit tag 1, bit tag 2, bit tag 3⟩,
    body.drop (if full then 40 else 16))

/-- Reading the partial sums of a payload, at most n. -/
def Sumx.readAll : Nat → List Byte → List Sumx
  | 0, _ => []
  | n + 1, bs => if bs.isEmpty then [] else (Sumx.read bs).1 :: Sumx.readAll n (Sumx.read bs).2

/-- The partial sums of a payload. -/
def partials (bs : List Byte) : List Sumx := Sumx.readAll bs.length bs

/-- An element of the result, from the members' elements in rank order (R287). -/
def combElem (comb : Nat) (fmt : Tag) (alg c : Nat) (vals : List Nat) : Nat :=
  match comb with
  | 1 => sumoElem alg c vals
  | 3 => vals.foldl (· + ·) 0 % 2 ^ tagBits fmt
  | 4 => foldFirst (fun a b => (minMaxLane true fmt false a b).1) ((vals.take 1) ++ vals)
  | 5 => foldFirst (fun a b => (minMaxLane false fmt false a b).1) ((vals.take 1) ++ vals)
  | _ => vals.foldl (· ||| ·) 0

/-- Bytes of an element: the bitwise or goes byte by byte. -/
def combBytes (comb : Nat) (fmt : Tag) : Nat := if comb == 6 then 1 else max 1 (tagBits fmt / 8)

/-- Bytes of an element on its way: in sumo it is an FP32 value (R289). -/
def wayBytes (comb : Nat) (fmt : Tag) : Nat := if comb == 1 then 4 else combBytes comb fmt

/-- The elements of a list of bytes, w bytes each. -/
def elems (w : Nat) (bs : List Byte) : List Nat := (List.range (bs.length / w)).map (fun e => leNat ((bs.drop (e * w)).take w))

/-- The payload of a contribution (R289, R292): in sumo each element converted to FP32, in sumx a partial sum for each, else the data. -/
def payload (cop : Nat) (fmt : Tag) (bs : List Byte) : List Byte :=
  let f := fpOf fmt
  let es := elems (combBytes (cop % 16) fmt) bs
  match cop % 16 with
  | 1 => es.flatMap (fun v => natBytes 4 (rneOf fp32 (f.val v, 0)).1)
  | 2 => es.flatMap (fun v => (Sumx.ofVal (f.val v)).wire)
  | _ => bs

/-- The combined elements of payloads of len bytes of source, in rank order (R287, R289, R291), not yet rounded. -/
def combined (cop : Nat) (fmt : Tag) (alg len : Nat) (srcs : List (List Byte)) : List Byte :=
  let w := combBytes (cop % 16) fmt
  let ww := wayBytes (cop % 16) fmt
  if cop % 16 == 2 then
    (List.range (len / w)).flatMap (fun e =>
      ((srcs.map (fun b => ((partials b)[e]?).getD Sumx.zero)).foldl Sumx.add Sumx.zero).wire)
  else (List.range (len / w)).flatMap (fun e =>
    natBytes ww (combElem (cop % 16) fmt alg (e * w / 64 % srcs.length) (srcs.map (fun b => leNat ((b.drop (e * ww)).take ww)))))

/-- The bytes of a result at its destination (R289, R291): in sumo and sumx each element is rounded once. -/
def settled (cop : Nat) (fmt : Tag) (v : List Byte) : List Byte :=
  let out (x : Fv) : List Byte := natBytes (combBytes (cop % 16) fmt) (rneOf (fpOf fmt) (x, 0)).1
  match cop % 16 with
  | 1 => (elems 4 v).flatMap (fun a => out (fp32.val a))
  | 2 => (partials v).flatMap (fun a => out a.val)
  | _ => v

/-- What every member's deposit is taken from (R288). -/
def collValue (cop : Nat) (fmt : Tag) (alg len : Nat) (srcs : List (List Byte)) : List Byte :=
  match cop / 16 with
  | 2 => srcs.headD []
  | 3 => srcs.flatten
  | _ => combined cop fmt alg len srcs

/-- The bytes that land at a rank: the whole, or for rscat its block (R288). -/
def landBytes (cop n rank : Nat) (v : List Byte) : List Byte :=
  if cop / 16 == 4 then (v.drop (v.length / n * rank)).take (v.length / n) else v

/-- Whether anything lands at a rank (R288). -/
def landsAt (cop rank : Nat) : Bool := cop / 16 != 1 || rank == 0

/-! ### What a slot computes (R289, R294) -/

/-- The pieces of a payload: at most 512 bytes a packet (R294). -/
def payloadPieces (bs : List Byte) : List (List Byte) :=
  (List.range (max 1 ((bs.length + 511) / 512))).map (fun i => (bs.drop (512 * i)).take 512)

/-- The pieces of a contribution, as packets carry them. -/
def Contrib.split (c : Contrib) : List Contrib :=
  let ps := payloadPieces c.data
  ps.zipIdx.map (fun p => { c with data := p.1, piece := p.2, pieces := ps.length })

/-- Whether two pieces are of one partial fold. -/
def Contrib.beside (a b : Contrib) : Bool := a.stream == b.stream && a.part == b.part

/-- The partial folds of which every piece is held, put together. -/
def wholes (got : List Contrib) : List Contrib :=
  (got.filter (fun g => g.piece == 0 && (got.filter g.beside).length == g.pieces)).map (fun g =>
    { g with data := (sortBy (·.piece) (got.filter g.beside)).flatMap (·.data) })

/-- Whether a slot holds all of its n inputs. -/
def slotFull (got : List Contrib) (n : Nat) : Bool :=
  let ws := wholes got
  (ws.map (·.stream)).eraseDups.length == n && ws.all (fun w => (ws.filter (fun v => v.stream == w.stream)).length == w.parts)

/-- Whether every rank below n is held. -/
def holdsAll (got : List Contrib) (n : Nat) : Bool := (List.range n).all (fun r => (wholes got).any (fun w => w.ranks.contains r))

/-- Whether two partial folds are the operands of one combination (R287, R289, R294): any two, for a combiner whose result the order does
not change; in sumo under the tree or the switch algorithm, where R289 adds them: a prefix of a group of radix^(l+1) ranks and the
radix^l ranks, or those left, behind it. -/
def combines (cop alg n : Nat) (a b : Contrib) : Bool :=
  let p := a.ranks.length
  let radix := if alg == 1 then 2 else 8
  match cop % 16, alg with
  | 0, _ | 1, 0 => false
  | 1, _ => b.rank == a.rank + p && (List.range 32).any (fun l =>
      let u := radix ^ l
      a.rank % (radix * u) == 0 && p % u == 0 && 1 ≤ p / u && p / u < radix && b.ranks.length == min u (n - b.rank))
  | _, _ => true

/-- The combination of two partial folds. -/
def Contrib.plus (a b : Contrib) : Contrib :=
  { a with
    ranks := a.ranks ++ b.ranks, typed := a.typed || b.typed
    data := combined a.head.cop.toNat a.head.fmt 1 (a.digest.getD 2 0) [a.data, b.data] }

/-- A partial fold behind others, the nearest first, combined with them as far as it can be. -/
def combineInto (joins : Contrib → Contrib → Bool) : Contrib → List Contrib → List Contrib
  | b, a :: t => if joins a b then combineInto joins (a.plus b) t else b :: a :: t
  | b, [] => [b]

/-- Every combination that can be made of some partial folds of n ranks (R294), in rank order. -/
def foldParts (alg n : Nat) (ps : List Contrib) : List Contrib :=
  ((sortBy (·.rank) ps).foldl (fun st b => combineInto (combines b.head.cop.toNat alg n) b st) []).reverse

/-- What a full slot that is not the last sends on (R294): its partial folds in rank order, as one stream. -/
def slotParts (alg n : Nat) (got : List Contrib) : List Contrib :=
  let ps := foldParts alg n (wholes got)
  ps.zipIdx.flatMap (fun p =>
    ({ p.1 with stream := (ps.head?.map (·.rank)).getD 0, part := p.2, parts := ps.length, own := false } : Contrib).split)

/-- Of partial folds that hold a rank in common, the widest. -/
def widest (ps : List Contrib) : List Contrib :=
  ps.foldl (fun l w =>
    if l.any (fun v => w.ranks.all v.ranks.contains) then l else l.filter (fun v => !v.ranks.all w.ranks.contains) ++ [w]) []

/-- The result of a last slot, or of the fallback reducer, with all n ranks (R288, R289, R291). -/
def slotValue (alg n : Nat) (got : List Contrib) : List Byte :=
  match foldParts alg n (widest (wholes got)) with
  | p :: t => if 1 < p.ranks.length then p.data
    else collValue p.head.cop.toNat p.head.fmt alg (p.digest.getD 2 0) ((p :: t).map (·.data))
  | [] => []

/-! ## The records of the engines -/

/-- PD0, where the Curator and its engine stand (R7). -/
def pd0 : Nat := 4

def Device.coll? (x : Device) (k : CollKey) : Option Coll := x.colls.find? (fun c => c.key == k)

def Device.modColl (x : Device) (k : CollKey) (f : Coll → Coll) : Device :=
  { x with colls := x.colls.map (fun c => if c.key == k then f c else c) }

/-- Bytes of the staging pool in use (R276). -/
def Device.stageUsed (x : Device) : Nat :=
  (x.colls.flatMap (fun c => c.mine.map (fun m => m.data.length))).foldl (· + ·) 0

/-- Whether one collective key is lower than another (R286); the owner decides between equal accession numbers. -/
def collKeyLt (a b : CollKey) : Bool :=
  if a.launch.acc != b.launch.acc then a.launch.acc < b.launch.acc
  else if a.launch.owner != b.launch.owner then a.launch.owner < b.launch.owner
  else if a.level != b.level then a.level < b.level
  else if a.node != b.node then a.node < b.node
  else serialLt a.seq b.seq

/-- Rank 0's destination tile. -/
def State.collTile (s : State) (k : CollKey) : Word :=
  (s.devs.findSome? (fun p => (p.2.coll? k).bind (fun c => (c.mine.find? (fun m => m.rank == 0)).map (·.tile)))).getD 0

/-- A collective that cannot finish (R384, R385, R387): the launch faults, or every member device of a group keeps the
failure for its command. -/
def State.collEnd (s : State) (c : Coll) (cause : Nat) (taddr : Option Word) (taux : Word) : State :=
  let at_ := taddr.getD (s.collTile c.key)
  if c.key.group then
    s.mapDevs (fun d x =>
      if !c.devs.contains d then x
      else
        let f := some (cause, at_, taux)
        if (x.coll? c.key).isSome then x.modColl c.key (fun k => { k with failed := f })
        else { x with colls := x.colls ++ [{ c with failed := f, mine := [], got := [] }] })
  else s.launchFault c.key.launch (launchCause 4 cause c.rootL
    (BitVec.ofNat 64 (c.key.seq % 65536 + c.key.level * 2 ^ 16 + c.key.node * 2 ^ 22)) at_ taux)

/-- The number of a switch as a hop of a reservation (R297). -/
def switchHop (sw : Nat) : Nat := 2 ^ 14 + sw

/-- The switches that a packet of device e passes on its way to device dst, by the tables; none when it does not come there. -/
def State.wayTo (s : State) (dst : Nat) : Nat → Nat → Option (List Nat)
  | 0, _ => none
  | f + 1, sw => match (aget s.switches sw).bind (fun k => aget k.table dst) with
    | some 0 => some [sw]
    | some (next + 1) => (s.wayTo dst f next).map (sw :: ·)
    | none => none

/-- The switch tree of a collective (R295): for an ared or rscat of several devices under the switch algorithm, the way of each to rank
0's device, where all of them end in one switch, the top; else none (log 14). -/
def State.aperture (s : State) (c : Coll) : AMap (List Nat) :=
  let ways := c.devs.map (fun e => (e, ((s.firstSwitch e c.root).bind (s.wayTo c.root s.switches.length)).getD []))
  let top := ways.head?.bind (fun w => w.2.getLast?)
  if c.alg == 2 && (c.cop.toNat / 16 == 0 || c.cop.toNat / 16 == 4) && c.devs.any (· != c.root) && top.isSome
    && ways.all (fun w => w.2.getLast? == top) then ways else []

/-- The switches that a rank's contribution passes. -/
def Coll.way (c : Coll) (r : Nat) : List Nat := (aget c.via (c.places.getD r c.root)).getD []

/-- The stream in which a rank's contribution comes to a switch of the tree: its own, or that of the switch before, which the lowest rank
that passes there names. -/
def Coll.streamAt (c : Coll) (sw r : Nat) : Option Nat :=
  if !(c.way r).contains sw then none
  else match ((c.way r).takeWhile (· != sw)).getLast? with
    | some g => (List.range c.n).find? (fun q => (c.way q).contains g)
    | none => some r

/-- The streams that come to a switch, lowest first. -/
def Coll.streams (c : Coll) (sw : Nat) : List Nat := ((List.range c.n).filterMap (c.streamAt sw)).eraseDups

/-- The slots that input i of m passes at one hop: how many inputs each awaits, and which of the hop's slots it is. A slot awaits at most
127 (R294), so more inputs meet in groups of 64 first (log 14). -/
def stages : Nat → Nat → Nat → Nat → List (Nat × Nat)
  | 0, base, m, _ => [(m, base)]
  | f + 1, base, m, i =>
    if m ≤ 127 then [(m, base)]
    else (min 64 (m - 64 * (i / 64)), base + i / 64) :: stages f (base + (m + 63) / 64) ((m + 63) / 64) (i / 64)

/-- How many slots a hop needs for m inputs. -/
def slotCount (m : Nat) : Nat := ((stages 4 0 m 0).getLast?.map (·.2)).getD 0 + 1

/-- The port that leads back into the hop itself; no neighbour has it (log 14). -/
def ownPort : Nat := 63

/-- The port to a neighbour, as an op list names it. -/
def opPort (next : Option Nat) (dst : Nat) : Nat := portTo next dst % ownPort

/-- The entries of an op list for one hop: input i of m, the hop's slots, and the port of the last one. -/
def hopOps (slots : List Nat) (m i port : Nat) : List CollAct :=
  let st := stages 4 0 m i
  st.zipIdx.map (fun p => .reduce p.1.1 (slots.getD p.1.2 0) (if p.2 + 1 < st.length then ownPort else port))

/-- The slots that a collective holds at a switch, or at rank 0's engine (R295, R297). -/
def State.switchSlots (s : State) (key : CollKey) (sw : Nat) : List Nat :=
  (((aget s.switches sw).map (·.slots)).getD []).filterMap (fun t => if t.key == key then some t.grp else none)

def State.rootSlots (s : State) (c : Coll) : List Nat :=
  (s.device c.root).grants.filterMap (fun g => if g.1 == c.key then some g.2 else none)

/-- The last slot of a collective, which numbers its multicast group too. -/
def State.lastSlot (s : State) (c : Coll) : Nat :=
  ((match c.via.head?.bind (fun w => w.2.getLast?) with
    | some top => s.switchSlots c.key top
    | none => s.rootSlots c).getLast?).getD 0

/-- What follows the last reduction: the result is multicast and deposited (R294). -/
def State.lastOps (s : State) (c : Coll) : List CollAct := [.multicast (s.lastSlot c), .deposit]

/-- The op list of a rank's contribution (R294, R295): reduced at each switch of its way, or at rank 0's engine. -/
def State.opsOf (s : State) (c : Coll) (r : Nat) : List CollAct :=
  let way := c.way r
  (if c.via.isEmpty then hopOps (s.rootSlots c) c.n r ownPort
    else way.zipIdx.flatMap (fun p =>
      let streams := c.streams p.1
      hopOps (s.switchSlots c.key p.1) streams.length (streams.idxOf ((c.streamAt p.1 r).getD r))
        (match way[p.2 + 1]? with
          | some next => opPort (some next) c.root
          | none => ownPort))) ++ s.lastOps c

/-- The hops of a reservation in op-list order (R297): each member device and the switches from there to rank 0's device, or the member
devices alone; rank 0's device last. -/
def Coll.hops (c : Coll) : List Nat :=
  let others := c.devs.filter (· != c.root)
  (if c.via.isEmpty then others else others.flatMap (fun e => e :: ((aget c.via e).getD []).map switchHop ++ [c.root]))
    ++ (if c.via.isEmpty then [c.root] else [])

/-- Starting the reservation (R297). -/
def State.reserveFrom (s : State) (d : Nat) (c : Coll) : State :=
  let c := { c with via := s.aperture c }
  let s := s.modDev d (fun x => x.modColl c.key (fun k => { k with stage := .reserving, via := c.via }))
  match c.hops with
  | h :: _ => s.send d h 0x010101 (.reserve c.key d c.hops [])
  | [] => s

/-- Sending a contribution on its way, piece by piece (R294, R295): to the first switch of the tree, or to rank 0's device. That of a
member whose launch has moved it to another device goes to the fallback reducer (log 14). -/
def State.sendContrib (s : State) (d : Nat) (k : Coll) (c : Contrib) : State :=
  let ops := s.opsOf k c.rank
  ({ c with data := payload k.cop.toNat k.fmt c.data } : Contrib).split.foldl (fun s c =>
    if k.via.isEmpty then
      s.mesh d c.weights (.coll k.key (.forward (if d = k.root then ownPort else opPort (s.firstSwitch d k.root) k.root) :: ops) false c)
    else if k.places[c.rank]? == some d then s.fabSend d k.root c.weights (.coll k.key ops false c) false
    else s.send d k.root c.weights (.coll k.key (s.lastOps k) true c)) s

/-- A collective that another device knows already keeps the root, the places and the member devices it has there (R45, R279: a
pre-emption may have moved its launch). -/
def State.adopt (s : State) (base : Coll) : Coll :=
  match s.devs.findSome? (fun p => p.2.coll? base.key) with
  | some k => { base with root := k.root, places := k.places, devs := (k.devs ++ base.devs).eraseDups }
  | none => base

/-- What a hop finds when it compares a contribution with the first one it holds (R130, R384, R385). -/
def unlike (held : Option Contrib) (m : Contrib) : Option Nat :=
  match held with
  | some g => if g.digest != m.digest then some Cause.collMismatch
    else if m.typed && g.topx != m.topx then some Cause.collTopx else none
  | none => none

/-- A contribution that an engine of a device has copied (R276, R286, R384, R385): compared with the first one of the device, recorded; rank 0's starts the reservation, and
one that comes after the start is sent. -/
def State.contribute (s : State) (d : Nat) (base : Coll) (c : Contrib) : State :=
  match (s.device d).coll? base.key with
  | none =>
    let base := s.adopt base
    let s := s.modDev d (fun x => { x with colls := x.colls ++ [{ base with mine := [c], rver := x.rver }] })
    if c.rank = 0 then s.reserveFrom d base else s
  | some k =>
    if k.failed.isSome then s.modDev d (fun x => x.modColl base.key (fun k => { k with mine := [c] }))
    else match unlike k.mine.head? c with
    | some cause => s.collEnd k cause none 0
    | none =>
      let s := s.modDev d (fun x => x.modColl base.key (fun k => { k with mine := k.mine ++ [c] }))
      if c.rank = 0 then s.reserveFrom d base
      else if k.stage == .sending then s.sendContrib d k c else s

/-! ## The lattice wait and the source copy (R276, R384) -/

/-- COLL_LATTICE_WAIT (R276, R384): message n, the answer to a lattice wait, lets the collective start or loses the
contribution. -/
def execCollLatticeWait (n : Nat) (s : State) : Host.Outcome State Fault Refusal :=
  match s.net[n]? with
  | some ⟨_, _, _, .answer (.lattice d c id) a⟩ =>
    let s := s.dropMsg n
    match (s.core d c).waiting .port id 0, (s.core d c).bound with
    | some k, some b => match a with
      | .trap t => .next (s.collLost b k t.cause t.addr)
      | _ => .next (s.modCore d c (fun x => x.modCmd .port id (fun j => { j with await := [] })))
    | _, _ => .next s
  | _ => .next s

/-- The collective of a COLL command and the issuer's contribution (R276, R286, R288, R384). -/
def collOf (b : Binding) (d : Nat) (k : Cmd) (data : List Byte) : Coll × Contrib :=
  let (cop, fmt) : BitVec 8 × Tag := match k.instr with
    | .coll _ _ cop fmt _ _ _ _ _ _ => (cop, fmt)
    | _ => (0, 0)
  let key := collKeyOf b k
  let ms := nodeMembers b.tree k.level key.node
  let places := ms.map (fun l => ((b.place l).map (·.1)).getD d)
  ({ key := key, cop := cop, fmt := fmt, len := k.b.toNat, ver := k.ver.setWidth 32, alg := k.alg, n := ms.length
     root := places.headD d, rootL := ms.headD 0, devs := places.eraseDups, mine := [], stage := .collecting
     places := places, via := [], rver := 0, got := [], sent := false, res := [], fb := false, landed := [], pend := [], failed := none },
   { rank := b.lcore - ms.headD 0, lcore := b.lcore, dev := d, data := data, topx := k.topx, typed := isTyped fmt
     digest := [cop.toNat, fmt.toNat, k.b.toNat, k.ver.toNat % 2 ^ 32, k.descVer], tile := k.a, asid := b.asid, weights := k.weights, piece := 0, pieces := 1
     ranks := [b.lcore - ms.headD 0], stream := b.lcore - ms.headD 0, part := 0, parts := 1, own := true })

/-- The engine's reading of the source (R276, R367, R384, R395, R405): the copy, the signal, and the contribution. -/
def State.copySource (s : State) (d core : Nat) (b : Binding) (k : Cmd) : State :=
  let c := s.core d core
  let (a, n) := k.src
  if s.eccRange d core a n then s.eccKill d core
  else match c.ls.poisonAt a n with
    | some g => (s.modCore d core (fun c => (c.deferTo k.ctx ⟨Cause.poison, BitVec.ofNat 64 (16 * g), BitVec.ofNat 64 (16 * g - a)⟩).finishCmd
        .port k)).collLost b k Cause.poison (BitVec.ofNat 64 (16 * g))
    | none =>
      if s.pairDiffers d core a n then s.killCore d core true false
      else
        let (base, m) := collOf b d k (c.ls.read a n)
        (s.modCore d core (fun c => c.finishCmd .port k)).contribute d base m

/-- COLL_SOURCE_COPY (R276): the head of a collective port, once its copy fits in the free staging pool. -/
def execCollSourceCopy (d c : Nat) (s : State) : Host.Outcome State Fault Refusal :=
  let core := s.core d c
  match core.bound, core.port with
  | some b, k :: _ =>
    if b.checker || !k.started || !k.await.isEmpty || k.done then .next s
    else if (s.device d).stagePool < (s.device d).stageUsed + k.b.toNat then .next s
    else .next (s.copySource d c b k)
  | _, _ => .next s

/-! ## The reservation (R297) -/

/-- The first m slots that a hop has free. -/
def freeNumbers (used : List Nat) (m : Nat) : List Nat := ((List.range (used.length + m)).filter (fun i => !used.contains i)).take m

/-- Whether a hop grants a reservation (R297): it grants it already, or it has room for one more collective and no request with a lower
key waits. -/
def mayGrant (hop : Nat) (held waiting : List CollKey) (k : CollKey) : Bool :=
  held.contains k || (held.eraseDups.length < Config.hopCapacity hop + 1 && waiting.all (fun w => !collKeyLt w k))

def Device.grants? (x : Device) (d : Nat) (k : CollKey) : Bool := mayGrant d (x.grants.map (·.1)) x.waiting k

/-- The slots that a collective takes at a device: those of its reductions at rank 0's engine, one for its deposits elsewhere. -/
def Device.slotsFor (x : Device) (d : Nat) (k : CollKey) : Nat :=
  match x.coll? k with
  | some c => if c.root == d && c.via.isEmpty then slotCount c.n else 1
  | none => 1

/-- Granting a reservation at a device. -/
def Device.grant (x : Device) (d : Nat) (k : CollKey) : Device :=
  if x.grants.any (fun g => g.1 == k) then x
  else { x with grants := x.grants ++ (freeNumbers (x.grants.map (·.2)) (x.slotsFor d k)).map (fun i => (k, i))
                waiting := x.waiting.filter (· != k) }

/-- A reservation packet at a device (R297), which is the first of the hops left unless a switch has not granted it: then it is refused.
One of a launch that has ended goes. -/
def State.reserveHop (s : State) (d : Nat) (k : CollKey) (root : Nat) (hops granted : List Nat) : State :=
  if !k.group && !s.alive k.launch then s
  else if hops.head? != some d then s.send d root 0x010101 (.reserved k false granted)
  else if (s.device d).grants? d k then
    let s := s.modDev d (fun x => x.grant d k)
    match hops.tail.find? (· < 2 ^ 14) with
    | none => s.send d root 0x010101 (.reserved k true (granted ++ [d]))
    | some e => s.send d e 0x010101 (.reserve k root hops.tail (granted ++ [d]))
  else
    (s.modDev d (fun x => { x with waiting := if x.waiting.contains k then x.waiting else x.waiting ++ [k] })).send d root
      0x010101 (.reserved k false granted)

/-- A start at a member device: its copied contributions are sent (R297). -/
def State.startDev (s : State) (d : Nat) (c : Coll) : State :=
  c.mine.foldl (fun s m => s.sendContrib d c m)
    (s.modDev d (fun x => x.modColl c.key (fun k => { k with stage := .sending, via := c.via })))

/-- Releasing the slots that a refused request holds at switches (R297); where it waits it goes on waiting. -/
def State.freeSlots (s : State) (k : CollKey) : State :=
  { s with switches := s.switches.map (fun p => (p.1, { p.2 with slots := p.2.slots.filter (fun t => t.key != k) })) }

/-- The reservation's outcome at rank 0 (R297): a refusal releases the grants and waits; a grant starts the members. -/
def State.reserveEnd (s : State) (d : Nat) (c : Coll) (ok : Bool) : State :=
  if ok then (c.devs.filter (· != d)).foldl (fun s e => s.send d e 0x010101 (.start c.key c.via)) (s.startDev d c)
  else
    ((s.mapDevs (fun _ x => { x with grants := x.grants.filter (fun g => g.1 != c.key) })).freeSlots c.key).modDev d (fun x =>
      x.modColl c.key (fun k => { k with stage := .refused 0 }))

/-- COLL_RESERVE_HOP (R297): message n, a reservation at a hop, its outcome at rank 0, or the start at a member device,
which waits until an engine there has the collective. -/
def execCollReserveHop (n : Nat) (s : State) : Host.Outcome State Fault Refusal :=
  match s.net[n]? with
  | some ⟨d, _, _, .reserve k root hops granted⟩ => .next ((s.dropMsg n).reserveHop d k root hops granted)
  | some ⟨d, _, _, .reserved k ok _⟩ => match (s.device d).coll? k with
    | some c => .next ((s.dropMsg n).reserveEnd d c ok)
    | none => .next (s.dropMsg n)
  | some ⟨d, _, _, .start k via⟩ => match (s.device d).coll? k with
    | some c => .next ((s.dropMsg n).startDev d { c with via := via })
    | none => .next s
  | _ => .next s

/-- COLL_RESERVE_RETRY (R297): collective n of a device, 512 cycles after a refusal. -/
def execCollReserveRetry (d n : Nat) (s : State) : Host.Outcome State Fault Refusal :=
  match (s.device d).colls[n]? with
  | some c => match c.stage with
    | .refused age => if 512 ≤ age then .next (s.reserveFrom d c) else .next s
    | _ => .next s
  | none => .next s

/-! ## Contributions, results and deposits (R288, R294, R384, R385) -/

/-- The weights of a collective's result packets: rank 0's (R284). -/
def Coll.weights (c : Coll) : BitVec 24 := ((c.mine.find? (fun m => m.rank == 0)).map (·.weights)).getD 0x010101

/-- The packets of a result, piece by piece (R294). -/
def resultParts (k : CollKey) (ops : List CollAct) (ver : BitVec 32) (h : CollHead) (v : List Byte) : List Body :=
  let ps := payloadPieces v
  ps.zipIdx.map (fun p => .result k ops ver h p.2 ps.length p.1)

/-- The contributions that rank 0's engine holds, in one slot or in all. -/
def Coll.inSlot (c : Coll) (slot : Nat) : List Contrib := (c.got.filter (fun g => g.1 == slot)).map (·.2)

def Coll.inputs (c : Coll) : List Contrib := c.got.map (·.2)

/-- The result of the last slot, or of the fallback reducer, goes out, and the staging is free (R294, R297, R382). -/
def State.sendResult (s : State) (d : Nat) (c : Coll) : State :=
  let h : CollHead := ⟨c.cop, c.fmt, c.inputs.any (·.typed), (c.inputs.head?.map (·.topx)).getD false⟩
  (resultParts c.key (s.lastOps c) c.ver h (slotValue c.alg c.n c.inputs)).foldl (fun s b => s.mesh d c.weights b)
    (s.modDev d (fun x => { x.modColl c.key (fun k => { k with got := [], sent := true }) with
      grants := x.grants.filter (fun g => g.1 != c.key) }))

/-- The acknowledgement of a piece frees its packet's entry of the retry store (R303). -/
def State.collAcked (s : State) (d : Nat) (k : CollKey) (rank piece : Nat) : State :=
  (s.modDev d (fun x => { x with store := x.store.filter (fun p => p.numbered || (match p.body with
    | .coll j _ _ c => !(j == k && c.rank == rank && c.piece == piece)
    | _ => true)) })).pump d

/-- The reducing or fallback engine acknowledges an input that a switch has sent on (R382, R393). -/
def State.ackInput (s : State) (d : Nat) (k : CollKey) (m : Contrib) : State :=
  if m.dev = d then s.collAcked d k m.rank m.piece else s.fabPut d m.dev .control 0x010101 (.collAck k m.rank m.piece)

/-- The partial folds of a full slot go on to the next slot of rank 0's engine, and the slot is free (R294). -/
def State.passOn (s : State) (d : Nat) (c : Coll) (slot : Nat) (ops : List CollAct) : State :=
  (slotParts c.alg c.n (c.inSlot slot)).foldl (fun s m => s.mesh d m.weights (.coll c.key ops false m))
    (s.modDev d (fun x => x.modColl c.key (fun k => { k with got := k.got.filter (fun g => g.1 != slot) })))

/-- A contribution at rank 0's engine (R294, R382, R384, R385): compared with the first one held, and kept in its slot; a slot that holds
its n inputs reduces them. One that a switch has sent on unreduced (fb) is the fallback reducer's, and is acknowledged here. -/
def State.slotInput (s : State) (d : Nat) (c : Coll) (n slot : Nat) (ops : List CollAct) (fb : Bool) (m : Contrib) : State :=
  if c.failed.isSome then s
  else match unlike c.inputs.head? m with
  | some cause => s.collEnd c cause none 0
  | none =>
    let s := if fb && m.own then s.ackInput d c.key m else s
    if c.sent || c.got.any (fun g => g.1 == slot && g.2.beside m && g.2.piece == m.piece) then s
    else
      let c := { c with got := c.got ++ [(slot, m)], fb := c.fb || fb }
      let s := s.modDev d (fun x => x.modColl c.key (fun _ => c))
      if fb || !slotFull (c.inSlot slot) n then s
      else match ops with
        | .reduce .. :: _ => s.passOn d c slot ops
        | _ => s.sendResult d c

/-- Removing a collective that has landed everywhere from a device (R276, R382). -/
def Device.dropColl (x : Device) (k : CollKey) : Device :=
  { x with colls := x.colls.filter (fun c => c.key != k)
           grants := x.grants.filter (fun g => g.1 != k), waiting := x.waiting.filter (· != k) }

/-- The translation of a member's tile, line by line (R288): the joins' global lines, or the first failure. -/
def State.tileLines (s : State) (d die asid : Nat) (tile : Word) (n : Nat) : Except Trap (List (Word × Nat)) :=
  (List.range n).foldl (fun r i => match r with
    | .error t => .error t
    | .ok ls =>
      let va := tile + BitVec.ofNat 64 (64 * i)
      match translateNow s d die asid .join va with
      | .error t => .error t
      | .ok t => match kindTrap t .ver .w8 va with
        | some p => .error p
        | none => .ok (ls ++ [(va, t.phys va)])) (.ok [])

/-- Depositing at one member (R288): the failure ends the collective; otherwise the .ver joins leave. -/
def State.depositAt (s : State) (d : Nat) (c : Coll) (ver : BitVec 32) (v : List Byte) (m : Contrib) : State :=
  if !landsAt c.cop.toNat m.rank then s.send d c.root m.weights (.landed c.key m.rank)
  else
    let bs := landBytes c.cop.toNat c.n m.rank (settled c.cop.toNat c.fmt v)
    let die := match (s.bindingOf c.key.launch).bind (fun b => b.place m.lcore) with
      | some p => if c.key.group then pd0 else dieOf p.2
      | none => pd0
    match s.tileLines d die m.asid m.tile (bs.length / 64) with
    | .error t => (s.noteWalk d die m.asid t.addr).collEnd c t.cause (some m.tile) (BitVec.ofNat 64 m.lcore)
    | .ok ls =>
      let s := s.modDev d (fun x => x.modColl c.key (fun k =>
        { k with pend := aset k.pend m.lcore (acount k.pend m.lcore + ls.length) }))
      let la := if c.key.group then none else some c.key.launch
      ls.zipIdx.foldl (fun s p => s.send d (gDev p.1.2) m.weights (.req (gLocal p.1.2 / 64) la
        (.join [⟨.deposit d c.key m.lcore, la, m.asid, p.1.1,
          .ver ver (BitVec.ofNat 512 (leNat ((bs.drop (64 * p.2)).take 64)))⟩]))) s

/-- A piece of a result at a member device (R294): with the last one the engine deposits. -/
def State.resultPiece (s : State) (d : Nat) (c : Coll) (ver : BitVec 32) (piece n : Nat) (v : List Byte) : State :=
  let res := if c.res.any (fun p => p.1 == piece) then c.res else c.res ++ [(piece, v)]
  if res.length < n then s.modDev d (fun x => x.modColl c.key (fun k => { k with res := res }))
  else
    let s := s.modDev d (fun x => { x.modColl c.key (fun k => { k with res := [] }) with
      grants := x.grants.filter (fun g => g.1 != c.key) })
    c.mine.foldl (fun s g => s.depositAt d c ver ((sortBy (·.1) res).flatMap (·.2)) g) s

/-- Removing what was kept of a lost owner's collective once no deposit is on its way to the device (R381, R386). -/
def State.reapColl (s : State) (d : Nat) (k : CollKey) : State :=
  if k.group || s.alive k.launch || s.depositTo k d then s else s.modDev d (fun x => x.dropColl k)

/-- COLL_HOP_PACKET (R294): message n, a collective packet at a hop, has the first entry of its op list performed; the
landing of a rank at rank 0, and the end at each device. -/
def execCollHopPacket (n : Nat) (s : State) : Host.Outcome State Fault Refusal :=
  match s.net[n]? with
  | none => .next s
  | some m =>
    let s1 := s.dropMsg n
    let c? := m.body.collKey?.bind (s.device m.dev).coll?
    match m.body, c? with
    | .coll k (.forward _ :: ops) fb g, some c => .next (s1.send m.dev c.root g.weights (.coll k ops fb g))
    | .coll _ (.reduce e slot _ :: ops) false g, some c => .next (if c.via.isEmpty then s1.slotInput m.dev c e slot ops false g
      else s1.slotInput m.dev c c.n 0 ops true g)
    | .coll _ ops true g, some c => .next (s1.slotInput m.dev c c.n 0 ops true g)
    | .result k (.multicast _ :: ops) ver h i p v, some c =>
      .next (c.devs.foldl (fun s e => s.send m.dev e c.weights (.result k ops ver h i p v)) s1)
    | .result _ (.deposit :: _) ver _ i p v, some c => .next ((s1.resultPiece m.dev c ver i p v).reapColl m.dev c.key)
    | .landed k rank, some c =>
      let c := { c with landed := setIns c.landed rank }
      let s2 := s1.modDev m.dev (fun x => x.modColl k (fun _ => c))
      .next (if c.landed.length == c.n then
          c.devs.foldl (fun s e => s.send m.dev e 0x010101 (.finish k)) (s2.freeSwitches (· == k)) else s2)
    | .finish k, some _ => .next (s1.modDev m.dev (fun x => x.dropColl k))
    | .coll .., _ | .result .., _ | .landed .., _ | .finish _, _ => .next s1
    | _, _ => .next s

/-- A deposit's acknowledgement at the device that sent it (R288): with the last one the rank has landed. -/
def State.depositAck (s : State) (d : Nat) (k : CollKey) (lcore : Nat) (t : Option Trap) : State :=
  match (s.device d).coll? k with
  | none => s
  | some c => match c.mine.find? (fun m => m.lcore == lcore), t with
    | some m, some t => s.collEnd c t.cause (some m.tile) (BitVec.ofNat 64 lcore)
    | some m, none =>
      let left := acount c.pend lcore - 1
      let s := s.modDev d (fun x => x.modColl k (fun c => { c with pend := aset c.pend lcore left }))
      if left = 0 then s.send d c.root m.weights (.landed k m.rank) else s
    | none, _ => s

/-! ## Switches that reduce (R294-R297, R382, R384, R385) -/

/-- Putting packet n of the fabric back as another, at its place. -/
def State.setFab (s : State) (n : Nat) (p : FabPkt) : State := { s with fab := s.fab.set n p }

/-- A reservation that passes a switch (R297): granted with every slot its op lists name there; or nothing, which the next device finds. -/
def State.switchReserve (s : State) (sw : Nat) (k : Switch) (key : CollKey) (root : Nat) : Option State :=
  if !mayGrant (switchHop sw) (k.slots.map (·.key)) k.waiting key then none
  else if k.slots.any (fun t => t.key == key) then some s
  else match (s.device root).coll? key with
    | none => none
    | some c => some { s with switches := aset s.switches sw { k with
        slots := k.slots ++ (freeNumbers (k.slots.map (·.grp)) (slotCount (c.streams sw).length)).map (fun grp =>
          ⟨key, grp, c.n, c.devs, root, [], none⟩)
        waiting := k.waiting.filter (· != key) } }

/-- Whether a slot is another one than t. -/
def SwSlot.other (t u : SwSlot) : Bool := u.key != t.key || u.grp != t.grp

/-- A packet as a switch puts it out. -/
def Switch.pkt (k : Switch) (sw dst : Nat) (cls : Cls) (weights : BitVec 24) (kind : FabKind) : FabPkt :=
  { dst := dst, rver := k.ver, cls := cls, weights := weights, out := none, sw := some sw, held := none, bad := false, kind := kind }

/-- What a full slot of a switch puts out (R294, R295): its partial folds, into the switch's own next slot or on the port that the op list
names; the last one the result, piece by piece, to be multicast. -/
def SwSlot.out (t : SwSlot) (port : Nat) (ops : List CollAct) (m : Contrib) : List Body :=
  let got := t.got.map (·.2)
  match ops with
  | .reduce .. :: _ => (slotParts 2 t.n got).map (fun p => .coll t.key (if port = ownPort then ops else .forward port :: ops) false p)
  | _ => resultParts t.key ops (BitVec.ofNat 32 (m.digest.getD 3 0)) { m.head with typed := got.any (·.typed) } (slotValue 2 t.n got)

/-- A full slot of a switch (R294, R297): what it puts out stands at the switch, the members' inputs are acknowledged, and the slot is
free. -/
def State.switchResult (s : State) (sw : Nat) (k : Switch) (t : SwSlot) (port : Nat) (ops : List CollAct) (m : Contrib) : State :=
  { s with
    switches := aset s.switches sw { k with slots := k.slots.filter t.other }
    fab := s.fab ++ (t.out port ops m).map (fun b => k.pkt sw t.root .coll m.weights (.hop t.root b))
      ++ (t.got.filter (·.2.own)).map (fun g => k.pkt sw g.1 .control 0x010101 (.collAck t.key g.2.rank g.2.piece)) }

/-- The slot that an op-list entry names. -/
def Switch.slot? (k : Switch) (key : CollKey) (grp : Nat) : Option SwSlot := k.slots.find? (fun t => t.key == key && t.grp == grp)

/-- An op list without its reductions: what a packet sent on unreduced keeps (R382). -/
def unreduced (ops : List CollAct) : List CollAct := ops.dropWhile (fun o => match o with
  | .reduce .. | .forward _ => true
  | _ => false)

/-- An input at a switch, for the slot grp that awaits e inputs (R294, R382, R384, R385): compared with the first one held, kept, and
combined with the last; sent on unreduced where a marker stands; where its slot has forwarded its result, a member's is acknowledged
once more. -/
def State.switchInput (s : State) (n sw : Nat) (k : Switch) (p : FabPkt) (src : Nat) (key : CollKey) (e grp port : Nat)
    (ops : List CollAct) (m : Contrib) : State :=
  let s1 := { s with fab := s.fab.eraseIdx n }
  match k.slot? key grp with
  | none =>
    if k.markers.contains key then s.setFab n { p with kind := .hop src (.coll key (unreduced ops) true m) }
    else if !m.own then s1
    else s.setFab n { p with dst := src, cls := .control, kind := .collAck key m.rank m.piece }
  | some t =>
    match unlike (t.got.head?.map (·.2)) m, (s.device t.root).coll? key with
    | some cause, some c => s1.collEnd c cause none 0
    | some _, none => s1
    | none, _ =>
      if t.got.any (fun g => g.2.beside m && g.2.piece == m.piece) then s1
      else
        let t := { t with got := t.got ++ [(src, m)], age := some (t.age.getD 0) }
        if slotFull (t.got.map (·.2)) e then s1.switchResult sw k t port ops m
        else { s1 with switches := aset s1.switches sw { k with slots := k.slots.map (fun u => if t.other u then u else t) } }

/-- The op-list entry or the reservation that a packet holds for the switch it stands at, performed (R294, R297); none when it has
none. -/
def State.switchPerform (s : State) (n sw : Nat) (k : Switch) (p : FabPkt) : Option State :=
  match p.kind with
  | .packet [⟨src, seq, .reserve key root (h :: hops) granted⟩] =>
    if h != switchHop sw then none
    else match s.switchReserve sw k key root with
      | some t => some (t.setFab n { p with kind := .packet [⟨src, seq, .reserve key root hops (granted ++ [h])⟩] })
      | none =>
        if k.waiting.contains key then none
        else some { s with switches := aset s.switches sw { k with waiting := k.waiting ++ [key] } }
  | .hop src (.coll key (.reduce e grp port :: ops) false m) => some (s.switchInput n sw k p src key e grp port ops m)
  | .hop src (.result key (.multicast _ :: ops) ver h i c v) =>
    let devs := (((s.device p.dst).coll? key).map (·.devs)).getD []
    some { s with fab := s.fab.eraseIdx n ++ devs.map (fun e => { p with dst := e, kind := .hop src (.result key ops ver h i c v) }) }
  | _ => none

/-! ## The slot's limit and the fallback reducer (R296, R382) -/

/-- A switch's slot that has reached its limit (R382): its inputs go on to the fallback reducer, unreduced, and a marker stays. -/
def State.switchTimeout (s : State) (sw : Nat) (k : Switch) (t : SwSlot) : State :=
  { s with
    switches := aset s.switches sw { k with slots := k.slots.filter t.other, markers := if k.markers.contains t.key then k.markers else k.markers ++ [t.key] }
    fab := s.fab ++ t.got.map (fun g =>
      k.pkt sw t.root .coll g.2.weights (.hop g.1 (.coll t.key [.multicast t.grp, .deposit] true g.2))) }

/-- Whether an input stands before a slot of a switch: it counts before the limit (R393). -/
def State.inputWaits (s : State) (sw : Nat) (k : Switch) (t : SwSlot) : Bool :=
  s.fab.any (fun p => p.sw == some sw && p.rver == k.ver && (match p.kind with
    | .hop _ (.coll j (.reduce _ grp _ :: _) false _) => j == t.key && grp == t.grp
    | _ => false))

/-- Whether a slot of a switch gives up (R296, R393): 65,536 cycles after its first input. -/
def State.overdue (s : State) (sw : Nat) (k : Switch) (t : SwSlot) : Bool := 65536 ≤ t.age.getD 0 && !s.inputWaits sw k t

/-- The slots of a collective at a switch that give up, one after the other. -/
def State.timeOut (s : State) (key : CollKey) (sw : Nat) : State :=
  (((aget s.switches sw).map (·.slots)).getD []).foldl (fun s t => match aget s.switches sw with
    | some k => if t.key == key && s.overdue sw k t then s.switchTimeout sw k t else s
    | none => s) s

/-- REDUCE_SLOT_TIMEOUT (R296, R382, R393): the slots of collective n of rank 0's device that have reached their limit, at the switches of
its tree. -/
def execReduceSlotTimeout (d n : Nat) (s : State) : Host.Outcome State Fault Refusal :=
  match (s.device d).colls[n]? with
  | some c => .next (if c.root == d then ((c.via.flatMap (·.2)).eraseDups).foldl (fun s sw => s.timeOut c.key sw) s else s)
  | none => .next s

/-- FALLBACK_REDUCE (R382): with every rank's input the fallback reducer computes the result, deposits it and logs it. -/
def execFallbackReduce (d n : Nat) (s : State) : Host.Outcome State Fault Refusal :=
  match (s.device d).colls[n]? with
  | some c =>
    if c.fb && !c.sent && holdsAll c.inputs c.n then
      .next ((s.sendResult d c).modDev d (fun x => x.logEv Cause.fallback (c.key.seq % 65536)))
    else .next s
  | none => .next s

end Sys2Proof.Machine
end

