-- ==== Sys2Proof/Machine/Acks.lean ====
section
/-! DEFINITION. Program acknowledgements of pushes, joins, copies and deposits (R30, R65, R366, R372, R375). -/

namespace Sys2Proof.Machine
open Sys2Proof

/-- An acknowledgement at a context: the outstanding entry goes, and a failure is deferred (R65, R364). -/
def Context.acked (x : Context) (no : Nat) (t : Option Trap) : Context :=
  if x.out.any (fun o => o.no == no) then
    let x := { x with out := x.out.filter (fun o => o.no != no) }
    match t with
    | some t => x.defer t
    | none => x
  else x

/-- An arrival that waited for an entry counts with its last one (R30). -/
def Arrival.acked (a : Arrival) (no : Nat) : Arrival :=
  let pend := setDel a.pend no
  { a with pend := pend, counted := a.counted || pend.isEmpty }

/-- Whether acknowledgements to a core are discarded: a launch fault stopped it (R372). Those to a killed core go to its
checkpoint store (R407). -/
def Core.deaf (c : Core) : Bool := c.stopped && !c.sealed

/-- The same, for a launch whose fault of this very cycle has still to stop its cores too (R376). -/
def State.deaf (s : State) (c : Core) : Bool :=
  c.deaf || (match c.bound with
    | some b => s.faulted.contains b.launch
    | none => false)

/-- An acknowledgement at a core, its checkpoints' arrivals included (R406). -/
def Core.acked (c : Core) (no : Nat) (t : Option Trap) : Core :=
  { c with
    ctxs := c.ctxs.map (fun x => { x.acked no t with
      ckpt := { x.ckpt with arrivals := x.ckpt.arrivals.map (fun a => a.acked no) } })
    arrivals := c.arrivals.map (fun a => a.acked no) }

/-- Whether a core waits for an entry. -/
def Core.awaits (c : Core) (no : Nat) : Bool :=
  c.ctxs.toList.any (fun x => x.out.any (fun o => o.no == no)) || c.arrivals.any (fun a => a.pend.contains no)

/-- The arrivals of a core that an entry's acknowledgement lets count: level and generation. -/
def Core.countsWith (c : Core) (no : Nat) : List (Nat × Nat) :=
  c.arrivals.filterMap (fun a => if !a.counted && (a.acked no).counted then some (a.level, a.gen) else none)

/-- The acknowledgement of a push or join of a context (R30, R65), wherever the context is now: numbers are the machine's
own, so a core that another launch has bound since is not disturbed. -/
def State.ackCtx (s : State) (no : Nat) (err : Option Trap) : State :=
  let hits := s.devs.flatMap (fun p => p.2.cores.filterMap (fun q =>
    match q.2.bound with
    | some b => if q.2.awaits no && !s.deaf q.2 && !b.checker then some (p.1, q.1, b, q.2.countsWith no) else none
    | none => none))
  let t := s.mapDevs (fun _ x => { x with
    cores := x.cores.map (fun p => if s.deaf p.2 then p else (p.1, p.2.acked no err))
    launches := x.launches.map (fun l => { l with saved := l.saved.map (fun p => (p.1, p.2.acked no err)) }) })
  hits.foldl (fun s (h : Nat × Nat × Binding × List (Nat × Nat)) =>
    h.2.2.2.foldl (fun s g => noteCounted ⟨h.1, h.2.1, 0⟩ h.2.2.1 g.1 g.2 s) s) t

/-- ACK_ARRIVAL (R65): message n, an acknowledgement, at whoever sent the push, join or landing. -/
def execAckArrival (n : Nat) (s : State) : Host.Outcome State Fault Refusal :=
  match s.net[n]? with
  | some ⟨_, _, _, .ack o t⟩ =>
    let s := s.dropMsg n
    match o with
    | .ctx _ no => .next (s.ackCtx no t)
    | .cmd d c _ id tok => .next (s.modCore d c (fun x => x.copyAck id tok t))
    | .deposit d k lcore => .next (s.depositAck d k lcore t)
    | .host d fn off nonPosted => match t with
      | some t =>
        let s := s.modDev d (fun x => x.logErr t.cause fn 1 off)
        .next (if nonPosted then { s with resp := some .unsupported } else s)
      | none => .next (if nonPosted then { s with resp := some (.value []) } else s)
    | .cur d slot no => .next (s.curAnswer d slot no (match t with
      | some t => .trap t
      | none => .ok))
    | .stash .. | .lattice .. => .next s
  | some ⟨_, _, _, .landAck src no cmd t⟩ =>
    let s := s.dropMsg n
    match cmd with
    | some id => .next (s.modCore src.dev src.core (fun x => x.sendAck id t))
    | none => .next (s.ackCtx no t)
  | _ => .next s

end Sys2Proof.Machine
end

