-- ==== Sys2Proof/Machine/Fabric.lean ====
section
/-! DEFINITION. The Cavern fabric: switches, sequence numbers, replay, routing versions, links and lost devices
(R68, R296, R298-R306, R378-R383, R415). Which port a packet uses is not tracked (log 13). -/

namespace Sys2Proof.Machine
open Sys2Proof

/-! ## Switches (R68, R296, R298, R301, R304) -/

/-- The flits of a packet (R294, R298). -/
def FabPkt.flits (p : FabPkt) : Nat :=
  match p.kind with
  | .packet ps => max 1 (((ps.map (fun q => q.body.bytes)).foldl (· + ·) 0 + 63) / 64)
  | .hop _ b => max 1 ((b.bytes + 63) / 64)
  | .ack .. | .collAck .. => 1

/-- The parts of a packet that holds nothing but joins which a switch may merge (R68). -/
def FabPkt.joinParts (p : FabPkt) : Option (List FabPart) :=
  match p.kind with
  | .packet ps => if ps.all (fun q => match q.body with
      | .req _ _ (.join js) => js.all (fun j => match j.data with
        | .elems .. => true
        | _ => false)
      | _ => false) then some ps else none
  | _ => none

/-- The line, kind and width a join packet goes to. -/
def FabPart.target (q : FabPart) : Option (Nat × Kind × Width) :=
  match q.body with
  | .req l _ (.join (j :: _)) => some (l, j.data.kw)
  | _ => none

/-- Whether two join packets may merge: one destination, version, line, kind and width, 16 contributions at most (R296,
R304), and neither of a broken format (R383). -/
def canMergeFab (a b : FabPkt) : Bool :=
  match a.joinParts, b.joinParts with
  | some ps, some qs => a.dst == b.dst && a.rver == b.rver && !a.broken && !b.broken && ps.length + qs.length ≤ 16
    && ps.all (fun p => qs.all (fun q => p.target == q.target))
  | _, _ => false

/-- The sources of a packet. -/
def FabPkt.sources (p : FabPkt) : List Nat :=
  match p.kind with
  | .packet ps => ps.map (·.src)
  | _ => []

/-- Whether two packets are of one pair of devices, which keeps their order (R302). -/
def FabPkt.samePair (p q : FabPkt) : Bool := p.dst == q.dst && q.sources.any p.sources.contains

/-- A packet arriving at a switch (R68, R296, R304): merged into a held join of its line that no packet of its pair follows,
or itself held, or waiting. -/
def State.arriveSwitch (s : State) (sw : Nat) (p : FabPkt) : State :=
  let last := s.fab.zipIdx.find? (fun q => q.1.sw == some sw && q.1.held.isSome && canMergeFab q.1 p
    && (s.fab.drop (q.2 + 1)).all (fun r => r.sw != some sw || !p.samePair r))
  match last.map (·.2) with
  | some i => match s.fab[i]? with
    | some q => match q.kind, p.kind with
      | .packet a, .packet b => { s with fab := s.fab.set i { q with kind := .packet (a ++ b) } }
      | _, _ => { s with fab := s.fab ++ [p] }
    | none => { s with fab := s.fab ++ [p] }
  | none =>
    let hold := p.joinParts.isSome && !p.broken && Config.pick s.stepNo % 2 == 1
    { s with fab := s.fab ++ [{ p with sw := some sw, held := if hold then some 0 else none }] }

/-! ### The ports (R298) -/

/-- The port that a packet's op list names where it stands (R294). -/
def FabPkt.named (p : FabPkt) : Option Nat :=
  match p.kind with
  | .hop _ (.coll _ (.forward port :: _) ..) => some port
  | _ => none

/-- The port a packet leaves by, from the device or the switch where it stands. -/
def State.portOf (s : State) (p : FabPkt) : Nat :=
  match p.out, p.sw with
  | some d, _ => portTo (s.firstSwitch d p.dst) p.dst
  | none, some sw => match p.named, (aget s.switches sw).bind (fun k => aget k.table p.dst) with
    | some port, _ => port
    | none, some (n + 1) => portTo (some n) p.dst
    | none, _ => portTo none p.dst
  | none, none => portTo none p.dst

/-- Whether two packets stand at one place. -/
def FabPkt.withPlace (p q : FabPkt) : Bool := p.out == q.out && p.sw == q.sw

/-- Whether packet n is behind another of the same pair at its place, which keeps its order (R302). -/
def State.behind (s : State) (n : Nat) (p : FabPkt) : Bool := (s.fab.take n).any (fun q => q.withPlace p && p.samePair q)

/-- The weight of a class in a packet's header (R284, R298). -/
def Cls.weight (w : BitVec 24) : Cls → Nat
  | .control => 0
  | .coll => w.toNat % 256
  | .copy => w.toNat / 256 % 256
  | .join => w.toNat / 65536

/-- The packets that could leave by the port of a packet: not held, not behind another of their pair. -/
def State.heads (s : State) (p : FabPkt) : List (Nat × FabPkt) :=
  (s.fab.zipIdx.map (fun q => (q.2, q.1))).filter (fun q =>
    q.2.withPlace p && s.portOf q.2 == s.portOf p && q.2.held.isNone && !s.behind q.1 q.2)

/-- The first packet of each class other than control that has traffic. -/
def classHeads (hs : List (Nat × FabPkt)) : List (Cls × FabPkt) :=
  [Cls.coll, .copy, .join].filterMap (fun c => (hs.find? (fun p => p.2.cls == c)).map (fun p => (c, p.2)))

/-- The rounds that must pass before some class of weight above 0 may send its head, from the flits each may still send
(R298). -/
def roundsNeeded (credit : AMap Nat) (cs : List (Cls × FabPkt)) : Nat :=
  let need := (cs.filter (fun c => c.1.weight c.2.weights != 0)).map (fun c =>
    let w := c.1.weight c.2.weights
    (c.2.flits - acount credit c.1.idx + w - 1) / w)
  need.foldl min (need.headD 0)

/-- The credits after those rounds; a class without traffic forgoes its turn (R298). -/
def creditsAfter (credit : AMap Nat) (cs : List (Cls × FabPkt)) : AMap Nat :=
  cs.foldl (fun m c => aset m c.1.idx (acount credit c.1.idx + roundsNeeded credit cs * c.1.weight c.2.weights)) []

/-- Whether a port may serve packet n next (R298): control first; else the first of its class, while its credit lasts; a
class of weight 0 when neither of the others has anything to send. -/
def mayServe (credit : AMap Nat) (hs : List (Nat × FabPkt)) (n : Nat) (p : FabPkt) : Bool :=
  if p.cls == .control then true
  else if hs.any (fun q => q.2.cls == .control) then false
  else if ((hs.find? (fun q => q.2.cls == p.cls)).map (·.1)) != some n then false
  else
    let cs := classHeads hs
    if p.cls.weight p.weights == 0 then cs.all (fun c => c.1 == p.cls)
    else p.flits ≤ acount (creditsAfter credit cs) p.cls.idx

/-- Serving packet n at its port (R298): the credits of the place's ports after it, or nothing where it must wait. -/
def State.serve (s : State) (credits : AMap (AMap Nat)) (n : Nat) (p : FabPkt) : Option (AMap (AMap Nat)) :=
  let hs := s.heads p
  let port := s.portOf p
  let credit := (aget credits port).getD []
  if !hs.any (fun h => h.1 == n) || !mayServe credit hs n p then none
  else if p.cls == .control then some credits
  else
    let m := creditsAfter credit (classHeads hs)
    some (aset credits port (aset m p.cls.idx (acount m p.cls.idx - p.flits)))

/-- A packet without the forwarding that has been performed (R294). -/
def FabPkt.forwarded (p : FabPkt) : FabPkt :=
  match p.kind with
  | .hop src (.coll key (.forward _ :: ops) fb m) => { p with kind := .hop src (.coll key ops fb m) }
  | _ => p

/-- Moving packet n out of a switch: to the next one, to the destination, or away when no table entry names it. -/
def State.moveOn (s : State) (n : Nat) (k : Switch) (p : FabPkt) : State :=
  let s := { s with fab := s.fab.eraseIdx n }
  let p := p.forwarded
  match aget k.table p.dst with
  | some 0 => { s with fab := s.fab ++ [{ p with sw := none }] }
  | some (next + 1) => s.arriveSwitch next p
  | none => s

/-- Moving packet n out of a port of device d, to the first switch or the destination. -/
def State.leavePort (s : State) (n d : Nat) (p : FabPkt) : State :=
  let s := { s with fab := s.fab.eraseIdx n }
  match s.firstSwitch d p.dst with
  | some sw => s.arriveSwitch sw { p with out := none }
  | none => { s with fab := s.fab ++ [{ p with out := none }] }

/-- The port that a packet has come in by: which one is not tracked, so it is a free one of the 36 (R299; log 13). -/
def State.inPort (s : State) : Nat := Config.pick s.stepNo % 36

/-- An event in a switch's log (R383, R391). -/
def Switch.logEv (k : Switch) (cause arg : Nat) : Switch := { k with evlog := k.evlog ++ [⟨cause, arg, false, 0⟩] }

/-- SWITCH_FORWARD (R294, R298, R301, R383): packet n at its switch is dropped when its version is not the current one, dropped and logged
when it breaks its format, has its op-list entry performed, or is forwarded when the port's arbitration serves it. At a device's port
the same arbitration serves it. -/
def execSwitchForward (n : Nat) (s : State) : Host.Outcome State Fault Refusal :=
  match s.fab[n]? with
  | none => .next s
  | some p => match p.out, p.sw with
    | some d, _ => match s.serve (s.device d).deficit n p with
      | some m => .next ((s.modDev d (fun x => { x with deficit := m })).leavePort n d p)
      | none => .next s
    | none, none => .next s
    | none, some sw => match aget s.switches sw with
      | none => .next (s.setFab n { p with sw := none, held := none })
      | some k =>
        if p.rver != k.ver then .next { s with fab := s.fab.eraseIdx n }
        else if p.broken then
          .next { s with fab := s.fab.eraseIdx n, switches := aset s.switches sw (k.logEv Cause.pktMalformed s.inPort) }
        else match s.switchPerform n sw k p with
          | some t => .next t
          | none => match s.serve k.deficit n p with
            | some m => .next ({ s with switches := aset s.switches sw { k with deficit := m } }.moveOn n k p)
            | none => .next s

/-- SWITCH_JOIN_HOLD_TIMEOUT (R68, R296): a join held 128 cycles goes on. -/
def execSwitchJoinHoldTimeout (n : Nat) (s : State) : Host.Outcome State Fault Refusal :=
  match s.fab[n]? with
  | some p => match p.held with
    | some age => if 128 ≤ age then .next { s with fab := s.fab.set n { p with held := none } } else .next s
    | none => .next s
  | none => .next s

/-- A switch that holds nothing. -/
def Switch.fresh : Switch := { ver := 0, table := [], deficit := [], slots := [], markers := [], waiting := [], evlog := [] }

/-- SWITCH_TABLE_INSTALL (R301): a version and its table; what the switch holds of collectives stays (R305). The marker of a collective
that the fallback reducer collects stands in every switch, whose inputs may come by another way now (R382, R393; log 14). -/
def execSwitchTableInstall (sw ver : Nat) (table : List (Nat × Nat)) (s : State) : Host.Outcome State Fault Refusal :=
  let k := (aget s.switches sw).getD Switch.fresh
  let k := { k with
    ver := ver % 2 ^ 16, table := table.foldl (fun m p => aset m p.1 p.2) [], deficit := []
    markers := (s.switches.flatMap (fun p => p.2.markers)).eraseDups }
  .next { s with switches := aset s.switches sw k }

/-! ## Destinations (R302, R304, R306) -/

/-- Whether number s is behind the expected number e (R302). -/
def seqBehind (s e : Nat) : Bool := s != e && 2 ^ 31 ≤ (s + 2 ^ 32 - e) % 2 ^ 32

/-- One contribution at its destination (R302): delivered, acknowledged again, or discarded. A reset message has no number
(R380). -/
def State.receivePart (s : State) (d : Nat) (weights : BitVec 24) (p : FabPart) : State :=
  match p.body with
  | .seqReset _ | .seqResetAck _ => s.mesh d weights p.body
  | body =>
    let e := acount (s.device d).seqIn p.src
    let ack (s : State) : State := s.fabPut d p.src .control 0x010101 (.ack d p.seq)
    if p.seq == e then
      let s := ack (s.modDev d (fun x => { x with seqIn := aset x.seqIn p.src ((e + 1) % 2 ^ 32) }))
      if body == .void then s else s.mesh d weights body
    else if seqBehind p.seq e then ack s
    else s

/-- The elements of a merged join's contributions, one after the other (R304). -/
def mergedElems (ps : List FabPart) : List (Nat × Nat) :=
  ps.flatMap (fun p => match p.body with
    | .req _ _ (.join js) => js.flatMap (fun j => match j.data with
      | .elems _ _ es => es
      | _ => [])
    | _ => [])

/-- What a contribution of a merged join brings (R304): of an idempotent kind the merged value; of .cnt its own counts. -/
def FabPart.merged (q : FabPart) (es : List (Nat × Nat)) : FabPart :=
  match q.body with
  | .req l la (.join js) => { q with body := .req l la (.join (js.map (fun j => match j.data with
    | .elems k w own => { j with data := .elems k w (if k == .cnt then own else es) }
    | _ => j))) }
  | _ => q

/-- The contributions of a packet as its destination takes them. -/
def FabPkt.delivered (p : FabPkt) (ps : List FabPart) : List FabPart :=
  if p.joinParts.isSome && 1 < ps.length then ps.map (fun q => q.merged (mergedElems ps)) else ps

/-- FABRIC_PACKET_RECEIVE (R294, R302, R304, R383): packet n at its destination; one of a broken format is dropped and logged, one
for a device that is lost or not there goes nowhere. -/
def execFabricPacketReceive (n : Nat) (s : State) : Host.Outcome State Fault Refusal :=
  match s.fab[n]? with
  | some p =>
    if p.out.isSome || p.sw.isSome then .next s
    else
      let s1 := { s with fab := s.fab.eraseIdx n }
      let take (f : State → State) : Host.Outcome State Fault Refusal :=
        match aget s.devs p.dst with
        | none => .next s1
        | some x =>
          if x.lost then .next s1
          else if p.broken then .next (s1.modDev p.dst (fun x => x.logEv Cause.pktMalformed s.inPort))
          else .next (f s1)
      match p.kind with
      | .packet ps => take (fun s => (p.delivered ps).foldl (fun s q => s.receivePart p.dst p.weights q) s)
      | .hop _ b => take (fun s => s.mesh p.dst p.weights b)
      | .ack .. | .collAck .. => .next s
  | none => .next s

/-- Packet n, if it is an acknowledgement at its destination (R302, R303, R379, R383): it frees its packet's entry of the retry store, for
one that waits; one of a broken format is dropped and logged. -/
def State.takeAck (s : State) (n : Nat) : State :=
  match s.fab[n]? with
  | some p =>
    let s1 := { s with fab := s.fab.eraseIdx n }
    if p.out.isSome || p.sw.isSome then s
    else match p.kind with
      | .packet _ | .hop .. => s
      | .ack src seq =>
        if p.broken then s1.modDev p.dst (fun x => x.logEv Cause.pktMalformed s.inPort)
        else (s1.modDev p.dst (fun x =>
          { x with store := x.store.filter (fun e => !(e.numbered && e.dst == src && e.seq == seq && 0 < e.sends)) })).pump p.dst
      | .collAck k rank piece =>
        if p.broken then s1.modDev p.dst (fun x => x.logEv Cause.pktMalformed s.inPort) else s1.collAcked p.dst k rank piece
  | none => s

/-- FABRIC_ACK (R302, R303, R379, R383): acknowledgement n arrives. -/
def execFabricAck (n : Nat) (s : State) : Host.Outcome State Fault Refusal := .next (s.takeAck n)

/-- The acknowledgements that stand at a device, which count before a destination is declared unreachable (R393). -/
def State.countAcks (s : State) (d : Nat) : State :=
  (List.range s.fab.length).reverse.foldl (fun s n => if (s.fab[n]?).any (fun p => p.dst == d) then s.takeAck n else s) s

/-- Numbering the waiting packets to a destination from 0 (R380). -/
def renumber (dst : Nat) : Nat → List Sent → List Sent
  | _, [] => []
  | n, p :: t => if p.dst == dst && p.numbered then { p with seq := n, sends := 1, age := 0 } :: renumber dst (n + 1) t
    else p :: renumber dst n t

/-- A reset that the destination has acknowledged (R380): the waiting packets go out, numbered from 0. -/
def State.resetDone (s : State) (d dst : Nat) : State :=
  if !(s.device d).needReset.contains dst then s
  else
    let store := renumber dst 0 (s.device d).store
    let store := store.map (fun p => if p.dst == dst && !p.numbered then { p with sends := 1, age := 0 } else p)
    let mine := store.filter (fun p => p.dst == dst)
    let s := s.modDev d (fun x => { x with
      store := store, needReset := setDel x.needReset dst, seqOut := aset x.seqOut dst (mine.filter (·.numbered)).length })
    mine.foldl (fun s p => s.fabPut d dst p.cls p.weights (p.kind d)) s

/-- SEQ_RESET (R380): message n, a reset message at its destination, which expects 0 next, or its acknowledgement. -/
def execSeqReset (n : Nat) (s : State) : Host.Outcome State Fault Refusal :=
  match s.net[n]? with
  | some ⟨d, _, _, .seqReset src⟩ =>
    .next (((s.dropMsg n).modDev d (fun x => { x with seqIn := aset x.seqIn src 0 })).fabPut d src .control 0x010101
      (.packet [⟨d, 0, .seqResetAck d⟩]))
  | some ⟨d, _, _, .seqResetAck src⟩ => .next ((s.dropMsg n).resetDone d src)
  | _ => .next s

/-! ## Replay (R303, R380) -/

/-- The requests of Curator threads that a message carries, or is the answer to, with their addresses. -/
def Body.threads : Body → List (Origin × Word)
  | .req _ _ (.join ps) => (ps.map (fun p => (p.from_, p.va))).filter (fun p => p.1.isCur)
  | .req _ _ (.tread o va ..) | .req _ _ (.xread o va ..) | .req _ _ (.freeze o va ..) | .req _ _ (.sread o va) =>
    if o.isCur then [(o, va)] else []
  | .req _ _ (.swrite o _) | .req _ _ (.bottom o _) => [(o, 0)]
  | .answer o _ | .ack o _ => if o.isCur then [(o, 0)] else []
  | _ => []

/-- Requests of Curator threads that are lost with a destination fail: no launch can be charged with them (log 102). -/
def State.endCurator (s : State) (bs : List Body) (cause : Nat) : State :=
  (bs.flatMap Body.threads).foldl (fun s p => match p.1 with
    | .cur d slot no => s.curAnswer d slot no (.trap ⟨cause, p.2, 0⟩)
    | _ => s) s

/-- A group's collectives whose packets are lost with a destination fail for their commands (R388; log 102). -/
def State.endGroups (s : State) (bs : List Body) (dst : Nat) : State :=
  let keys := ((bs.filterMap (fun b => match b with
    | .ack (.deposit _ k _) _ | .answer (.deposit _ k _) _ => some k
    | b => b.collKey?)).filter (·.group)).eraseDups
  keys.foldl (fun s k => match s.devs.findSome? (fun p => p.2.coll? k) with
    | some c => s.collEnd c Cause.fabricUnreachable (some (BitVec.ofNat 64 dst)) 0
    | none => s) s

/-- A destination declared unreachable (R380): its packets go, the launches they belong to fault, and the direction must be
reset before anything more is sent. -/
def State.unreachable (s : State) (d dst : Nat) : State :=
  let gone := (s.device d).store.filter (fun p => p.dst == dst)
  let ls := (gone.filterMap (·.launch)).eraseDups
  let s := (s.modDev d (fun x => { x with
    store := x.store.filter (fun p => p.dst != dst), needReset := setIns x.needReset dst, seqOut := aset x.seqOut dst 0 })).pump d
  let s := ls.foldl (fun s l => s.launchFault l (launchCause 4 Cause.fabricUnreachable 0 0 (BitVec.ofNat 64 dst) 0)) s
  (s.endCurator (gone.map (·.body)) Cause.fabricUnreachable).endGroups (gone.map (·.body)) dst

/-- A packet sent once more. -/
def Sent.again (p : Sent) : Sent := { p with sends := p.sends + 1, age := 0 }

/-- Sending entry i of a retry store again. -/
def State.resend (s : State) (d i : Nat) : State :=
  match (s.device d).store[i]? with
  | none => s
  | some p =>
    let s := s.modDev d (fun x => { x with store := x.store.set i p.again })
    s.fabPut d p.dst p.cls p.weights (p.kind d)

/-- REPLAY_TIMEOUT (R380): entry n of a retry store, unacknowledged for 2^24 cycles, is sent again; after 8 sends its
destination is unreachable, unless the acknowledgement has come (R393). A packet that waits for a reset has the reset message repeated. -/
def execReplayTimeout (d n : Nat) (s : State) : Host.Outcome State Fault Refusal :=
  let s := s.countAcks d
  match (s.device d).store[n]? with
  | none => .next s
  | some p =>
    if p.age < 2 ^ 24 then .next s
    else if p.sends == 0 then
      if (s.device d).unreach.contains p.dst then .next s
      else .next ((s.modDev d (fun x => { x with store := x.store.set n { p with age := 0 } })).sendReset d p.dst)
    else if 8 ≤ p.sends then .next (s.unreachable d p.dst)
    else .next (s.resend d n)

/-! ## Routing versions (R301, R303, R305, R378, R393, R415) -/

/-- Restarting a collective (R305, R415): staging, grants and packets of the old start go at every hop and member, and rank 0
reserves again. Inputs that the fallback reducer holds stay (R393). -/
def State.restartColl (s : State) (d ver : Nat) (c : Coll) : State :=
  let s := s.mapDevs (fun _ x => { x.modColl c.key (fun k =>
      { k with stage := .collecting, rver := ver, got := [], sent := false, res := [] }) with
    grants := x.grants.filter (fun g => g.1 != c.key)
    store := dropSent (· == c.key) x.store, portq := x.portq.filter (fun p => p.body.collKey? != some c.key) })
  let s := { s with net := s.net.filter (fun m => m.body.collKey? != some c.key) }
  ((s.freeSwitches (· == c.key)).dropFab (· == c.key) (fun _ => false)).reserveFrom d { c with stage := .collecting }

/-- The node, rack and cavern of every device, as the fabric manager gives them (R299). -/
def State.peersNow (s : State) : AMap (Nat × Nat × Nat) :=
  s.devs.filterMap (fun p => p.2.bar0.fabid.map (fun f => (p.1, f)))

/-- Whether a version advance may restart a collective, as rank 0's device holds it: it reserves or has started, has not landed everywhere, and
the fallback reducer does not collect its inputs (R305, R393). -/
def Coll.restarts (c : Coll) : Bool :=
  (c.stage == .reserving || c.stage == .sending) && !c.fb && c.devs.any (· != c.root) && c.failed.isNone && c.landed.length < c.n

/-- The collectives of a device that a version advance restarts (R305): those whose links have changed; and those that a switch
reduces, since the copies of their result are in no retry store (log 14). -/
def State.restarting (s : State) (d : Nat) (rerouted : Bool) : List Coll :=
  (s.device d).colls.filter (fun c => (rerouted || !c.via.isEmpty) && ((s.device c.root).coll? c.key).any Coll.restarts)

/-- ROUTE_VERSION (R301, R303, R305, R378, R380, R393): a device adopts an announced version and logs it; destinations without a
route are unreachable; rerouted says that a collective's links changed: rank 0's device restarts it, and a member that adopts the
version before that removes its packets (R415); the store is sent again, oldest first. -/
def execRouteVersion (d ver : Nat) (unreach : List Nat) (rerouted : Bool) (s : State) : Host.Outcome State Fault Refusal :=
  match aget s.devs d with
  | none => .next s
  | some _ =>
    let s := (s.countAcks d).modDev d (fun x =>
      { x with rver := ver % 2 ^ 16, unreach := unreach, peers := s.peersNow }.logEv Cause.routeVersion (ver % 2 ^ 16))
    let gone := unreach.filter (fun u => (s.device d).store.any (fun p => p.dst == u))
    let s := gone.foldl (fun s u => s.unreachable d u) s
    let s := unreach.foldl (fun s u => s.modDev d (fun x => { x with needReset := setIns x.needReset u })) s
    let cs := s.restarting d rerouted
    let s := (cs.filter (fun c => c.root == d)).foldl (fun s c => s.restartColl d (ver % 2 ^ 16) c) s
    let old := (cs.filter (fun c => c.root != d && c.rver != ver % 2 ^ 16)).map (·.key)
    let s := (s.modDev d (fun x => { x with store := dropSent old.contains x.store })).pump d
    let worn := (((s.device d).store.filter (fun p => 8 ≤ p.sends)).map (·.dst)).eraseDups
    let s := worn.foldl (fun s u => s.unreachable d u) s
    let waits := (((s.device d).store.filter (fun p => p.sends == 0)).map (·.dst)).eraseDups
    let s := (waits.filter (fun u => !unreach.contains u)).foldl (fun s u => s.sendReset d u) s
    .next ((List.range (s.device d).store.length).foldl (fun s i =>
      if (((s.device d).store[i]?).map (·.sends)) == some 0 then s else s.resend d i) s)

/-! ## Links (R378) -/

def Device.port (x : Device) (p : Nat) : Port := (aget x.ports p).getD Port.up

def Device.modPort (x : Device) (p : Nat) (f : Port → Port) : Device := { x with ports := aset x.ports p (f (x.port p)) }

/-- LINK_DOWN (R378): a link with 16 failed resends of one flit, or 10,000 cycles without lane lock, is dead and logged. -/
def execLinkDown (d port : Nat) (s : State) : Host.Outcome State Fault Refusal :=
  let p := (s.device d).port port
  if !p.down && port < 36 && (16 ≤ p.resends || 10000 ≤ p.lost.getD 0) then
    .next (s.modDev d (fun x => (x.modPort port (fun p => { p with down := true })).logEv Cause.linkDown port))
  else .next s

/-- FLIT_CRC_ERROR (R378): a flit fails its CRC. Whether it is the flit that failed last, and its resend, is free. -/
def execFlitCrcError (d port : Nat) (s : State) : Host.Outcome State Fault Refusal :=
  if port < 36 && !((s.device d).port port).down then
    .next (s.modDev d (fun x => x.modPort port (fun p =>
      { p with resends := if Config.pick s.stepNo % 2 == 1 then p.resends + 1 else 0 })))
  else .next s

/-- LANE_LOCK_LOSS (R378). -/
def execLaneLockLoss (d port : Nat) (s : State) : Host.Outcome State Fault Refusal :=
  if port < 36 then
    .next (s.modDev d (fun x => x.modPort port (fun p => { p with lost := some (p.lost.getD 0) })))
  else .next s

/-- LANE_LOCK_REGAIN (R378): before 10,000 cycles have passed the count ends. -/
def execLaneLockRegain (d port : Nat) (s : State) : Host.Outcome State Fault Refusal :=
  let p := (s.device d).port port
  match p.lost with
  | some n => if n < 10000 && !p.down then .next (s.modDev d (fun x => x.modPort port (fun p => { p with lost := none })))
    else .next s
  | none => .next s

/-! ## A lost device (R381) -/

/-- The launches that a device's loss ends: those it holds cores of, and those it owns. -/
def State.launchesOf (s : State) (d : Nat) : List LaunchId :=
  let bound := (s.device d).cores.filterMap (fun p => p.2.bound.map (·.launch))
  let held := ((s.device d).bind.filter (fun p => p.2.st != 0)).map (fun p => LaunchId.mk p.2.owner p.2.acc)
  let own := ((s.device d).launches.filter (fun l => l.code != 14 && l.code != 15)).map (fun l => LaunchId.mk d l.acc)
  (bound ++ held ++ own).eraseDups

/-- Ending a launch at the surviving devices without a record (R381). What the deposits on their way need stays until they have come
(R386). -/
def State.forget (s : State) (l : LaunchId) : State :=
  let s := s.stopEverywhere l
  s.mapDevs (fun d x =>
    let kept := x.colls.filter (fun c => c.key.of l && s.depositTo c.key d)
    let x := x.freeLaunch l
    { x with colls := x.colls ++ kept })

/-- What a device held of others' requests: in its meshes, its park table and retries, its retry store and its port die. -/
def State.heldAt (s : State) (d : Nat) : List Body :=
  let x := s.device d
  (s.net.filter (fun m => m.dev == d)).map (·.body) ++ x.park.map (fun k => .req k.line k.launch k.r) ++ x.retry.map (·.body)
    ++ x.store.map (·.body) ++ x.portq.map (·.body)

/-- Taking away, everywhere, the parked and retried requests of a device's own Curator. -/
def State.withdrawDev (s : State) (d : Nat) : State := (List.range 32).foldl (fun s t => s.withdrawSlot d t) s

/-- The loss of a device (R381): its launches fault at their owners, with its number in TADDR; those it owns are forgotten;
nothing of it is left, and what others' Curators asked of it fails (log 102). -/
def State.loseDevice (s : State) (d : Nat) (after : Device) : State :=
  let ls := s.launchesOf d
  let s := ls.foldl (fun s l =>
    if l.owner = d then s.forget l
    else s.launchFault l (launchCause 4 Cause.deviceLost 0 0 (BitVec.ofNat 64 d) 0)) s
  let s := (s.endCurator (s.heldAt d) Cause.deviceLost).withdrawDev d
  let s := s.modDev d (fun _ => after)
  { s with net := s.net.filter (fun m => m.dev != d) }

/-- DEVICE_LOST (R381). -/
def execDeviceLost (d : Nat) (s : State) : Host.Outcome State Fault Refusal :=
  match aget s.devs d with
  | none => .next s
  | some x => .next (s.loseDevice d { Device.reset with
      lost := true, flashA := x.flashA, flashB := x.flashB
      bar0 := { Bar0.reset with thev := if x.lost then x.bar0.thev else 0, fwpref := x.bar0.fwpref } })

end Sys2Proof.Machine
end

