-- ==== Sys2Proof/Machine/HostLink.lean ====
section
/-! DEFINITION. The host link and the management registers: host writes, the observation window, the system window, error
and event logs, register writes (R85, R86, R307-R310, R313, R341, R342, R375, R391, R404, R405). -/

namespace Sys2Proof.Machine
open Sys2Proof

def Device.fn (x : Device) (n : Nat) : Fn := (aget x.fns n).getD Fn.reset

def Device.modFn (x : Device) (n : Nat) (f : Fn → Fn) : Device := { x with fns := aset x.fns n (f (x.fn n)) }

/-- Whether a function's interface drops every request (R309). -/
def Device.fnDead (x : Device) (fn : Nat) : Bool := (x.fn fn).tdisp == .error

/-- Whether BAR2 and the doorbells refuse a request that is not on the interface's IDE stream (R309). -/
def Device.wantsIde (x : Device) (fn : Nat) : Bool := (x.fn fn).tdisp == .locked || (x.fn fn).tdisp == .run

/-- Whether a request to a function is taken: one of 16 (R307), past step 1 of bring-up (R339), its interface not in ERROR (R309). -/
def Device.serves (x : Device) (fn : Nat) : Bool := decide (fn < 16) && !x.lost && x.bar0.step != 0 && !x.fnDead fn

/-- Whether a request to BAR2 or to a doorbell page is taken, on the interface's IDE stream or not (R309). -/
def Device.servesIde (x : Device) (fn : Nat) (onIde : Bool) : Bool := x.serves fn && (onIde || !x.wantsIde fn)

/-- A translation of the port dies, which keep it, or the marker of a damaged dword (R79, R308, R374). -/
def State.portWalk (s : State) (d asid : Nat) (va : Word) : State × Except Trap Tlb :=
  if !canonical va then (s, .error ⟨Cause.addrNoncanon, va, 0⟩)
  else (s.noteWalk d pd0 asid va, portTr s d pd0 asid va)

/-! ## Host writes (R85, R308, R375) -/

/-- Dropping a host write: logged, and a non-posted request completes with Unsupported Request (R85). -/
def State.dropHost (s : State) (d fn off cause : Nat) (nonPosted : Bool) : State :=
  let s := s.modDev d (fun x => x.logErr cause fn 1 off)
  if nonPosted then { s with resp := some .unsupported } else s

/-- The nibble mask and data of a granule of a write at a virtual address (R85). -/
def granuleOf (va : Word) (data : List Byte) (en : List Bool) (g : Nat) : BitVec 32 × BitVec 128 :=
  (List.range 16).foldl (fun (r : BitVec 32 × BitVec 128) i =>
    let at_ := 16 * g + i
    if va.toNat ≤ at_ && (en[at_ - va.toNat]?).getD false then
      let b : Byte := (data[at_ - va.toNat]?).getD 0
      (r.1 ||| ((3 : BitVec 32) <<< (2 * i)), r.2 ||| (b.setWidth 128 <<< (8 * i)))
    else r) (0, 0)

/-- The joins of a host write to .fill pages: each granule with its translation, or the first cause that drops the write: that of the
walk (of a non-canonical address too), then of the kind or format, then of the permission (R375; log 55). -/
def State.hostFill (s : State) (d asid : Nat) (va : Word) (data : List Byte) (en : List Bool) :
    List Nat → State × Except Nat (List (Word × Nat × JoinData))
  | [] => (s, .ok [])
  | g :: gs =>
    let a : Word := BitVec.ofNat 64 (16 * g)
    let (s, r) := s.portWalk d asid a
    match r with
    | .error t => (s, .error t.cause)
    | .ok t =>
      if t.kind == .ver then (s, .error Cause.hostwFormat)
      else if t.kind != .fill then (s, .error Cause.hostwKind)
      else match permTrap t .join a with
        | some p => (s, .error p.cause)
        | none =>
            let (m, v) := granuleOf va data en g
            let pa := t.phys a
            let (s, r) := s.hostFill d asid va data en gs
            (s, r.map (fun l => if m == 0 then l else (a, pa, .fill (pa / 16 % 4) m v) :: l))

/-- Sending the joins of a host write. -/
def State.hostJoins (s : State) (d asid : Nat) (o : Origin) (js : List (Word × Nat × JoinData)) : State :=
  js.foldl (fun s j => s.send d (gDev j.2.1) 0x010101 (.req (gLocal j.2.1 / 64) none
    (.join [⟨o, none, asid, j.1, j.2.2⟩]))) s

/-- A well-formed .ver write (R85): 128 bytes, bytes 68 to 127 zero. -/
def verFormat (data : List Byte) : Bool := data.length == 128 && (data.drop 68).all (· == 0)

/-- HOST_WRITE (R85, R307-R309, R375): a write of a function to BAR2, of 64 GiB. -/
def execHostWrite (d fn off : Nat) (data : List Byte) (en : List Bool) (nonPosted onIde : Bool) (s : State) :
    Host.Outcome State Fault Refusal :=
  let x := s.device d
  if !x.servesIde fn onIde || 2 ^ 36 < off + data.length then
    .next (if nonPosted then { s with resp := some .unsupported } else s)
  else
    let f := x.fn fn
    let va : Word := f.hwapb + BitVec.ofNat 64 off
    let half : Word := f.hwapb + BitVec.ofNat 64 (off / 2)
    let (s1, ver) : State × Option Tlb :=
      if data.length == 128 && off % 128 == 0 then
        let (s1, r) := s.portWalk d f.hwapa half
        (s1, match r with
          | .ok t => if t.kind == .ver then some t else none
          | .error _ => none)
      else (s, none)
    let o : Origin := .host d fn off nonPosted
    match ver with
    | some t =>
      if !verFormat data then .next (s1.dropHost d fn off Cause.hostwFormat nonPosted)
      else match permTrap t .join half with
        | some p => .next (s1.dropHost d fn off p.cause nonPosted)
        | none =>
          let v : BitVec 32 := BitVec.ofNat 32 (leNat ((data.drop 64).take 4))
          .next (s1.hostJoins d f.hwapa o [(half, t.phys half, .ver v (BitVec.ofNat 512 (leNat (data.take 64))))])
    | none =>
      let (s2, r) := s1.hostFill d f.hwapa va data en (granules va.toNat data.length)
      match r with
      | .error c => .next (s2.dropHost d fn off c nonPosted)
      | .ok js => .next (s2.hostJoins d f.hwapa o js)

/-! ## The observation window (R86, R308, R309) -/

/-- The 32 bytes that describe a line (R308). -/
def metaBytes (l : Line) : List Byte :=
  let low := if l.kind == some .ver then natBytes 16 l.ver.toNat
    else if l.kind == some .fill then l.masks.toList.flatMap (fun m => natBytes 4 m.toNat)
    else natBytes 16 0
  low ++ natBytes 16 (b2n l.frozen + 2 * ((l.kind.map (fun k => k.code.toNat)).getD 0))

/-- OBS_READ (R86, R308, R309): a read of BAR4, of at most 64 bytes within one line; it changes nothing but the answer. -/
def execObsRead (d fn off len : Nat) (s : State) : Host.Outcome State Fault Refusal :=
  let x := s.device d
  let half := 2 ^ 33
  let view := off < half
  let base := (x.fn fn).obsbase
  let line := if view then (base + off) / 64 else base / 64 + (off - half) / 32
  let whole := if view then len ≤ 64 && off % 64 + len ≤ 64 else off < 2 * half && off % 32 + len ≤ 32
  if !x.serves fn then .next { s with resp := none }
  else if !whole || reservedG s d (d * 2 ^ 44 + 64 * line) || (x.wantsIde fn && Config.lineOwned s.stepNo fn line) then
    .next { s with resp := some .unsupported }
  else if view then .next { s with resp := some (.value (cellsRead x.mem (base + off) len)) }
  else .next { s with resp := some (.value (((metaBytes (x.line line)).drop (off % 32)).take len)) }

/-- OBS_WRITE (R86, R375): dropped and logged. -/
def execObsWrite (d fn off : Nat) (s : State) : Host.Outcome State Fault Refusal :=
  if (s.device d).serves fn then .next (s.modDev d (fun x => x.logErr Cause.obsWrite fn 2 off)) else .next s

/-! ## The system window and the interfaces (R309, R310, R313) -/

/-- A plain aligned 8-byte write, which writes a damaged dword's check bits anew (R313, R374). -/
def State.writeDword (s : State) (g : Nat) (v : Word) : State :=
  (s.writeG (g / 8 * 8) (natBytes 8 v.toNat)).modDev (gDev g) (fun x =>
    { x with badDwords := setDel x.badDwords (gLocal g / 8 * 8) })

/-- SYSWIN_WRITE (R313): an aligned 8-byte write to a function's system window, applied whole. That SYSWIN maps memory of the
function's own trust domain is the care of the software that sets it (log 28). -/
def execSyswinWrite (d fn off : Nat) (v : Word) (s : State) : Host.Outcome State Fault Refusal :=
  let x := s.device d
  let g := (x.fn fn).syswin + off
  if !x.serves fn || off % 8 != 0 || 2 ^ 24 ≤ off || reservedG s d g then .next s else .next (s.writeDword g v)

/-- Whether a device answers requests of configuration space: it has power, and step 1 of bring-up is done (R339). -/
def Device.reachable (x : Device) : Bool := !x.lost && x.bar0.step != 0

/-- TDISP_REQUEST (R309, R339): the state of one of the 16 interfaces. -/
def execTdispRequest (d fn : Nat) (st : Tdisp) (s : State) : Host.Outcome State Fault Refusal :=
  if 16 ≤ fn || !(s.device d).reachable then .next s
  else .next (s.modDev d (fun x => x.modFn fn (fun f => { f with tdisp := st })))

/-- The image in a flash slot, B when the mark is set (R340). -/
def Device.image (x : Device) (slot : Bool) : List Byte := (if slot then x.flashB else x.flashA).getD (Config.shippedImage slot)

/-- What a device's SPDM measurements cover: the boot firmware, the Curator firmware once step 2 has loaded it, and the fuses (R309,
R339, R340). -/
def Device.measured (x : Device) : List Byte :=
  Config.measurement Config.bootFirmware (if 2 ≤ x.bar0.step then x.image x.bar0.fwrun else []) Config.vendorKey x.bar0.x4t

/-- SPDM_REQUEST (R309, R310, R339, R340): identity is answered, and the measurements; a session with the Curator, which runs from step 7
on, sets up one of 64 trust domains. -/
def execSpdmRequest (d : Nat) (r : SpdmReq) (s : State) : Host.Outcome State Fault Refusal :=
  let x := s.device d
  let s1 := { s with resp := some (.value (Config.spdmAnswer r s.stepNo)) }
  if !x.reachable then .next s
  else match r with
  | .identity => .next s1
  | .measurements => .next { s with resp := some (.value x.measured) }
  | .setupDomain td =>
    .next (if td < 64 && x.bar0.step == 7 then s1.modDev d (fun x => { x with domains := setIns x.domains td }) else s)

/-! ## The logs (R375, R391) -/

def ErrEnt.word (e : ErrEnt) : Nat :=
  e.cause % 2 ^ 16 + e.fn % 16 * 2 ^ 16 + e.src % 16 * 2 ^ 20 + b2n e.ovf * 2 ^ 24 + 2 ^ 25 + e.off % 2 ^ 36 * 2 ^ 28

def EvEnt.word (e : EvEnt) : Nat :=
  e.cause % 2 ^ 16 + e.arg % 2 ^ 16 * 2 ^ 16 + b2n e.ovf * 2 ^ 32 + 2 ^ 33 + e.time % 2 ^ 30 * 2 ^ 34

/-- ERRLOG (R375): a read takes the oldest entry; an empty log reads as 0. -/
def execErrlog (d : Nat) (s : State) : Host.Outcome State Fault Refusal :=
  let v := (((s.device d).errlog.head?).map ErrEnt.word).getD 0
  if !(s.device d).serves 0 then .next { s with resp := none }
  else .next { s.modDev d (fun x => { x with errlog := x.errlog.drop 1 }) with resp := some (.value (natBytes 8 v)) }

/-- EVLOG (R391). -/
def execEvlog (d : Nat) (s : State) : Host.Outcome State Fault Refusal :=
  let v := (((s.device d).evlog.head?).map EvEnt.word).getD 0
  if !(s.device d).serves 0 then .next { s with resp := none }
  else .next { s.modDev d (fun x => { x with evlog := x.evlog.drop 1 }) with resp := some (.value (natBytes 8 v)) }

/-! ## Register writes (R341, R342, R404, R405) -/

/-- An ignored register write (R342, R375). -/
def Device.badReg (x : Device) (fn off : Nat) : Device := x.logErr Cause.regValue fn 3 off

/-- Whether an ECCINJ value names something that does not exist (R405). -/
def eccBad (v : Nat) : Bool :=
  let file := bits v 17 16
  let idx := bits v 31 18
  file == 3 || (file != 2 && 10 < bits v 15 12) || (file == 0 && 63 < idx) || (file == 1 && 31 < idx)

/-- What ECCINJ reads as (R405): its fields, and arm while a core still waits for the write that is to be injected. -/
def Device.eccinj (x : Device) : Word :=
  if x.cores.any (fun p => p.2.eccArm.isSome) then x.bar0.eccinj ||| 0x100000000 else x.bar0.eccinj

/-- ECCINJ (R405): arming an injection; one is armed at a time. A write that names nothing is ignored. -/
def execEccinj (d : Nat) (v : Word) (s : State) : Host.Outcome State Fault Refusal :=
  let n := v.toNat
  let off (x : Device) : Device := { x with cores := x.cores.map (fun p => (p.1, { p.2 with eccArm := none })) }
  if !(s.device d).serves 0 then .next s
  else if eccBad n then .next (s.modDev d (fun x => x.badReg 0 0x1608))
  else
    let s := s.modDev d (fun x => off { x with bar0 := { x.bar0 with eccinj := BitVec.ofNat 64 (n % 2 ^ 32) } })
    .next (if bit n 32 then
      s.modCore1 d (bits n 11 0) (fun c => { c with eccArm := some (bits n 15 12, bits n 17 16, bits n 31 18) })
    else s)

/-- CSEMINC (R321, R341). -/
def execCseminc (d : Nat) (v : Word) (s : State) : Host.Outcome State Fault Refusal :=
  let sem := bits v.toNat 5 0
  if !(s.device d).serves 0 then .next s
  else .next (s.modDev d (fun x => { x with csems := aset x.csems sem ((acount x.csems sem + bits v.toNat 15 8) % 65536) }))

/-- KEYSEL (R325, R341): with go the key in KEYBUF is loaded into the slot. -/
def execKeysel (d : Nat) (v : Word) (s : State) : Host.Outcome State Fault Refusal :=
  let slot := bits v.toNat 3 0
  if !(s.device d).serves 0 then .next s
  else .next (s.modDev d (fun x => { x with bar0 := { x.bar0 with
    keysel := BitVec.ofNat 64 (slot + 256 * b2n (bit v.toNat 8))
    keys := if bit v.toNat 8 then aset x.bar0.keys slot x.bar0.keybuf else x.bar0.keys } }))

/-- KEYBUF's 96 bytes with 8 of them written. -/
def keybufSet (k : List Byte) (i : Nat) (v : Word) : List Byte :=
  (List.range 96).map (fun n => if n / 8 == i then BitVec.ofNat 8 (v.toNat / 256 ^ (n % 8)) else (k[n]?).getD 0)

/-- The registers that every function has of its own (R341). -/
def Device.fnReg (x : Device) (fn off : Nat) (v : Nat) : Option Device :=
  match off with
  | 0x1100 => some (x.modFn fn (fun f => { f with hwapb := BitVec.ofNat 64 v }))
  | 0x1108 => some (x.modFn fn (fun f => { f with hwapa := v % 65536 }))
  | 0x1110 => some (x.modFn fn (fun f => { f with obsbase := v % 2 ^ 44 }))
  | 0x1118 => some (x.modFn fn (fun f => { f with syswin := bits v 57 24 * 2 ^ 24 }))
  | _ => none

/-- A register that the first accepted QADD fixes (R312, R342). -/
def Device.fixedReg (x : Device) (off : Nat) (b : Bar0) : Device :=
  if x.bar0.qfixed then x.badReg 0 off else { x with bar0 := b }

/-- A write to a management register of the physical function that has no step of its own (R341, R342, R404): stored,
ignored, or ignored and logged. -/
def Device.pfReg (x : Device) (off v : Nat) : Device :=
  let b := x.bar0
  match off with
  | 0x0308 => if 1600 ≤ v && v ≤ 3200 then { x with bar0 := { b with pwrcap := v } } else x.badReg 0 off
  | 0x0320 => { x with bar0 := { b with thev := (BitVec.ofNat 3 b.thev &&& ~~~(BitVec.ofNat 3 v)).toNat } }
  | 0x1000 => { x with bar0 := { b with dseed := BitVec.ofNat 64 v } }
  | 0x1008 => x.fixedReg off { b with jbase := BitVec.ofNat 64 (bits v 57 12 * 4096 + v % 32) }
  | 0x1010 => { x with bar0 := { b with jret := v } }
  | 0x1060 => x.fixedReg off { b with cabase := bits v 57 16 * 65536 }
  | 0x1068 => x.fixedReg off { b with casize := v }
  | 0x1070 => x.fixedReg off { b with capool := BitVec.ofNat 64 (v % 2 ^ 32) }
  | 0x1078 => { x with bar0 := { b with astbase := bits v 57 20 * 2 ^ 20 } }
  | 0x1310 => { x with bar0 := { b with sigreq := BitVec.ofNat 64 v } }
  | 0x1600 => if bit v 48 then { x with bar0 := { b with dup := false } } else x
  | 0x1800 => { x with bar0 := { b with fwaddr := bits v 57 12 * 4096 } }
  | 0x1808 => { x with bar0 := { b with fwlen := v % 2 ^ 32 } }
  | off => if 0x1380 ≤ off && off < 0x13E0 then
      { x with bar0 := { b with keybuf := keybufSet b.keybuf ((off - 0x1380) / 8) (BitVec.ofNat 64 v) } }
    else x

/-- REG_WRITE (R308, R341, R342): an aligned write to BAR0, of 32 MiB; a virtual function reaches its own registers only. -/
def execRegWrite (d fn off : Nat) (v : Word) (s : State) : Host.Outcome State Fault Refusal :=
  if off % 8 != 0 || 2 ^ 25 ≤ off || !(s.device d).serves fn then .next s
  else .next (s.modDev d (fun x => match x.fnReg fn off v.toNat with
    | some y => y
    | none => if fn = 0 then x.pfReg off v.toNat else x))

end Sys2Proof.Machine
end

