-- ==== Sys2Proof/Machine/Curator.lean ====
section
/-! DEFINITION. The Curator's queues: offers, mapping, rings, packets, acceptance and the journal, faults and completion of
commands (R311-R318, R327, R331, R333, R373, R388, R389). A command's work goes step by step, one event each (log 15). -/

namespace Sys2Proof.Machine
open Sys2Proof

/-! ## Reading system-kind memory and the working memory (R311, R317, R327, R341, R373) -/

/-- A 64-bit number of a byte list at an offset, or of fewer bytes. -/
def field (blk : List Byte) (off n : Nat) : Nat := leNat ((blk.drop off).take n)

/-- Reading n dwords of system-kind memory at a virtual address; with x the pages need X too. -/
def State.readSys (s : State) (d asid : Nat) (x : Bool) (va : Word) : Nat → Except Trap (List Byte)
  | 0 => .ok []
  | n + 1 =>
    if !canonical va then .error ⟨Cause.addrNoncanon, va, 0⟩
    else match portTr s d pd0 asid va with
    | .error t => .error t
    | .ok t =>
      let g := t.phys va
      if t.kind != .system then .error ⟨Cause.permission, va, 5⟩
      else if x && !t.x then .error ⟨Cause.permission, va, 3⟩
      else if ((s.device (gDev g)).line (gLocal g / 64)).bad then .error (lineBad va)
      else match s.readSys d asid x (va + 8) n with
        | .error t => .error t
        | .ok r => .ok (s.readG g 8 ++ r)

/-- What reading n bytes of an address space leaves at the port die that walks: the translations of its pages, or markers (R79, R374). -/
def State.noteSpan (s : State) (d asid : Nat) (va : Word) (n : Nat) : State :=
  (List.range ((va.toNat % 4096 + n + 4095) / 4096)).foldl (fun s i => s.noteWalk d pd0 asid (va + BitVec.ofNat 64 (4096 * i))) s

/-- What a read of system-kind memory leaves there, by its outcome. -/
def State.noteRead (s : State) (d asid : Nat) (va : Word) : Except Trap (List Byte) → State
  | .error t => s.noteWalk d pd0 asid t.addr
  | .ok bs => s.noteSpan d asid va bs.length

/-- Whether bring-up has ended (R339). -/
def Device.up (x : Device) : Bool := x.bar0.step == 7 && !x.lost

/-- Whether the registers describe a journal and a working memory (R312). -/
def Device.memoryOk (x : Device) (d : Nat) : Bool :=
  let b := x.bar0
  let inHbm (g : Nat) : Bool := gDev g == d && gLocal g < 0xC000000000
  let pools := (b.capool.toNat % 65536 + b.capool.toNat / 65536 % 65536) * 2 ^ 20
  10 ≤ jl x && jl x ≤ 24 && b.casize != 0 && b.casize % 65536 == 0 && inHbm b.cabase
    && inHbm (b.cabase + b.casize - 1) && pools < b.casize

/-- A free place of a length in the working memory, behind the two pools: the lowest (log 30). -/
def Device.place (x : Device) (len : Nat) : Option Nat :=
  let b := x.bar0
  let lo := b.cabase + (b.capool.toNat % 65536 + b.capool.toNat / 65536 % 65536) * 2 ^ 20
  let free (a : Nat) : Bool := a + len ≤ b.cabase + b.casize
    && x.reserves.all (fun r => a + len ≤ r.at_ || r.at_ + r.len ≤ a)
  let cands := (lo :: x.reserves.map (fun r => r.at_ + r.len)).filter free
  cands.foldl (fun m a => match m with
    | some v => some (min v a)
    | none => some a) none

/-! ## Offering and mapping queues (R311, R312) -/

/-- Whether a queue descriptor keeps to R311, and is offered unmapped. -/
def descOk (s : State) (d a : Nat) : Bool :=
  let q (o : Nat) : Nat := leNat (s.readG (a + o) 8)
  let lg := q 8 % 32
  let base := q 0
  base / 2 ^ 58 == 0 && 8 ≤ lg && lg ≤ 20 && base % (16 * 2 ^ lg) == 0
    && bits (q 8) 7 5 == 0 && bits (q 8) 15 12 == 0 && bits (q 8) 63 36 == 0
    && q 0x20 == 0 && q 0x28 == 0 && q 0x30 == 0 && q 0x38 == 0 && !reservedG s d a && !reservedG s d base

/-- QADD (R312, R341). -/
def execQadd (d : Nat) (v : Word) (s : State) : Host.Outcome State Fault Refusal :=
  let x := s.device d
  let a := bits v.toNat 57 6 * 64
  if !x.up || !x.serves 0 then .next s
  else if !x.memoryOk d || !descOk s d a || x.offers.any (fun o => o.desc == a && !o.withdrawn) then
    .next (s.modDev d (fun x => x.badReg 0 0x1040))
  else
    let o : Offer := ⟨a, leNat (s.readG (a + 8) 8) / 256 % 8, false, none⟩
    .next (s.modDev d (fun x => { x with offers := x.offers ++ [o], bar0 := { x.bar0 with qfixed := true } }))

/-- QDEL (R312): a mapped queue is marked; one that is not mapped goes at once. -/
def execQdel (d : Nat) (v : Word) (s : State) : Host.Outcome State Fault Refusal :=
  let x := s.device d
  let a := bits v.toNat 57 6 * 64
  if !x.up || !x.serves 0 then .next s
  else match x.offers.find? (fun o => o.desc == a && !o.withdrawn) with
    | none => .next (s.modDev d (fun x => x.badReg 0 0x1048))
    | some o =>
      if o.slot.isNone then .next (s.modDev d (fun x => { x with offers := x.offers.erase o }))
      else .next (s.modDev d (fun x => { x with
        offers := x.offers.map (fun p => if p = o then { o with withdrawn := true } else p) }))

/-- The offer that is mapped next: the highest priority, and the oldest of it (R312). -/
def Device.nextOffer (x : Device) : Option Offer :=
  let waiting := x.offers.filter (fun o => o.slot.isNone && !o.withdrawn
    && !x.offers.any (fun p => p.desc == o.desc && p.slot.isSome))
  waiting.foldl (fun m o => match m with
    | some b => if b.prio < o.prio then some o else some b
    | none => some o) none

/-- QUEUE_MAP (R311, R312): the next offer into the lowest free slot; the descriptor names the slot. -/
def execQueueMap (d : Nat) (s : State) : Host.Outcome State Fault Refusal :=
  let x := s.device d
  match (List.range 32).find? (fun t => (x.slot t).desc.isNone), x.nextOffer with
  | some t, some o =>
    if !x.up then .next s
    else
      let q (k : Nat) : Nat := leNat (s.readG (o.desc + k) 8)
      let slot : QSlot := { QSlot.empty with
        desc := some o.desc, base := q 0, lg := q 8 % 32, prio := q 8 / 256 % 8, sys := bit (q 8) 11
        asid := bits (q 8) 31 16, fn := bits (q 8) 35 32, widx := q 0x10, ridx := q 0x18 }
      let s := s.modDev d (fun x => { x with
        qslots := aset x.qslots t slot, offers := x.offers.map (fun p => if p = o then { o with slot := some t } else p) })
      .next (s.writeG (o.desc + 0x20) (natBytes 8 (t + 256)))
  | _, _ => .next s

/-- QUEUE_UNMAP (R311, R312): a withdrawn queue whose ring is empty and which runs nothing leaves its slot; its indices are
saved and the mapping is 0 again, as a new offer needs it (log 31). -/
def execQueueUnmap (d slot : Nat) (s : State) : Host.Outcome State Fault Refusal :=
  let x := s.device d
  let q := x.slot slot
  match q.desc, x.offers.find? (fun o => o.slot == some slot && o.withdrawn) with
  | some a, some o =>
    if q.widx != q.ridx || q.cmd.isSome || q.taken.isSome then .next s
    else
      let s := s.modDev d (fun x => { x with qslots := adel x.qslots slot, offers := x.offers.erase o })
      .next ((s.writeG (a + 0x10) (natBytes 8 q.widx ++ natBytes 8 q.ridx)).writeG (a + 0x20) (natBytes 8 0))
  | _, _ => .next s

/-! ## Doorbell pages (R313, R389) -/

/-- Whether a requester reaches the doorbell page of a mapped slot (R309, R313): the function that its queue names, or the Curator
itself. -/
def Device.reaches (x : Device) (w : Requester) (slot : Nat) : Bool :=
  (x.slot slot).desc.isSome && (match w with
    | .host fn onIde => (x.slot slot).fn == fn && x.servesIde fn onIde
    | .curator => x.up)

/-- What a read of a page that a requester does not reach is answered: zero, or nothing where the request is not taken (R309, R313). -/
def Device.blank (x : Device) (w : Requester) : Option Resp :=
  match w with
  | .host fn onIde => if x.servesIde fn onIde then some (.value (natBytes 8 0)) else none
  | .curator => if x.up then some (.value (natBytes 8 0)) else none

/-- WIDX (R313, R314): a write, or an atomic add that answers the old value. -/
def execWidx (d : Nat) (w : Requester) (slot : Nat) (fetchAdd : Bool) (v : Word) (s : State) : Host.Outcome State Fault Refusal :=
  let x := s.device d
  let old := (x.slot slot).widx
  if !x.reaches w slot then .next (if fetchAdd then { s with resp := x.blank w } else s)
  else if fetchAdd then
    .next { s.modDev d (fun x => x.modSlot slot (fun q => { q with widx := (old + v.toNat) % 2 ^ 64 })) with
      resp := some (.value (natBytes 8 old)) }
  else .next (s.modDev d (fun x => x.modSlot slot (fun q => { q with widx := v.toNat })))

/-- WRES (R313): a read answers WIDX and adds 1 to it. -/
def execWres (d : Nat) (w : Requester) (slot : Nat) (s : State) : Host.Outcome State Fault Refusal :=
  let x := s.device d
  let old := (x.slot slot).widx
  if !x.reaches w slot then .next { s with resp := x.blank w }
  else .next { s.modDev d (fun x => x.modSlot slot (fun q => { q with widx := (old + 1) % 2 ^ 64 })) with
    resp := some (.value (natBytes 8 old)) }

/-- DBELL (R313, R315). -/
def execDbell (d : Nat) (w : Requester) (slot : Nat) (_v : Word) (s : State) : Host.Outcome State Fault Refusal :=
  if (s.device d).reaches w slot then .next (s.modDev d (fun x => x.modSlot slot (fun q => { q with woken := true })))
  else .next s

/-- QRESUME (R389): a stopped queue goes on at the index written. -/
def execQresume (d : Nat) (w : Requester) (slot : Nat) (v : Word) (s : State) : Host.Outcome State Fault Refusal :=
  let x := s.device d
  let q := x.slot slot
  if !x.reaches w slot then .next s
  else if q.stop && q.ridx ≤ v.toNat && v.toNat ≤ q.widx then
    .next (s.modDev d (fun x => x.modSlot slot (fun q =>
      { q with ridx := v.toNat, stop := false, waiting := false, woken := true })))
  else .next (s.modDev d (fun x => x.badReg (x.slot slot).fn (0x100000 + slot * 0x1000 + 0x28)))

/-! ## Command blocks (R318, R321, R323) -/

/-- The size of a command block by type (R318); 0 for a type that is not assigned. -/
def blockSize : Nat → Nat
  | 1 => 288
  | 3 => 96
  | 5 => 112
  | 2 | 4 | 6 | 7 | 8 | 9 | 10 | 11 | 12 => 64
  | _ => 0

/-- Whether the body of a block keeps to R318, R321 and R323; sys is the queue's bit. -/
def bodyOk (sys : Bool) (op : Nat) (b : List Byte) : Bool :=
  let q (o : Nat) : Nat := field b o 8
  let kd (n : Nat) : Kind := Kind.ofCode (BitVec.ofNat 3 n)
  let wd (n : Nat) : Width := Width.ofCode (BitVec.ofNat 2 n)
  match op with
  | 2 => q 0x30 % 64 == 0 && q 0x30 ≤ 2 ^ 36
  | 3 =>
    let cop := q 0x28 % 256
    let fmt := bits (q 0x28) 11 8
    q 0x28 / 4096 == 0 && copOk (BitVec.ofNat 8 cop) (BitVec.ofNat 4 fmt) && q 0x38 % 64 == 0 && 0 < q 0x38
      && q 0x38 ≤ 262144 && q 0x48 / 2 ^ 32 == 0 && q 0x50 == 0 && q 0x58 == 0
  | 4 => bits (q 0x20) 7 6 == 0 && q 0x20 / 2 ^ 14 == 0 && q 0x38 == 0
    && (bit (q 0x20) 0 || (kd (bits (q 0x20) 3 1) != .system && kindWidthOk (kd (bits (q 0x20) 3 1)) (wd (bits (q 0x20) 5 4))))
  | 5 =>
    let k := kd (bits (q 0x28) 2 0)
    let w := wd (bits (q 0x28) 4 3)
    let len := bits (q 0x28) 14 8
    let el := elemBytes k w
    k != .system && kindWidthOk k w && bits (q 0x28) 7 5 == 0 && bits (q 0x28) 31 15 == 0 && 1 ≤ len && len ≤ 64
      && q 0x20 % el == 0 && len % el == 0 && (k != .fill || len == 16) && (k != .ver || len == 64)
      && q 0x20 % 64 + len ≤ 64
  | 6 | 7 => q 0x20 % 64 == 0 && q 0x28 % 64 == 0 && q 0x30 == 0 && q 0x38 == 0
  | 8 => 1 ≤ q 0x28 && q 0x28 ≤ 4096 && q 0x30 == 0 && q 0x38 == 0
  | 9 => q 0x20 % 64 == 0 && q 0x28 / 2 ^ 48 == 0 && q 0x30 == 0 && q 0x38 == 0
  | 10 => q 0x20 % 64 == 0 && q 0x28 / 2 ^ 48 == 0 && 1 ≤ q 0x30 && q 0x30 < 2 ^ 32 && q 0x38 == 0
  | 11 => bit (q 0x20) 7 == false && q 0x20 / 65536 == 0 && q 0x28 == 0 && q 0x30 == 0 && q 0x38 == 0
  | 12 => q 0x20 % 4096 == 0 && q 0x28 % 4096 == 0 && q 0x30 < 65536 && (sys || q 0x30 == 0) && q 0x38 == 0
  | _ => true

/-- Whether a block is one of a type (R318). -/
def blockOk (sys : Bool) (op : Nat) (b : List Byte) : Bool :=
  blockSize op != 0 && field b 0 2 == op && field b 2 2 == blockSize op && field b 4 4 == 0 && field b 0x1A 6 == 0
    && bodyOk sys op b

/-- Reading a command block: its header's size decides nothing, its type does. -/
def State.readBlock (s : State) (d asid op : Nat) (va : Word) : Except Trap (List Byte) :=
  s.readSys d asid false va (blockSize op / 8)

/-! ## Taking a packet (R315-R317) -/

/-- Following a packet's chain: each pointer is aligned to 8 and names a system-kind dword; the last to 32. -/
def State.follow (s : State) (d asid : Nat) : Nat → Word → Except Word Word
  | 0, va => if va.toNat % 32 == 0 then .ok va else .error va
  | n + 1, va =>
    if va.toNat % 8 != 0 then .error va
    else match s.readSys d asid false va 1 with
      | .error _ => .error va
      | .ok bs => s.follow d asid n (BitVec.ofNat 64 (leNat bs))

/-- What becomes of a published packet (R317). -/
def State.packet (s : State) (d : Nat) (q : QSlot) (hdr ptr : Word) : Taken :=
  let h := hdr.toNat
  let op := h % 256
  let bad (a : Word) : Taken := ⟨hdr, a, [], some Cause.packetInvalid⟩
  if 5 ≤ bits h 18 16 then ⟨hdr, 0, [], some Cause.chainDepth⟩
  else if bits h 15 10 != 0 || bits h 23 19 != 0 || blockSize op == 0 || op == 9 || op == 10 then bad 0
  else match s.follow d q.asid (bits h 18 16) ptr with
    | .error a => bad a
    | .ok a => match s.readBlock d q.asid op a with
      | .error t => bad t.addr
      | .ok blk => ⟨hdr, 0, blk, if blockOk q.sys op blk then none else some Cause.packetInvalid⟩

/-- The walks of a packet's chain and block (R79, R374). -/
def State.noteChain (s : State) (d asid op : Nat) : Nat → Word → State
  | 0, va => s.noteRead d asid va (s.readBlock d asid op va)
  | n + 1, va =>
    let r := s.readSys d asid false va 1
    let s := s.noteRead d asid va r
    match r with
    | .ok bs => s.noteChain d asid op n (BitVec.ofNat 64 (leNat bs))
    | .error _ => s

/-- The walks of a published packet. -/
def State.notePacket (s : State) (d : Nat) (q : QSlot) (hdr ptr : Word) : State :=
  if 5 ≤ bits hdr.toNat 18 16 then s else s.noteChain d q.asid (hdr.toNat % 256) (bits hdr.toNat 18 16) ptr

/-- PACKET_TAKE (R315, R317, R331): a thread that runs nothing reads its slot's header. -/
def execPacketTake (d slot : Nat) (s : State) : Host.Outcome State Fault Refusal :=
  let x := s.device d
  let q := x.slot slot
  if !x.up || q.desc.isNone || q.stop || q.cmd.isSome || q.taken.isSome || (q.waiting && !q.woken) then .next s
  else
    let a := q.base + q.ridx % 2 ^ q.lg * 16
    let hdr := leNat (s.readG a 8)
    let t := hdr / 2 ^ 24
    let r := q.ridx % 2 ^ 40
    let set (t : Option Taken) (w : Bool) : State := s.modDev d (fun x => x.modSlot slot (fun q =>
      { q with taken := t, waiting := w, woken := false }))
    if hdr == 0 then .next (set none true)
    else if t == r then
      let ptr : Word := BitVec.ofNat 64 (leNat (s.readG (a + 8) 8))
      .next ((set (some (s.packet d q (BitVec.ofNat 64 hdr) ptr)) false).notePacket d q (BitVec.ofNat 64 hdr) ptr)
    else if 1 ≤ (r + 2 ^ 40 - t) % 2 ^ 40 && (r + 2 ^ 40 - t) % 2 ^ 40 ≤ 2 ^ 39 then .next (set none true)
    else .next (set (some ⟨0, 0, [], some Cause.ringOverrun⟩) false)

/-! ## The journal and acceptance (R327, R333, R373) -/

/-- Whether the entry of the next accession number may be used (R333). -/
def Device.journalFree (x : Device) : Bool :=
  let at_ (e : Nat) : Nat := leNat (cellsRead x.mem (journalAt x x.bar0.jhead e) 8)
  at_ 0 == 0 || ((at_ 1 % 16 == 14 || at_ 1 % 16 == 15) && at_ 0 < x.bar0.jret)

/-- Opening an entry: the line goes back to bottom, the record of the old number's fault and its launch are forgotten, and
the elements are joined (R333, R373). -/
def Device.journalOpen (x : Device) (desc e3 op : Nat) : Device :=
  let acc := x.bar0.jhead
  let a := journalAt x acc 0
  let old := leNat (cellsRead x.mem a 8)
  let x := { x with
    mem := cellsWrite x.mem a (List.replicate 64 0), lines := adel x.lines (a / 64)
    reserves := if old == 0 then x.reserves else x.reserves.filter (fun r => r.acc != 2 * old + 1)
    launches := if old == 0 then x.launches else x.launches.filter (fun l => l.acc != old)
    bar0 := { x.bar0 with jhead := acc + 1 } }
  (((((x.journal acc 0 acc).journal acc 2 desc).journal acc 3 e3).journal acc 4 op).journal acc 6 x.clk).journal acc 1
    (statusWord acc 0 1)

/-- The cores a tree array binds: the product of its arities down to the core level (R24, R27, R373). -/
def treeCores : List Byte → Nat → Nat
  | bs, n + 1 =>
    let v := field bs 0 4
    if bits v 19 16 == 2 || bs.isEmpty then v % 65536 else v % 65536 * treeCores (bs.drop 4) n
  | _, 0 => 1

/-- The logical cores of a launch record's tree; 0 when the array cannot be read. -/
def State.recordCores (s : State) (d asid : Nat) (rec_ : List Byte) : Nat :=
  let n := min 64 (field rec_ 0x18 1 % 128)
  let va := field rec_ 0x10 8
  let bs := (List.range n).foldl (fun (r : Option (List Byte)) i => r.bind (fun l =>
    match portTr s d pd0 asid (BitVec.ofNat 64 (va + 4 * i)) with
    | .ok t => some (l ++ s.readG (t.phys (BitVec.ofNat 64 (va + 4 * i))) 4)
    | .error _ => none)) (some [])
  match bs with
  | some l => min (treeCores l n) (2 ^ 26)
  | none => 0

/-- The walks of reading a launch record's tree (R79, R374). -/
def State.noteTree (s : State) (d asid : Nat) (rec_ : List Byte) : State :=
  (List.range (min 64 (field rec_ 0x18 1 % 128))).foldl (fun s i => s.noteWalk d pd0 asid (BitVec.ofNat 64 (field rec_ 0x10 8 + 4 * i))) s

/-- Space for a command's fault record, and for a launch its context area before it (R327, R373): how large the area is, is
free (log 30). -/
def Device.spaceFor (x : Device) (op cores : Nat) : Nat × Nat :=
  if op == 1 then (Config.contextArea x.bar0.cabase x.bar0.jhead, 0x40 + 64 * cores + 8192) else (0, 64)

/-- Reserving a command's space: the state with it and the record's place, or nothing while it does not fit. -/
def Device.reserveFor (x : Device) (op cores : Nat) : Option (Device × Nat) :=
  let acc := x.bar0.jhead
  let (area, rec_) := x.spaceFor op cores
  match x.place area with
  | none => none
  | some a =>
    let x := if area == 0 then x else { x with reserves := x.reserves ++ [⟨2 * acc, a, area⟩] }
    match x.place rec_ with
    | none => none
    | some b => some ({ x with reserves := x.reserves ++ [⟨2 * acc + 1, b, rec_⟩] }, b)

/-- Where a command's fault record goes. -/
def Device.recordAt (x : Device) (acc : Nat) : Nat :=
  ((x.reserves.find? (fun r => r.acc == 2 * acc + 1)).map (·.at_)).getD 0

/-- A launch as its acceptance leaves it (R324, R326). -/
def newLaunch (x : Device) (acc slot : Nat) (node : Bool) (q : QSlot) (blk : List Byte) (recAt : Nat) : Launch :=
  let rec_ := blk.drop 0x20
  { acc := acc, slot := slot, node := node, prio := q.prio, asid := q.asid, record := rec_
    seed := if bit (field rec_ 4 4) 2 then x.bar0.dseed else BitVec.ofNat 64 (field rec_ 0x30 8)
    code := 1, rc := 0, hdr := none, tree := [], plan := none, cores := [], ndev := [], rooted := false, saving := false
    saved := [], recAt := recAt, fault := none, stopping := false, cnts := [], cover := false, killed := [] }

/-- The group descriptor of a COLL command (R320): the device list and all its bytes, or nothing. -/
def State.group (s : State) (d asid : Nat) (va : Word) : Option (List Nat × List Byte) :=
  if va.toNat % 32 != 0 then none
  else match s.readSys d asid false va 4 with
    | .error _ => none
    | .ok hd =>
      let n := bits (field hd 0 8) 61 48
      if n == 0 || 9216 < n || field hd 0 8 / 2 ^ 62 != 0 || 3 ≤ field hd 8 8 || field hd 0x10 8 != 0 || field hd 0x18 8 != 0 then
        none
      else match s.readSys d asid false (va + 0x20) ((2 * n + 7) / 8) with
        | .error _ => none
        | .ok l =>
          let devs := (List.range n).map (fun i => field l (2 * i) 2)
          if devs.any (fun v => 2 ^ 14 ≤ v) || devs.eraseDups.length != n || !devs.contains d then none
          else some (devs, hd ++ l.take (2 * n))

/-- The walks of reading a group descriptor (R79, R374). -/
def State.noteGroup (s : State) (d asid : Nat) (va : Word) : State :=
  let r := s.readSys d asid false va 4
  let s := s.noteRead d asid va r
  match r with
  | .error _ => s
  | .ok hd => s.noteRead d asid (va + 0x20) (s.readSys d asid false (va + 0x20) ((2 * bits (field hd 0 8) 61 48 + 7) / 8))

/-- The key of a COLL command (R320): the identifier, and its number among the device's commands of the group. -/
def groupKey (x : Device) (hd : List Byte) : CollKey :=
  let gid := field hd 0 6
  ⟨⟨0, gid⟩, true, 63, 0, acount x.groupSeq gid % 65536⟩

/-- Numbering a COLL command at its acceptance or its node's start (R320): nothing when the descriptor breaks the table. -/
def State.numberColl (s : State) (d asid : Nat) (blk : List Byte) : Option (State × CollKey) :=
  (s.group d asid (BitVec.ofNat 64 (field blk 0x20 8))).map (fun g =>
    let key := groupKey (s.device d) g.2
    (s.modDev d (fun x => { x with groupSeq := aset x.groupSeq key.launch.acc (acount x.groupSeq key.launch.acc + 1) }), key))

/-! ## Graphs at acceptance (R322, R323) -/

/-- The ranges of the loops of a node list. -/
def loopRanges (nodes : List (List Byte)) : List (Nat × Nat) :=
  nodes.zipIdx.filterMap (fun p => if field p.1 0 1 == 10 then some (field p.1 0x2C 2, p.2) else none)

/-- The innermost loop whose range holds a node. -/
def innerLoop (nodes : List (List Byte)) (i : Nat) : Option (Nat × Nat) :=
  ((loopRanges nodes).filter (fun r => r.1 ≤ i && i ≤ r.2 && r.2 != i)).foldl (fun m r => match m with
    | some b => if r.2 - r.1 < b.2 - b.1 then some r else some b
    | none => some r) none

/-- Whether one node of a graph is well placed. -/
def nodeOk (sys : Bool) (nodes : List (List Byte)) (i : Nat) (b : List Byte) : Bool :=
  let op := field b 0 1
  let target := field b 0x2C 2
  op != 8 && blockOk sys op b
    && (op != 9 || (i < target && target ≤ (match innerLoop nodes i with
      | some r => r.2
      | none => nodes.length)))
    && (op != 10 || target < i)

/-- Whether two ranges nest or lie apart. -/
def nested (a b : Nat × Nat) : Bool :=
  a.2 < b.1 || b.2 < a.1 || (a.1 ≤ b.1 && b.2 ≤ a.2) || (b.1 ≤ a.1 && a.2 ≤ b.2)

/-- The nodes of a GRAPH block, or GRAPH_INVALID with the failing address and the node (R322, R388); of two loops that overlap without
nesting it is the later one. -/
def State.graphNodes (s : State) (d : Nat) (q : QSlot) (blk : List Byte) : Except (Word × Nat) (List (List Byte)) :=
  let n := field blk 0x28 8
  match s.readSys d q.asid false (BitVec.ofNat 64 (field blk 0x20 8)) n with
  | .error t => .error (t.addr, 0)
  | .ok tab =>
    let nodes := (List.range n).foldl (fun (r : Except (Word × Nat) (List (List Byte))) i => r.bind (fun l =>
      let va : Word := BitVec.ofNat 64 (field tab (8 * i) 8)
      match s.readSys d q.asid false va 1 with
      | .error t => .error (t.addr, i)
      | .ok h => match s.readBlock d q.asid (field h 0 1) va with
        | .error t => .error (t.addr, i)
        | .ok b => .ok (l ++ [b]))) (.ok [])
    match nodes with
    | .error a => .error a
    | .ok ns =>
      let rs := loopRanges ns
      match ns.zipIdx.find? (fun p => !nodeOk q.sys ns p.2 p.1), rs.find? (fun a => rs.any (fun b => b.2 < a.2 && !nested a b)) with
      | some p, _ => .error (0, p.2)
      | none, some r => .error (0, r.2)
      | none, none => .ok ns

/-- The walks of reading a graph's table and nodes (R79, R374). -/
def State.noteGraph (s : State) (d : Nat) (q : QSlot) (blk : List Byte) : State :=
  let at_ : Word := BitVec.ofNat 64 (field blk 0x20 8)
  let r := s.readSys d q.asid false at_ (field blk 0x28 8)
  let s := s.noteRead d q.asid at_ r
  match r with
  | .error _ => s
  | .ok tab => (List.range (tab.length / 8)).foldl (fun s i =>
      let va : Word := BitVec.ofNat 64 (field tab (8 * i) 8)
      let h := s.readSys d q.asid false va 1
      match h with
      | .error _ => s.noteRead d q.asid va h
      | .ok b => s.noteRead d q.asid va (s.readBlock d q.asid (field b 0 1) va)) s

/-! ## Faults and ends of commands (R319, R388) -/

/-- A command fault (R388): the record, the entry, the interrupt; the queue stops. -/
def Device.failCommand (x : Device) (slot : Nat) (r : Running) (cause : Nat) (taddr aux : Word) : Device :=
  let at_ := x.recordAt r.acc
  let rec_ := natBytes 8 r.acc ++ natBytes 8 (cause + 3 * 131072) ++ natBytes 8 0 ++ natBytes 8 r.idx
    ++ natBytes 8 r.hdr.toNat ++ natBytes 8 taddr.toNat ++ natBytes 8 aux.toNat ++ natBytes 8 0
  let q := x.slot slot
  let x := { x with mem := cellsWrite x.mem (at_ % 2 ^ 44) rec_ }
  let x := ((x.journal r.acc 5 at_).journal r.acc 7 x.clk).journal r.acc 1 (statusWord r.acc 0 15)
  let x := { x.modSlot slot (fun q => { q with cmd := none, graph := none, taken := none, stop := true, waiting := false })
    with reclaims := x.reclaims.filter (fun p => p.1 != slot) }
  if bit r.hdr.toNat 8 && 0x20 ≤ r.blk.length then x.raise q.fn (field r.blk 0x18 2) else x

def State.setRun (s : State) (d slot : Nat) (r : Running) (waiting : Bool := false) : State :=
  s.modDev d (fun x => x.modSlot slot (fun q => { q.setCurrent r with waiting := waiting }))

/-- A fault of what a thread runs (R388): a node's faults its graph, with the node's index in TAUX. The walk that failed leaves its
marker (R374), and the requests that still wait are withdrawn. -/
def State.failRun (s : State) (d slot : Nat) (cause : Nat) (taddr : Word) (node : Nat := 0) : State :=
  let q := (s.device d).slot slot
  let s := (if cause == Cause.memUncorr then s.noteWalk d pd0 q.asid taddr else s).withdrawSlot d slot
  match q.cmd with
  | some r => s.modDev d (fun x => x.failCommand slot r cause taddr (match q.graph with
      | some g => BitVec.ofNat 64 g.at_
      | none => BitVec.ofNat 64 node))
  | none => s

/-- The thread's running command of a type, which has started with this event (R333: code 3). -/
def State.running (s : State) (d slot op : Nat) : Option (QSlot × Running) :=
  let q := (s.device d).slot slot
  if q.stop then none
  else match q.current with
    | some r => if r.op == op && !r.finished then some (q, r) else none
    | none => none

/-- COMMAND_ACCEPT (R315, R325-R327, R333, R373): when the journal entry and the working memory are available the command
gets its accession number, and RIDX advances; a faulted packet ends at once. -/
def execCommandAccept (d slot : Nat) (s : State) : Host.Outcome State Fault Refusal :=
  let x := s.device d
  let q := x.slot slot
  match q.taken, q.desc with
  | some t, some desc =>
    let op := t.hdr.toNat % 256
    let isL := op == 1 && t.cause.isNone
    let cores := if isL then s.recordCores d q.asid (t.blk.drop 0x20) else 0
    match if x.journalFree then x.reserveFor (if isL then 1 else 0) cores else none with
    | none => .next s
    | some (x, at_) =>
      let acc := x.bar0.jhead
      let r : Running := Running.fresh acc op t.hdr q.ridx t.blk
      let x := x.journalOpen desc q.ridx op
      let ridx := if t.cause == some Cause.ringOverrun then q.ridx else q.ridx + 1
      let x := x.modSlot slot (fun q => { q with taken := none, ridx := ridx, cmd := some r })
      let s := s.modDev d (fun _ => x)
      match t.cause with
      | some c => .next (s.failRun d slot c t.addr)
      | none =>
        match op with
        | 1 => .next ((s.noteTree d q.asid (t.blk.drop 0x20)).modDev d (fun x => { x with launches := x.launches ++ [newLaunch x acc slot false q t.blk at_] }))
        | 3 =>
          let s := s.noteGroup d q.asid (BitVec.ofNat 64 (field t.blk 0x20 8))
          match s.numberColl d q.asid t.blk with
          | none => .next (s.failRun d slot Cause.packetInvalid (BitVec.ofNat 64 (field t.blk 0x20 8)))
          | some (s, key) => .next (s.setRun d slot { r with coll := some key })
        | 8 =>
          let s := s.noteGraph d q t.blk
          match s.graphNodes d q t.blk with
          | .error p => .next (s.failRun d slot Cause.graphInvalid p.1 p.2)
          | .ok ns => .next (s.modDev d (fun x => x.modSlot slot (fun q => { q with graph := some ⟨ns, 0, [], none⟩ })))
        | _ => .next s
  | _, _ => .next s

/-- Raising the status of a command other than LAUNCH to started (R333). -/
def Device.noteStart (x : Device) (r : Running) : Device := x.journal r.acc 1 (statusWord r.acc 0 3)

/-- Whether every control context of a launch has retired END. -/
def State.allEnded (s : State) (l : Launch) : Bool :=
  l.cores.all (fun p => ((s.core p.1 p.2).ctx 0).st == .ended)

/-- The LAUNCH command, or the LAUNCH node, of an accession number that a thread runs. -/
def Device.launchRun (x : Device) (acc : Nat) : Option (Nat × Running) :=
  (List.range 32).findSome? (fun t =>
    if (x.slot t).stop then none
    else match (x.slot t).current with
      | some r => if r.acc == acc && r.op == 1 && !r.finished then some (t, r) else none
      | none => none)

/-- A launch that faults on its own (R388): its record holds the packet's ring index and header; a node's has no packet. -/
def State.ownFault (s : State) (d acc src cause : Nat) (taddr taux : Word := 0) : State :=
  let r := (((s.device d).launchRun acc).map (·.2)).filter (fun r => r.hdr != 0)
  s.launchFault ⟨d, acc⟩
    { launchCause src cause 0 ((r.map (·.hdr)).getD 0) taddr taux with tpc := BitVec.ofNat 64 ((r.map (·.idx)).getD 0) }

/-- The collectives of a launch that some device knows. -/
def State.collsOf (s : State) (l : LaunchId) : List Coll :=
  s.devs.flatMap (fun p => p.2.colls.filter (fun c => !c.key.group && c.key.launch == l))

/-- LABORT (R389, R393): a running launch ends under R372, unless its last END has retired and none of its collectives is still to
land, so that it completes; another command or a graph ends and its
queue stops. -/
def execLabort (d : Nat) (v : Word) (s : State) : Host.Outcome State Fault Refusal :=
  let x := s.device d
  let a := v.toNat
  let abort (s : State) (acc : Nat) : State :=
    if (x.launch? acc).any (fun l => l.code == 3 && s.allEnded l && (s.collsOf ⟨d, acc⟩).isEmpty) then s else s.ownFault d acc 3 Cause.aborted
  if !x.serves 0 then .next s
  else match (List.range 32).find? (fun t => (((x.slot t).cmd).map (·.acc)) == some a) with
  | some t =>
    let q := x.slot t
    match q.cmd with
    | some r =>
      if r.op == 1 then .next (abort s a)
      else
        let node := (q.graph.bind (·.node)).filter (fun n => n.op == 1)
        let s := match node with
          | some n => abort s n.acc
          | none => s
        .next (s.failRun d t Cause.aborted 0)
    | none => .next s
  | none => .next (abort s a)

/-! ## Completion (R319, R322, R331, R333) -/

/-- Where the stamp join of a completing command goes (R319): an 8-byte .max element with J permission. R388 names no fault of a
stamp: one that its page refuses is not made (log 48). -/
def State.stampTo (s : State) (d asid : Nat) (va : Word) : Option Nat :=
  if va.toNat % 8 != 0 then none
  else match translateNow s d pd0 asid .join va with
    | .error _ => none
    | .ok t => match kindTrap t .max .w64 va with
      | some _ => none
      | none => some (t.phys va)

/-- The piece of work of a command whose stamp join is on its way. -/
def stampPhase : Nat := 10

/-- A command whose effects are complete (R319): the walk and the join of its stamp where it wants one and has not made it, and what
ends it otherwise, or where its page refuses the stamp. -/
def State.stampRun (s : State) (d slot : Nat) (q : QSlot) (r : Running) (wanted : Bool) (finish : Device → Device) : State :=
  let va : Word := BitVec.ofNat 64 (field r.blk 8 8)
  if !wanted || r.phase == stampPhase then s.modDev d finish
  else
    let t := s.noteWalk d pd0 q.asid va
    match s.stampTo d q.asid va with
    | some g => (t.modDev d (fun x => x.modCurrent slot (fun r => r.turn stampPhase))).curJoin d slot q.asid g va
        (.elems .max .w64 [(va.toNat % 64, field r.blk 0x10 8)])
    | none => t.modDev d finish

/-- Ending a command whose stamp has been made: its interrupt, its entry, and the queue goes on (R319, R331). -/
def Device.endCommand (x : Device) (slot : Nat) (q : QSlot) (r : Running) : Device :=
  let x := if r.op == 1 then x else ((x.journal r.acc 7 x.clk).journal r.acc 1 (statusWord r.acc 0 14))
  let x := if bit r.hdr.toNat 8 then x.raise q.fn (field r.blk 0x18 2) else x
  x.modSlot slot (fun q => { q with cmd := none, graph := none, waiting := false })

/-- Ending a graph's node: its interrupt when it names one, and the next node (R322). -/
def Device.endNode (x : Device) (slot : Nat) (q : QSlot) (g : GraphRun) (r : Running) : Device :=
  let next := if r.op == 9 || r.op == 10 then r.off else g.at_ + 1
  let x := if field r.blk 0x18 2 == 0 then x else x.raise q.fn (field r.blk 0x18 2)
  x.modSlot slot (fun q => { q with graph := some { g with at_ := next, node := none }, waiting := false })

/-- COMMAND_COMPLETE (R319, R322): what a thread runs has had its effects; its stamp is made and applied, then its interrupt raised,
and the thread goes on. -/
def execCommandComplete (d slot : Nat) (s : State) : Host.Outcome State Fault Refusal :=
  let q := (s.device d).slot slot
  match q.graph.bind (·.node), q.graph, q.cmd with
  | some r, some g, _ =>
    if !r.finished || !r.await.isEmpty then .next s
    else .next (s.stampRun d slot q r (field r.blk 8 8 != 0) (fun x => x.endNode slot q g r))
  | none, _, some r =>
    if !r.finished || !r.await.isEmpty then .next s
    else .next (s.stampRun d slot q r (bit r.hdr.toNat 9) (fun x => x.endCommand slot q r))
  | _, _, _ => .next s

end Sys2Proof.Machine
end

