-- ==== Sys2Proof/Machine/Image.lean ====
section
/-! DEFINITION. The kernel image, the tree, the kernel header and the plan table as dispatch reads them (R24-R27, R33, R34,
R92, R171, R172, R174, R177, R178, R328). -/

namespace Sys2Proof.Machine
open Sys2Proof

/-! ## The image descriptor (R177, R178) -/

/-- The image descriptor (R177). -/
structure Image where
  raw : List Byte
  code : Nat
  codeLen : Nat
  entry : Nat
  header : Nat
  tree : Nat
  plan : Nat
  lattice : Nat
  lattices : Nat
  data : Nat
  dataLen : Nat
  deriving DecidableEq, Repr

def Image.ofBytes (b : List Byte) : Image :=
  { raw := b, code := field b 8 8, codeLen := field b 0x10 8, entry := field b 0x18 8, header := field b 0x20 8
    tree := field b 0x28 8, plan := field b 0x30 8, lattice := field b 0x38 8, lattices := field b 0x40 4
    data := field b 0x48 8, dataLen := field b 0x50 8 }

/-- Reading a part of an image: pages of system kind with X (R330). -/
def State.readImage (s : State) (d asid : Nat) (va : Word) (off n : Nat) : Except Trap (List Byte) :=
  s.readSys d asid true (va + BitVec.ofNat 64 off) n

/-- Whether a lattice entry keeps to R174. -/
def latticeOk (im : Image) (e : List Byte) : Bool :=
  let k := Kind.ofCode (BitVec.ofNat 3 (field e 0 4))
  let w := Width.ofCode (BitVec.ofNat 2 (bits (field e 0 4) 4 3))
  let size := field e 8 8
  let init := field e 0x18 8
  field e 0 4 / 512 == 0 && field e 4 4 == 0 && k != .system && kindWidthOk k w && bits (field e 0 4) 8 6 ≤ 4
    && size % 64 == 0 && (init == 0 || (k == .fill && init == size && field e 0x10 8 + init ≤ im.dataLen))

/-- The sections of an image: start and length, with the tree record's levels and the plan table's length. -/
def Image.sections (im : Image) (levels planLen : Nat) : List (Nat × Nat) :=
  [(0, 128), (im.code, im.codeLen), (im.header, 64), (im.tree, 8 + 4 * levels), (im.plan, planLen)
   , (im.lattice, 32 * im.lattices), (im.data, im.dataLen)].filter (fun p => p.2 != 0)

/-- Whether no section extends beyond another's start. -/
def apart (ss : List (Nat × Nat)) : Bool :=
  ss.zipIdx.all (fun a => ss.zipIdx.all (fun b => a.2 == b.2 || a.1.1 + a.1.2 ≤ b.1.1 || b.1.1 + b.1.2 ≤ a.1.1))

/-- Whether the fields of a descriptor are in order (R177, R178). -/
def Image.fieldsOk (im : Image) : Bool :=
  let b := im.raw
  field b 0 2 == 0x5A34 && field b 2 2 == 1 && field b 4 4 ≤ 1 && field b 0x44 4 == 0 && (b.drop 0x58).all (· == 0)
    && im.code % 32 == 0 && im.codeLen % 32 == 0 && 32 ≤ im.codeLen && im.header % 16 == 0 && im.tree % 16 == 0
    && im.plan % 16 == 0 && im.lattice % 16 == 0 && im.data % 16 == 0 && im.lattices ≤ 16
    && im.entry % 4 == 0 && im.entry % 32 != 24 && im.entry % 32 != 28 && im.entry < im.codeLen

/-! ## Trees (R24-R26, R172) -/

/-- A level descriptor (R24); none when a reserved bit is set. -/
def levelOf (v : Nat) : Option TreeLevel :=
  if v / 2 ^ 27 != 0 then none
  else some ⟨v % 65536, bits v 19 16, bits v 22 20, bits v 25 23, bit v 26⟩

/-- The form conditions of one level (R24, R25). The rectangle fields of a level without re are not used. -/
def TreeLevel.formOk (l : TreeLevel) : Bool :=
  l.arity != 0 && l.code ≤ 9 && (!l.re || (l.code == 5 && l.rh ≤ 5 && l.rw ≤ 5))

/-- The extent of a code-5 level. -/
def TreeLevel.extent (l : TreeLevel) : Nat × Nat := if l.re then (2 ^ l.rh, 2 ^ l.rw) else (32, 32)

/-- Whether a level may stand below another (R25, nesting). -/
def nests (up lo : TreeLevel) : Bool :=
  lo.code < up.code || (lo.code == 5 && up.code == 5 && lo.re && lo.extent.1 ≤ up.extent.1 && lo.extent.2 ≤ up.extent.2
    && lo.extent != up.extent)

/-- The form, nesting and core-level conditions of R25. -/
def treeForm (t : List TreeLevel) : Bool :=
  t.all TreeLevel.formOk && (match t with
    | [] => false
    | l :: _ => l.arity == 1)
    && ((t.zip (t.drop 1)).all (fun p => nests p.1 p.2)) && (t.filter (fun l => l.code == 2)).length == 1
    && (t.drop (coreLevel t + 1)).all (fun l => l.code ≤ 1)

/-- Whether a launch's tree matches an image's record (R26): one depth, codes and rectangles, and every fixed arity. -/
def treeMatches (recd : List Nat) (t : List Nat) : Bool :=
  recd.length == t.length && (recd.zip t).all (fun p =>
    bits p.1 26 16 == bits p.2 26 16 && (p.1 % 65536 == 0 || p.1 % 65536 == p.2 % 65536))

/-- The 32-bit words of a byte list. -/
def wordsOf (b : List Byte) : Nat → List Nat
  | 0 => []
  | n + 1 => field b 0 4 :: wordsOf (b.drop 4) n

/-- The tree array of a launch record, read with X (R24, R330). -/
def State.readTree (s : State) (d asid : Nat) (va : Word) : Nat → Except Trap (List Nat)
  | 0 => .ok []
  | n + 1 => match translateNow s d pd0 asid .any va with
    | .error t => .error t
    | .ok t =>
      if !t.x then .error ⟨Cause.permission, va, 3⟩
      else match s.readTree d asid (va + 4) n with
        | .error e => .error e
        | .ok r => .ok (leNat (s.readG (t.phys va) 4) :: r)

/-- An image's tree record (R172): a dword depth, and 32-bit descriptors. -/
def State.imageTree (s : State) (d asid : Nat) (va : Word) (im : Image) : Except Trap (List Nat) :=
  match s.readImage d asid va im.tree 1 with
  | .error t => .error t
  | .ok h =>
    let n := min (field h 0 8) 65
    match s.readImage d asid va im.tree (1 + (n + 1) / 2) with
    | .error t => .error t
    | .ok b => .ok (wordsOf (b.drop 8) n)

/-! ## The kernel header (R92, R328) -/

/-- The granule range of a header dword. -/
def rangeOf (v : Nat) : Nat × Nat := (v % 2 ^ 14, bits v 30 16)

/-- The kernel header's fields (R328). -/
def headerOf (b : List Byte) : KHeader :=
  let w (o : Nat) : Nat := field b o 4
  { sregs := bits (w 0) 6 0, vregs := bits (w 0) 13 8, helpers := bits (w 0) 19 16, barriers := bits (w 0) 27 24
    oslots := bits (w 4) 4 0, stash := bits (w 4) 11 8, topx := bit (w 4) 12, c0ctx := bits (w 4) 19 16
    c1ctx := bits (w 4) 23 20, lstore := bits (w 8) 18 0, shared := rangeOf (w 0xC)
    parts := (List.range 11).map (fun i => rangeOf (w (0x10 + 4 * i))) }

/-- Whether a header is in range, with no reserved bit set (R171, R328). -/
def headerOk (b : List Byte) : Bool :=
  let w (o : Nat) : Nat := field b o 4
  let h := headerOf b
  !bit (w 0) 7 && bits (w 0) 15 14 == 0 && bits (w 0) 23 20 == 0 && bits (w 0) 31 28 == 0
    && bits (w 4) 7 5 == 0 && bits (w 4) 15 13 == 0 && bits (w 4) 31 24 == 0 && w 8 / 2 ^ 19 == 0
    && (List.range 12).all (fun i => bits (w (0xC + 4 * i)) 15 14 == 0 && !bit (w (0xC + 4 * i)) 31) && w 0x3C == 0
    && 1 ≤ h.sregs && h.sregs ≤ 64 && h.vregs ≤ 32 && h.helpers ≤ 10 && 1 ≤ h.barriers && h.barriers ≤ 8
    && h.oslots ≤ 16 && h.stash ≤ 8 && h.c0ctx ≤ 10 && h.c1ctx ≤ 10 && h.lstore ≤ 262144 && h.lstore % 16 == 0

/-- Whether two granule ranges share a granule. -/
def rangesMeet (a b : Nat × Nat) : Bool := a.2 != 0 && b.2 != 0 && a.1 < b.1 + b.2 && b.1 < a.1 + a.2

/-- The checks of R92 that a DET launch has. -/
def detPartitions (h : KHeader) (t : PlanTable) : Bool :=
  let rs := h.shared :: h.parts.take (h.helpers + 1)
  rs.zipIdx.all (fun a => (16 * (a.1.1 + a.1.2) ≤ h.lstore || a.1.2 == 0)
    && rs.zipIdx.all (fun b => a.2 == b.2 || !rangesMeet a.1 b.1)
    && t.wins.all (fun w => w.2.all (fun v => !rangesMeet a.1 (v.first, v.len))))
    && h.c0ctx ≤ h.helpers && h.c1ctx ≤ h.helpers

/-! ## The plan table (R33, R34) -/

/-- The table of a launch that names none (R33). -/
def impliedPlan : PlanTable := ⟨0, [1], 0, []⟩

/-- A window dword (R33); none when a reserved bit is set or the length is out of range. -/
def windowOf (v : Nat) : Option PlanWin :=
  if bits v 31 26 != 0 || bits v 47 46 != 0 || bit v 63 || bits v 62 48 == 0 || 16384 < bits v 62 48 then none
  else some ⟨v % 2 ^ 26, bits v 45 32, bits v 62 48⟩

/-- The windows of a byte list. -/
def windowsOf (b : List Byte) : Nat → Option (List PlanWin)
  | 0 => some []
  | n + 1 => match windowOf (field b 0 8), windowsOf (b.drop 8) n with
    | some w, some r => some (w :: r)
    | _, _ => none

/-- The plan and phase of a directory position within a core's entries. -/
def planPhase : List Nat → Nat → Nat × Nat
  | [], _ => (0, 0)
  | n :: t, i => if i < n then (0, i) else let r := planPhase t (i - n); (r.1 + 1, r.2)

/-- A plan table read through a function of byte offset and dwords (R33): nothing when R34 refuses its fields, or a failed
read. The number is the table's length in bytes. A window list whose offset is not a multiple of 8 makes the table invalid: R33 aligns
the lists, and R34 does not name the case (log 104). -/
def readPlan (rd : Nat → Nat → Except Trap (List Byte)) : Except Trap (Option (PlanTable × Nat)) :=
  match rd 0 3 with
  | .error t => .error t
  | .ok h =>
    let v := field h 0 8
    let np := bits v 12 8
    let nc := bits v 41 16
    let nph := (List.range 16).map (fun p => field h (8 + p) 1)
    if v / 2 ^ 42 != 0 || bits v 7 6 != 0 || bits v 15 13 != 0 || np == 0 || 16 < np
        || !(nph.zipIdx.all (fun p => if p.2 < np then 1 ≤ p.1 && p.1 ≤ 16 else p.1 == 0)) then .ok none
    else
      let per := (nph.take np).foldl (· + ·) 0
      (List.range (nc * per)).foldl (fun (r : Except Trap (Option (PlanTable × Nat))) i => match r with
        | .ok (some (t, len)) => match rd (24 + 8 * i) 1 with
          | .error e => .error e
          | .ok e =>
            let e := field e 0 8
            let off := e % 2 ^ 32
            let n := bits e 38 32
            if e / 2 ^ 39 != 0 || 64 < n || off % 8 != 0 then .ok none
            else match rd off n with
              | .error x => .error x
              | .ok b => match windowsOf b n with
                | none => .ok none
                | some ws =>
                  let pf := planPhase nph (i % per)
                  .ok (some ({ t with wins := if ws.isEmpty then t.wins else t.wins ++ [((i / per, pf.1, pf.2), ws)] },
                    max len (off + 8 * n)))
        | x => x) (.ok (some (⟨bits v 5 0, nph.take np, nc, []⟩, 24 + 8 * (nc * per))))

/-- The checks of R34 that need the tree and the declared store. -/
def planFits (tree : List TreeLevel) (lstore : Nat) (t : PlanTable) : Bool :=
  (match tree[t.xlevel]? with
    | some l => 2 ≤ l.code
    | none => false)
    && t.wins.all (fun w => w.2.zipIdx.all (fun a => 16 * (a.1.first + a.1.len) ≤ lstore
      && w.2.zipIdx.all (fun b => a.2 == b.2 || !rangesMeet (a.1.first, a.1.len) (b.1.first, b.1.len))))

end Sys2Proof.Machine
end

