-- ==== Sys2Proof/Machine/Commands.lean ====
section
/-! DEFINITION. The Curator's commands (R64, R318-R323, R325): one event does the next piece of work of the command that a
thread runs, or of the node of its graph. What a command asks of Flowstone memory goes to the home as a request of the thread (R13);
rings, blocks and descriptors in system-kind memory the Curator reads itself (log 15). -/

namespace Sys2Proof.Machine
open Sys2Proof

/-! ## What commands share -/

/-- A command's first event: its status rises to started (R333), unless it is a node, whose graph has started. -/
def State.startRun (s : State) (d slot : Nat) (q : QSlot) (r : Running) : State :=
  if r.started then s
  else (s.modDev d (fun x => if q.graph.isSome then x else x.noteStart r)).setRun d slot { r with started := true }

/-- A command whose effects are complete. -/
def State.finishRun (s : State) (d slot : Nat) (r : Running) : State :=
  s.setRun d slot { r with started := true, finished := true }

/-- A command that must wait; the thread's waiting bit is for a WAIT alone (R313). -/
def State.waitRun (s : State) (d slot : Nat) (q : QSlot) (r : Running) : State :=
  (s.startRun d slot q r).setRun d slot { r with started := true } (r.op == 4)

/-- A command goes on to a piece of work that waits for requests it now sends. -/
def State.askRun (s : State) (d slot : Nat) (q : QSlot) (r : Running) (phase : Nat) : State :=
  (s.startRun d slot q r).setRun d slot (r.turn phase) (r.op == 4)

/-- A page for the Curator: its translation, with a system-kind page only where the queue's sys allows one (R319). -/
def State.curPage (s : State) (d : Nat) (q : QSlot) (sysOk : Bool) (acc : Access) (va : Word) : Except Trap Tlb :=
  if !canonical va then .error ⟨Cause.addrNoncanon, va, 0⟩
  else match portTr s d pd0 q.asid va with
    | .error t => .error t
    | .ok t =>
      if t.kind == .system && sysOk && q.sys then .ok t
      else match permTrap t acc va with
        | some p => .error p
        | none => .ok t

/-! ## LAUNCH: the record's checks (R325) -/

/-- Whether a launch record keeps to R324 and R325. -/
def recordOk (q : QSlot) (r : List Byte) : Bool :=
  let f := field r 4 4
  field r 0 2 == 1 && field r 2 2 == 0 && f / 64 == 0 && bits f 5 4 != 3 && 1 ≤ field r 0x18 4 && field r 0x18 4 ≤ 64
    && field r 0x1C 4 / 2 ^ 26 == 0 && field r 0x38 8 == q.asid && field r 0x40 8 / 2 ^ 15 == 0 && field r 0x48 8 == 0
    && field r 0xD0 8 == 0 && field r 0xD8 8 == 0 && (bit f 3 || field r 0xE0 8 == 0) && field r 0xE8 4 / 16 == 0
    && (r.drop 0xEC).all (· == 0)

/-- The image bytes that a signature covers (R325): from its start to the end of its last section. -/
def State.signedImage (s : State) (d asid : Nat) (va : Word) : Except Trap (List Byte) :=
  match s.readImage d asid va 0 16 with
  | .error t => .error t
  | .ok b =>
    let im := Image.ofBytes b
    let planLen := match readPlan (fun o n => s.readImage d asid va (im.plan + o) n) with
      | .ok (some p) => if im.plan == 0 then 0 else p.2
      | _ => 0
    let levels := match s.imageTree d asid va im with
      | .ok t => t.length
      | .error _ => 0
    let fin := (im.sections levels planLen).foldl (fun m p => max m (p.1 + p.2)) 0
    match s.readImage d asid va 0 ((min fin (2 ^ 32) + 7) / 8) with
    | .error t => .error t
    | .ok l => .ok (l.take fin)

/-- Whether a record's signature holds (R325). -/
def State.sigOk (s : State) (d asid : Nat) (r : List Byte) : Bool :=
  match (aget (s.device d).bar0.keys (field r 0xE8 4)), s.signedImage d asid (BitVec.ofNat 64 (field r 8 8)),
      s.readSys d asid false (BitVec.ofNat 64 (field r 0xE0 8)) 12 with
  | some key, .ok im, .ok sig => signatureOk key (r.take 0xE0 ++ im) sig
  | _, _, _ => false

/-- LAUNCH (R325, R326): the checks of the record; a launch that passes waits for its cores. -/
def execLaunch (d slot : Nat) (s : State) : Host.Outcome State Fault Refusal :=
  match s.running d slot 1 with
  | none => .next s
  | some (q, r) =>
    if r.started then .next s
    else
      let rec_ := r.blk.drop 0x20
      let signed := bit (field rec_ 4 4) 3
      let sound := if signed then s.sigOk d q.asid rec_ else !((s.device d).bar0.sigreq).getLsbD (domainOf s d q.asid)
      let s := s.setRun d slot { r with started := true }
      let fail (c : Nat) : State := s.ownFault d r.acc 2 c
      if !recordOk q rec_ then .next (fail Cause.launchInvalid)
      else if !sound then .next (fail Cause.launchSig)
      else .next s

/-! ## COPY, JOIN, FREEZE, RECLAIM (R64, R319) -/

/-- A COPY with a line done (R319). -/
def Running.nextLine (r : Running) (len : Nat) : Running :=
  { r.turn 0 with off := r.off + 64, finished := r.off + 64 == len }

/-- Writing a line of a COPY at its home (R13, R273, R319): plainly into a system-kind page, else by joins. -/
def State.copyOut (s : State) (d slot : Nat) (q : QSlot) (r : Running) (dst : Word) (bs : List Byte) : State :=
  let page := s.curPage d q true .join dst
  let s := s.noteWalk d pd0 q.asid dst
  match page with
  | .error t => s.failRun d slot t.cause t.addr
  | .ok u =>
    let g := u.phys dst
    match u.kind with
    | .system => (s.askRun d slot q r 2).curSend d slot g (fun o => .swrite o bs)
    | .ver => (s.askRun d slot q r 2).curJoin d slot q.asid g dst
        (.ver (BitVec.ofNat 32 (field r.blk 0x3C 4)) (BitVec.ofNat 512 (leNat bs)))
    | .fill => (List.range 4).foldl (fun s i => s.curJoin d slot q.asid g dst
        (.fill i 0xFFFFFFFF (BitVec.ofNat 128 (leNat ((bs.drop (16 * i)).take 16))))) (s.askRun d slot q r 2)
    | _ => s.failRun d slot Cause.kindMismatch dst

/-- Reading a line of a COPY at its home (R13, R57, R58, R319): plainly from a system-kind page, else by an exact read. -/
def State.copyIn (s : State) (d slot : Nat) (q : QSlot) (r : Running) (src : Word) : State :=
  let page := s.curPage d q true .xread src
  let s := s.noteWalk d pd0 q.asid src
  match page with
  | .error t => s.failRun d slot t.cause t.addr
  | .ok t => (s.askRun d slot q r 1).curSend d slot (t.phys src) (fun o =>
      if t.kind == .system then .sread o src
      else .xread o src t.kind t.wd 0 64 (BitVec.ofNat 32 (field r.blk 0x38 4)))

/-- COPY (R319): the next piece of its present line: the read, the write, or the write's acknowledgements. -/
def execCopy (d slot : Nat) (s : State) : Host.Outcome State Fault Refusal :=
  match s.running d slot 2 with
  | none => .next s
  | some (q, r) =>
    let len := field r.blk 0x30 8
    let src : Word := BitVec.ofNat 64 (field r.blk 0x20 8 + r.off)
    let dst : Word := BitVec.ofNat 64 (field r.blk 0x28 8 + r.off)
    match r.result with
    | .waits => .next s
    | .fails t => .next (s.failRun d slot t.cause t.addr)
    | .answered bs =>
      if r.phase == 2 then .next (s.setRun d slot (r.nextLine len))
      else if r.phase == 1 then .next (s.copyOut d slot q r dst bs)
      else if src.toNat % 64 != 0 then .next (s.failRun d slot Cause.misaligned src)
      else if dst.toNat % 64 != 0 then .next (s.failRun d slot Cause.misaligned dst)
      else if len ≤ r.off then .next ((s.startRun d slot q r).finishRun d slot r)
      else .next (s.copyIn d slot q r src)

/-- The join of a JOIN block (R318, R319). -/
def blockJoin (b : List Byte) : JoinData :=
  let v := field b 0x28 8
  let k := Kind.ofCode (BitVec.ofNat 3 v)
  let w := Width.ofCode (BitVec.ofNat 2 (bits v 4 3))
  let a := field b 0x20 8
  let wb := w.bits / 8
  match k with
  | .fill => .fill (a / 16 % 4) (BitVec.ofNat 32 (bits v 63 32)) (BitVec.ofNat 128 (field b 0x30 16))
  | .ver => .ver (BitVec.ofNat 32 (bits v 63 32)) (BitVec.ofNat 512 (field b 0x30 64))
  | k => .elems k w ((List.range (bits v 14 8 / wb)).map (fun i => (a % 64 + i * wb, field b (0x30 + i * wb) wb)))

/-- JOIN (R319): the join goes to its home, and its acknowledgement completes the command. -/
def execCmdJoin (d slot : Nat) (s : State) : Host.Outcome State Fault Refusal :=
  match s.running d slot 5 with
  | none => .next s
  | some (q, r) =>
    let va : Word := BitVec.ofNat 64 (field r.blk 0x20 8)
    let j := blockJoin r.blk
    match r.result with
    | .waits => .next s
    | .fails t => .next (s.failRun d slot t.cause t.addr)
    | .answered _ =>
      if r.phase == 1 then .next (s.finishRun d slot r)
      else
        let tr := translateNow s d pd0 q.asid .join va
        let s := s.noteWalk d pd0 q.asid va
        match tr with
        | .error t => .next (s.failRun d slot t.cause t.addr)
        | .ok t => match kindTrap t j.kw.1 j.kw.2 va with
          | some p => .next (s.failRun d slot p.cause va)
          | none => .next ((s.askRun d slot q r 1).curJoin d slot q.asid (t.phys va) va j)

/-- The lines of a range with their translations, each page with the permissions given, or the first failure (R76, R77, R319). -/
def State.linesOf (s : State) (d asid : Nat) (accs : List Access) (base n : Nat) : Except Trap (List (Word × Tlb)) :=
  (List.range n).foldl (fun r i => match r with
    | .error t => .error t
    | .ok l =>
      let va : Word := BitVec.ofNat 64 (base + 64 * i)
      match translateNow s d pd0 asid .any va with
      | .error t => .error t
      | .ok t => match accs.findSome? (fun a => permTrap t a va) with
        | some p => .error p
        | none => .ok (l ++ [(va, t)])) (.ok [])

/-- FREEZE (R62, R224, R319): the whole range is translated, with F, before any line is frozen; then every line's freeze goes to its
home, and their answers complete the command. -/
def execFreeze (d slot : Nat) (s : State) : Host.Outcome State Fault Refusal :=
  match s.running d slot 6 with
  | none => .next s
  | some (q, r) => match r.result with
    | .waits => .next s
    | .fails t => .next (s.failRun d slot t.cause t.addr)
    | .answered _ =>
      if r.phase == 1 then .next (s.finishRun d slot r)
      else match s.linesOf d q.asid [.freeze] (field r.blk 0x20 8) (field r.blk 0x28 8 / 64) with
        | .error t => .next (s.failRun d slot t.cause t.addr)
        | .ok ls => .next (ls.foldl (fun s l => s.curSend d slot (l.2.phys l.1) (fun o => .freeze o l.1 l.2.kind l.2.wd))
            ((s.noteSpan d q.asid (BitVec.ofNat 64 (field r.blk 0x20 8)) (field r.blk 0x28 8)).askRun d slot q r 1))

/-- Whether a launch of an address space is bound or started anywhere (R64). -/
def State.asidBusy (s : State) (asid : Nat) : Bool :=
  s.devs.any (fun p => p.2.launches.any (fun l => l.asid == asid && (l.code == 2 || l.code == 3))
    || p.2.cores.any (fun c => match c.2.bound with
      | some b => b.asid == asid
      | none => false))

/-- RECLAIM (R13, R64, R319): it waits until no launch of the address space is bound, while none may be bound, and then has every line
of the range returned to bottom at its home; their answers complete it. -/
def execReclaim (d slot : Nat) (s : State) : Host.Outcome State Fault Refusal :=
  match s.running d slot 7 with
  | none => .next s
  | some (q, r) =>
    let hold (x : Device) : Device :=
      if x.reclaims.contains (slot, q.asid) then x else { x with reclaims := x.reclaims ++ [(slot, q.asid)] }
    match r.result with
    | .waits => .next s
    | .fails t => .next (s.failRun d slot t.cause t.addr)
    | .answered _ =>
      if r.phase == 1 then
        .next ((s.modDev d (fun x => { x with reclaims := x.reclaims.filter (· != (slot, q.asid)) })).finishRun d slot r)
      else if s.asidBusy q.asid then .next ((s.waitRun d slot q r).modDev d hold)
      else match s.linesOf d q.asid [.join, .freeze] (field r.blk 0x20 8) (field r.blk 0x28 8 / 64) with
        | .error t => .next (s.failRun d slot t.cause t.addr)
        | .ok ls => .next (ls.foldl (fun s l => s.curSend d slot (l.2.phys l.1) (fun o => .bottom o l.2.kind))
            (((s.noteSpan d q.asid (BitVec.ofNat 64 (field r.blk 0x20 8)) (field r.blk 0x28 8)).askRun d slot q r 1).modDev d hold))

/-! ## COLL (R319, R320) -/

/-- The collective of a COLL command, and this device's contribution to it (R288, R320, R384). A Curator has no TOPX: every
contribution of a group carries 0 (log 101). -/
def groupColl (d asid : Nat) (key : CollKey) (blk : List Byte) (devs : List Nat) (desc : List Byte) (data : List Byte) :
    Coll × Contrib :=
  let cop : BitVec 8 := BitVec.ofNat 8 (field blk 0x28 1)
  let fmt : Tag := BitVec.ofNat 4 (field blk 0x29 1)
  let ver := field blk 0x48 4
  let rank := (devs.findIdx? (· == d)).getD 0
  ({ key := key, cop := cop, fmt := fmt, len := data.length, ver := BitVec.ofNat 32 ver, alg := field desc 8 1
     n := devs.length, root := devs.headD 0, rootL := 0, devs := devs, mine := [], stage := .collecting, places := devs, via := []
     rver := 0, got := [], sent := false, res := [], fb := false, landed := [], pend := [], failed := none },
   { rank := rank, lcore := rank, dev := d, data := data, topx := false, typed := isTyped fmt
     digest := [cop.toNat, fmt.toNat, data.length, ver] ++ desc.map (·.toNat)
     tile := BitVec.ofNat 64 (field blk 0x40 8), asid := asid, weights := 0x010101, piece := 0, pieces := 1
     ranks := [rank], stream := rank, part := 0, parts := 1, own := true })

/-- The contribution of a COLL command, once it fits into the staging pool (R276, R320). -/
def State.groupContribute (s : State) (d slot : Nat) (q : QSlot) (r : Running) (key : CollKey) (devs : List Nat)
    (desc data : List Byte) : State :=
  if (s.device d).stagePool < (s.device d).stageUsed + data.length then s.waitRun d slot q r
  else
    let (base, c) := groupColl d q.asid key r.blk devs desc data
    ((s.startRun d slot q r).setRun d slot { r.turn 2 with off := 1 }).contribute d base c

/-- The next line of a COLL command's source: its exact read at its home (R57, R58, R319). -/
def State.groupRead (s : State) (d slot : Nat) (q : QSlot) (r : Running) (va : Word) : State :=
  let tr := translateNow s d pd0 q.asid .xread va
  let s := s.noteWalk d pd0 q.asid va
  match tr with
  | .error t => s.failRun d slot t.cause t.addr
  | .ok t =>
    ((s.startRun d slot q r).setRun d slot { r with started := true, phase := 1 }).curSend d slot (t.phys va) (fun o =>
      .xread o va t.kind t.wd 0 64 (BitVec.ofNat 32 (field r.blk 0x48 4)))

/-- COLL (R319, R320, R384): the source is read line by line and contributed; the command completes when the collective has landed
everywhere, and faults with the collective. -/
def execCmdColl (d slot : Nat) (s : State) : Host.Outcome State Fault Refusal :=
  match s.running d slot 3 with
  | none => .next s
  | some (q, r) => match r.coll with
    | none => .next s
    | some key => match (s.device d).coll? key with
      | some c => match c.failed with
        | some (cause, a, _) => .next ((s.modDev d (fun x => x.dropColl key)).failRun d slot cause a)
        | none => .next s
      | none =>
        if r.off == 1 then .next (s.finishRun d slot r)
        else match r.result with
        | .waits => .next s
        | .fails t => .next (s.failRun d slot t.cause t.addr)
        | .answered data =>
          let b := r.blk
          let n := field b 0x38 8
          let src := field b 0x30 8
          let x := s.device d
          match s.group d q.asid (BitVec.ofNat 64 (field b 0x20 8)) with
          | none => .next (s.failRun d slot Cause.packetInvalid (BitVec.ofNat 64 (field b 0x20 8)))
          | some (devs, desc) =>
            if src % 64 != 0 then .next (s.failRun d slot Cause.misaligned (BitVec.ofNat 64 src))
            else if field b 0x40 8 % 64 != 0 then .next (s.failRun d slot Cause.misaligned (BitVec.ofNat 64 (field b 0x40 8)))
            else if field b 0x28 1 / 16 == 4 && n % (64 * devs.length) != 0 then
              .next (s.failRun d slot Cause.misaligned (BitVec.ofNat 64 src))
            else if x.stagePool < n then .next (s.failRun d slot Cause.collStaging (BitVec.ofNat 64 (field b 0x40 8)))
            else if x.collHeld key ((devs.findIdx? (· == d)).getD 0) then .next (s.waitRun d slot q r)
            else if data.length == n then .next (s.groupContribute d slot q r key devs desc data)
            else .next (s.groupRead d slot q r (BitVec.ofNat 64 (src + data.length)))

/-! ## WAIT, MARK, FLUSH (R319, R321, R374) -/

/-- Whether a Curator semaphore has reached a value (R102, R321). -/
def semReached (v t : Nat) : Bool := (v + 65536 - t % 65536) % 65536 < 32768

/-- WAIT (R321): on a semaphore, or for the answer of a threshold read at its home. -/
def execWait (d slot : Nat) (s : State) : Host.Outcome State Fault Refusal :=
  match s.running d slot 4 with
  | none => .next s
  | some (q, r) =>
    let v := field r.blk 0x20 8
    if bit v 0 then
      if semReached (acount (s.device d).csems (bits v 13 8)) (field r.blk 0x30 8) then
        .next ((s.startRun d slot q r).finishRun d slot r)
      else .next (s.waitRun d slot q r)
    else
      let k := Kind.ofCode (BitVec.ofNat 3 (bits v 3 1))
      let w := Width.ofCode (BitVec.ofNat 2 (bits v 5 4))
      let va : Word := BitVec.ofNat 64 (field r.blk 0x28 8)
      match r.result with
      | .waits => .next s
      | .fails t => .next (s.failRun d slot t.cause va)
      | .answered _ =>
        if r.phase == 1 then .next (s.finishRun d slot r)
        else if va.toNat % elemBytes k w != 0 then .next (s.failRun d slot Cause.misaligned va)
        else
          let tr := translateNow s d pd0 q.asid .tread va
          let s := s.noteWalk d pd0 q.asid va
          match tr with
          | .error t => .next (s.failRun d slot t.cause t.addr)
          | .ok t => match kindTrap t k w va with
            | some p => .next (s.failRun d slot p.cause va)
            | none => .next ((s.askRun d slot q r 1).curSend d slot (t.phys va) (fun o =>
                .tread o va k w (va.toNat % 64) [trigger k w.bits (BitVec.ofNat 64 (field r.blk 0x30 8))]))

/-- MARK (R319). -/
def execMark (d slot : Nat) (s : State) : Host.Outcome State Fault Refusal :=
  match s.running d slot 11 with
  | none => .next s
  | some (q, r) =>
    let v := field r.blk 0x20 8
    let s := s.startRun d slot q r
    let s := if bit v 6 then s.modDev d (fun x => { x with
        csems := aset x.csems (bits v 5 0) ((acount x.csems (bits v 5 0) + bits v 15 8) % 65536) })
      else s
    .next (s.finishRun d slot r)

/-- Whether a range of virtual addresses [lo, hi) passes through a page-table dword: the levels left with the shift of each
index, from a table that maps addresses from base. -/
def onPath (s : State) (lo hi target : Nat) : List Nat → Nat → Nat → Bool
  | [], _, _ => false
  | sh :: rest, table, base =>
    (List.range 512).any (fun i =>
      let a := base + i * 2 ^ sh
      decide (a < hi) && decide (lo < a + 2 ^ sh) && (table + 8 * i == target
        || (let e := leNat (s.readG (table + 8 * i) 8)
            bit e 0 && !bit e 1 && onPath s lo hi target rest (bits e 59 14 * 4096) a)))

/-- Whether a marker belongs to a range of an address space: its table entry, or a dword on a path of the range (R374). -/
def markerIn (s : State) (d asid lo hi g : Nat) : Bool :=
  let e := (s.device d).bar0.astbase + 16 * asid
  g == e || g == e + 8 || onPath s (lo % 2 ^ 57) (min hi (2 ^ 57)) g [48, 39, 30, 21, 12] (bits (leNat (s.readG e 8)) 57 12 * 4096) 0

/-- Whether a translation lies in a range of an address space. -/
def Tlb.inRange (t : Tlb) (asid lo hi : Nat) : Bool := t.asid == asid && t.va < hi && lo < t.va + 2 ^ t.bits

/-- FLUSH (R319, R374): once no walk of the range is under way, its translations and markers go from this device's cores, walkers
and port dies. -/
def execFlush (d slot : Nat) (s : State) : Host.Outcome State Fault Refusal :=
  match s.running d slot 12 with
  | none => .next s
  | some (q, r) =>
    let asid := if q.sys then field r.blk 0x30 2 else q.asid
    let len := field r.blk 0x28 8
    let lo := if len == 0 then 0 else field r.blk 0x20 8
    let hi := if len == 0 then 2 ^ 64 else lo + len
    if (s.device d).walks.any (fun w => w.asid == asid && lo ≤ w.va.toNat && w.va.toNat < hi) then
      .next (s.startRun d slot q r)
    else
      let keep := (s.device d).pcache.filter (fun p => !markerIn s d asid lo hi p.2)
      let s := (s.startRun d slot q r).modDev d (fun x => { x with
        pcache := keep, ptlb := x.ptlb.filter (fun p => !p.2.inRange asid lo hi)
        cores := x.cores.map (fun c => (c.1, { c.2 with tlb := c.2.tlb.filter (fun t => !t.inRange asid lo hi) })) })
      .next (s.finishRun d slot r)

/-! ## GRAPH, COND, LOOP (R322, R323, R388) -/

/-- Starting a LAUNCH node: its own accession number and entry, once there is room (R322). -/
def State.launchNode (s : State) (d slot : Nat) (q : QSlot) (g : GraphRun) (gr : Running) (desc : Nat) (blk : List Byte) :
    State :=
  let x := s.device d
  match if x.journalFree then x.reserveFor 1 (s.recordCores d q.asid (blk.drop 0x20)) else none with
  | none => s
  | some (x, at_) =>
    let acc := x.bar0.jhead
    let x := x.journalOpen desc (g.at_ % 65536 + gr.acc % 2 ^ 48 * 65536) 1
    let x := { x with launches := x.launches ++ [newLaunch x acc slot true q blk at_] }
    (s.modDev d (fun _ => x.modSlot slot (fun q =>
      { q with graph := some { g with node := some (Running.fresh acc 1 0 g.at_ blk) } }))).noteTree d q.asid (blk.drop 0x20)

/-- GRAPH (R322, R388): the thread starts the next node, ends the graph after the last, and faults it with its LAUNCH node. -/
def execGraph (d slot : Nat) (s : State) : Host.Outcome State Fault Refusal :=
  let x := s.device d
  let q := x.slot slot
  match q.graph, q.cmd, q.desc with
  | some g, some r, some desc =>
    if q.stop then .next s
    else match g.node with
      | some n =>
        if n.op != 1 then .next s
        else match x.launch? n.acc with
          | some l => match l.fault with
            | some f => if l.code == 15 then .next (s.failRun d slot f.cause f.taddr) else .next s
            | none => .next s
          | none => .next s
      | none => match g.nodes[g.at_]? with
        | none => .next (s.modDev d (fun x => x.modSlot slot (fun q =>
            { q with cmd := some { r with finished := true }, graph := none })))
        | some blk =>
          let op := field blk 0 1
          let s := s.modDev d (fun x => x.noteStart r)
          if op == 1 then .next (s.launchNode d slot q g r desc blk)
          else
            let node : Running := Running.fresh r.acc op 0 g.at_ blk
            let s := if op == 3 then s.noteGroup d q.asid (BitVec.ofNat 64 (field blk 0x20 8)) else s
            if op == 3 then match s.numberColl d q.asid blk with
              | none => .next (s.failRun d slot Cause.packetInvalid (BitVec.ofNat 64 (field blk 0x20 8)))
              | some (s, key) => .next (s.modDev d (fun x => x.modSlot slot (fun q =>
                  { q with graph := some { g with node := some { node with coll := some key } } })))
            else .next (s.modDev d (fun x => x.modSlot slot (fun q =>
              { q with graph := some { g with node := some node } })))
  | _, _, _ => .next s

/-- What reading a predicate tile comes to: a state to go on from, or the predicate. -/
inductive PredRes where
  | on (s : State)
  | is (p : Bool)

/-- The predicate tile at a version (R323): a threshold read for the version, then an exact read of it, each at its home. -/
def State.predicate (s : State) (d slot : Nat) (q : QSlot) (r : Running) (va : Word) (v : BitVec 32) : PredRes :=
  match r.result with
  | .waits => .on s
  | .fails t => .on (s.failRun d slot t.cause va)
  | .answered bs =>
    if r.phase == 2 then .is (field bs 0 8 != 0)
    else
      let tr := translateNow s d pd0 q.asid .tread va
      let s := s.noteWalk d pd0 q.asid va
      match tr with
      | .error t => .on (s.failRun d slot t.cause va)
      | .ok t => match permTrap t .xread va with
        | some p => .on (s.failRun d slot p.cause va)
        | none => match kindTrap t .ver .w8 va with
          | some p => .on (s.failRun d slot p.cause va)
          | none =>
            if r.phase == 1 then
              .on ((s.askRun d slot q r 2).curSend d slot (t.phys va) (fun o => .xread o va .ver .w8 0 64 v))
            else .on ((s.askRun d slot q r 1).curSend d slot (t.phys va) (fun o => .tread o va .ver .w8 0 [v.setWidth 64]))

/-- The version a COND or LOOP node reads (R323). -/
def nodeVersion (g : GraphRun) (i : Nat) (blk : List Byte) : BitVec 32 :=
  let vb := BitVec.ofNat 32 (field blk 0x28 4)
  if field blk 0 1 == 10 then vb + BitVec.ofNat 32 (acount g.counters i)
  else match innerLoop g.nodes i with
    | some l => vb + BitVec.ofNat 32 (acount g.counters l.2)
    | none => vb

/-- A node that has chosen the node after it, with the loop counters it leaves. -/
def State.branch (s : State) (d slot : Nat) (g : GraphRun) (r : Running) (next : Nat) (counters : AMap Nat) : State :=
  s.modDev d (fun x => x.modSlot slot (fun q => { q with
    graph := some { g with counters := counters, node := some { r with started := true, finished := true, off := next } }
    waiting := false }))

/-- COND (R323). -/
def execCond (d slot : Nat) (s : State) : Host.Outcome State Fault Refusal :=
  match s.running d slot 9 with
  | none => .next s
  | some (q, r) => match q.graph with
    | none => .next s
    | some g =>
      let va : Word := BitVec.ofNat 64 (field r.blk 0x20 8)
      match s.predicate d slot q r va (nodeVersion g r.idx r.blk) with
      | .on t => .next t
      | .is p => .next (s.branch d slot g (r.turn 0) (if p then r.idx + 1 else field r.blk 0x2C 2) g.counters)

/-- LOOP (R323). -/
def execCmdLoop (d slot : Nat) (s : State) : Host.Outcome State Fault Refusal :=
  match s.running d slot 10 with
  | none => .next s
  | some (q, r) => match q.graph with
    | none => .next s
    | some g =>
      let va : Word := BitVec.ofNat 64 (field r.blk 0x20 8)
      match s.predicate d slot q r va (nodeVersion g r.idx r.blk) with
      | .on t => .next t
      | .is false => .next (s.branch d slot g (r.turn 0) (r.idx + 1) (aset g.counters r.idx 0))
      | .is true =>
        let n := acount g.counters r.idx + 1
        if field r.blk 0x30 4 ≤ n then .next (s.failRun d slot Cause.loopLimit 0)
        else .next (s.branch d slot g (r.turn 0) (field r.blk 0x2C 2) (aset g.counters r.idx n))

end Sys2Proof.Machine
end

