-- ==== Sys2Proof/Machine/Launch.lean ====
section
/-! DEFINITION. Binding, dispatch, the root SYNC, completion and pre-emption of launches (R15, R24-R27, R44, R45, R279,
R324, R328-R333, R394). Which cores firmware grants, and when it asks, comes with the event (log 10). -/

namespace Sys2Proof.Machine
open Sys2Proof

/-! ## The tree over the granted cores (R14, R25, R27, R394) -/

/-- The unit of a level that holds a core: two cores lie in one unit exactly when this agrees. In a paired launch the unit of
code 2 is the pair. -/
def unitOf (peers : AMap (Nat × Nat × Nat)) (pair : Bool) (l : TreeLevel) (p : Nat × Nat) : List Nat :=
  let f := (aget peers p.1).getD (0, 0, 0)
  match l.code with
  | 9 => [f.2.2]
  | 8 => [f.2.2, f.2.1]
  | 7 => [f.2.2, f.2.1, f.1]
  | 6 => [p.1]
  | 5 => if l.re then [p.1, dieOf p.2, rowOf p.2 / 2 ^ l.rh, colOf p.2 / 2 ^ l.rw] else [p.1, dieOf p.2]
  | 4 => [p.1, islandOf p.2]
  | 3 => [p.1, quadOf p.2]
  | _ => [p.1, if pair then p.2 / 2 else p.2]

/-- The cores of the whole unit that holds a core. -/
def unitCores (peers : AMap (Nat × Nat × Nat)) (pair : Bool) (l : TreeLevel) (p : Nat × Nat) : Nat :=
  match l.code with
  | 9 | 8 | 7 => 4096 * (peers.filter (fun q => unitOf peers pair l (q.1, 0) == unitOf peers pair l p)).length
  | 6 => 4096
  | 5 => if l.re then 2 ^ (l.rh + l.rw) else 1024
  | 4 => 16
  | 3 => 4
  | _ => if pair then 2 else 1

/-- The whole units of a level inside a node, each as its cores, in ascending order of their lowest core; a partial unit does
not count (R25, R27). -/
def wholeUnits (peers : AMap (Nat × Nat × Nat)) (pair : Bool) (l : TreeLevel) (node : List (Nat × Nat)) :
    List (List (Nat × Nat)) :=
  let keys := (node.map (unitOf peers pair l)).eraseDups
  (keys.map (fun k => node.filter (fun p => unitOf peers pair l p == k))).filter (fun u =>
    match u with
    | p :: _ => u.length == unitCores peers pair l p
    | [] => false)

/-- The nodes of one level below those of the level above, each with its path of child indices; none when some node does not
have the level's arity of units (R25). -/
def treeStep (peers : AMap (Nat × Nat × Nat)) (pair : Bool) (l : TreeLevel) (nodes : List (List Nat × List (Nat × Nat))) :
    Option (List (List Nat × List (Nat × Nat))) :=
  let kids := nodes.map (fun n => (n.1, wholeUnits peers pair l n.2))
  if kids.all (fun k => k.2.length == l.arity) then
    some (kids.flatMap (fun k => k.2.zipIdx.map (fun u => (k.1 ++ [u.2], u.1))))
  else none

/-- The lowest core first: by device, then PCORE. -/
def placeLe (p q : Nat × Nat) : Bool := p.1 < q.1 || (p.1 == q.1 && p.2 ≤ q.2)

/-- The arities below the core level (R25): 1 + H contexts for a core, 8 lanes for a context. -/
def belowOk (helpers : Nat) : List TreeLevel → Bool
  | [] => true
  | l :: t => (if l.code == 1 then l.arity == 1 + helpers && t.all (fun v => v.arity == 8)
    else l.arity == 8 * (1 + helpers))

/-- Splitting a node into whole units level by level, down to single cores or pairs, with nothing left out (R25). -/
def splitUnits (peers : AMap (Nat × Nat × Nat)) (pair : Bool) (ls : List TreeLevel) (node : List (Nat × Nat)) :
    Option (List (List Nat × List (Nat × Nat))) :=
  match ls.foldl (fun ns l => ns.bind (treeStep peers pair l)) (some [([0], node)]) with
  | none => none
  | some ns =>
    if (ns.map (fun n => n.2.length)).foldl (· + ·) 0 == node.length && ns.all (fun n => n.2.length == if pair then 2 else 1) then
      some ns
    else none

/-- Binding a tree to the granted cores (R25, R27): the bound cores by LCORE, each with its child indices, a pair by its
leader; none when a condition fails. -/
def bindTree (peers : AMap (Nat × Nat × Nat)) (pair : Bool) (helpers : Nat) (t : List TreeLevel) (grants : List (Nat × Nat)) :
    Option (List (List Nat × (Nat × Nat))) :=
  let gs := grants.mergeSort placeLe
  match t, gs with
  | l0 :: rest, p0 :: _ =>
    let cl := coreLevel t
    if !treeForm t || !gs.all (fun p => unitOf peers pair l0 p == unitOf peers pair l0 p0) || !belowOk helpers (t.drop (cl + 1)) then
      none
    else (splitUnits peers pair (rest.take cl) gs).map (fun ns => ns.filterMap (fun n => n.2.head?.map (fun p => (n.1, p))))
  | _, _ => none

/-- Whether some subset of the given cores satisfies a tree (R25, R332): one unit of the root's level holds as many units of the next
level as the root has children, each whole and splitting as the levels below ask, one of them on the device that the launch
is placed on, if any. -/
def satisfiable (peers : AMap (Nat × Nat × Nat)) (pair : Bool) (helpers : Nat) (t : List TreeLevel) (on : Option Nat)
    (places : List (Nat × Nat)) : Bool :=
  match t with
  | [] => false
  | l0 :: rest =>
    let cl := coreLevel t
    let here (u : List (Nat × Nat)) : Bool := match on with
      | some d => u.any (fun p => p.1 == d)
      | none => true
    treeForm t && belowOk helpers (t.drop (cl + 1))
      && (places.map (unitOf peers pair l0)).any (fun k =>
        let inside := places.filter (fun p => unitOf peers pair l0 p == k)
        match rest.take cl with
        | [] => (wholeUnits peers pair l0 inside).any here
        | l1 :: ls =>
          let good := (wholeUnits peers pair l1 inside).filter (fun u => (splitUnits peers pair ls u).isSome)
          l1.arity ≤ good.length && good.any here)

/-! ## The checks of dispatch (R26, R34, R92, R177, R178, R328, R330) -/

/-- What dispatch finds for a launch that passes checks 1 to 3 and 5 to 7 (R330). -/
structure Dispatch where
  hdr : KHeader
  tree : List TreeLevel
  plan : PlanTable
  start : Word
  deriving DecidableEq, Repr

/-- The fault of a structure that cannot be read (R330). -/
def unreadable {α : Type} (cause : Nat) : Except Trap α → Except Trap α
  | .error t => .error ⟨cause, t.addr, BitVec.ofNat 64 t.cause⟩
  | r => r

/-- A fault without address and detail. -/
def refuse {α : Type} (cause : Nat) : Except Trap α := .error ⟨cause, 0, 0⟩

/-- Check 1: the image descriptor and its lattice table (R174, R177, R178). -/
def State.checkImage (s : State) (d asid : Nat) (va : Word) : Except Trap Image :=
  match unreadable Cause.headerInvalid (s.readImage d asid va 0 16) with
  | .error t => .error t
  | .ok b =>
    let im := Image.ofBytes b
    if !im.fieldsOk then refuse Cause.headerInvalid
    else match unreadable Cause.headerInvalid (s.readImage d asid va im.lattice (4 * im.lattices)) with
      | .error t => .error t
      | .ok lt =>
        match unreadable Cause.headerInvalid (s.imageTree d asid va im) with
        | .error t => .error t
        | .ok tr =>
          let planLen := match readPlan (fun o n => s.readImage d asid va (im.plan + o) n) with
            | .ok (some p) => if im.plan == 0 then 0 else p.2
            | _ => 0
          if apart (im.sections tr.length planLen)
              && (List.range im.lattices).all (fun i => latticeOk im ((lt.drop (32 * i)).take 32)) then .ok im
          else refuse Cause.headerInvalid

/-- Checks 2 and 3: the tree against the image's record, and the kernel header (R26, R328). -/
def State.checkTree (s : State) (d asid : Nat) (va : Word) (im : Image) (r : List Byte) : Except Trap (List Nat × List Byte) :=
  match unreadable Cause.headerInvalid (s.imageTree d asid va im) with
  | .error t => .error t
  | .ok recd =>
    match unreadable Cause.treeUnbindable (s.readTree d asid (BitVec.ofNat 64 (field r 0x10 8)) (field r 0x18 4)) with
    | .error t => .error t
    | .ok tree =>
      if !treeMatches recd tree then refuse Cause.treeMismatch
      else match unreadable Cause.headerInvalid (s.readImage d asid va im.header 8) with
        | .error t => .error t
        | .ok hb => if headerOk hb then .ok (tree, hb) else refuse Cause.headerInvalid

/-- The plan table of a launch: the record's, else the image's, else the implied one (R33); none when R34 refuses its
fields. -/
def State.planOf (s : State) (d asid : Nat) (va : Word) (im : Image) (r : List Byte) : Except Trap (Option PlanTable) :=
  let at_ := field r 0x20 8
  if at_ != 0 then
    (unreadable Cause.planInvalid (readPlan (fun o n => s.readSys d asid true (BitVec.ofNat 64 (at_ + o)) n))).map
      (fun o => o.map (·.1))
  else if im.plan != 0 then
    (unreadable Cause.headerInvalid (readPlan (fun o n => s.readImage d asid va (im.plan + o) n))).map (fun o => o.map (·.1))
  else .ok (some impliedPlan)

/-- The device that a launch record places its launch on, if it names one (R324). -/
def placedOn (r : List Byte) : Option Nat :=
  let pl := field r 0x40 8
  if bit pl 14 then some (pl % 2 ^ 14) else none

/-- The devices that a launch of a device may span. -/
def State.spans (s : State) (d : Nat) : List Nat := (d :: (s.device d).peers.map (·.1)).eraseDups

/-- Whether some set of the working cores could ever satisfy a launch's tree, those in CORESTAT counting as missing (R332). -/
def State.bindable (s : State) (d : Nat) (r : List Byte) (helpers : Nat) (t : List TreeLevel) : Bool :=
  satisfiable (s.device d).peers (bit (field r 4 4) 1) helpers t (placedOn r) ((s.spans d).flatMap (fun e =>
    let x := s.device e
    if x.lost then [] else ((List.range 4096).filter (fun c => !x.bar0.corestat.contains c)).map (fun c => (e, c))))

/-- Every check of R330, in its order, with the binding that check 4 finds: granted cores that do not satisfy the tree fault the launch
(R25, R394). Nothing, where firmware grants no core yet and some cores could satisfy it: such a launch waits unbound (R332; log 82). -/
def State.dispatch (s : State) (d : Nat) (l : Launch) (grants : List (Nat × Nat)) :
    Except Trap (Option (Dispatch × List (List Nat × (Nat × Nat)))) :=
  let r := l.record
  let va : Word := BitVec.ofNat 64 (field r 8 8)
  match s.checkImage d l.asid va with
  | .error t => .error t
  | .ok im =>
    match s.checkTree d l.asid va im r with
    | .error t => .error t
    | .ok (words, hb) =>
      let hdr := headerOf hb
      let levels := words.map levelOf
      let tree := levels.filterMap id
      match if levels.all Option.isSome then
          bindTree (s.device d).peers (bit (field r 4 4) 1) hdr.helpers tree grants else none with
      | none =>
        if grants.isEmpty && levels.all Option.isSome && s.bindable d r hdr.helpers tree then .ok none else refuse Cause.treeUnbindable
      | some cs =>
        match s.planOf d l.asid va im r with
        | .error t => .error t
        | .ok none => refuse Cause.planInvalid
        | .ok (some plan) =>
          if !planFits tree hdr.lstore plan then refuse Cause.planInvalid
          else if bit (field r 4 4) 0 && !detPartitions hdr plan then refuse Cause.headerInvalid
          else if cs.length ≤ field r 0x1C 4 then refuse Cause.launchInvalid
          else .ok (some (⟨hdr, tree, plan, va + BitVec.ofNat 64 (im.code + im.entry)⟩, cs))

/-! ## Loading the cores (R15 step 5, R324) -/

/-- A control context as dispatch starts it (R324). -/
def startContext (h : KHeader) (args : List Byte) (start : Word) (no : Nat) : Context :=
  let s0 : Vector Word 64 := Vector.ofFn (fun (i : Fin 64) =>
    if 1 ≤ i.val && i.val ≤ 16 && i.val < h.sregs then BitVec.ofNat 64 (field args (8 * (i.val - 1)) 8) else 0)
  ({ Context.reset .ready with
      pc := start, reqNo := no, regs := { Regs.zero with s := s0, topx := if h.topx then 1 else 0 } }).openImplicit h start

/-- A core as dispatch loads it (R15 step 5): everything at its value at the start of a launch (R88, R98, R103). -/
def loadCore (b : Binding) (args : List Byte) (no : Nat) (old : Core) : Core :=
  let ctxs := Core.reset.ctxs.map (fun (x : Context) => { x with reqNo := no })
  let c : Core := { Core.reset with
    bound := some b, nextId := no, rentry := b.start, eccArm := old.eccArm, ctxs := ctxs }
  (c.setCtx 0 (startContext b.hdr args b.start no)).checkpoint 0

/-- The binding of a logical core of a launch, of the leader or of the checker of a pair. -/
def bindingFor (d : Nat) (l : Launch) (x : Dispatch) (cs : List (List Nat × (Nat × Nat))) (lcore : Nat) (checker : Bool) :
    Binding :=
  let r := l.record
  let c := (cs[lcore]?).getD ([], (0, 0))
  let pair := bit (field r 4 4) 1
  { launch := ⟨d, l.acc⟩, lcore := lcore, hdr := x.hdr, tree := x.tree, child := c.1, plan := x.plan
    cores := cs.map (·.2), det := bit (field r 4 4) 0, pair := pair
    peer := if pair then some (if checker then c.2.2 else c.2.2 + 1) else none, checker := checker, seed := l.seed
    asid := l.asid, super := field r 0x1C 4, cmode := bits (field r 4 4) 5 4, desc := BitVec.ofNat 64 (field r 0x28 8)
    start := x.start }

/-- A new number for requests, commands and windows, above every number given before. -/
def State.freshNo (s : State) : Nat := 4096 * s.stepNo

/-- Writing a core's bind entry (R329): 1 reserved, 2 bound. -/
def State.bindEntry (s : State) (l : LaunchId) (st : Nat) (p : Nat × Nat) : State :=
  s.modDev p.1 (fun x => { x with bind := aset x.bind p.2 ⟨l.acc, st, l.owner⟩ })

/-- Loading every core of a launch, the checkers of pairs too. -/
def State.loadCores (s : State) (d : Nat) (l : Launch) (x : Dispatch) (cs : List (List Nat × (Nat × Nat))) : State :=
  let args := (l.record.drop 0x50).take 128
  cs.zipIdx.foldl (fun s c =>
    let p := c.1.2
    let lead := bindingFor d l x cs c.2 false
    let s := s.setCore p.1 p.2 (loadCore lead args s.freshNo (s.core p.1 p.2))
    match lead.peer with
    | some q => s.setCore p.1 q (loadCore (bindingFor d l x cs c.2 true) args s.freshNo (s.core p.1 q))
    | none => s) s

/-! ## Granting and binding (R329-R332) -/

/-- Whether firmware may grant a core that its bind entry gives as free: it exists, works, and is not being tested. -/
def Device.coreFree (x : Device) (c : Nat) : Bool :=
  c < 4096 && x.up && !x.bar0.corestat.contains c && !(x.core c).killed && (x.core c).bound.isNone

/-- Whether a core is a launch's to bind: free on the owner's device, reserved for it on another (R329). -/
def State.grantOk (s : State) (l : LaunchId) (p : Nat × Nat) : Bool :=
  let x := s.device p.1
  x.coreFree p.2 && (match aget x.bind p.2 with
    | none => p.1 == l.owner
    | some e => e.st == 0 && p.1 == l.owner || e == ⟨l.acc, 1, l.owner⟩)

/-- REMOTE_CORE_RESERVE (R329): a member device's Curator reserves free cores for a launch that another device owns. -/
def execRemoteCoreReserve (d : Nat) (l : LaunchId) (cores : List Nat) (s : State) : Host.Outcome State Fault Refusal :=
  let x := s.device d
  let free (c : Nat) : Bool := x.coreFree c && (match aget x.bind c with
    | none => true
    | some e => e.st == 0)
  if d != l.owner && s.alive l && cores.all free && cores.eraseDups.length == cores.length then
    .next ((cores.foldl (fun s c => s.bindEntry l 1 (d, c)) s).modDev d (fun x =>
      { x with remote := x.remote ++ [(l, cores)] }))
  else .next s

/-- Whether a launch waits for cores: its record has passed, or it is pre-empted (R331, R332). -/
def Device.waits (x : Device) (l : Launch) : Bool :=
  l.fault.isNone && (l.code == 4 || (l.code == 1 && (match x.launchRun l.acc with
    | some (_, r) => r.started
    | none => false)))

/-- Whether a launch of a higher priority waits (R332). -/
def Device.outranked (x : Device) (l : Launch) : Bool := x.launches.any (fun m => l.prio < m.prio && x.waits m)

/-- Whether a RECLAIM of an address space holds back binding anywhere (R64). -/
def State.reclaimed (s : State) (asid : Nat) : Bool := s.devs.any (fun p => p.2.reclaims.any (fun r => r.2 == asid))

/-- Whether the cores granted are the launch's to bind, each once, on the device that its record places it on (R324). -/
def State.grantsOk (s : State) (d : Nat) (l : Launch) (grants : List (Nat × Nat)) : Bool :=
  grants.all (s.grantOk ⟨d, l.acc⟩) && grants.eraseDups.length == grants.length
    && (match placedOn l.record with
      | some e => grants.any (fun p => p.1 == e)
      | none => true)

/-! ## Which launch is next (R331, R332) -/

/-- The helper count and the tree of a waiting launch: those of its earlier binding, else those that its image and its record
give. -/
def State.treeOf (s : State) (d : Nat) (l : Launch) : Option (Nat × List TreeLevel) :=
  match l.hdr with
  | some h => some (h.helpers, l.tree)
  | none =>
    let va : Word := BitVec.ofNat 64 (field l.record 8 8)
    match s.checkImage d l.asid va with
    | .error _ => none
    | .ok im => match s.checkTree d l.asid va im l.record with
      | .error _ => none
      | .ok (words, hb) =>
        let levels := words.map levelOf
        if levels.all Option.isSome then some ((headerOf hb).helpers, levels.filterMap id) else none

/-- Whether a core could be granted to a launch now: free, or reserved for it (R329). -/
def State.mayGrant (s : State) (l : LaunchId) (p : Nat × Nat) : Bool :=
  let x := s.device p.1
  !x.lost && x.coreFree p.2 && (match aget x.bind p.2 with
    | none => true
    | some e => e.st == 0 || e == ⟨l.acc, 1, l.owner⟩)

/-- Whether a launch cannot be bound for lack of cores (R332): no set of those that are free satisfies its tree, though one of the working
cores would. -/
def State.lacksCores (s : State) (d : Nat) (l : Launch) : Bool :=
  match s.treeOf d l with
  | none => false
  | some (h, t) =>
    s.bindable d l.record h t
      && !satisfiable (s.device d).peers (bit (field l.record 4 4) 1) h t (placedOn l.record)
        ((s.spans d).flatMap (fun e => ((List.range 4096).map (fun c => (e, c))).filter (s.mayGrant ⟨d, l.acc⟩)))

/-- How far a queue's slot stands behind the one that was served last at its priority (R331). -/
def Device.turnOf (x : Device) (l : Launch) : Nat := (l.slot + 63 - (aget x.lastBind l.prio).getD 31) % 32

/-- Whether a pending launch is the next of its priority, round robin over the queues, one launch per queue per turn (R331). A launch
that lacks cores waits without holding up the others (log 82). -/
def State.itsTurn (s : State) (d : Nat) (l : Launch) : Bool :=
  let x := s.device d
  x.launches.all (fun m => m.acc == l.acc || m.prio != l.prio || m.code != 1 || !x.waits m || x.turnOf l ≤ x.turnOf m
    || s.lacksCores d m)

/-- The devices of some cores, each once. -/
def devsOfCores (cs : List (Nat × Nat)) : List Nat := (cs.map (·.1)).eraseDups

/-- The bound state of a launch that has passed every check: entries bound, cores loaded, barrier counts 0, status 2 (R15, R32,
R330). -/
def State.bindNow (s : State) (d : Nat) (l : Launch) (x : Dispatch) (cs : List (List Nat × (Nat × Nat)))
    (grants : List (Nat × Nat)) : State :=
  let id : LaunchId := ⟨d, l.acc⟩
  let s := grants.foldl (fun s p => s.bindEntry id 2 p) s
  let s := s.mapDevs (fun _ y => { y with
    remote := y.remote.filter (fun r => r.1 != id), barCnt := y.barCnt.filter (fun b => b.1.1 != id)
    bind := y.bind.filter (fun b => b.2 != ⟨l.acc, 1, d⟩) })
  let s := s.loadCores d l x cs
  s.modDev d (fun y => { (y.modLaunch l.acc (fun l => { l with
    hdr := some x.hdr, tree := x.tree, plan := some x.plan, cores := cs.map (·.2)
    ndev := devsOfCores (cs.map (·.2)) })).setStatus l.acc 2 with
    lastBind := aset y.lastBind l.prio l.slot })

/-- LAUNCH_BIND (R15 steps 4 and 5, R25, R329-R332): firmware marks the last grant of the launch whose turn it is, and dispatch checks
and binds. -/
def execLaunchBind (d acc : Nat) (grants : List (Nat × Nat)) (s : State) : Host.Outcome State Fault Refusal :=
  match (s.device d).launch? acc with
  | none => .next s
  | some l =>
    if l.code != 1 || !(s.device d).waits l || s.reclaimed l.asid || !s.grantsOk d l grants || !s.itsTurn d l then .next s
    else match s.dispatch d l grants with
      | .error t =>
        let s := if t.aux == BitVec.ofNat 64 Cause.memUncorr then s.noteWalk d pd0 l.asid t.addr else s
        .next (s.ownFault d acc 2 t.cause t.addr t.aux)
      | .ok none => .next s
      | .ok (some (x, cs)) => .next (s.bindNow d l x cs grants)

/-! ## The root SYNC and completion (R15 steps 6 and 7, R330) -/

/-- Changing the cores of a launch everywhere. -/
def State.mapCores (s : State) (l : LaunchId) (f : Core → Core) : State :=
  s.mapDevs (fun _ x => { x with cores := x.cores.map (fun p => match p.2.bound with
    | some b => if b.launch = l then (p.1, f p.2) else p
    | none => p) })

/-- ROOT_SYNC_RELEASE (R15 step 6, R35): the Curator releases the implicit root SYNC, and no phase advances. -/
def execRootSyncRelease (d acc : Nat) (s : State) : Host.Outcome State Fault Refusal :=
  match (s.device d).launch? acc with
  | none => .next s
  | some l =>
    if l.code != 2 || l.fault.isSome then .next s
    else
      let s := s.mapCores ⟨d, acc⟩ (fun c => { c with rooted := true })
      .next (s.modDev d (fun x => (x.modLaunch acc (fun l => { l with rooted := true })).setStatus acc 3))

/-- The contributions to a collective that engines have copied. -/
def State.contributed (s : State) (k : CollKey) : Nat :=
  (s.devs.map (fun p => ((p.2.coll? k).map (fun c => c.mine.length)).getD 0)).foldl (· + ·) 0

/-- Whether a collective lacks a contribution (R384). One that rank 0's device has seen land everywhere, or has forgotten after
starting its members, lacks none: its other devices still forget it. -/
def State.lacks (s : State) (c : Coll) : Bool :=
  match (s.device c.root).coll? c.key with
  | some r => r.landed.length < r.n && s.contributed c.key < c.n
  | none => c.stage != .sending

/-- LAUNCH_COMPLETE (R330, R333, R384): every control context has retired END, and every collective has landed; one that lacks
a contribution now faults the launch. -/
def execLaunchComplete (d acc : Nat) (s : State) : Host.Outcome State Fault Refusal :=
  let id : LaunchId := ⟨d, acc⟩
  match (s.device d).launch? acc with
  | none => .next s
  | some l =>
    if l.fault.isSome then .next (s.finishFault d acc)
    else if l.code != 3 || !s.allEnded l then .next s
    else match s.collsOf id with
      | c :: t =>
        match (c :: t).find? s.lacks with
        | some c => .next (s.collEnd c Cause.collIncomplete none 0)
        | none => .next s
      | [] =>
        let s := s.mapDevs (fun _ x => x.freeLaunch id)
        let s := s.modDev d (fun x => ((x.journal acc 7 x.clk).setStatus acc 14).freeArea acc)
        match (s.device d).launchRun acc with
        | some (t, r) => .next (s.setRun d t { r with finished := true })
        | none => .next s

/-! ## Pre-emption (R44, R45, R279, R332) -/

/-- A context that a pre-emption stops in a D = 1 region (R44, R45, R83, R236): it goes back to the region's entry, whatever it was
doing; a commit that has released nothing yet is abandoned. The control context's core takes back the arrivals that
stood when the region opened, those released since among them, so that a WAITB of the region runs again. -/
def Context.halt (x : Context) : Context :=
  { x with
    st := .ready, wait := none, pc := x.region.entry, regs := { x.regs with rngctr := x.ckpt.regs.rngctr }
    trap := x.ckpt.trap, egress := [], hold := [], committing := false, committed := x.ckpt.committed, sig := none, fp := 0, watchdog := 0
    walkErr := none, delivered := none, pre := .stopped }

/-- Whether a context waits in a SYNC or VOTE whose generation has been released: the release counts first, and the instruction
retires into a region that has run nothing (R207). -/
def Core.released (c : Core) (n : Nat) : Bool :=
  let x := c.ctx n
  n == 0 && x.committed && !x.trap.act && (match x.wait with
    | some w => (match w.instr with
      | .sync k => ((oldest c k.toNat).map (·.released)).getD false
      | .vote _ _ _ k | .voteP _ _ _ k => ((newest c k.toNat).map (·.released)).getD false
      | _ => false)
    | none => false)

/-- Whether a context waits in a WAITB whose generation has been released, with nothing withheld by its region: the instruction retires,
and the implicit region behind it has run nothing (R207). A region that withholds effects is stopped, or runs on, as any other
(log 78). -/
def Core.waitbReleased (c : Core) (n : Nat) : Bool :=
  let x := c.ctx n
  n == 0 && !x.trap.act && x.egress.isEmpty && x.hold.isEmpty && c.bound.all (fun b => !b.pair)
    && (c.mx ++ c.cx).all (fun k => k.ctx != n || !k.uncommitted) && (c.acc0.swap ++ c.acc1.swap).all (fun p => p.1 != n)
    && (match x.wait with
      | some w => (match w.instr with
        | .waitb k => ((oldest c k.toNat).map (·.released)).getD false
        | _ => false)
      | none => false)

/-- What a pre-emption request does to one context of a core (R44, R47, R207). A commit that has released a first .cnt join goes on
to its end, so that each join is applied once (R51; log 78). -/
def Core.preempt (c : Core) (n : Nat) : Core :=
  let x := c.ctx n
  if !x.st.live || x.pre == .stopped then c
  else if (x.pre == .run || x.pre == .leave) && c.waitbReleased n then c.modCtx n (fun x => { x with pre := .leave })
  else if x.region.d && !c.released n && !(x.committing && x.begun) then
    let c := ((c.dropSwap n).dropCounts n).dropRegionCmds n
    ({ c with arrivals := if n == 0 then x.ckpt.arrivals else c.arrivals }).modCtx n Context.halt
  else c.modCtx n (fun x => { x with pre := .drain })

/-- Asking every context of a launch's cores to stop, and withdrawing the requests of those that have. A core whose clock is stopped is
asked once it runs again (R335). -/
def State.askStop (s : State) (l : LaunchId) : State :=
  let s := s.mapDevs (fun _ x => { x with cores := x.cores.map (fun p =>
    if p.2.bound.any (fun b => decide (b.launch = l)) && !p.2.killed && x.clocked (islandOf p.1) then
      (p.1, (List.range 11).foldl Core.preempt p.2)
    else p) })
  let places := s.devs.flatMap (fun p => (p.2.boundCores l).map (fun c => (p.1, c)))
  places.foldl (fun s p => (List.range 11).foldl (fun s n =>
    if ((s.core p.1 p.2).ctx n).pre == .stopped then s.withdraw ⟨p.1, p.2, n⟩ else s) (s.settleKill p.1 p.2)) s

/-- Whether a core can be saved: every live context has stopped, and every started command but a FETCH has completed, or
halted and been acknowledged for what it sent (R71). A killed core is saved as its checkpoint (R412). -/
def Core.saveable (c : Core) : Bool :=
  c.killed || (c.ctxs.toList.all (fun x => !x.st.live || x.pre == .stopped)
    && (c.mx ++ c.cx).all (fun k => !k.started || (k.halted.isSome && k.await.isEmpty) || k.isFetch))

/-- Where a halted command goes on after a save: at its recorded offset, or at the lowest line of a FETCH below it whose read is still
open or has failed (R279, R281). -/
def Cmd.savedOff (k : Cmd) : Nat := (k.await ++ (k.failAt.map (·.1)).toList).foldl min k.off

/-- A command as the save records it (R279, R370): unstarted, so that it passes the steps of R101 again; a halted one at its recorded
offset, any other from its first line. -/
def Cmd.saved (k : Cmd) : Cmd :=
  { k with started := false, step := .wait, off := if k.halted.isSome then k.savedOff else 0, await := [], failAt := none
           walkErr := none, halted := none, low := none, recorded := false, stamped := false }

/-- A context as the save records it (R45, R46, R370): registers that are not live-in read as zero, with tag 0; a fault of a halted
command stays in its record, and is no longer that of a halt. -/
def Context.saved (x : Context) : Context :=
  if !x.st.live then x
  else
    let r := x.region
    { x with
      st := .ready, wait := none, pc := r.entry, watchdog := 0, pre := .run, sig := none
      deferred := x.deferred.map (fun d => { d with cmd := none })
      regs := { x.regs with
        s := Vector.ofFn (fun i => if r.slive.getLsbD i.val then x.regs.s[i.val] else 0)
        v := Vector.ofFn (fun i => if r.vlive.getLsbD i.val then x.regs.v[i.val] else VR.zero) }
      region := { r with cycles := 0, retired := 0, rerun := false, ldfClr := false } }

/-- Whether the save takes the core's matrix state (R45). -/
def Core.keepsMatrix (c : Core) : Bool := c.ctxs.toList.any (fun x => x.st.live && x.region.m)

/-- A core as the save records it (R45, R84, R279). ARBW is not among what is saved. -/
def Core.saved (c : Core) : Core :=
  if c.killed then c
  else
    let keep := c.keepsMatrix
    let c := { c with
      ctxs := c.ctxs.map Context.saved, mx := c.mx.map Cmd.saved, cx := c.cx.map Cmd.saved
      port := c.port.map (fun k => if k.done then k else k.saved)
      stash := c.stash.map (fun w => w.map (fun w => if w.acc then w else { w with busy := [] }))
      tlb := [], arbw := 0x010101, rooted := false, eccArm := none, eccS := [], eccV := [] }
    if keep then c else { c with slots := Vector.replicate 16 Slot.free, acc0 := Acc.zero, acc1 := Acc.zero }

/-- Whether the save of a core's live-in registers meets an injected error (R405). -/
def Core.eccSave (c : Core) : Bool := !c.killed && (List.range 11).any (fun n => (c.ctx n).st.live && c.eccLive n)

/-- What stays of a core that a launch leaves: its test, if it is killed, and an armed injection. -/
def Core.unbind (c : Core) : Core :=
  { Core.reset with killed := c.killed, sealed := c.killed, testAge := c.testAge, eccArm := c.eccArm }

/-- Whether a body is a barrier count of a launch (R32). -/
def Body.countOf (l : LaunchId) : Body → Bool
  | .count m _ _ => m == l
  | _ => false

/-- Taking the cores of a launch off their places once they are saved; barrier counts on their way are forgotten, since
the counts are set anew at resumption (R32). -/
def State.unbindAll (s : State) (l : LaunchId) : State :=
  let places := s.devs.flatMap (fun p => (p.2.boundCores l).map (fun c => (p.1, c)))
  let s := places.foldl (fun s p =>
    s.mapDevs (fun here x => x.dropCore here p.1 p.2)) s
  let s := s.mapDevs (fun _ x => { x with
    cores := x.cores.map (fun p => match p.2.bound with
      | some b => if b.launch = l then (p.1, p.2.unbind) else p
      | none => p)
    bind := x.bind.filter (fun p => !(p.2.acc == l.acc && p.2.owner == l.owner))
    remote := x.remote.filter (fun r => r.1 != l), barCnt := x.barCnt.filter (fun b => b.1.1 != l)
    store := x.store.map (fun p => if p.body.countOf l then { p with body := .void, launch := none } else p) })
  { s with net := s.net.filter (fun m => !m.body.countOf l) }

/-- The saved cores of a launch: leaders under 2 × LCORE, checkers under 2 × LCORE + 1. -/
def State.savedCores (s : State) (l : LaunchId) : List (Nat × Core) :=
  s.devs.flatMap (fun p => p.2.cores.filterMap (fun q => match q.2.bound with
    | some b => if b.launch = l then some (2 * b.lcore + b2n b.checker, q.2.saved) else none
    | none => none))

/-- Completing a save (R45, R333): the cores are free, and the status is pre-empted. -/
def State.saveAll (s : State) (d acc : Nat) : State :=
  let id : LaunchId := ⟨d, acc⟩
  let sv := s.savedCores id
  (s.unbindAll id).modDev d (fun x => (x.modLaunch acc (fun l =>
    { l with saved := sv, saving := false })).setStatus acc 4)

/-- The cores of a launch. -/
def State.coresOf (s : State) (l : LaunchId) : List (Nat × Nat × Core) :=
  s.devs.flatMap (fun p => p.2.cores.filterMap (fun q => match q.2.bound with
    | some b => if b.launch = l then some (p.1, q.1, q.2) else none
    | none => none))

/-- Whether firmware asks for a launch's pre-emption (R332): a higher launch waits for lack of cores, no launch below this one runs, and no
other is still being stopped. -/
def State.mayPreempt (s : State) (d : Nat) (l : Launch) : Bool :=
  let x := s.device d
  x.launches.any (fun m => l.prio < m.prio && x.waits m && s.lacksCores d m) && x.launches.all (fun m =>
    !(m.fault.isNone && (m.code == 2 || m.code == 3) && (m.saving || m.prio < l.prio)))

/-- PREEMPT (R44, R45, R332, R335): the request reaches every context, and the launch is saved once all have stopped and their cores have
their clocks. It comes again until then. -/
def execPreempt (d acc : Nat) (s : State) : Host.Outcome State Fault Refusal :=
  let id : LaunchId := ⟨d, acc⟩
  match (s.device d).launch? acc with
  | none => .next s
  | some l =>
    if l.fault.isSome || (l.code != 2 && l.code != 3) || s.allEnded l || !(l.saving || s.mayPreempt d l) then .next s
    else
      let s := (s.modDev d (fun x => x.modLaunch acc (fun l => { l with saving := true }))).askStop id
      let cs := s.coresOf id
      if !cs.all (fun c => c.2.2.saveable && (c.2.2.killed || (s.device c.1).clocked (islandOf c.2.1))) then .next s
      else match cs.find? (fun c => c.2.2.eccSave) with
        | some c => .next (s.eccKill c.1 c.2.1)
        | none => .next (s.saveAll d acc)

end Sys2Proof.Machine
end

