-- ==== Sys2Proof/Machine/Platform.lean ====
section
/-! DEFINITION. Reset and bring-up, firmware, frequency, power, temperature and supply (R335-R343, R392). What sensors,
fuses, training and tests find comes with the event (log 10). -/

namespace Sys2Proof.Machine
open Sys2Proof

/-! ## Bring-up (R307, R336, R339, R340) -/

/-- What a reset leaves before step 1: the flash keeps its images and the preferred slot (R340), and a warm reset keeps the ECC counts
(R404). -/
def Device.cleared (x : Device) (warm : Bool) : Device :=
  { Device.reset with flashA := x.flashA, flashB := x.flashB, bar0 := { Bar0.reset with
      fwpref := x.bar0.fwpref, temp := x.bar0.temp, pkg := x.bar0.pkg, modW := x.bar0.modW
      corr := if warm then x.bar0.corr else 0, unc := if warm then x.bar0.unc else 0 } }

/-- The slot that the boot ROM loads: the preferred one if its image verifies, else the other (R340). -/
def Device.bootSlot (x : Device) : Option Bool :=
  let ok (slot : Bool) : Bool := Config.firmwareOk (x.image slot)
  let pref := x.bar0.fwpref
  if ok pref then some pref else if ok !pref then some !pref else none

/-- The first step that fails, if one does. -/
def Device.bootFails (x : Device) (b : BootIn) : Option Nat :=
  let given := b.failStep.filter (fun n => 1 ≤ n && n ≤ 7)
  if given == some 1 then some 1 else if x.bootSlot.isNone then some 2 else given

/-- Step n of R339 on device d. -/
def bootStep (d n : Nat) (b : BootIn) (x : Device) : Device :=
  let r := x.bar0
  let r : Bar0 := { r with step := n }
  match n with
  | 1 => { x with bar0 := { r with x4t := b.x4t, width := if b.width == 8 || b.width == 4 then b.width else 16 } }
  | 2 => { x with bar0 := { r with fwrun := x.bootSlot.getD false } }
  | 3 => { x with bar0 := r, mem := [], lines := [] }
  | 4 => { x with bar0 := { r with t2cap := if b.x4t then min b.t2cap 4096 else 4096 } }
  | 5 => { x with bar0 := { r with corestat := (b.badCores.filter (· < 4096)).foldl setIns [] } }
  | 6 => { x with bar0 := { r with
      devid := some d, fabid := some (b.node % 2 ^ 14, b.rack % 2 ^ 14, b.cavern % 2 ^ 14) } }
  | _ => { x with bar0 := r }

/-- The steps of R339 in order, up to the one before a failing step. -/
def bringUp (d : Nat) (b : BootIn) (x : Device) : Device :=
  match x.bootFails b with
  | none => (List.range 7).foldl (fun x n => bootStep d (n + 1) b x) x
  | some k =>
    let x := (List.range (k - 1)).foldl (fun x n => bootStep d (n + 1) b x) x
    { x with bar0 := { x.bar0 with fail := true } }

/-- A reset of a device: every state goes, its peers see it lost (R381), and the steps run. What a trip recorded is reported
at the next power-up (R392); every direction needs a sequence reset (R380). -/
def State.resetDevice (s : State) (d : Nat) (b : BootIn) (warm : Bool) : State :=
  let old := s.device d
  let s := (s.loseDevice d (old.cleared warm)).setDevice d (bringUp d b (old.cleared warm))
  let tripped := old.lost && bit old.bar0.thev 2 && !warm
  s.modDev d (fun x =>
    let x := { x with peers := s.peersNow, needReset := (s.devs.map (·.1)).filter (· != d) }
    if tripped then { x with bar0 := { x.bar0 with thev := 4 } }.logEv Cause.thermalTrip 0 else x)

/-- COLD_RESET (R339): power-on of a device. -/
def execColdReset (d : Nat) (b : BootIn) (s : State) : Host.Outcome State Fault Refusal :=
  if 9216 ≤ d then .next s else .next (s.resetDevice d b false)

/-- RESET (R339, R341): a write of 0x5A4D0001 starts a warm reset; other values are ignored. -/
def execReset (d : Nat) (v : Word) (b : BootIn) (s : State) : Host.Outcome State Fault Refusal :=
  match aget s.devs d with
  | none => .next s
  | some x =>
    if v != 0x5A4D0001 || !x.serves 0 then .next s else .next (s.resetDevice d b true)

/-! ## Firmware update (R340, R341) -/

/-- FWCTL_GO (R340, R341): ignored while an update runs. -/
def execFwctlGo (d : Nat) (v : Word) (s : State) : Host.Outcome State Fault Refusal :=
  let x := s.device d
  if !x.up || !x.serves 0 || !v.getLsbD 0 || x.bar0.fwbusy then .next s
  else .next (s.modDev d (fun x => { x with bar0 := { x.bar0 with fwbusy := true, fwdone := false, fwfail := 0 } }))

/-- FWSTAT.fail of what the flash answers (R341). -/
def FwEnd.code : FwEnd → Nat
  | .ok => 0
  | .flash => 3
  | .readback => 4

/-- The end of an update, as FWSTAT reports it (R341). -/
def Device.fwEnd (x : Device) (fail : Nat) : Device := { x with bar0 := { x.bar0 with fwbusy := false, fwfail := fail } }

/-- An image written into the slot that is not running, which becomes the preferred one (R340). -/
def Device.flashed (x : Device) (image : List Byte) : Device :=
  let slot := !x.bar0.fwrun
  { x with
    flashA := if slot then x.flashA else some image, flashB := if slot then some image else x.flashB
    bar0 := { x.bar0 with fwdone := true, fwslot := slot, fwpref := slot } }

/-- FW_UPDATE_DONE (R340, R341): a length above 32 MiB fails, and so does a bad signature; an image that was written and read back
stands in the slot that is not running, and that slot is preferred. -/
def execFwUpdateDone (d : Nat) (e : FwEnd) (s : State) : Host.Outcome State Fault Refusal :=
  let r := (s.device d).bar0
  if !r.fwbusy then .next s
  else if 2 ^ 25 < r.fwlen then .next (s.modDev d (fun x => x.fwEnd 2))
  else
    let image := s.readG r.fwaddr r.fwlen
    if !Config.firmwareOk image then .next (s.modDev d (fun x => x.fwEnd 1))
    else if e != .ok then .next (s.modDev d (fun x => x.fwEnd (FwEnd.code e)))
    else .next (s.modDev d (fun x => (x.flashed image).fwEnd 0))

/-! ## Frequency (R335, R336, R342) -/

/-- The lowest of the accepted frequency and the two ceilings (R335). -/
def Device.target (x : Device) (i : Nat) : Nat :=
  min (x.island i).req (min x.pceil (if x.hot.contains (i / 64) then 470 else 1040))

/-- Starting a change of an island's effective frequency; one under way completes first (R343). -/
def Device.retarget (x : Device) (i : Nat) : Device :=
  let k := x.island i
  if k.changing.isNone && k.eff != x.target i then
    { x with islands := aset x.islands i { k with changing := some (x.target i) } }
  else x

/-- Every island of the device, or of one die. -/
def Device.retargetAll (x : Device) : Device := (List.range 256).foldl Device.retarget x

/-- ISLSET (R335, R342): a valid request; a reserved bit or a frequency out of the list is logged. -/
def execIslset (d : Nat) (v : Word) (s : State) : Host.Outcome State Fault Refusal :=
  let n := v.toNat
  let mhz := bits n 26 16
  if !(s.device d).serves 0 then .next s
  else if bits n 15 9 != 0 || n / 2 ^ 27 != 0 || mhz % 10 != 0 || mhz < 470 || 1040 < mhz then
    .next (s.modDev d (fun x => x.badReg 0 0x300))
  else
    let is := if bit n 8 then List.range 256 else [n % 256]
    .next (s.modDev d (fun x =>
      is.foldl (fun x i => ({ x with islands := aset x.islands i { x.island i with req := mhz } } : Device).retarget i)
        { x with bar0 := { x.bar0 with islset := v } }))

/-- FREQ_CHANGE_DONE (R335, R343): the clock starts again at the new frequency, and a second change follows if the target has
moved. -/
def execFreqChangeDone (d isl : Nat) (s : State) : Host.Outcome State Fault Refusal :=
  match ((s.device d).island isl).changing with
  | some t => .next (s.modDev d (fun x =>
      ({ x with islands := aset x.islands isl { x.island isl with eff := t, changing := none } } : Device).retarget isl))
  | none => .next s

/-! ## Power and temperature (R337, R338, R392) -/

/-- POWER_WINDOW (R337, R392): a 1 ms average, and the power ceiling's step: an episode of lowering goes on until an average is below
the cap. -/
def execPowerWindow (d pkg modW : Nat) (s : State) : Host.Outcome State Fault Refusal :=
  let x := s.device d
  if !x.up then .next s
  else
    let x := { x with bar0 := { x.bar0 with pkg := pkg % 2 ^ 12, modW := modW % 2 ^ 12 } }
    let x :=
      if x.bar0.pwrcap < pkg || (x.capping && pkg == x.bar0.pwrcap) then
        let first := !x.capping
        let x := { x with capping := true, pceil := max 470 (x.pceil - 10), bar0 := { x.bar0 with thev := x.bar0.thev ||| 2 } }
        if first then x.logEv Cause.powerCeil 0 else x
      else
        let x := { x with capping := false }
        if 100 * pkg < 95 * x.bar0.pwrcap then { x with pceil := min 1040 (x.pceil + 10) } else x
    .next (s.modDev d (fun _ => x.retargetAll))

/-- A die's temperature as its sensor reports it. -/
def Device.sense (x : Device) (die temp : Nat) : Device :=
  { x with bar0 := { x.bar0 with temp := aset x.bar0.temp die (temp % 256) } }

/-- What a device does at a temperature of a die below 120 °C (R338, R392): at 105 °C or above the die's islands are held to 470 MHz, until
it falls below 100 °C. -/
def Device.heed (x : Device) (die temp : Nat) : Device :=
  let x := x.sense die temp
  if 105 ≤ temp && !x.hot.contains die then
    let x := { x with hot := setIns x.hot die, bar0 := { x.bar0 with thev := x.bar0.thev ||| 1 } }
    (x.logEv Cause.thermalCeil die).retargetAll
  else if temp < 100 then ({ x with hot := setDel x.hot die } : Device).retargetAll
  else x

/-- The removal of a package's power (R338, R381, R392): every state is lost. -/
def State.tripDevice (s : State) (d : Nat) : State :=
  let x := s.device d
  s.loseDevice d { Device.reset with
    lost := true, flashA := x.flashA, flashB := x.flashB, bar0 := { Bar0.reset with thev := 4, fwpref := x.bar0.fwpref } }

/-- A sensor's report of a die's temperature (R338): acted on as the temperature says, whichever event brings it. -/
def State.temperature (s : State) (d die temp : Nat) : State :=
  if (aget s.devs d).isNone || (s.device d).lost || 6 ≤ die then s
  else if 120 ≤ temp then s.tripDevice d
  else s.modDev d (fun x => x.heed die temp)

/-- THERMAL_CEIL (R338, R392): a sensor reports a temperature at which a ceiling may be due. -/
def execThermalCeil (d die temp : Nat) (s : State) : Host.Outcome State Fault Refusal := .next (s.temperature d die temp)

/-- THERMAL_CLEAR (R338): a sensor reports a temperature at which a ceiling may go. -/
def execThermalClear (d die temp : Nat) (s : State) : Host.Outcome State Fault Refusal := .next (s.temperature d die temp)

/-- THERMAL_TRIP (R338, R381, R392): a die's comparator finds 120 °C. -/
def execThermalTrip (d die : Nat) (s : State) : Host.Outcome State Fault Refusal := .next (s.temperature d die 120)

/-! ## Supply (R392, R407) -/

/-- The cores of an island, of bound ones the lower LCORE first (R408). -/
def Device.islandCores (x : Device) (isl : Nat) : List Nat :=
  let key (c : Nat) : Nat := (((x.core c).bound).map (fun b => b.lcore)).getD (2 ^ 26)
  sortBy key ((List.range 4096).filter (fun c => islandOf c == isl))

/-- SUPPLY_FAULT (R392, R407): the island's clock stops, and its 16 cores are killed, marked and reported. A core that is
committing loses its egress buffer with the supply, so that its kill does not wait for the commit (R406; log 115). -/
def execSupplyFault (d isl : Nat) (s : State) : Host.Outcome State Fault Refusal :=
  let x := s.device d
  if x.lost || 256 ≤ isl || (x.island isl).supply then .next s
  else
    let cs := x.islandCores isl
    let s := s.modDev d (fun x => ({ x with
      islands := aset x.islands isl { x.island isl with supply := true }
      bar0 := { x.bar0 with corestat := cs.foldl setIns x.bar0.corestat } } : Device).logEv Cause.supplyFault isl)
    .next (cs.foldl (fun s c => s.killCore d c false (s.core d c).committing) s)

/-- ISLAND_SUPPLY_RETURN (R409). -/
def execIslandSupplyReturn (d isl : Nat) (s : State) : Host.Outcome State Fault Refusal :=
  if isl < 256 && ((s.device d).island isl).supply then
    .next (s.modDev d (fun x => { x with islands := aset x.islands isl { x.island isl with supply := false } }))
  else .next s

/-! ## Reads of BAR0 (R7, R308, R309, R312, R313, R341) -/

/-- The registers of a function's own, as they read (R341). -/
def Fn.read (f : Fn) (off : Nat) : Option Nat :=
  match off with
  | 0x1100 => some f.hwapb.toNat
  | 0x1108 => some f.hwapa
  | 0x1110 => some f.obsbase
  | 0x1118 => some f.syswin
  | _ => none

/-- FWSTAT (R341). -/
def Bar0.fwstat (b : Bar0) : Nat :=
  b2n b.fwbusy + 2 * b2n b.fwdone + 4 * b.fwfail + 32 * b2n b.fwslot + 64 * b2n b.fwpref

/-- QSTAT (R312): queues offered and not withdrawn, and queues mapped. -/
def Device.qstat (x : Device) : Nat :=
  (x.offers.filter (fun o => !o.withdrawn)).length % 2 ^ 32 + 2 ^ 32 * (x.qslots.filter (fun p => p.2.desc.isSome)).length

/-- A register of the physical function that a read leaves as it is, as it reads; a reserved bit or offset reads as zero (R7, R312,
R341, R389, R404, R405). -/
def Device.read (x : Device) (off : Nat) : Nat :=
  let b := x.bar0
  match off with
  | 0x0000 => b.step + 16 * b2n b.fail + 32 * b2n b.x4t
  | 0x0008 => (b.devid.map (fun d => d % 2 ^ 14 + 2 ^ 15)).getD 0
  | 0x0010 => b.width
  | 0x0220 => b.t2cap
  | 0x0228 => (b.fabid.map (fun f => f.1 % 2 ^ 14 + f.2.1 % 2 ^ 14 * 2 ^ 16 + f.2.2 % 2 ^ 14 * 2 ^ 32 + 2 ^ 63)).getD 0
  | 0x0300 => b.islset.toNat
  | 0x0308 => b.pwrcap
  | 0x0310 => b.pkg + 2 ^ 16 * b.modW
  | 0x0318 => leNat ((List.range 6).map (fun n => BitVec.ofNat 8 (acount b.temp n)))
  | 0x0320 => b.thev
  | 0x1000 => b.dseed.toNat
  | 0x1008 => b.jbase.toNat
  | 0x1010 => b.jret
  | 0x1018 => b.jhead
  | 0x1050 => x.qstat
  | 0x1060 => b.cabase
  | 0x1068 => b.casize
  | 0x1070 => b.capool.toNat
  | 0x1078 => b.astbase
  | 0x1300 => b.keysel.toNat
  | 0x1310 => b.sigreq.toNat
  | 0x1600 => min b.corr (2 ^ 32 - 1) + min b.unc (2 ^ 16 - 1) * 2 ^ 32 + b2n b.dup * 2 ^ 48
  | 0x1608 => x.eccinj.toNat
  | 0x1800 => b.fwaddr
  | 0x1808 => b.fwlen
  | 0x1818 => b.fwstat
  | off =>
    if 0x20 ≤ off && off < 0x220 then
      ((List.range 64).map (fun n => if b.corestat.contains (8 * (off - 0x20) + n) then 2 ^ n else 0)).foldl (· + ·) 0
    else if 0x400 ≤ off && off < 0xC00 then (x.island ((off - 0x400) / 8)).eff
    else if 0x1380 ≤ off && off < 0x13E0 then leNat ((b.keybuf.drop (off - 0x1380)).take 8)
    else 0

/-- A doorbell page's registers that a read leaves as they are (R313, R389). -/
def QSlot.read (q : QSlot) (off : Nat) : Nat :=
  match off with
  | 0x00 => q.widx
  | 0x10 => q.ridx
  | 0x20 => 1 + 2 * b2n q.waiting + 4 * b2n q.stop
  | _ => 0

/-- A read of 8 aligned bytes of a function's BAR0 (R7, R308, R309, R313, R341): the logs and WRES answer as their own steps do, the
rest changes nothing but the answer. -/
def State.hostRead (s : State) (d fn off : Nat) (onIde : Bool) : State :=
  let x := s.device d
  let run (o : Host.Outcome State Fault Refusal) : State := match o with
    | .next t => t
    | _ => s
  let value (v : Nat) : State := { s with resp := some (.value (natBytes 8 v)) }
  if !x.serves fn || off % 8 != 0 || 2 ^ 25 ≤ off then { s with resp := none }
  else if 0x100000 ≤ off && off < 0x120000 then
    let slot := (off - 0x100000) / 0x1000
    let reg := off % 0x1000
    if reg == 8 then run (execWres d (.host fn onIde) slot s)
    else if x.reaches (.host fn onIde) slot then value ((x.slot slot).read reg)
    else { s with resp := x.blank (.host fn onIde) }
  else if 0x1000000 ≤ off then
    let g := (x.fn fn).syswin + (off - 0x1000000)
    if reservedG s d g then value 0 else value (leNat (s.readG g 8))
  else match (x.fn fn).read off with
    | some v => value v
    | none =>
      if fn != 0 then value 0
      else if off == 0x1400 then run (execErrlog d s)
      else if off == 0x1500 then run (execEvlog d s)
      else value (x.read off)

/-- A host request (R308, R309, R313, R341). -/
def State.hostReq (s : State) : HostReq → State
  | .read d fn off onIde => s.hostRead d fn off onIde

end Sys2Proof.Machine
end

