-- ==== Sys2Proof/Machine/Recover.lean ====
section
/-! DEFINITION. Resumption of a pre-empted launch, the end of a killed core's self-test with the recovery agent, and
mismatches of duplicated logic (R32, R45, R46, R332, R403, R404, R407-R412). -/

namespace Sys2Proof.Machine
open Sys2Proof

/-! ## The restart (R410) -/

/-- The control context of a restarted core, from its checkpoint: registers that were not live-in read as zero; what has
been acknowledged since stays acknowledged, and a deferred fault that came with it is kept (R406, R407, R410; log 27). -/
def Context.restart (x : Context) (no : Nat) : Context :=
  let k := x.ckpt
  { Context.reset .ready with
    pc := k.entry, trap := k.trap, ckpt := k, out := x.out, committed := k.committed, issueNo := x.issueNo, reqNo := no
    deferred := match x.deferred with
      | some d => some d
      | none => k.deferred
    regs := { k.regs with
      s := Vector.ofFn (fun i => if k.slive.getLsbD i.val then k.regs.s[i.val] else 0)
      v := Vector.ofFn (fun i => if k.vlive.getLsbD i.val then k.regs.v[i.val] else VR.zero) }
    region := ⟨k.entry, k.d, k.m, k.vlive, k.slive, 0, 0, false, false⟩ }

/-- A restarted core (R410): loaded as dispatch does, with what its checkpoint store and its router kept. -/
def Core.restart (c : Core) (no : Nat) : Core :=
  let x := c.ctx 0
  let fresh := Core.reset.ctxs.mapIdx (fun i (h : Context) => { h with rngSaved := (c.ctx i).rngSaved, reqNo := no })
  let k : Core := { Core.reset with
    bound := c.bound, ctxs := fresh, plan := x.ckpt.plan, arrivals := x.ckpt.arrivals, gens := c.gens, recov := c.recov
    held := c.held, commits := c.commits, rentry := c.rentry, collSeq := c.collSeq, nextId := no, rooted := c.rooted
    restarted := true }
  k.setCtx 0 (x.restart no)

/-! ## The recovery agent (R409) -/

/-- Whether R409 fails a killed core whatever its test said: supervisor, checkpoint store, helpers, a second kill, a COLL in the
port. -/
def Core.unrecoverable (c : Core) (super lcore : Nat) : Bool :=
  lcore == super || c.ckptBad || c.helperLive || c.restarted || c.portLost

/-- Forgetting a killed core of a launch. -/
def State.forgetKill (s : State) (owner acc lcore : Nat) : State :=
  s.modDev owner (fun x => x.modLaunch acc (fun l => { l with killed := l.killed.filter (fun k => k.lcore != lcore) }))

/-- THE DECISION (R409, R412) for a killed core of a bound launch, once its test has ended: a task that has ended is left; else
the launch fails, or both cores of the pair restart. -/
def State.decideKill (s : State) (owner acc : Nat) (k : Killed) (failed : Bool) : State :=
  match (s.device owner).launch? acc with
  | none => s
  | some l => match if l.fault.isSome then none else l.cores[k.lcore]? with
    | none => s
    | some (d, p) =>
      let c := s.core d p
      match c.bound with
      | none => s
      | some b =>
        if (c.ctx 0).st == .ended then
          (s.modCore d p (fun c => { c with killed := false })).forgetKill owner acc k.lcore
        else if failed || c.unrecoverable b.super k.lcore then
          s.launchFault ⟨owner, acc⟩ (launchCause 5 (if k.pair then Cause.pairKilled else Cause.coreKilled) k.lcore)
        else
          let s := s.modCore d p (fun c => c.restart s.freshNo)
          (s.forgetKill owner acc k.lcore).reportRecov b (recovWord 3 k.lcore)

/-- Whether a killed entry is a core's: its own, or its pair's. -/
def Killed.isOf (k : Killed) (paired : Bool) (d c : Nat) : Bool := k.dev == d && (k.core == c || (paired && k.core + 1 == c))

/-- The live launch that a killed core belongs to, with its entry and whether it is paired. -/
def State.killedEntry (s : State) (d c : Nat) : Option (LaunchId × Launch × Killed) :=
  s.devs.findSome? (fun p => p.2.launches.findSome? (fun l =>
    if l.code == 14 || l.code == 15 then none
    else (l.killed.find? (fun k => k.isOf (bit (field l.record 4 4) 1) d c)).map (fun k => (⟨p.1, l.acc⟩, l, k))))

/-- Noting the result of a test of a launch that is pre-empted: a failure stays (R412). -/
def State.noteTest (s : State) (l : LaunchId) (k : Killed) (failed : Bool) : State :=
  s.modDev l.owner (fun x => x.modLaunch l.acc (fun y => { y with
    killed := y.killed.map (fun e => if e = k then { e with failed := some (failed || e.failed == some true) } else e) }))

/-- SELF_TEST_DONE (R407 steps 5 and 6, R409): 2^21 cycles after the kill the test ends; it fails on a lasting fault, or while
the island's supply is out. In a pair the decision waits for both cores' tests, unless one fails. -/
def execSelfTestDone (d c : Nat) (lasting : Bool) (s : State) : Host.Outcome State Fault Refusal :=
  let core := s.core d c
  if !core.killed || core.testAge < 2 ^ 21 then .next s
  else
    let failed := lasting || ((s.device d).island (islandOf c)).supply
    let s := if failed then
        s.modDev d (fun x => { x with bar0 := { x.bar0 with corestat := setIns x.bar0.corestat c } })
      else s
    match s.killedEntry d c with
    | none =>
      if (match core.bound with
        | some b => s.alive b.launch
        | none => false) then .next s
      else .next (s.modCore1 d c (fun x => { x with killed := false, sealed := x.bound.isSome, testAge := 0, eccHit := false }))
    | some (l, y, k) =>
      let s := s.modCore1 d c (fun x => { x with killed := false })
      let other := if k.core == c then c + 1 else k.core
      let open_ := bit (field y.record 4 4) 1 && (s.core d other).killed && !failed
      if y.code == 4 then .next (if open_ then s else s.noteTest l k failed)
      else if open_ then .next s
      else .next (s.decideKill l.owner l.acc k failed)

/-! ## Resumption (R32, R46, R332, R412) -/

/-- The order of failures of killed cores in one cycle (R372): cause, then LCORE. -/
def Killed.rank (k : Killed) : Nat := b2n k.pair * 2 ^ 26 + k.lcore

/-- A saved core at its new place (R46). -/
def Core.resume (c : Core) (b : Binding) (no : Nat) (old : Core) : Core :=
  { c with
    bound := some b, nextId := max c.nextId no, eccArm := old.eccArm, tlb := [], rooted := false, testAge := 0
    ctxs := c.ctxs.map (fun x => { x with reqNo := max x.reqNo no, pre := .run, watchdog := 0, sig := none }) }

/-- Placing the saved cores of a launch. -/
def State.placeSaved (s : State) (d : Nat) (l : Launch) (x : Dispatch) (cs : List (List Nat × (Nat × Nat))) : State :=
  l.saved.foldl (fun s q =>
    let b := bindingFor d l x cs (q.1 / 2) (q.1 % 2 == 1)
    match b.place b.lcore with
    | none => s
    | some (e, p) =>
      let p := if b.checker then p + 1 else p
      s.setCore e p (q.2.resume b s.freshNo (s.core e p))) s

/-- The last generation of a level that a core has seen released (R45). -/
def Core.lastReleased (c : Core) (k : Nat) : Nat :=
  acount c.gens k - (c.arrivals.filter (fun a => a.level == k && !a.released)).length

/-- The count of a barrier node at its new home (R32): members × the last released generation. A device whose cores have all counted a
later generation makes its join for it again, since the count that held the first one is gone (log 103). -/
def State.setCount (s : State) (l : LaunchId) (b : Binding) (k node : Nat) : State :=
  let ms := nodeMembers b.tree k node
  let ps := ms.filterMap b.place
  let devs := devsOfCores ps
  match ps with
  | [] => s
  | p :: _ =>
    let g0 := (s.core p.1 p.2).lastReleased k
    let home := barrierHome b k node
    let v := devs.length * g0
    let s := s.modDev home (fun x => { x with
      barCnt := x.barCnt.filter (fun q => q.1 != (l, k, node)) ++ (if v == 0 then [] else [((l, k, node), v)]) })
    devs.foldl (fun s e => (List.range 8).foldl (fun s i =>
      if deviceCounted (s.device e) b k node (g0 + 1 + i) e then s.send e home 0x010101 (.count l k node) else s) s) s

/-- Every fabric barrier of a launch. -/
def State.setCounts (s : State) (l : LaunchId) : State :=
  match s.bindingOf l with
  | none => s
  | some b =>
    (List.range (coreLevel b.tree + 1)).foldl (fun s k => match b.level? k with
      | some lv =>
        if 7 ≤ lv.code then
          (List.range (b.cores.length / max 1 (coresPerNode b.tree k))).foldl (fun s n => s.setCount l b k n) s
        else s
      | none => s) s

/-- The collectives of a launch keep the contributions that engines hold, and go on with its cores' new devices (R279). -/
def State.moveColls (s : State) (l : LaunchId) (cs : List (Nat × Nat)) (tree : List TreeLevel) : State :=
  let fix (c : Coll) : Coll :=
    if c.key.group || c.key.launch != l then c
    else
      let ps := (nodeMembers tree c.key.level c.key.node).filterMap (fun i => cs[i]?)
      let held := s.devs.filter (fun p => ((p.2.coll? c.key).map (fun k => !k.mine.isEmpty)).getD false)
      let root := match held.find? (fun p => ((p.2.coll? c.key).map (fun k => k.mine.any (fun m => m.rank == 0))).getD false) with
        | some p => p.1
        | none => (ps.head?.map (·.1)).getD c.root
      { c with root := root, devs := (root :: (held.map (·.1) ++ devsOfCores ps)).eraseDups }
  s.mapDevs (fun _ x => { x with colls := x.colls.map fix })

/-- RESUME (R46, R332, R333, R412): a pre-empted launch is bound again on cores that satisfy its tree; it restarts at status 2,
and killed cores whose tests have ended are decided. Cores that do not satisfy the tree leave it waiting, unless no working cores
could. -/
def execResume (d acc : Nat) (grants : List (Nat × Nat)) (s : State) : Host.Outcome State Fault Refusal :=
  let id : LaunchId := ⟨d, acc⟩
  match (s.device d).launch? acc with
  | none => .next s
  | some l => match l.hdr, l.plan, bindTree (s.device d).peers (bit (field l.record 4 4) 1) ((l.hdr.map (·.helpers)).getD 0)
      l.tree grants with
    | some hdr, some plan, some cs =>
      if l.code != 4 || l.fault.isSome || (s.device d).outranked l || s.reclaimed l.asid || !s.grantsOk d l grants
          || cs.length != l.cores.length then .next s
      else
        let start := match l.saved with
          | q :: _ => (q.2.bound.map (·.start)).getD 0
          | [] => 0
        let s := grants.foldl (fun s p => s.bindEntry id 2 p) s
        let s := s.mapDevs (fun _ y => { y with
          remote := y.remote.filter (fun r => r.1 != id), bind := y.bind.filter (fun b => b.2 != ⟨acc, 1, d⟩) })
        let s := s.placeSaved d l ⟨hdr, l.tree, plan, start⟩ cs
        let s := s.modDev d (fun x => (x.modLaunch acc (fun l => { l with
          cores := cs.map (·.2), ndev := devsOfCores (cs.map (·.2)), saved := [], rc := l.rc + 1 })).setStatus acc 2)
        let s := (s.moveColls id (cs.map (·.2)) l.tree).setCounts id
        .next ((sortBy Killed.rank (l.killed.filter (fun k => k.failed.isSome))).foldl (fun s k => s.decideKill d acc k (k.failed == some true)) s)
    | some hdr, some _, none =>
      if l.code == 4 && l.fault.isNone && !s.bindable d l.record hdr.helpers l.tree then
        .next (s.ownFault d acc 2 Cause.treeUnbindable)
      else .next s
    | _, _, _ => .next s

/-! ## Errors that ECC finds (R403, R404) -/

/-- An uncorrectable error in a park-table entry: its requester receives MEM_UNCORR. -/
def Park.lost (p : Park) : List Body :=
  match p.r with
  | .join ps => ps.map (fun q => q.ack (.fails (lineBad q.va)))
  | .tread o va .. | .xread o va .. | .freeze o va .. | .sread o va => [.answer o (.trap (lineBad va))]
  | .swrite .. | .bottom .. => []

/-- An error in a structure of a device (R403): a corrected one is counted and changes nothing else; an uncorrectable one is counted
and has the effect of its row. One in a packet's header breaks its format (R383). -/
def State.upset (s : State) : Upset → State
  | .corrected d => s.modDev d (fun x => { x with bar0 := { x.bar0 with corr := min (x.bar0.corr + 1) (2 ^ 32 - 1) } })
  | .coreState d c => s.eccKill d c
  | .egress d c | .ckpt d c => (s.modDev d Device.countUnc).killCore d c false true
  | .line d n => (s.modDev d (fun x => (x.setLine n { x.line n with bad := true }).countUnc)).settleHome d n
  | .pte d a => s.modDev d (fun x => { x with badDwords := setIns x.badDwords a }.countUnc)
  | .park d n => match (s.device d).park[n]? with
    | some p => (s.modDev d (fun x => { x with park := x.park.eraseIdx n }.countUnc)).sendAll d p.lost
    | none => s
  | .packet n hdr => match s.fab[n]? with
    | some p => if wireOk hdr then s else s.setFab n { p with bad := true }
    | none => s
  | .store d n => match (s.device d).store[n]? with
    | some p =>
      let s := s.modDev d (fun x => { x with store := x.store.set n { p with body := .void, launch := none } }.countUnc)
      match p.launch with
      | some l => s.launchFault l (launchCause 4 Cause.fabricUnreachable 0 0 (BitVec.ofNat 64 p.dst) 0)
      | none => s
    | none => s

/-! ## Duplicated logic (R403, R404) -/

/-- What a device's last bring-up found, for a reset that it performs itself. -/
def Device.bootAgain (x : Device) : BootIn :=
  let f := x.bar0.fabid.getD (0, 0, 0)
  { failStep := none, x4t := x.bar0.x4t, t2cap := x.bar0.t2cap, width := x.bar0.width, badCores := x.bar0.corestat
    node := f.1, rack := f.2.1, cavern := f.2.2 }

/-- DUP_MISMATCH (R403, R404): in a core's issue scheduler it kills the core; anywhere else the device performs a warm reset, and
ECCSTAT.dup is set after bring-up. -/
def execDupMismatch (d : Nat) (core : Option Nat) (s : State) : Host.Outcome State Fault Refusal :=
  match aget s.devs d with
  | none => .next s
  | some x =>
    if x.lost || x.bar0.step == 0 then .next s
    else match core with
      | some c => if c < 4096 then .next (s.killCore d c false false) else .next s
      | none => .next ((s.resetDevice d x.bootAgain true).modDev d (fun y => { y with bar0 := { y.bar0 with dup := true } }))

end Sys2Proof.Machine
end

