-- ==== Sys2Proof/Machine/Schedule.lean ====
section
/-! DEFINITION. What acts next, and the passing of time (R6, R22, R23, R31, R47, R61, R66, R108, R329, R335). The manual fixes no
order among agents: the agenda's turns come first, in order, then one of the turns that may act, which is free (log 2). -/

namespace Sys2Proof.Machine
open Sys2Proof

/-! ## The issue stage (R22, R42, R164, R165, R399) -/

/-- What a step comes to. -/
abbrev Stepped := Host.Outcome State Fault Refusal

/-- The meanings of the instructions, which the turns run. -/
abbrev Meanings := Instr → State → Stepped

/-- What a turn comes to: an instruction that exec runs on a state, or a state that needs no instruction. -/
inductive Next where
  | run (s : State) (i : Instr)
  | idle (s : State)

/-- Carrying it out. -/
def Next.runWith (ex : Meanings) : Next → Stepped
  | .run s i => ex i s
  | .idle s => .next s

/-- Whether a core issues at all: bound, past the root SYNC, not stopped, and a pair's leader, which steps both (R395). -/
def Core.issues (c : Core) : Bool :=
  c.rooted && !c.stopped && (match c.bound with
    | some b => !b.checker
    | none => false)

/-- Whether a context is ready: it waits for nothing, and no pre-emption has stopped it (R16). -/
def Context.ready (x : Context) : Bool := x.st == .ready && x.wait.isNone && x.pre != .stopped

/-- Whether a context is stalled or parked on something that its core can see, so that its instruction may go on (R16). -/
def Context.polls (x : Context) : Bool := x.st.live && x.pre != .stopped && x.wait.any (·.poll)

/-- The cyclic order of R22: from the context after the one that issued last. -/
def Core.order (c : Core) : List Nat := (List.range 11).map (fun i => (c.lastIssued + 1 + i) % 11)

/-- The contexts that may issue, in cyclic order (R22). In a cycle in which the core's engines or a landing have acted, the other
accesses of its contexts come too late, since they would have come first (R90, R280, R376); what is parked still sees its event (R91,
R102). -/
def Core.candidates (c : Core) : List Nat :=
  c.order.filter (fun n => let x := c.ctx n
    (x.ready && !c.wrote) || (x.polls && (x.st == .parked || !c.wrote)))

/-- Taking the issue slot (R22). -/
def State.takeSlot (s : State) (w : Who) : State := s.modCore w.dev w.core (fun c => { c with lastIssued := w.ctx })

/-- Whether a context has issued: its instruction does not stand stalled, and it has not just stayed parked (R16, R22). -/
def State.hasIssued (before after : State) (w : Who) : Bool :=
  let x := (before.core w.dev w.core).ctx w.ctx
  let y := (after.core w.dev w.core).ctx w.ctx
  y.st != .stalled && !(x.st == .parked && y.st == .parked)

/-- After the head instruction of a context has run: if it issued, it has taken the issue slot (R22). -/
def State.issued (before after : State) (w : Who) : State :=
  if before.hasIssued after w then after.takeSlot w else after

/-- The head instruction is read: the pc stands at it, past a pad word, and a wait for its fetch is over (R155). -/
def Context.atHead (x : Context) (pc : Word) : Context :=
  { x with pc := pc, wait := x.wait.filter (fun w => w.instr != fetchWait) }

/-- One context's turn: the limits of R42 and R399 (log 109), the fetch, and the head instruction (R165). -/
def State.issueCtx (s : State) (w : Who) (b : Binding) : Next :=
  let c := s.core w.dev w.core
  let s := { s with cur := w }
  if (c.ctx w.ctx).expired then .run s (.regionTooLong w)
  else if c.pairLimit w.ctx then .run s (.pairRegionLimit w)
  else
    let (pc, h) := s.headAt w b
    match h with
    | .walk => .idle (s.onCtx w (fun e c => walkI e fetchWait c pc))
    | .trap t => .idle (s.onCtx w (fun e c => takeTrap e c pc 0 t))
    | .illegal raw => .idle (s.onCtx w (fun e c => illegalTrap raw e (e.modCtx c (fun x => x.atHead pc))))
    | .ins i => .run (s.modCtx w (fun x => x.atHead pc)) i

/-- What a context's turn comes to, with the issue slot taken if it issues. -/
def State.attempt (ex : Meanings) (s : State) (w : Who) (b : Binding) : Stepped :=
  match (s.issueCtx w b).runWith ex with
  | .next u => .next (s.issued u w)
  | r => r

/-- Whether a context is ready to issue: it waits for nothing, or its event has come and its instruction would go on (R16, R22). -/
def State.canIssue (ex : Meanings) (s : State) (w : Who) (b : Binding) : Bool :=
  ((s.core w.dev w.core).ctx w.ctx).ready || (match s.attempt ex w b with
    | .next u => s.hasIssued u w
    | _ => true)

/-- Whether a core's issue stage acts, and for which launch (R22, R335). -/
def State.issuer (s : State) (d core : Nat) : Option Binding :=
  if (s.core d core).issues && (s.device d).clocked (islandOf core) then (s.core d core).bound else none

/-- The context that issues next: the first that is ready (R22). -/
def State.nextCtx (ex : Meanings) (s : State) (d core : Nat) (b : Binding) : Option Nat :=
  (s.core d core).candidates.find? (fun n => s.canIssue ex ⟨d, core, n⟩ b)

/-- A core's issue turn (R22). -/
def State.issueStage (ex : Meanings) (s : State) (d core : Nat) : Stepped :=
  match s.issuer d core with
  | none => .next s
  | some b => match s.nextCtx ex d core b with
    | some n => s.attempt ex ⟨d, core, n⟩ b
    | none => .next s

/-- The turn of a context whose instruction waits: what it does while it goes on waiting, such as asking for its next translation or
starting to release its commit's effects. It takes the issue slot only where that is its own (R16, R22). -/
def State.pollStage (ex : Meanings) (s : State) (d core n : Nat) : Stepped :=
  match s.issuer d core with
  | none => .next s
  | some b =>
    if !(s.core d core).candidates.contains n || ((s.core d core).ctx n).ready then .next s
    else match s.attempt ex ⟨d, core, n⟩ b with
      | .next u => if s.hasIssued u ⟨d, core, n⟩ && s.nextCtx ex d core b != some n then .next s else .next u
      | r => r

/-! ## The turns that may come (R13) -/

/-- The steps that a message in a mesh waits for. -/
def Body.turns (n : Nat) : Body → List Instr
  | .req _ _ (.join _) | .req _ _ (.swrite ..) | .req _ _ (.bottom ..) => [.rsuJoin n]
  | .req _ _ (.tread ..) => [.rsuThresholdRead n]
  | .req _ _ (.xread ..) | .req _ _ (.sread ..) => [.rsuExactRead n]
  | .req _ _ (.freeze ..) => [.rsuFreeze n]
  | .answer (.ctx ..) _ | .answer (.cur ..) _ => [.freezeAck n, .wake n]
  | .answer (.stash ..) _ => [.stashFill n]
  | .answer (.cmd ..) _ => [.cpyFetchLine n]
  | .answer (.lattice ..) _ => [.collLatticeWait n]
  | .answer (.deposit ..) _ | .answer (.host ..) _ | .void => []
  | .ack .. | .landAck .. => [.ackArrival n]
  | .land _ => [.pushLanding n]
  | .coll .. | .result .. | .landed .. | .finish _ => [.collHopPacket n]
  | .reserve .. | .reserved .. | .start .. => [.collReserveHop n]
  | .count .. => [.rsuJoin n]
  | .seqReset _ | .seqResetAck _ => [.seqReset n]

/-- The steps of message n of the meshes. -/
def State.msgTurns (s : State) (n : Nat) (m : Msg) : List Instr :=
  if m.hold.isSome then .routerCombineTimeout n :: (List.range s.net.length).map (fun k => .routerJoinMerge n k)
  else m.body.turns n

/-- The steps of packet n of the fabric. -/
def FabPkt.turns (n : Nat) (p : FabPkt) : List Instr :=
  if p.held.isSome then [.switchJoinHoldTimeout n]
  else if p.out.isSome || p.sw.isSome then [.switchForward n]
  else match p.kind with
    | .packet _ | .hop .. => [.fabricPacketReceive n]
    | .ack .. | .collAck .. => [.fabricAck n]

/-- The steps of a bound core beside its issue stage. -/
def Core.turns (d core : Nat) (c : Core) : List Instr :=
  let ctxs := (List.range 11).filter (fun n => (c.ctx n).st.live)
  let who (n : Nat) : Who := ⟨d, core, n⟩
  ctxs.flatMap (fun n => [.egressRelease (who n), .regionTooLong (who n), .parkTimeout (who n), .mswapExchange (who n)])
    ++ [.engineCmdHead d core .mx, .engineCmdHead d core .cx, .engineCmdHead d core .port, .engineCmdComplete d core .mx
      , .engineCmdComplete d core .cx, .collSourceCopy d core]
    ++ (List.range c.held.length).map (fun n => .heldLandingRelease d core n)
    ++ (match c.bound with
      | some b => (List.range b.tree.length).map (fun k => .barrierRelease b.launch k (nodeIndex b.tree k b.lcore))
      | none => [])

/-- The steps of a queue's thread (R315, R331). -/
def slotTurns (d t : Nat) (q : QSlot) : List Instr :=
  if q.desc.isNone then []
  else
    [.queueUnmap d t, .packetTake d t, .commandAccept d t, .graph d t, .commandComplete d t]
      ++ (match q.current with
        | some r => match r.op with
          | 1 => [.launch d t]
          | 2 => [.copy d t]
          | 3 => [.cmdColl d t]
          | 4 => [.wait d t]
          | 5 => [.cmdJoin d t]
          | 6 => [.freeze d t]
          | 7 => [.reclaim d t]
          | 9 => [.cond d t]
          | 10 => [.cmdLoop d t]
          | 11 => [.mark d t]
          | 12 => [.flush d t]
          | _ => []
        | none => [])

/-- The steps of a device's own logic and firmware. Grants of cores, host accesses, sensors and errors come by the agenda. -/
def Device.turns (d : Nat) (x : Device) : List Instr :=
  [.queueMap d]
    ++ x.qslots.flatMap (fun p => slotTurns d p.1 p.2)
    ++ x.launches.flatMap (fun l => [.rootSyncRelease d l.acc, .launchComplete d l.acc, .preempt d l.acc])
    ++ (List.range x.walks.length).map (fun n => .walkComplete d n)
    ++ (List.range x.store.length).map (fun n => .replayTimeout d n)
    ++ (List.range x.colls.length).flatMap (fun n => [.collReserveRetry d n, .reduceSlotTimeout d n, .fallbackReduce d n])
    ++ x.ports.flatMap (fun p => [.linkDown d p.1])
    ++ x.islands.map (fun p => .freqChangeDone d p.1)
    ++ x.cores.flatMap (fun p => if p.2.killed then [.selfTestDone d p.1 false] else [])
    ++ x.cores.flatMap (fun p => if p.2.bound.isSome then p.2.turns d p.1 else [])

/-- The steps that may come. -/
def State.eventTurns (s : State) : List Instr :=
  s.devs.flatMap (fun p => Device.turns p.1 p.2)
    ++ (s.net.zipIdx.flatMap (fun m => s.msgTurns m.2 m.1)
    ++ (s.fab.zipIdx.flatMap (fun p => FabPkt.turns p.2 p.1)
    ++ (List.range ((s.devs.map (fun p => p.2.retry.length)).foldl (· + ·) 0)).map (fun n => Instr.parkRetry n)))

/-- Every turn that may come. -/
def State.turns (s : State) : List Turn :=
  s.devs.flatMap (fun p => p.2.cores.flatMap (fun q => if q.2.issues then
      Turn.issue p.1 q.1 :: ((List.range 11).filter (fun n => (q.2.ctx n).polls)).map (Turn.poll p.1 q.1) else []))
    ++ s.eventTurns.map Turn.ev

/-- The turn that comes: the first of the agenda, or a free one of those that may. -/
def State.turn (s : State) : Option Turn :=
  match s.agenda with
  | t :: _ => some t
  | [] => let ts := s.turns; ts[Config.pick s.stepNo % max 1 ts.length]?

/-- The core whose island's clock an instruction needs (R335): its own steps, and what the mesh brings it. A killed core needs none:
its island may be off for good. -/
def State.clockOf (s : State) : Instr → Option (Nat × Nat)
  | .egressRelease w | .regionTooLong w | .pairRegionLimit w | .parkTimeout w | .mswapExchange w => some (w.dev, w.core)
  | .engineCmdHead d c _ | .engineCmdComplete d c _ | .collSourceCopy d c | .heldLandingRelease d c _ => some (d, c)
  | .recovTake w _ => some (w.dev, w.core)
  | .walkComplete d n => ((s.device d).walks[n]?).map (fun w => (d, w.core))
  | .freezeAck n | .wake n | .stashFill n | .cpyFetchLine n | .collLatticeWait n | .ackArrival n | .pushLanding n =>
    match s.net[n]? with
    | some ⟨_, _, _, .answer o _⟩ => o.core?
    | some ⟨_, _, _, .ack o _⟩ => o.core?
    | some ⟨_, _, _, .landAck w _ _ _⟩ => some (w.dev, w.core)
    | some ⟨d, _, _, .land l⟩ => ((s.device d).coreOf l.launch l.rcv).map (fun p => (d, p.1))
    | _ => none
  | _ => none

/-- Whether a step would change the state of an island whose clock is stopped (R335): it waits until the clock runs again. -/
def State.frozen (s : State) (i : Instr) : Bool :=
  match s.clockOf i with
  | some (d, c) => !(s.device d).clocked (islandOf c) && !(s.core d c).killed
  | none => false

/-- What a turn comes to. -/
def State.take (ex : Meanings) (s : State) : Option Turn → Stepped
  | some (.issue d c) => s.issueStage ex d c
  | some (.poll d c n) => s.pollStage ex d c n
  | some (.upset u) => .next (s.upset u)
  | some (.host r) => .next (s.hostReq r)
  | some (.ev i) => if s.frozen i then .next s else ex i s
  | none => .next s

/-- What the machine does next; a turn of the agenda is used up. -/
def State.next (ex : Meanings) (s : State) : Stepped := { s with agenda := s.agenda.drop 1 }.take ex s.turn

/-! ## Time (R6, R42, R60, R67, R68, R297, R335, R368, R378, R380, R382, R407) -/

/-- A context after k cycles of its island and r of the reference clock. A launch being saved has its watchdogs stopped. A fault
recorded before is no longer of this cycle (R364). -/
def Context.age (x : Context) (k r : Nat) (run saving : Bool) : Context :=
  let x := { x with deferred := x.deferred.map (fun d => { d with fresh := d.fresh && r == 0 }) }
  if !run || !x.st.live then x
  else { x with
    region := { x.region with cycles := x.region.cycles + k }
    watchdog := if !saving && (match x.wait with
      | some w => w.code != 0
      | none => false) then x.watchdog + r else x.watchdog }

/-- A core after k cycles of its island and r of the reference clock. -/
def Core.age (c : Core) (k r : Nat) (saving : Bool) : Core :=
  { c with
    testAge := if c.killed then c.testAge + r else c.testAge, wrote := c.wrote && r == 0
    ctxs := c.ctxs.map (fun x => x.age k r (c.issues || c.bound.any (·.checker)) saving) }

def Coll.age (c : Coll) (r : Nat) : Coll :=
  { c with
    stage := match c.stage with
      | .refused a => .refused (a + r)
      | g => g }

/-- A switch after r cycles (R382). -/
def Switch.age (k : Switch) (r : Nat) : Switch := { k with slots := k.slots.map (fun t => { t with age := t.age.map (· + r) }) }

/-- A device after r cycles of the reference clock; isl gives the cycles of an island's own clock. -/
def Device.age (x : Device) (r : Nat) (isl : Nat → Nat) (saving : LaunchId → Bool) : Device :=
  { x with
    clk := x.clk + r
    retry := x.retry.map (fun q => { q with age := q.age + r })
    store := x.store.map (fun p => { p with age := p.age + r })
    ports := x.ports.map (fun p => (p.1, { p.2 with lost := p.2.lost.map (· + r) }))
    colls := x.colls.map (fun c => c.age r)
    cores := x.cores.map (fun p => (p.1, p.2.age (if x.clocked (islandOf p.1) then isl (islandOf p.1) else 0) r
      (p.2.bound.any (fun b => saving b.launch)))) }

/-- Whether a launch is being saved. -/
def State.savingLaunch (s : State) (l : LaunchId) : Bool :=
  match (s.device l.owner).launch? l.acc with
  | some x => x.saving
  | none => false

/-- Time passes: how many cycles is free (log 3). The Curator stops the launches whose fault the cycle has brought (R372). -/
def State.advance (s : State) : State :=
  let r := Config.refCycles s.stepNo
  let s := if r == 0 then s else s.faulted.foldl State.endFaulted s
  { s with
    stepNo := s.stepNo + 1
    devs := s.devs.map (fun p =>
      (p.1, p.2.age r (fun i => Config.islandCycles s.stepNo (256 * p.1 + i)) s.savingLaunch))
    net := s.net.map (fun m => { m with hold := m.hold.map (· + r) })
    fab := s.fab.map (fun p => { p with held := p.held.map (· + r) })
    switches := s.switches.map (fun p => (p.1, p.2.age r)) }

/-! ## A program placed from outside (log 1) -/

/-- Where a placed program starts: virtual and physical address 0x1000. -/
def placedAt : Word := 0x1000

/-- The kernel header of a placed program: the largest of everything (R171). -/
def placedHeader : KHeader :=
  { sregs := 64, vregs := 32, helpers := 10, barriers := 8, oslots := 16, stash := 8, topx := false, c0ctx := 0, c1ctx := 0
    lstore := 262144, shared := (0, 0), parts := List.replicate 11 (0, 0) }

/-- The launch that a placed program belongs to: one core, which is its tree. -/
def placedBinding : Binding :=
  { launch := ⟨0, 0⟩, lcore := 0, hdr := placedHeader, tree := [⟨1, 2, 0, 0, false⟩], child := [0], plan := impliedPlan
    cores := [(0, 0)], det := false, pair := false, peer := none, checker := false, seed := 0, asid := 0, super := 0
    cmode := 0, desc := 0, start := placedAt }

/-- The translation of a placed program's page: system kind, with X (R77). -/
def placedPage : Tlb :=
  { asid := 0, va := 0x1000, bits := 12, pa := 0x1000, c := false, kind := .system, wd := .w8, j := false, t := false, x := true, f := false }

/-- The control context of a placed program, at its first instruction in the implicit region (R43). -/
def Context.placed (x : Context) : Context :=
  { x.openImplicit placedHeader placedAt with
    st := .ready, wait := none, pc := placedAt, walkErr := none, committed := false, pre := .run }

/-- The core of a placed program: bound, past the root SYNC, with its control context next to issue. -/
def Core.placed (c : Core) : Core :=
  { c.modCtx 0 Context.placed with
    bound := some placedBinding, rooted := true, stopped := false, wrote := false, killed := false, sealed := false, lastIssued := 10
    tlb := placedPage :: c.tlb }

/-- A device that holds a placed program's bytes, and runs core 0. -/
def Device.placed (x : Device) (bs : List Byte) : Device :=
  { x with
    mem := cellsWrite x.mem 0x1000 bs
    lines := aset x.lines 64 { x.line 64 with bad := false }
    islands := aset x.islands 0 { x.island 0 with changing := none, supply := false }
    cores := aset x.cores 0 (x.core 0).placed }

/-- A program of 16 bytes placed on core 0 of device 0, whose turn is next. -/
def State.placed (s : State) (bs : List Byte) : State :=
  { s.setDevice 0 ((s.device 0).placed bs) with agenda := [.issue 0 0] }

end Sys2Proof.Machine
end

