-- ==== Sys2Proof/Machine/Dispatch.lean ====
section
/-! DEFINITION. The meaning of every constructor, one arm each. -/

namespace Sys2Proof.Machine
open Sys2Proof

def exec (i : Instr) (s : State) : Host.Outcome State Fault Refusal :=
  match i with
  | .add v1 v2 v3 v4 => Sys2Proof.Machine.execAdd v1 v2 v3 v4 s
  | .sub v1 v2 v3 v4 => Sys2Proof.Machine.execSub v1 v2 v3 v4 s
  | .mul v1 v2 v3 v4 => Sys2Proof.Machine.execMul v1 v2 v3 v4 s
  | .mulh v1 v2 v3 v4 v5 => Sys2Proof.Machine.execMulh v1 v2 v3 v4 v5 s
  | .div v1 v2 v3 v4 v5 => Sys2Proof.Machine.execDiv v1 v2 v3 v4 v5 s
  | .rem v1 v2 v3 v4 v5 => Sys2Proof.Machine.execRem v1 v2 v3 v4 v5 s
  | .and v1 v2 v3 v4 => Sys2Proof.Machine.execAnd v1 v2 v3 v4 s
  | .or v1 v2 v3 v4 => Sys2Proof.Machine.execOr v1 v2 v3 v4 s
  | .xor v1 v2 v3 v4 => Sys2Proof.Machine.execXor v1 v2 v3 v4 s
  | .andn v1 v2 v3 v4 => Sys2Proof.Machine.execAndn v1 v2 v3 v4 s
  | .shl v1 v2 v3 v4 => Sys2Proof.Machine.execShl v1 v2 v3 v4 s
  | .shr v1 v2 v3 v4 => Sys2Proof.Machine.execShr v1 v2 v3 v4 s
  | .sar v1 v2 v3 v4 => Sys2Proof.Machine.execSar v1 v2 v3 v4 s
  | .rol v1 v2 v3 v4 => Sys2Proof.Machine.execRol v1 v2 v3 v4 s
  | .min v1 v2 v3 v4 v5 => Sys2Proof.Machine.execMin v1 v2 v3 v4 v5 s
  | .max v1 v2 v3 v4 v5 => Sys2Proof.Machine.execMax v1 v2 v3 v4 v5 s
  | .abs v1 v2 v3 => Sys2Proof.Machine.execAbs v1 v2 v3 s
  | .clz v1 v2 v3 => Sys2Proof.Machine.execClz v1 v2 v3 s
  | .ctz v1 v2 v3 => Sys2Proof.Machine.execCtz v1 v2 v3 s
  | .popc v1 v2 v3 => Sys2Proof.Machine.execPopc v1 v2 v3 s
  | .brev v1 v2 v3 => Sys2Proof.Machine.execBrev v1 v2 v3 s
  | .bfx v1 v2 v3 v4 v5 v6 => Sys2Proof.Machine.execBfx v1 v2 v3 v4 v5 v6 s
  | .bfi v1 v2 v3 v4 v5 => Sys2Proof.Machine.execBfi v1 v2 v3 v4 v5 s
  | .sel v1 v2 v3 v4 v5 v6 => Sys2Proof.Machine.execSel v1 v2 v3 v4 v5 v6 s
  | .li v1 v2 v3 v4 => Sys2Proof.Machine.execLi v1 v2 v3 v4 s
  | .lih v1 v2 v3 => Sys2Proof.Machine.execLih v1 v2 v3 s
  | .lea v1 v2 v3 => Sys2Proof.Machine.execLea v1 v2 v3 s
  | .cmp v1 v2 v3 v4 v5 v6 => Sys2Proof.Machine.execCmp v1 v2 v3 v4 v5 v6 s
  | .pand v1 v2 v3 v4 => Sys2Proof.Machine.execPand v1 v2 v3 v4 s
  | .por v1 v2 v3 v4 => Sys2Proof.Machine.execPor v1 v2 v3 v4 s
  | .pxor v1 v2 v3 v4 => Sys2Proof.Machine.execPxor v1 v2 v3 v4 s
  | .pnot v1 v2 v3 => Sys2Proof.Machine.execPnot v1 v2 v3 s
  | .pmov v1 v2 => Sys2Proof.Machine.execPmov v1 v2 s
  | .br v1 v2 => Sys2Proof.Machine.execBr v1 v2 s
  | .bri v1 v2 => Sys2Proof.Machine.execBri v1 v2 s
  | .call v1 v2 v3 => Sys2Proof.Machine.execCall v1 v2 v3 s
  | .calli v1 v2 v3 => Sys2Proof.Machine.execCalli v1 v2 v3 s
  | .ret v1 v2 => Sys2Proof.Machine.execRet v1 v2 s
  | .loop v1 v2 v3 => Sys2Proof.Machine.execLoop v1 v2 v3 s
  | .endK => Sys2Proof.Machine.execEndK s
  | .nop v1 v2 => Sys2Proof.Machine.execNop v1 v2 s
  | .bbsig v1 => Sys2Proof.Machine.execBbsig v1 s
  | .trap v1 v2 => Sys2Proof.Machine.execTrap v1 v2 s
  | .tret => Sys2Proof.Machine.execTret s
  | .hstart v1 v2 v3 => Sys2Proof.Machine.execHstart v1 v2 v3 s
  | .hexit => Sys2Proof.Machine.execHexit s
  | .hwait v1 v2 => Sys2Proof.Machine.execHwait v1 v2 s
  | .arrive v1 => Sys2Proof.Machine.execArrive v1 s
  | .waitb v1 => Sys2Proof.Machine.execWaitb v1 s
  | .sync v1 => Sys2Proof.Machine.execSync v1 s
  | .vote v1 v2 v3 v4 => Sys2Proof.Machine.execVote v1 v2 v3 v4 s
  | .voteP v1 v2 v3 v4 => Sys2Proof.Machine.execVoteP v1 v2 v3 v4 s
  | .region v1 v2 v3 v4 => Sys2Proof.Machine.execRegion v1 v2 v3 v4 s
  | .ld v1 v2 v3 v4 v5 v6 => Sys2Proof.Machine.execLd v1 v2 v3 v4 v5 v6 s
  | .st v1 v2 v3 v4 v5 => Sys2Proof.Machine.execSt v1 v2 v3 v4 v5 s
  | .stn v1 v2 v3 v4 v5 => Sys2Proof.Machine.execStn v1 v2 v3 v4 v5 s
  | .ldv v1 v2 v3 v4 v5 v6 => Sys2Proof.Machine.execLdv v1 v2 v3 v4 v5 v6 s
  | .stv v1 v2 v3 v4 v5 v6 => Sys2Proof.Machine.execStv v1 v2 v3 v4 v5 v6 s
  | .ldvx v1 v2 v3 v4 v5 v6 v7 => Sys2Proof.Machine.execLdvx v1 v2 v3 v4 v5 v6 v7 s
  | .stvx v1 v2 v3 v4 v5 v6 v7 => Sys2Proof.Machine.execStvx v1 v2 v3 v4 v5 v6 v7 s
  | .ldf v1 v2 v3 v4 v5 => Sys2Proof.Machine.execLdf v1 v2 v3 v4 v5 s
  | .stf v1 v2 v3 v4 => Sys2Proof.Machine.execStf v1 v2 v3 v4 s
  | .feq v1 v2 v3 v4 => Sys2Proof.Machine.execFeq v1 v2 v3 v4 s
  | .feset v1 v2 v3 v4 v5 => Sys2Proof.Machine.execFeset v1 v2 v3 v4 v5 s
  | .push v1 v2 v3 v4 v5 v6 => Sys2Proof.Machine.execPush v1 v2 v3 v4 v5 v6 s
  | .fence v1 v2 => Sys2Proof.Machine.execFence v1 v2 s
  | .join v1 v2 v3 v4 v5 v6 v7 => Sys2Proof.Machine.execJoin v1 v2 v3 v4 v5 v6 v7 s
  | .joinv v1 v2 v3 v4 v5 => Sys2Proof.Machine.execJoinv v1 v2 v3 v4 v5 s
  | .tread v1 v2 v3 v4 v5 v6 v7 v8 => Sys2Proof.Machine.execTread v1 v2 v3 v4 v5 v6 v7 v8 s
  | .xread v1 v2 v3 v4 v5 v6 => Sys2Proof.Machine.execXread v1 v2 v3 v4 v5 v6 s
  | .xreadv v1 v2 v3 v4 v5 => Sys2Proof.Machine.execXreadv v1 v2 v3 v4 v5 s
  | .frz v1 v2 v3 v4 => Sys2Proof.Machine.execFrz v1 v2 v3 v4 s
  | .lkind v1 v2 v3 v4 => Sys2Proof.Machine.execLkind v1 v2 v3 v4 s
  | .smap v1 v2 v3 v4 v5 v6 v7 => Sys2Proof.Machine.execSmap v1 v2 v3 v4 v5 v6 v7 s
  | .sflush v1 v2 => Sys2Proof.Machine.execSflush v1 v2 s
  | .sdrop v1 v2 => Sys2Proof.Machine.execSdrop v1 v2 s
  | .vadd v1 v2 v3 v4 v5 v6 => Sys2Proof.Machine.execVadd v1 v2 v3 v4 v5 v6 s
  | .vsub v1 v2 v3 v4 v5 v6 => Sys2Proof.Machine.execVsub v1 v2 v3 v4 v5 v6 s
  | .vmul v1 v2 v3 v4 v5 v6 => Sys2Proof.Machine.execVmul v1 v2 v3 v4 v5 v6 s
  | .vfma v1 v2 v3 v4 v5 v6 v7 v8 v9 => Sys2Proof.Machine.execVfma v1 v2 v3 v4 v5 v6 v7 v8 v9 s
  | .vmin v1 v2 v3 v4 v5 v6 v7 => Sys2Proof.Machine.execVmin v1 v2 v3 v4 v5 v6 v7 s
  | .vmax v1 v2 v3 v4 v5 v6 v7 => Sys2Proof.Machine.execVmax v1 v2 v3 v4 v5 v6 v7 s
  | .vabs v1 v2 v3 v4 v5 v6 => Sys2Proof.Machine.execVabs v1 v2 v3 v4 v5 v6 s
  | .vneg v1 v2 v3 v4 v5 v6 => Sys2Proof.Machine.execVneg v1 v2 v3 v4 v5 v6 s
  | .vdiv v1 v2 v3 v4 v5 v6 => Sys2Proof.Machine.execVdiv v1 v2 v3 v4 v5 v6 s
  | .vsqrt v1 v2 v3 v4 v5 => Sys2Proof.Machine.execVsqrt v1 v2 v3 v4 v5 s
  | .vrcp v1 v2 v3 v4 v5 => Sys2Proof.Machine.execVrcp v1 v2 v3 v4 v5 s
  | .vsfu v1 v2 v3 v4 v5 v6 => Sys2Proof.Machine.execVsfu v1 v2 v3 v4 v5 v6 s
  | .viadd v1 v2 v3 v4 v5 v6 v7 v8 => Sys2Proof.Machine.execViadd v1 v2 v3 v4 v5 v6 v7 v8 s
  | .visub v1 v2 v3 v4 v5 v6 v7 v8 => Sys2Proof.Machine.execVisub v1 v2 v3 v4 v5 v6 v7 v8 s
  | .vimul v1 v2 v3 v4 v5 v6 v7 v8 v9 => Sys2Proof.Machine.execVimul v1 v2 v3 v4 v5 v6 v7 v8 v9 s
  | .vand v1 v2 v3 v4 v5 v6 => Sys2Proof.Machine.execVand v1 v2 v3 v4 v5 v6 s
  | .vor v1 v2 v3 v4 v5 v6 => Sys2Proof.Machine.execVor v1 v2 v3 v4 v5 v6 s
  | .vxor v1 v2 v3 v4 v5 v6 => Sys2Proof.Machine.execVxor v1 v2 v3 v4 v5 v6 s
  | .vshl v1 v2 v3 v4 v5 v6 => Sys2Proof.Machine.execVshl v1 v2 v3 v4 v5 v6 s
  | .vshr v1 v2 v3 v4 v5 v6 => Sys2Proof.Machine.execVshr v1 v2 v3 v4 v5 v6 s
  | .vsar v1 v2 v3 v4 v5 v6 => Sys2Proof.Machine.execVsar v1 v2 v3 v4 v5 v6 s
  | .vcmp v1 v2 v3 v4 v5 v6 v7 v8 => Sys2Proof.Machine.execVcmp v1 v2 v3 v4 v5 v6 v7 v8 s
  | .vsel v1 v2 v3 v4 v5 v6 => Sys2Proof.Machine.execVsel v1 v2 v3 v4 v5 v6 s
  | .vperm v1 v2 v3 v4 v5 v6 v7 => Sys2Proof.Machine.execVperm v1 v2 v3 v4 v5 v6 v7 s
  | .vshuf v1 v2 v3 v4 v5 v6 => Sys2Proof.Machine.execVshuf v1 v2 v3 v4 v5 v6 s
  | .vbcast v1 v2 v3 v4 v5 v6 => Sys2Proof.Machine.execVbcast v1 v2 v3 v4 v5 v6 s
  | .vext v1 v2 v3 v4 v5 v6 => Sys2Proof.Machine.execVext v1 v2 v3 v4 v5 v6 s
  | .vins v1 v2 v3 v4 v5 => Sys2Proof.Machine.execVins v1 v2 v3 v4 v5 s
  | .vred v1 v2 v3 v4 v5 v6 v7 v8 => Sys2Proof.Machine.execVred v1 v2 v3 v4 v5 v6 v7 v8 s
  | .vscan v1 v2 v3 v4 v5 v6 v7 v8 => Sys2Proof.Machine.execVscan v1 v2 v3 v4 v5 v6 v7 v8 s
  | .vcvt v1 v2 v3 v4 v5 v6 v7 v8 v9 v10 => Sys2Proof.Machine.execVcvt v1 v2 v3 v4 v5 v6 v7 v8 v9 v10 s
  | .vqblk v1 v2 v3 v4 v5 v6 v7 v8 => Sys2Proof.Machine.execVqblk v1 v2 v3 v4 v5 v6 v7 v8 s
  | .vdqblk v1 v2 v3 v4 v5 v6 => Sys2Proof.Machine.execVdqblk v1 v2 v3 v4 v5 v6 s
  | .vkey v1 v2 v3 v4 v5 => Sys2Proof.Machine.execVkey v1 v2 v3 v4 v5 s
  | .vtag v1 v2 v3 v4 => Sys2Proof.Machine.execVtag v1 v2 v3 v4 s
  | .vmov v1 v2 v3 v4 v5 => Sys2Proof.Machine.execVmov v1 v2 v3 v4 v5 s
  | .vzero v1 v2 v3 => Sys2Proof.Machine.execVzero v1 v2 v3 s
  | .viota v1 v2 v3 v4 v5 v6 => Sys2Proof.Machine.execViota v1 v2 v3 v4 v5 v6 s
  | .mlogic v1 v2 => Sys2Proof.Machine.execMlogic v1 v2 s
  | .mclaim v1 v2 => Sys2Proof.Machine.execMclaim v1 v2 s
  | .mrel v1 v2 => Sys2Proof.Machine.execMrel v1 v2 s
  | .mload v1 v2 v3 v4 v5 v6 => Sys2Proof.Machine.execMload v1 v2 v3 v4 v5 v6 s
  | .mstore v1 v2 v3 v4 v5 v6 v7 => Sys2Proof.Machine.execMstore v1 v2 v3 v4 v5 v6 v7 s
  | .mband v1 v2 v3 => Sys2Proof.Machine.execMband v1 v2 v3 s
  | .mma v1 v2 v3 v4 v5 v6 v7 => Sys2Proof.Machine.execMma v1 v2 v3 v4 v5 v6 v7 s
  | .mswap v1 v2 => Sys2Proof.Machine.execMswap v1 v2 s
  | .mread v1 v2 v3 v4 v5 v6 v7 => Sys2Proof.Machine.execMread v1 v2 v3 v4 v5 v6 v7 s
  | .mwrite v1 v2 v3 v4 v5 v6 => Sys2Proof.Machine.execMwrite v1 v2 v3 v4 v5 v6 s
  | .mzero v1 v2 v3 v4 => Sys2Proof.Machine.execMzero v1 v2 v3 v4 s
  | .cpyFetch v1 v2 v3 v4 v5 v6 => Sys2Proof.Machine.execCpyFetch v1 v2 v3 v4 v5 v6 s
  | .cpyPutj v1 v2 v3 v4 v5 v6 v7 => Sys2Proof.Machine.execCpyPutj v1 v2 v3 v4 v5 v6 v7 s
  | .send v1 v2 v3 v4 v5 v6 v7 => Sys2Proof.Machine.execSend v1 v2 v3 v4 v5 v6 v7 s
  | .coll v1 v2 v3 v4 v5 v6 v7 v8 v9 v10 => Sys2Proof.Machine.execColl v1 v2 v3 v4 v5 v6 v7 v8 v9 v10 s
  | .semw v1 v2 v3 => Sys2Proof.Machine.execSemw v1 v2 v3 s
  | .sems v1 v2 v3 => Sys2Proof.Machine.execSems v1 v2 v3 s
  | .semr v1 v2 v3 => Sys2Proof.Machine.execSemr v1 v2 v3 s
  | .garm v1 v2 => Sys2Proof.Machine.execGarm v1 v2 s
  | .gres v1 v2 v3 v4 => Sys2Proof.Machine.execGres v1 v2 v3 v4 s
  | .ewait v1 v2 v3 v4 => Sys2Proof.Machine.execEwait v1 v2 v3 v4 s
  | .mfs v1 v2 v3 => Sys2Proof.Machine.execMfs v1 v2 v3 s
  | .mts v1 v2 v3 => Sys2Proof.Machine.execMts v1 v2 v3 s
  | .clkr v1 v2 => Sys2Proof.Machine.execClkr v1 v2 s
  | .rngr v1 v2 => Sys2Proof.Machine.execRngr v1 v2 s
  | .tlbf v1 v2 => Sys2Proof.Machine.execTlbf v1 v2 s
  | .bkpt v1 v2 => Sys2Proof.Machine.execBkpt v1 v2 s
  | .ill v1 => Sys2Proof.Machine.execIll v1 s
  | .recovTake v1 v2 => Sys2Proof.Machine.execRecovTake v1 v2 s
  | .egressRelease v1 => Sys2Proof.Machine.execEgressRelease v1 s
  | .regionTooLong v1 => Sys2Proof.Machine.execRegionTooLong v1 s
  | .pairRegionLimit v1 => Sys2Proof.Machine.execPairRegionLimit v1 s
  | .parkTimeout v1 => Sys2Proof.Machine.execParkTimeout v1 s
  | .barrierRelease v1 v2 v3 => Sys2Proof.Machine.execBarrierRelease v1 v2 v3 s
  | .ackArrival v1 => Sys2Proof.Machine.execAckArrival v1 s
  | .rsuJoin v1 => Sys2Proof.Machine.execRsuJoin v1 s
  | .rsuThresholdRead v1 => Sys2Proof.Machine.execRsuThresholdRead v1 s
  | .rsuExactRead v1 => Sys2Proof.Machine.execRsuExactRead v1 s
  | .rsuFreeze v1 => Sys2Proof.Machine.execRsuFreeze v1 s
  | .freezeAck v1 => Sys2Proof.Machine.execFreezeAck v1 s
  | .wake v1 => Sys2Proof.Machine.execWake v1 s
  | .parkRetry v1 => Sys2Proof.Machine.execParkRetry v1 s
  | .routerJoinMerge v1 v2 => Sys2Proof.Machine.execRouterJoinMerge v1 v2 s
  | .routerCombineTimeout v1 => Sys2Proof.Machine.execRouterCombineTimeout v1 s
  | .switchJoinHoldTimeout v1 => Sys2Proof.Machine.execSwitchJoinHoldTimeout v1 s
  | .walkComplete v1 v2 => Sys2Proof.Machine.execWalkComplete v1 v2 s
  | .stashFill v1 => Sys2Proof.Machine.execStashFill v1 s
  | .pushLanding v1 => Sys2Proof.Machine.execPushLanding v1 s
  | .heldLandingRelease v1 v2 v3 => Sys2Proof.Machine.execHeldLandingRelease v1 v2 v3 s
  | .engineCmdHead v1 v2 v3 => Sys2Proof.Machine.execEngineCmdHead v1 v2 v3 s
  | .engineCmdComplete v1 v2 v3 => Sys2Proof.Machine.execEngineCmdComplete v1 v2 v3 s
  | .cpyFetchLine v1 => Sys2Proof.Machine.execCpyFetchLine v1 s
  | .mswapExchange v1 => Sys2Proof.Machine.execMswapExchange v1 s
  | .collLatticeWait v1 => Sys2Proof.Machine.execCollLatticeWait v1 s
  | .collSourceCopy v1 v2 => Sys2Proof.Machine.execCollSourceCopy v1 v2 s
  | .collReserveHop v1 => Sys2Proof.Machine.execCollReserveHop v1 s
  | .collReserveRetry v1 v2 => Sys2Proof.Machine.execCollReserveRetry v1 v2 s
  | .collHopPacket v1 => Sys2Proof.Machine.execCollHopPacket v1 s
  | .reduceSlotTimeout v1 v2 => Sys2Proof.Machine.execReduceSlotTimeout v1 v2 s
  | .fallbackReduce v1 v2 => Sys2Proof.Machine.execFallbackReduce v1 v2 s
  | .fabricPacketReceive v1 => Sys2Proof.Machine.execFabricPacketReceive v1 s
  | .switchForward v1 => Sys2Proof.Machine.execSwitchForward v1 s
  | .fabricAck v1 => Sys2Proof.Machine.execFabricAck v1 s
  | .replayTimeout v1 v2 => Sys2Proof.Machine.execReplayTimeout v1 v2 s
  | .seqReset v1 => Sys2Proof.Machine.execSeqReset v1 s
  | .linkDown v1 v2 => Sys2Proof.Machine.execLinkDown v1 v2 s
  | .routeVersion v1 v2 v3 v4 => Sys2Proof.Machine.execRouteVersion v1 v2 v3 v4 s
  | .switchTableInstall v1 v2 v3 => Sys2Proof.Machine.execSwitchTableInstall v1 v2 v3 s
  | .deviceLost v1 => Sys2Proof.Machine.execDeviceLost v1 s
  | .hostWrite v1 v2 v3 v4 v5 v6 v7 => Sys2Proof.Machine.execHostWrite v1 v2 v3 v4 v5 v6 v7 s
  | .obsRead v1 v2 v3 v4 => Sys2Proof.Machine.execObsRead v1 v2 v3 v4 s
  | .qadd v1 v2 => Sys2Proof.Machine.execQadd v1 v2 s
  | .qdel v1 v2 => Sys2Proof.Machine.execQdel v1 v2 s
  | .queueMap v1 => Sys2Proof.Machine.execQueueMap v1 s
  | .queueUnmap v1 v2 => Sys2Proof.Machine.execQueueUnmap v1 v2 s
  | .widx v1 v2 v3 v4 v5 => Sys2Proof.Machine.execWidx v1 v2 v3 v4 v5 s
  | .wres v1 v2 v3 => Sys2Proof.Machine.execWres v1 v2 v3 s
  | .dbell v1 v2 v3 v4 => Sys2Proof.Machine.execDbell v1 v2 v3 v4 s
  | .qresume v1 v2 v3 v4 => Sys2Proof.Machine.execQresume v1 v2 v3 v4 s
  | .labort v1 v2 => Sys2Proof.Machine.execLabort v1 v2 s
  | .packetTake v1 v2 => Sys2Proof.Machine.execPacketTake v1 v2 s
  | .commandAccept v1 v2 => Sys2Proof.Machine.execCommandAccept v1 v2 s
  | .launch v1 v2 => Sys2Proof.Machine.execLaunch v1 v2 s
  | .copy v1 v2 => Sys2Proof.Machine.execCopy v1 v2 s
  | .cmdColl v1 v2 => Sys2Proof.Machine.execCmdColl v1 v2 s
  | .wait v1 v2 => Sys2Proof.Machine.execWait v1 v2 s
  | .cmdJoin v1 v2 => Sys2Proof.Machine.execCmdJoin v1 v2 s
  | .freeze v1 v2 => Sys2Proof.Machine.execFreeze v1 v2 s
  | .reclaim v1 v2 => Sys2Proof.Machine.execReclaim v1 v2 s
  | .graph v1 v2 => Sys2Proof.Machine.execGraph v1 v2 s
  | .cond v1 v2 => Sys2Proof.Machine.execCond v1 v2 s
  | .cmdLoop v1 v2 => Sys2Proof.Machine.execCmdLoop v1 v2 s
  | .mark v1 v2 => Sys2Proof.Machine.execMark v1 v2 s
  | .flush v1 v2 => Sys2Proof.Machine.execFlush v1 v2 s
  | .commandComplete v1 v2 => Sys2Proof.Machine.execCommandComplete v1 v2 s
  | .launchBind v1 v2 v3 => Sys2Proof.Machine.execLaunchBind v1 v2 v3 s
  | .remoteCoreReserve v1 v2 v3 => Sys2Proof.Machine.execRemoteCoreReserve v1 v2 v3 s
  | .rootSyncRelease v1 v2 => Sys2Proof.Machine.execRootSyncRelease v1 v2 s
  | .launchComplete v1 v2 => Sys2Proof.Machine.execLaunchComplete v1 v2 s
  | .preempt v1 v2 => Sys2Proof.Machine.execPreempt v1 v2 s
  | .resume v1 v2 v3 => Sys2Proof.Machine.execResume v1 v2 v3 s
  | .selfTestDone v1 v2 v3 => Sys2Proof.Machine.execSelfTestDone v1 v2 v3 s
  | .dupMismatch v1 v2 => Sys2Proof.Machine.execDupMismatch v1 v2 s
  | .eccinj v1 v2 => Sys2Proof.Machine.execEccinj v1 v2 s
  | .errlog v1 => Sys2Proof.Machine.execErrlog v1 s
  | .evlog v1 => Sys2Proof.Machine.execEvlog v1 s
  | .coldReset v1 v2 => Sys2Proof.Machine.execColdReset v1 v2 s
  | .reset v1 v2 v3 => Sys2Proof.Machine.execReset v1 v2 v3 s
  | .fwctlGo v1 v2 => Sys2Proof.Machine.execFwctlGo v1 v2 s
  | .fwUpdateDone v1 v2 => Sys2Proof.Machine.execFwUpdateDone v1 v2 s
  | .keysel v1 v2 => Sys2Proof.Machine.execKeysel v1 v2 s
  | .cseminc v1 v2 => Sys2Proof.Machine.execCseminc v1 v2 s
  | .islset v1 v2 => Sys2Proof.Machine.execIslset v1 v2 s
  | .freqChangeDone v1 v2 => Sys2Proof.Machine.execFreqChangeDone v1 v2 s
  | .powerWindow v1 v2 v3 => Sys2Proof.Machine.execPowerWindow v1 v2 v3 s
  | .thermalCeil v1 v2 v3 => Sys2Proof.Machine.execThermalCeil v1 v2 v3 s
  | .thermalClear v1 v2 v3 => Sys2Proof.Machine.execThermalClear v1 v2 v3 s
  | .thermalTrip v1 v2 => Sys2Proof.Machine.execThermalTrip v1 v2 s
  | .supplyFault v1 v2 => Sys2Proof.Machine.execSupplyFault v1 v2 s
  | .regWrite v1 v2 v3 v4 => Sys2Proof.Machine.execRegWrite v1 v2 v3 v4 s
  | .syswinWrite v1 v2 v3 v4 => Sys2Proof.Machine.execSyswinWrite v1 v2 v3 v4 s
  | .obsWrite v1 v2 v3 => Sys2Proof.Machine.execObsWrite v1 v2 v3 s
  | .tdispRequest v1 v2 v3 => Sys2Proof.Machine.execTdispRequest v1 v2 v3 s
  | .spdmRequest v1 v2 => Sys2Proof.Machine.execSpdmRequest v1 v2 s
  | .flitCrcError v1 v2 => Sys2Proof.Machine.execFlitCrcError v1 v2 s
  | .laneLockLoss v1 v2 => Sys2Proof.Machine.execLaneLockLoss v1 v2 s
  | .laneLockRegain v1 v2 => Sys2Proof.Machine.execLaneLockRegain v1 v2 s
  | .islandSupplyReturn v1 v2 => Sys2Proof.Machine.execIslandSupplyReturn v1 v2 s

end Sys2Proof.Machine
end

