-- ==== Sys2Proof/Machine/Step.lean ====
section
/-! DEFINITION. One step of the machine: a turn, and the time that passes with it. -/

namespace Sys2Proof.Machine
open Sys2Proof

/-- One step: what State.next chooses runs, and time passes (R6, R22; log 2, 3). -/
def step (s : State) : Host.Outcome State Fault Refusal :=
  match s.next exec with
  | .next u => .next u.advance
  | .fault r => .fault r
  | .refused r => .refused r

/-- The state with an instruction of nbits bits, w, where the next step fetches and runs it (log 1): 16 bytes, those above
nbits zero. -/
def State.withFetchWord (s : State) (nbits w : Nat) : State := s.placed (natBytes 16 (w % 2 ^ nbits))

end Sys2Proof.Machine
end

