-- ==== Sys2Proof/Safety.lean ====
section
/-! DEFINITION. The terms that claims about runs use: the context whose turn it is, when an instruction at its head has
nothing in its way, what its retirement leaves, and the invariants of the machine's data. -/

namespace Sys2Proof.Machine
open Sys2Proof

/-! ## The context whose turn it is -/

/-- The core of the context whose turn it is. -/
def State.here (s : State) : Core := s.core s.cur.dev s.cur.core

/-- The context whose turn it is. -/
def State.ctxHere (s : State) : Context := s.here.ctx s.cur.ctx

/-- Its registers. -/
def State.regsHere (s : State) : Regs := s.ctxHere.regs

/-- The environment in which it runs. -/
def State.envHere (s : State) (b : Binding) : Env := s.env s.cur b

/-- The state with another core in that core's place, and nothing else changed. -/
def State.put (s : State) (c : Core) : State := s.setCore s.cur.dev s.cur.core c

/-! ## An instruction with nothing in its way -/

/-- The context is live on a core bound by b, unpaired, no block signature is armed, no injected error is about, and no kill
waits for a commit (R16, R395, R402, R405, R406). -/
abbrev Quiet (s : State) (b : Binding) : Prop :=
  s.here.bound = some b ∧ b.peer = none ∧ b.pair = false ∧ s.ctxHere.st.live = true ∧ s.ctxHere.sig = none
    ∧ s.here.eccArm = none ∧ s.here.eccS = [] ∧ s.here.eccV = [] ∧ s.here.eccG = [] ∧ s.here.killWait = none

/-- Beside that, the checks of R165 pass: the context's role allows the instruction, and its registers lie within the kernel's
bounds. -/
abbrev Passes (s : State) (b : Binding) (i : Instr) : Prop :=
  Quiet s b ∧ roleOk i s.cur.ctx = true ∧ boundsTrap b.hdr i = none

/-- Beside that, its predicate is true. -/
abbrev Clear (s : State) (b : Binding) (i : Instr) : Prop := Passes s b i ∧ runs s.regsHere i.pred = true

/-! ## Retirement -/

/-- What retiring leaves of a context whose registers have become R and whose pc goes to next (R23, R189, R368). -/
def Context.ran (x : Context) (R : Regs) (next : Word) : Context :=
  { x with
    regs := R, pc := next, st := .ready, wait := none, watchdog := 0, walkErr := none
    region := { x.region with retired := x.region.retired + 1 } }

/-- The sequential successor of an instruction at the head (R155, R189). -/
def State.succHere (s : State) (b : Binding) (i : Instr) : Word :=
  seqNext (s.padWord s.here b.asid s.ctxHere.pc) s.ctxHere.pc i.bytes

/-- An instruction has retired: the context's registers are R, its pc is next, and nothing else has changed. -/
def State.ranTo (s : State) (R : Regs) (next : Word) : State :=
  s.put (s.here.setCtx s.cur.ctx (s.ctxHere.ran R next))

/-- An instruction has retired to its sequential successor with the registers R. -/
def State.ran (s : State) (b : Binding) (i : Instr) (R : Regs) : State := s.ranTo R (s.succHere b i)

/-- An instruction has retired to its sequential successor, the core's other state being that of c. -/
def State.ranIn (s : State) (b : Binding) (i : Instr) (c : Core) (R : Regs) : State :=
  s.put (c.setCtx s.cur.ctx ((c.ctx s.cur.ctx).ran R (s.succHere b i)))

/-- An instruction with nothing in its way retires to its sequential successor with the registers R, and changes nothing
else. -/
def Computes (i : Instr) (R : State → Regs) : Prop :=
  ∀ s b, Clear s b i → exec i s = .next (s.ran b i (R s))

/-- An instruction writes f of s[a] and its second operand to s[d] (R179); s0 stays 0 (R160). -/
def Writes2 (i : Instr) (d a : SReg) (x : Src2) (f : Word → Word → Word) : Prop :=
  Computes i (fun s => s.regsHere.setS d (f (s.regsHere.getS a) (src2Val s.regsHere x)))

/-- An instruction writes f of s[a] to s[d]. -/
def Writes1 (i : Instr) (d a : SReg) (f : Word → Word) : Prop :=
  Computes i (fun s => s.regsHere.setS d (f (s.regsHere.getS a)))

/-- An instruction writes a bit to p[d]; p0 stays true (R160). -/
def WritesP (i : Instr) (d : PReg) (f : Regs → Bool) : Prop := Computes i (fun s => s.regsHere.setP d (f s.regsHere))

/-- The instruction at the head has trapped (R196, R362): TPC its address, TWORD its bits. -/
def State.trapHere (s : State) (b : Binding) (i : Instr) (t : Trap) : State :=
  let r := takeTrap (s.envHere b) s.here s.ctxHere.pc i.word t
  r.post (s.put r.core)

/-- The instruction at the head has trapped, the core's other state being that of c (R196, R362). -/
def State.trapIn (s : State) (b : Binding) (i : Instr) (c : Core) (t : Trap) : State :=
  let r := takeTrap (s.envHere b) c s.ctxHere.pc i.word t
  r.post (s.put r.core)

/-- Nothing keeps a commit from being whole at once (R39): no handler is active, no deferred fault is recorded, and nothing is
withheld. -/
abbrev CanCommit (x : Context) : Prop :=
  x.trap.act = false ∧ x.committing = false ∧ x.deferred = none ∧ x.egress = [] ∧ x.hold = []

/-- What waiting at an instruction leaves (R16, R17): the core with the context stalled or parked. -/
def Core.waitsAt (c : Core) (n : Nat) (i : Instr) (code : Nat) (parked poll : Bool) (no left : Nat) : Core :=
  let x := c.ctx n
  match x.wait with
  | some w => c.setCtx n { x with
      st := if parked then .parked else .stalled
      wait := some ⟨i, no, code, poll, w.order, left, none, false⟩ }
  | none => { c with nextId := c.nextId + 1 }.setCtx n { x with
      st := if parked then .parked else .stalled
      wait := some ⟨i, no, code, poll, c.nextId, left, none, false⟩ }

/-! ## Flowstone accesses -/

/-- The checks 1 to 5 of R209 pass for an access of n bytes at ea, under the translation t. -/
abbrev Reaches (s : State) (b : Binding) (acc : Access) (ea : Word) (align n : Nat) (kind : Kind) (wd : Width) (t : Tlb) : Prop :=
  canonical ea = true ∧ ea.toNat % align = 0 ∧ ea.toNat % 64 + n ≤ 64 ∧ lookup s.here s.ctxHere b.asid ea = .hit t
    ∧ permTrap t acc ea = none ∧ kindTrap t kind wd ea = none

/-- The level of a fused fence lies within the tree (R28). -/
abbrev LevelIn (b : Binding) (lv : Option Level) : Prop := ∀ k, lv = some k → k.toNat < b.tree.length

/-- The instruction at the head has no translation of an address: it stalls, and its die walks for it (R79). -/
def State.walkHere (s : State) (b : Binding) (i : Instr) (va : Word) : State :=
  (s.put (s.here.waitsAt s.cur.ctx i 0 false true 0 0)).askWalk s.cur.dev ⟨dieOf s.cur.core, .ctx s.cur.core s.cur.ctx, b.asid, va⟩

/-! ## Engine commands at issue -/

/-- The checks of R262 that come before the region check pass, for a command that goes into an engine queue: extent, alignment, slot and
tag state, stash windows, determinism. -/
def EngineChecks (s : State) (b : Binding) (i : Instr) : Prop :=
  let e := s.envHere b
  let c := s.here
  let r := s.regsHere
  let inside (a : Word) (n : Nat) := a.toNat + n ≤ b.hdr.lstore ∧ a.toNat % 64 = 0
  let copy (loc glob : Word) (n : Nat) := inside loc n ∧ glob.toNat % 64 = 0 ∧ n % 64 = 0 ∧ 0 < n ∧ n ≤ 262144 ∧ canonical glob = true
  match i with
  | .mload _ mf o a off _ =>
    let ea := r.getS a + off.signExtend 64
    inside ea (mloadBytes mf) ∧ ((c.slot o.toNat).isFree = false ∧ (c.slot o.toNat).owner = s.cur.ctx)
      ∧ detSrc e c (ea.toNat, mloadBytes mf) = true ∧ detQueues e c .mx (ea.toNat, mloadBytes mf) (0, 0) = true
  | .mma _ mf _ acc o1 o2 _ => mmaTrap c mf o1 o2 = none ∧ detAcc e acc = true
  | .mzero _ _ acc _ => detAcc e acc = true
  | .mwrite _ _ acc a off _ =>
    let ea := r.getS a + off.signExtend 64
    inside ea 16384 ∧ detSrc e c (ea.toNat, 16384) = true ∧ detQueues e c .mx (ea.toNat, 16384) (0, 0) = true ∧ detAcc e acc = true
  | .mstore _ tag acc _ a off _ =>
    let ea := r.getS a + off.signExtend 64
    let n := 4096 * tagBytes tag
    inside ea n ∧ readTagOk (c.acc acc).nextVis.accInt tag = true ∧ winTrap c .write ea.toNat n ea = none
      ∧ detDst e c (ea.toNat, n) = true ∧ detQueues e c .mx (0, 0) (ea.toNat, n) = true ∧ detAcc e acc = true
  | .cpyFetch _ d a v _ _ =>
    let n := (r.getS v).toNat
    copy (r.getS d) (r.getS a) n ∧ winTrap c .write (r.getS d).toNat n (r.getS d) = none
      ∧ detDst e c ((r.getS d).toNat, n) = true ∧ detQueues e c .cx (0, 0) ((r.getS d).toNat, n) = true
  | .cpyPutj _ d a v _ _ _ =>
    let n := (r.getS v).toNat
    copy (r.getS d) (r.getS a) n ∧ detSrc e c ((r.getS d).toNat, n) = true ∧ detQueues e c .cx ((r.getS d).toNat, n) (0, 0) = true
  | _ => False

/-- The region check of R41 fails: in a D = 1 region, a command that signals, or an accumulating MMA. -/
def regionForbids (s : State) (i : Instr) : Prop :=
  s.ctxHere.region.d = true ∧ ((cmdSync i).sig ≠ none ∨ match i with
    | .mma _ _ ow _ _ _ _ => ow = false
    | _ => False)

/-- The range of local store that a command will write (R89). -/
def commandDst (r : Regs) : Instr → ByteRange
  | .mstore _ tag _ _ a off _ => ((r.getS a + off.signExtend 64).toNat, 4096 * tagBytes tag)
  | .cpyFetch _ d _ v _ _ => ((r.getS d).toNat, (r.getS v).toNat)
  | _ => (0, 0)

/-! ## Vector results -/

/-- A vector instruction with nothing in its way whose tag checks pass retires to its sequential successor, with registers R
that stand as P says, and changes nothing else (R234). -/
def VecRuns (i : Instr) (checks : List (VReg × TagReq)) (P : State → Regs → Prop) : Prop :=
  ∀ s b, Clear s b i → (∀ c ∈ checks, tagCheck s.regsHere c = none) → ∃ R, exec i s = .next (s.ran b i R) ∧ P s R

/-- The same where the registers left depend on the launch too. -/
def VecRunsIn (i : Instr) (checks : List (VReg × TagReq)) (P : State → Binding → Regs → Prop) : Prop :=
  ∀ s b, Clear s b i → (∀ c ∈ checks, tagCheck s.regsHere c = none) → ∃ R, exec i s = .next (s.ran b i R) ∧ P s b R

/-- The tag checks of a vector instruction, in their order (R137, R234, R238 to R258). -/
def vectorChecks : Instr → Option (List (VReg × TagReq))
  | .vadd _ f vm d a b | .vsub _ f vm d a b | .vmul _ f vm d a b | .vdiv _ f vm d a b | .vmin _ f _ vm d a b | .vmax _ f _ vm d a b
  | .viadd _ f _ _ vm d a b | .visub _ f _ _ vm d a b | .vimul _ f _ _ _ vm d a b =>
    some ([(a, arithReq f), (b, arithReq f)] ++ keepCheck vm d)
  | .vabs _ f _ vm d a | .vneg _ f _ vm d a | .vsqrt _ f vm d a | .vrcp _ f vm d a | .vsfu _ f _ vm d a =>
    some ((a, arithReq f) :: keepCheck vm d)
  | .vfma _ f _ _ vm d a b c => some ([(a, .exact f), (b, .exact f), (c, .exact f)] ++ keepCheck vm d)
  | .vand _ _ vm d a b | .vor _ _ vm d a b | .vxor _ _ vm d a b => some ([(a, .blind), (b, .blind)] ++ keepCheck vm d)
  | .vshl _ f vm d a n | .vshr _ f vm d a n | .vsar _ f vm d a n =>
    some ((a, arithReq f) :: n.regs.map (·, arithReq f) ++ keepCheck vm d)
  | .vcmp _ f _ _ _ _ a b => some [(a, arithReq f), (b, arithReq f)]
  | .vsel _ _ _ _ a b => some [(a, .blind), (b, .blind)]
  | .vperm _ f vm d a b c => some ([(a, .blind), (b, .blind), (c, .int (widthTag f))] ++ keepCheck vm d)
  | .vshuf _ _ vm d a pat => some ((a, .blind) :: pat.regs.map (·, .blind) ++ keepCheck vm d)
  | .vbcast _ _ _ vm d _ | .viota _ _ _ vm d _ => some (keepCheck vm d)
  | .vext _ _ _ _ a _ => some [(a, .blind)]
  | .vins _ _ d _ _ => some [(d, .blind)]
  | .vred _ f _ _ _ _ _ a | .vscan _ f _ _ _ _ _ a => some [(a, arithReq f)]
  | .vcvt _ df sf _ _ _ _ vm d a =>
    some ((a, arithReq sf) :: (if tagElems sf < tagElems df then [(d, .blind)] else keepCheck vm d))
  | .vqblk _ sf sc _ _ d a c => some [(a, .exact sf), (c, if sc then .exact 13 else .blind), (d, .blind)]
  | .vdqblk _ _ _ _ a c => some [(a, .exact 12), (c, .exact 13)]
  | .vkey _ f vm d a => some ((a, if f == 6 then .exact 7 else .int 5) :: keepCheck vm d)
  | .vtag _ _ _ a => some [(a, .blind)]
  | .vmov _ _ vm d a => some ((a, .blind) :: keepCheck vm d)
  | .vzero .. => some []
  | _ => none

/-- Node k of level n of the pairwise tree of R252. -/
def treeNode {α : Type} (c : α → α → α) (leaf : Nat → α) : Nat → Nat → α
  | 0, k => leaf k
  | n + 1, k => c (treeNode c leaf n (2 * k)) (treeNode c leaf n (2 * k + 1))

/-- Lane k after n steps of the scan of R253. -/
def scanNode {α : Type} (c : α → α → α) (leaf : Nat → α) : Nat → Nat → α
  | 0, k => leaf k
  | n + 1, k => if k < 2 ^ n then scanNode c leaf n k else c (scanNode c leaf n (k - 2 ^ n)) (scanNode c leaf n k)

/-- R holds, in v[d], lane k of g where the mask enables k, zero or the old bits elsewhere, and the tag t; the flags of the
enabled lanes are ORed into FLAGS; every other register is that of r (R233, R235). -/
def LanesSet (r R : Regs) (f : Tag) (vm : VMask) (d : VReg) (t : Tag) (g : Nat → Nat × Word) : Prop :=
  R = (r.setV d (R.getV d)).orFlags (orAll (((List.range (tagElems f)).filter (laneOn r vm.mask)).map (fun k => (g k).2)))
    ∧ (R.getV d).tag = t
    ∧ ∀ k, k < tagElems f → lane R f d k =
        if laneOn r vm.mask k = true then (g k).1 % 2 ^ tagBits f else if vm.zm = true then 0 else lane r f d k

/-- A lane-wise instruction on one source. -/
def Lanes1 (i : Instr) (f : Tag) (vm : VMask) (d a : VReg) (g : Nat → Nat × Word) : Prop :=
  VecRuns i ((a, arithReq f) :: keepCheck vm d) (fun s R =>
    LanesSet s.regsHere R f vm d f (fun k => g (lane s.regsHere f a k)))

/-- A lane-wise instruction on two sources. -/
def Lanes2 (i : Instr) (f : Tag) (vm : VMask) (d a b : VReg) (g : Nat → Nat → Nat × Word) : Prop :=
  VecRuns i ([(a, arithReq f), (b, arithReq f)] ++ keepCheck vm d) (fun s R =>
    LanesSet s.regsHere R f vm d f (fun k => g (lane s.regsHere f a k) (lane s.regsHere f b k)))

/-- A lane-wise instruction that takes its sources whatever their tag, but 15 (R137): lane k of the result is g k. -/
def LanesBlind (i : Instr) (f : Tag) (vm : VMask) (d : VReg) (srcs : List VReg) (g : Regs → Nat → Nat) : Prop :=
  VecRuns i (srcs.map (·, .blind) ++ keepCheck vm d) (fun s R =>
    LanesSet s.regsHere R f vm d f (fun k => (g s.regsHere k, 0)))

/-! ## Agents other than the issue stage -/

/-- A context, wherever it is. -/
def State.ctxAt (s : State) (w : Who) : Context := (s.core w.dev w.core).ctx w.ctx

/-- A core that a launch has bound with b, and that has no partner. -/
abbrev Alone (s : State) (d c : Nat) (b : Binding) : Prop := (s.core d c).bound = some b ∧ b.peer = none

/-- A launch of device d with accession number a, that has not ended. -/
abbrev Runs (s : State) (d a : Nat) (l : Launch) : Prop :=
  (s.device d).launch? a = some l ∧ l.code ≠ 14 ∧ l.code ≠ 15 ∧ l.fault = none

/-- What a thread of a device runs now: the command or node r, of type op, for the queue q (R315, R322, R333). -/
abbrev RunsCommand (s : State) (d slot op : Nat) (q : QSlot) (r : Running) : Prop :=
  (s.device d).slot slot = q ∧ (aget s.devs d).isSome = true ∧ q.stop = false ∧ q.cmd.isSome = true ∧ q.current = some r
    ∧ r.op = op ∧ r.finished = false

/-- What a thread runs: its command, or the node of its graph. -/
def State.runOf (s : State) (d slot : Nat) : Option Running := ((s.device d).slot slot).current

/-- The launch l of device d has the fault f noted, and is to be stopped (R372). -/
abbrev Noted (u : State) (d : Nat) (l : Launch) (f : FaultRec) : Prop :=
  (u.device d).launch? l.acc = some { l with fault := some f, stopping := true, saving := false }

/-! ## Invariants -/

/-- Every list of memory cells has its canonical form: the devices' memories, the local stores of their cores, and those that
pre-empted launches have saved. -/
def State.Canonical (s : State) : Prop :=
  ∀ p ∈ s.devs, Memory.wf p.2.mem = true
    ∧ (∀ q ∈ p.2.cores, Memory.wf q.2.ls.bytes = true)
    ∧ (∀ l ∈ p.2.launches, ∀ q ∈ l.saved, Memory.wf q.2.ls.bytes = true)

end Sys2Proof.Machine
end

