-- ==== Sys2Proof/Certificates/Slice0/Obligations.lean ====
section
/-! DEFINITION. The statements for the provers. Computes, Writes1, Writes2, WritesP, Clear and ran are those of Sys2Proof/Safety.lean. -/

open Sys2Proof Sys2Proof.Machine

/-! ## Scalar instructions -/

/-- R181: ADD through MAX each write their table's result to s[d]. R182: ABS, CLZ, CTZ, POPC and BREV write s[d] as the table
gives. R183: BFX extracts a field, sign- or zero-extended; BFI replaces one. R184 to R186: SEL, LI, LIH and LEA. -/
def Obligations.ScalarArithmetic : Prop :=
  (∀ (p : Pred) (n : Bool) (d a : SReg) (x : Src2),
     Writes2 (.add p d a x) d a x (fun A B => A + B)
     ∧ Writes2 (.sub p d a x) d a x (fun A B => A - B)
     ∧ Writes2 (.mul p d a x) d a x (fun A B => A * B)
     ∧ Writes2 (.mulh p n d a x) d a x (fun A B =>
         if n then BitVec.ofNat 64 (A.toNat * B.toNat / 2 ^ 64) else BitVec.ofInt 64 (A.toInt * B.toInt / 2 ^ 64))
     ∧ Writes2 (.div p n d a x) d a x (fun A B =>
         if B = 0 then BitVec.allOnes 64 else if n then BitVec.ofNat 64 (A.toNat / B.toNat) else BitVec.ofInt 64 (A.toInt.tdiv B.toInt))
     ∧ Writes2 (.rem p n d a x) d a x (fun A B =>
         if B = 0 then A else if n then BitVec.ofNat 64 (A.toNat % B.toNat) else BitVec.ofInt 64 (A.toInt.tmod B.toInt))
     ∧ Writes2 (.and p d a x) d a x (fun A B => A &&& B)
     ∧ Writes2 (.or p d a x) d a x (fun A B => A ||| B)
     ∧ Writes2 (.xor p d a x) d a x (fun A B => A ^^^ B)
     ∧ Writes2 (.andn p d a x) d a x (fun A B => A &&& ~~~B)
     ∧ Writes2 (.shl p d a x) d a x (fun A B => if 64 ≤ B.toNat then 0 else A <<< B.toNat)
     ∧ Writes2 (.shr p d a x) d a x (fun A B => if 64 ≤ B.toNat then 0 else A >>> B.toNat)
     ∧ Writes2 (.sar p d a x) d a x (fun A B =>
         if 64 ≤ B.toNat then (if A.getLsbD 63 then BitVec.allOnes 64 else 0) else A.sshiftRight B.toNat)
     ∧ Writes2 (.rol p d a x) d a x (fun A B => A.rotateLeft (B.toNat % 64))
     ∧ Writes2 (.min p n d a x) d a x (fun A B =>
         if n then (if A.toNat ≤ B.toNat then A else B) else if A.toInt ≤ B.toInt then A else B)
     ∧ Writes2 (.max p n d a x) d a x (fun A B =>
         if n then (if A.toNat ≤ B.toNat then B else A) else if A.toInt ≤ B.toInt then B else A))
  ∧ (∀ (p : Pred) (d a : SReg),
       Writes1 (.abs p d a) d a (fun A => BitVec.ofNat 64 A.toInt.natAbs)
       ∧ (∃ f : Word → Word, Writes1 (.clz p d a) d a f ∧ ∀ A, (f A).toNat ≤ 64
           ∧ (∀ k, 64 - (f A).toNat ≤ k → A.getLsbD k = false)
           ∧ ((f A).toNat < 64 → A.getLsbD (63 - (f A).toNat) = true))
       ∧ (∃ f : Word → Word, Writes1 (.ctz p d a) d a f ∧ ∀ A, (f A).toNat ≤ 64
           ∧ (∀ k, k < (f A).toNat → A.getLsbD k = false)
           ∧ ((f A).toNat < 64 → A.getLsbD (f A).toNat = true))
       ∧ Writes1 (.popc p d a) d a (fun A => BitVec.ofNat 64 ((List.range 64).countP A.getLsbD))
       ∧ (∃ f : Word → Word, Writes1 (.brev p d a) d a f ∧ ∀ A i, i < 64 → (f A).getLsbD i = A.getLsbD (63 - i)))
  ∧ (∀ (p : Pred) (n : Bool) (d a : SReg) (pos : BitVec 6) (len : BitVec 7), 1 ≤ len.toNat → pos.toNat + len.toNat ≤ 64 →
       (∃ f : Word → Word, Writes1 (.bfx p n d a pos len) d a f ∧ ∀ A i, i < 64 →
         (f A).getLsbD i = if i < len.toNat then A.getLsbD (pos.toNat + i) else !n && A.getLsbD (pos.toNat + len.toNat - 1))
       ∧ (∃ f : Word → Word → Word,
           Computes (.bfi p d a pos len) (fun s => s.regsHere.setS d (f (s.regsHere.getS d) (s.regsHere.getS a)))
           ∧ ∀ D A i, i < 64 → (f D A).getLsbD i =
             if pos.toNat ≤ i ∧ i < pos.toNat + len.toNat then A.getLsbD (i - pos.toNat) else D.getLsbD i))
  ∧ (∀ (p : Pred) (d a b : SReg) (k : PReg) (neg : Bool) (v : BitVec 32) (sh : BitVec 3) (x : Disp),
       Computes (.sel p d a b k neg) (fun s =>
         s.regsHere.setS d (if (s.regsHere.getP k ^^ neg) = true then s.regsHere.getS a else s.regsHere.getS b))
       ∧ Computes (.li p false d v) (fun s => s.regsHere.setS d (v.signExtend 64))
       ∧ Computes (.li p true d v) (fun s => s.regsHere.setS d (v.setWidth 64))
       ∧ Computes (.lih p d v) (fun s => s.regsHere.setS d (v ++ (s.regsHere.getS d).setWidth 32))
       ∧ Computes (.lea p d (.scaled a b sh)) (fun s => s.regsHere.setS d (s.regsHere.getS a + s.regsHere.getS b <<< sh.toNat))
       ∧ Computes (.lea p d (.disp a x)) (fun s => s.regsHere.setS d (s.regsHere.getS a + dispVal x))
       ∧ Computes (.lea p d (.label x)) (fun s => s.regsHere.setS d (s.ctxHere.pc + dispVal x)))

/-- R187, R188: CMP writes p[d] := (A cond src2); the predicate instructions write as their table gives. -/
def Obligations.ScalarPredicates : Prop :=
  ∀ (p : Pred) (n : Bool) (d a b : PReg) (ds as_ : SReg) (x : Src2),
    WritesP (.cmp p .eq n d as_ x) d (fun r => r.getS as_ == src2Val r x)
    ∧ WritesP (.cmp p .ne n d as_ x) d (fun r => r.getS as_ != src2Val r x)
    ∧ WritesP (.cmp p .lt n d as_ x) d (fun r =>
        if n then decide ((r.getS as_).toNat < (src2Val r x).toNat) else decide ((r.getS as_).toInt < (src2Val r x).toInt))
    ∧ WritesP (.cmp p .ge n d as_ x) d (fun r =>
        if n then decide ((src2Val r x).toNat ≤ (r.getS as_).toNat) else decide ((src2Val r x).toInt ≤ (r.getS as_).toInt))
    ∧ WritesP (.cmp p .le n d as_ x) d (fun r =>
        if n then decide ((r.getS as_).toNat ≤ (src2Val r x).toNat) else decide ((r.getS as_).toInt ≤ (src2Val r x).toInt))
    ∧ WritesP (.cmp p .gt n d as_ x) d (fun r =>
        if n then decide ((src2Val r x).toNat < (r.getS as_).toNat) else decide ((src2Val r x).toInt < (r.getS as_).toInt))
    ∧ WritesP (.pand p d a b) d (fun r => r.getP a && r.getP b)
    ∧ WritesP (.por p d a b) d (fun r => r.getP a || r.getP b)
    ∧ WritesP (.pxor p d a b) d (fun r => r.getP a ^^ r.getP b)
    ∧ WritesP (.pnot p d a) d (fun r => !r.getP a)
    ∧ WritesP (.pmov p (.pp d a)) d (fun r => r.getP a)
    ∧ WritesP (.pmov p (.ps d as_)) d (fun r => decide (r.getS as_ ≠ 0))
    ∧ Computes (.pmov p (.sp ds a)) (fun s => s.regsHere.setS ds (if s.regsHere.getP a then 1 else 0))

/-- R160, R161: writing s0 or p0 changes nothing, s0 reads 0 and p0 reads true; any other register reads what was written,
and a write leaves every other register alone.
That the accessors alone keep s0 and p0 is the model's reading (log 18). -/
def Obligations.RegisterFile : Prop :=
  ∀ (r : Regs) (i j : SReg) (k l : PReg) (v : Word) (w : Bool),
    r.getS 0 = 0 ∧ r.setS 0 v = r ∧ r.getP 0 = true ∧ r.setP 0 w = r
    ∧ (i ≠ 0 → (r.setS i v).getS i = v) ∧ (i ≠ j → (r.setS i v).getS j = r.getS j)
    ∧ (k ≠ 0 → (r.setP k w).getP k = w) ∧ (k ≠ l → (r.setP k w).getP l = r.getP l)
    ∧ (r.setS i v).p = r.p ∧ (r.setS i v).v = r.v ∧ (r.setS i v).m = r.m ∧ (r.setS i v).flags = r.flags

/-! ## Control flow, traps, helpers (R189-R202) -/

/-- R189 to R191: a transfer with a valid target goes there; a call leaves the sequential successor in its link register; LOOP
counts down and transfers until the count is 0. R189: a transfer whose target fails R155 traps with MISALIGNED, with the target
in TADDR, and does not retire. R192, R402: NOP only advances the pc; BBSIG retires and arms the signature check with its
literal. -/
def Obligations.Transfers : Prop :=
  (∀ (s : State) (b : Binding) (p : Pred) (t : Disp) (d a : SReg),
     (Clear s b (.br p t) → targetInvalid (s.ctxHere.pc + dispVal t <<< 2) = false →
       exec (.br p t) s = .next (s.ranTo s.regsHere (s.ctxHere.pc + dispVal t <<< 2)))
     ∧ (Clear s b (.bri p a) → targetInvalid (s.regsHere.getS a) = false →
       exec (.bri p a) s = .next (s.ranTo s.regsHere (s.regsHere.getS a)))
     ∧ (Clear s b (.call p d t) → targetInvalid (s.ctxHere.pc + dispVal t <<< 2) = false →
       exec (.call p d t) s =
         .next (s.ranTo (s.regsHere.setS d (s.succHere b (.call p d t))) (s.ctxHere.pc + dispVal t <<< 2)))
     ∧ (Clear s b (.calli p d a) → targetInvalid (s.regsHere.getS a) = false →
       exec (.calli p d a) s = .next (s.ranTo (s.regsHere.setS d (s.succHere b (.calli p d a))) (s.regsHere.getS a)))
     ∧ (Clear s b (.ret p a) → targetInvalid (s.regsHere.getS a) = false →
       exec (.ret p a) s = .next (s.ranTo s.regsHere (s.regsHere.getS a)))
     ∧ (Clear s b (.loop p d t) → s.regsHere.getS d ≠ 1 → targetInvalid (s.ctxHere.pc + dispVal t <<< 2) = false →
       exec (.loop p d t) s =
         .next (s.ranTo (s.regsHere.setS d (s.regsHere.getS d - 1)) (s.ctxHere.pc + dispVal t <<< 2)))
     ∧ (Clear s b (.loop p d t) → s.regsHere.getS d = 1 →
       exec (.loop p d t) s = .next (s.ran b (.loop p d t) (s.regsHere.setS d 0))))
  ∧ (∀ (s : State) (b : Binding) (p : Pred) (t : Disp) (d a : SReg),
       (Clear s b (.br p t) → targetInvalid (s.ctxHere.pc + dispVal t <<< 2) = true →
         exec (.br p t) s = .next (s.trapHere b (.br p t) ⟨Cause.misaligned, s.ctxHere.pc + dispVal t <<< 2, 0⟩))
       ∧ (Clear s b (.bri p a) → targetInvalid (s.regsHere.getS a) = true →
         exec (.bri p a) s = .next (s.trapHere b (.bri p a) ⟨Cause.misaligned, s.regsHere.getS a, 0⟩))
       ∧ (Clear s b (.call p d t) → targetInvalid (s.ctxHere.pc + dispVal t <<< 2) = true →
         exec (.call p d t) s = .next (s.trapHere b (.call p d t) ⟨Cause.misaligned, s.ctxHere.pc + dispVal t <<< 2, 0⟩))
       ∧ (Clear s b (.calli p d a) → targetInvalid (s.regsHere.getS a) = true →
         exec (.calli p d a) s = .next (s.trapHere b (.calli p d a) ⟨Cause.misaligned, s.regsHere.getS a, 0⟩))
       ∧ (Clear s b (.ret p a) → targetInvalid (s.regsHere.getS a) = true →
         exec (.ret p a) s = .next (s.trapHere b (.ret p a) ⟨Cause.misaligned, s.regsHere.getS a, 0⟩))
       ∧ (Clear s b (.loop p d t) → s.regsHere.getS d ≠ 1 → targetInvalid (s.ctxHere.pc + dispVal t <<< 2) = true →
         exec (.loop p d t) s = .next (s.trapHere b (.loop p d t) ⟨Cause.misaligned, s.ctxHere.pc + dispVal t <<< 2, 0⟩)))
  ∧ (∀ (p : Pred) (lit : Option (BitVec 32)) (v : BitVec 32),
       Computes (.nop p lit) (fun s => s.regsHere)
       ∧ ∀ s b, Clear s b (.bbsig v) →
         exec (.bbsig v) s = .next (s.put (s.here.setCtx s.cur.ctx
           { s.ctxHere.ran s.regsHere (s.succHere b (.bbsig v)) with sig := some ⟨v, 0xFFFFFFFF, s.ctxHere.pc, false⟩ })))

/-- A predicated instruction whose predicate is false retires at once and does nothing else (R160): every instruction that has a
predicate field, of every family. -/
def Obligations.PredicatedOff : Prop :=
  ∀ (s : State) (b : Binding) (i : Instr), Passes s b i → runs s.regsHere i.pred = false → exec i s = .next (s.ran b i s.regsHere)

/-- R196: where the context is not in a handler and TVEC names one, taking a trap writes TPC, TWORD, TADDR, TAUX and TCAUSE,
sets act, and goes to TVEC with the registers, egress, posts and region as they are. Outside the context only the accumulators
change: each exchanges nothing, keeps its banks, and loses the MSWAP and the stalled MREAD of the context, if it had them; the
others' stay in their order. R196, R372: where the context is in a handler already, or TVEC is 0 or not a valid target, a trap
ends the launch: its record names the trap, and nested says whether a handler was active; the context stops at the instruction
with its registers as they are. -/
def Obligations.TakingATrap : Prop :=
  (∀ (e : Env) (c : Core) (tpc word : Word) (t : Trap), e.who.ctx < 11 →
     (c.ctx e.who.ctx).trap.act = false → (c.ctx e.who.ctx).trap.tvec ≠ 0 →
     targetInvalid (c.ctx e.who.ctx).trap.tvec = false →
     let x := c.ctx e.who.ctx
     let r := takeTrap e c tpc word t
     let y := r.core.ctx e.who.ctx
     y.pc = x.trap.tvec ∧ y.trap.tpc = tpc ∧ y.trap.tword = word ∧ y.trap.taddr = t.addr ∧ y.trap.taux = t.aux
       ∧ y.trap.tcause = BitVec.ofNat 64 (2 ^ 63 + t.cause % 65536) ∧ y.trap.tvec = x.trap.tvec
       ∧ y.regs = x.regs ∧ y.st = .ready ∧ y.wait = none ∧ y.egress = x.egress ∧ y.out = x.out ∧ y.region = x.region
       ∧ r.core = { c with ctxs := r.core.ctxs, acc0 := r.core.acc0, acc1 := r.core.acc1 }
       ∧ (∀ n, n ≠ e.who.ctx → r.core.ctx n = c.ctx n)
       ∧ (∀ s, r.post s = s))
  ∧ (∀ (e : Env) (c : Core) (tpc word : Word) (t : Trap) (k : Bool),
       let a := c.acc k
       let z := (takeTrap e c tpc word t).core.acc k
       z.vis = a.vis ∧ z.work = a.work ∧ z.swap = a.swap.eraseP (fun p => p.1 == e.who.ctx)
         ∧ z.reads.map (·.ctx) = (a.reads.map (·.ctx)).filter (fun n => n != e.who.ctx)
         ∧ ((∀ p ∈ a.swap, p.1 ≠ e.who.ctx) → z.reads = a.reads.filter (fun p => p.ctx != e.who.ctx)))
  ∧ (∀ (e : Env) (c : Core) (tpc word : Word) (t : Trap), e.who.ctx < 11 →
       ((c.ctx e.who.ctx).trap.act = true ∨ (c.ctx e.who.ctx).trap.tvec = 0
         ∨ targetInvalid (c.ctx e.who.ctx).trap.tvec = true) →
       let r := takeTrap e c tpc word t
       let y := r.core.ctx e.who.ctx
       (∀ s, r.post s = s.launchFault e.b.launch
         { cause := t.cause, nested := (c.ctx e.who.ctx).trap.act, src := 1, lcore := e.b.lcore, ctx := e.who.ctx, tpc := tpc
           tword := word, taddr := t.addr, taux := t.aux })
       ∧ y.pre = .stopped ∧ y.pc = (c.ctx e.who.ctx).pc ∧ y.regs = (c.ctx e.who.ctx).regs ∧ y.trap = (c.ctx e.who.ctx).trap
       ∧ (∀ n, n ≠ e.who.ctx → r.core.ctx n = c.ctx n) ∧ r.core.ls = c.ls ∧ r.core.mx = c.mx ∧ r.core.cx = c.cx)

/-- R198, R282: TRAP and BKPT retire and trap with SOFTWARE or BREAKPOINT, TPC their successor and TAUX their code; ILL traps
with ILLEGAL at its own address, and its bits [63:0] and [127:64] are in TWORD and TAUX. R199: in a handler TRET clears act and
goes to TPC, a return to an instruction that has committed going on with its wait (R368); outside one it traps with ILLEGAL; an
invalid TPC traps with MISALIGNED. R370: the return from a handler that a deferred fault's delivery entered restarts the halted
copies of the context, that whose fault it was at the offset that the handler leaves in TAUX, and none behind a line that failed since. -/
def Obligations.SoftwareTrapsAndReturn : Prop :=
  (∀ (s : State) (b : Binding) (p : Pred) (c24 : BitVec 24) (c12 : BitVec 12) (raw : BitVec 128),
     let after (i : Instr) := s.here.setCtx s.cur.ctx (s.ctxHere.ran s.regsHere (s.succHere b i))
     let nextOf (r : Res) : Host.Outcome State Fault Refusal := .next (r.post (s.put r.core))
     (Clear s b (.trap p c24) → exec (.trap p c24) s =
       nextOf (takeTrap (s.envHere b) (after (.trap p c24)) (s.succHere b (.trap p c24)) (Instr.trap p c24).word
         ⟨Cause.software, 0, c24.setWidth 64⟩))
     ∧ (Clear s b (.bkpt p c12) → exec (.bkpt p c12) s =
       nextOf (takeTrap (s.envHere b) (after (.bkpt p c12)) (s.succHere b (.bkpt p c12)) (Instr.bkpt p c12).word
         ⟨Cause.breakpoint, 0, c12.setWidth 64⟩))
     ∧ (Clear s b (.ill raw) → exec (.ill raw) s =
       nextOf (takeTrap (s.envHere b) s.here s.ctxHere.pc (raw.extractLsb' 0 64) ⟨Cause.illegal, 0, raw.extractLsb' 64 64⟩)))
  ∧ (∀ (s : State) (b : Binding), Clear s b .tret →
       (s.ctxHere.trap.act = false → exec .tret s = .next (s.trapHere b .tret ⟨Cause.illegal, 0, 0⟩))
       ∧ (s.ctxHere.trap.act = true → targetInvalid s.ctxHere.trap.tpc = true →
         exec .tret s = .next (s.trapHere b .tret ⟨Cause.misaligned, s.ctxHere.trap.tpc, 0⟩))
       ∧ (s.ctxHere.trap.act = true → targetInvalid s.ctxHere.trap.tpc = false →
         let y := { s.ctxHere.ran s.regsHere s.ctxHere.trap.tpc with
           trap := { s.ctxHere.trap with tcause := s.ctxHere.trap.tcause &&& 0xFFFF }
           delivered := none
           committed := s.ctxHere.committed && s.ctxHere.trap.tpc == s.ctxHere.region.entry }
         (s.ctxHere.delivered = none → exec .tret s = .next (s.put (s.here.setCtx s.cur.ctx y)))
         ∧ (∀ own, s.ctxHere.delivered = some own → exec .tret s = .next (s.put ({ s.here with cx := s.here.cx.map (fun (k : Cmd) =>
             let at_ := if own = some k.id then s.ctxHere.trap.taux.toNat % 2 ^ 32 / 64 * 64 else k.off
             if s.here.answersFor s.cur.ctx k && k.halted.isSome && k.recorded then
               { k with halted := none, recorded := false, low := none, off := min at_ (k.low.getD at_) }
             else k) }.setCtx s.cur.ctx y)))))

/-- R19, R201: HSTART gives an idle helper s1 to s7, TVEC and TOPX of the control context, the RNGCTR kept for its index, zero in
every other register (vector registers with tag 0, p0 true as always), and its start pc; the control context commits and goes on
behind it, in the implicit region. R20, R202: HEXIT commits and leaves the helper exited with its slots released; HWAIT on an idle
helper retires at once, on one that runs or whose posts are not all acknowledged it parks, and on an exited one it ORs the helper's
FLAGS into its own and makes it idle, or delivers the helper's deferred fault, the helper staying exited. R197, R201: HSTART of a
helper that is not there or not idle, or to an invalid target, traps, and leaves the helper as it is. -/
def Obligations.Helpers : Prop :=
  (∀ (s : State) (b : Binding) (p : Pred) (h : BitVec 4) (t : Disp), Clear s b (.hstart p h t) → s.cur.ctx = 0 →
     s.ctxHere.trap.act = false →
     let i : Instr := .hstart p h t
     let target := s.ctxHere.pc + dispVal t <<< 2
     let there := 1 ≤ h.toNat ∧ h.toNat ≤ b.hdr.helpers
     (CanCommit s.ctxHere → there → h.toNat ≤ 10 → (s.here.ctx h.toNat).st = .idle → targetInvalid target = false →
       ∃ u, exec i s = .next u
         ∧ let y := u.here.ctx h.toNat
           y.st = .ready ∧ y.pc = target
           ∧ (∀ r : SReg, y.regs.getS r = if 1 ≤ r.toNat ∧ r.toNat ≤ 7 then s.regsHere.getS r else 0)
           ∧ (∀ r, y.regs.getV r = ⟨0, 0⟩) ∧ (∀ r, y.regs.getP r = decide (r = 0)) ∧ (∀ r, y.regs.getM r = 0) ∧ y.regs.flags = 0
           ∧ y.regs.topx = s.regsHere.topx ∧ y.regs.rngctr = (s.here.ctx h.toNat).rngSaved
           ∧ y.trap = ⟨s.ctxHere.trap.tvec, 0, 0, 0, 0, 0⟩ ∧ y.egress = [] ∧ y.out = [] ∧ y.deferred = none
           ∧ y.region = ⟨target, true, true, allV b.hdr, allS b.hdr, 0, 0, false, false⟩
           ∧ u.ctxHere.st = .ready ∧ u.ctxHere.pc = s.succHere b i ∧ u.regsHere = s.regsHere
           ∧ u.ctxHere.region = ⟨s.succHere b i, true, true, allV b.hdr, allS b.hdr, 0, 0, false, false⟩
           ∧ (∀ n, n ≠ 0 → n ≠ h.toNat → u.here.ctx n = s.here.ctx n)
           ∧ u.here.commits = s.here.commits + 1 ∧ u.here.ls = s.here.ls ∧ u.net = s.net)
     ∧ (¬ there → exec i s = .next (s.trapHere b i (resBounds 4 h.toNat)))
     ∧ (there → (s.here.ctx h.toNat).st ≠ .idle →
       exec i s = .next (s.trapHere b i ⟨Cause.helperBusy, 0, BitVec.ofNat 64 h.toNat⟩))
     ∧ (there → (s.here.ctx h.toNat).st = .idle → targetInvalid target = true →
       exec i s = .next (s.trapHere b i ⟨Cause.misaligned, target, 0⟩)))
  ∧ (∀ (s : State) (b : Binding), Clear s b .hexit → s.cur.ctx ≠ 0 → CanCommit s.ctxHere →
       ∃ u, exec .hexit s = .next u ∧ u.ctxHere.st = .exited ∧ u.regsHere = s.regsHere ∧ u.ctxHere.rngSaved = s.regsHere.rngctr
         ∧ u.net = s.net ∧ u.here.ls = s.here.ls ∧ (∀ n, n ≠ s.cur.ctx → u.here.ctx n = s.here.ctx n)
         ∧ ∀ o, o < 16 → (s.here.slot o).isFree = false → (s.here.slot o).owner = s.cur.ctx → s.here.mx = [] →
             (u.here.slot o).st = .free)
  ∧ (∀ (s : State) (b : Binding) (p : Pred) (h : BitVec 4), Clear s b (.hwait p h) →
       let i : Instr := .hwait p h
       let x := s.here.ctx h.toNat
       (h.toNat = 0 ∨ b.hdr.helpers < h.toNat → exec i s = .next (s.trapHere b i (resBounds 4 h.toNat)))
       ∧ (1 ≤ h.toNat → h.toNat ≤ b.hdr.helpers → h.toNat ≤ 10 →
         (x.st = .idle → exec i s = .next (s.ran b i s.regsHere))
         ∧ (x.st.live = true ∨ (x.st = .exited ∧ x.out ≠ []) → exec i s = .next (s.put (s.here.waitsAt s.cur.ctx i 5 true true 0 0)))
         ∧ (s.cur.ctx = 0 → x.st = .exited → x.out = [] → x.deferred = none →
           exec i s = .next (s.ranIn b i (s.here.setCtx h.toNat { x with st := .idle }) (s.regsHere.orFlags x.regs.flags)))
         ∧ (∀ f, s.cur.ctx = 0 → x.st = .exited → x.out = [] → x.deferred = some f → s.ctxHere.canEnter = true →
           ∃ u, exec i s = .next u ∧ (u.here.ctx h.toNat).st = .exited ∧ (u.here.ctx h.toNat).deferred = none
             ∧ u.ctxHere.pc = s.ctxHere.trap.tvec ∧ u.ctxHere.trap.tpc = s.ctxHere.pc ∧ u.regsHere = s.regsHere
             ∧ u.ctxHere.trap.tcause = BitVec.ofNat 64 (2 ^ 63 + f.trap.cause % 65536))))

/-! ## Barriers, votes, regions (R28-R43, R203-R206) -/

/-- R203, R30: ARRIVE commits and registers the arrival of the next generation at its level, which counts at once when no post that
it covers is unacknowledged, and goes on in the implicit region. R28, R29: ARRIVE at a level that is no barrier level traps with
LEVEL_RANGE, and with RES_BOUNDS (resource 5) when the kernel's barriers are all in flight.
TAUX of RES_BOUNDS is the model's reading (log 38). -/
def Obligations.BarrierArrivals : Prop :=
  ∀ (s : State) (b : Binding) (k : Level), Clear s b (.arrive k) → s.ctxHere.trap.act = false →
    (CanCommit s.ctxHere → barrierLevel b k.toNat = true → s.here.arrivals.length < b.hdr.barriers →
      ∃ u a, exec (.arrive k) s = .next u ∧ u.here.arrivals = s.here.arrivals ++ [a] ∧ a.level = k.toNat
        ∧ a.gen = acount s.here.gens k.toNat + 1 ∧ a.released = false ∧ a.vote = none
        ∧ a.counted = decide (covered s.ctxHere k.toNat = [])
        ∧ u.ctxHere.pc = s.succHere b (.arrive k) ∧ u.ctxHere.st = .ready ∧ u.regsHere = s.regsHere ∧ u.here.ls = s.here.ls
        ∧ u.ctxHere.region = ⟨s.succHere b (.arrive k), true, true, allV b.hdr, allS b.hdr, 0, 0, false, false⟩)
    ∧ (barrierLevel b k.toNat = false →
      exec (.arrive k) s = .next (s.trapHere b (.arrive k) ⟨Cause.levelRange, 0, BitVec.ofNat 64 k.toNat⟩))
    ∧ (barrierLevel b k.toNat = true → s.ctxHere.committing = false → b.hdr.barriers ≤ s.here.arrivals.length →
      exec (.arrive k) s = .next (s.trapHere b (.arrive k) (resBounds 5 k.toNat)))

/-- R203, R204, R31: SYNC, VOTE and VOTE.p commit, register their arrival, VOTE's with its contribution s[a] (R37), and park. R203,
R35: WAITB parks until the oldest arrival at its level is released, which it then takes away (R207: for a pre-emption that met the
release it opens the implicit region too); SYNC, past its commit, does so too and
advances plan and phase at or above the exchange level; the implicit region opens behind it. R37, R204: past its commit a VOTE that is
released writes the result to s[d]; VOTE.p also sets the plan that comes at the next exchange SYNC; the implicit region opens behind
them. In a generation whose VOTE.p chose no plan every party's instruction traps with EXCHANGE_VIOLATION and does not retire.
That the trap reaches every kind of party, and stands with the generation consumed, is the model's reading (log 59); that a VOTE
waits for its own generation too (log 94). -/
def Obligations.BarrierWaitsAndVotes : Prop :=
  let rejected (s : State) (b : Binding) (i : Instr) (a : Arrival) : State :=
    s.trapIn b i (((dropArrival s.here a).modCtx s.cur.ctx (fun x => { x with committed := false })).checkpoint s.cur.ctx)
      ⟨Cause.exchangeViolation, 0, BitVec.ofNat 64 ((a.result.getD 0).toNat % 2 ^ 48)⟩
  let implicit (s : State) (b : Binding) (i : Instr) (u : State) : Prop :=
    u.ctxHere.pc = s.succHere b i ∧ u.ctxHere.st = .ready ∧ u.ctxHere.committed = false ∧ u.here.ls = s.here.ls ∧ u.net = s.net
      ∧ u.ctxHere.region = ⟨s.succHere b i, true, true, allV b.hdr, allS b.hdr, 0, 0, false, false⟩
  (∀ (s : State) (b : Binding) (k : Level) (op : VoteOp) (d r : SReg) (i : Instr) (ballot : Option (VoteOp × Word)) (sel : Bool),
     (i = .sync k ∧ ballot = none ∧ sel = false ∨ i = .vote op d r k ∧ ballot = some (op, s.regsHere.getS r) ∧ sel = false
       ∨ i = .voteP op d r k ∧ ballot = some (op, s.regsHere.getS r) ∧ sel = true ∧ k.toNat ≤ b.plan.xlevel) →
     Clear s b i → s.ctxHere.committed = false → CanCommit s.ctxHere → barrierLevel b k.toNat = true →
     s.here.arrivals.length < b.hdr.barriers →
     ∃ u a w, exec i s = .next u ∧ u.here.arrivals = s.here.arrivals ++ [a] ∧ a.level = k.toNat
       ∧ a.gen = acount s.here.gens k.toNat + 1 ∧ a.released = false ∧ a.vote = ballot ∧ a.sel = sel
       ∧ a.counted = decide (covered s.ctxHere k.toNat = [])
       ∧ u.ctxHere.pc = s.ctxHere.pc ∧ u.ctxHere.st = .parked ∧ u.ctxHere.wait = some w ∧ w.instr = i ∧ w.code = 4
       ∧ u.ctxHere.committed = true ∧ u.regsHere = s.regsHere ∧ u.here.ls = s.here.ls)
  ∧ (∀ (s : State) (b : Binding) (k : Level) (a : Arrival), oldest s.here k.toNat = some a →
       (Clear s b (.waitb k) → barrierLevel b k.toNat = true →
         (a.released = false → exec (.waitb k) s = .next (s.put (s.here.waitsAt s.cur.ctx (.waitb k) 4 true true 0 0)))
         ∧ (a.released = true → a.bad = false → s.ctxHere.pre ≠ .leave →
           exec (.waitb k) s = .next (s.ranIn b (.waitb k) (dropArrival s.here a) s.regsHere))
         ∧ (a.released = true → a.bad = false → s.ctxHere.pre = .leave →
           ∃ u, exec (.waitb k) s = .next u ∧ u.here.arrivals = (dropArrival s.here a).arrivals ∧ u.ctxHere.pre = .drain
             ∧ u.regsHere = s.regsHere ∧ implicit s b (.waitb k) u)
         ∧ (a.released = true → a.bad = true → exec (.waitb k) s = .next (s.trapIn b (.waitb k) (dropArrival s.here a)
           ⟨Cause.exchangeViolation, 0, BitVec.ofNat 64 ((a.result.getD 0).toNat % 2 ^ 48)⟩)))
       ∧ (Clear s b (.sync k) → s.ctxHere.committed = true → s.ctxHere.trap.act = false →
         (a.released = false → exec (.sync k) s = .next (s.put (s.here.waitsAt s.cur.ctx (.sync k) 4 true true 0 0)))
         ∧ (a.released = true → a.bad = false →
           ∃ u, exec (.sync k) s = .next u ∧ u.here.arrivals = (dropArrival s.here a).arrivals
             ∧ u.here.plan = (if k.toNat ≤ b.plan.xlevel then s.here.plan.advance b.plan else s.here.plan)
             ∧ u.regsHere = s.regsHere ∧ implicit s b (.sync k) u)
         ∧ (a.released = true → a.bad = true → exec (.sync k) s = .next (rejected s b (.sync k) a))))
  ∧ (∀ (s : State) (b : Binding) (op : VoteOp) (d r : SReg) (k : Level) (v : Arrival) (i : Instr),
       (i = .vote op d r k ∨ i = .voteP op d r k) → Clear s b i → s.ctxHere.committed = true → s.ctxHere.trap.act = false →
       newest s.here k.toNat = some v →
       (v.released = false → exec i s = .next (s.put (s.here.waitsAt s.cur.ctx i 4 true true 0 0)))
       ∧ (∀ w, v.released = true → v.bad = false → v.result = some w → s.ctxHere.deferred = none →
         ∃ u, exec i s = .next u ∧ u.regsHere = s.regsHere.setS d w ∧ u.here.arrivals = (dropArrival s.here v).arrivals
           ∧ (i = .vote op d r k → u.here.plan = s.here.plan)
           ∧ (i = .voteP op d r k → u.here.plan = { s.here.plan with pending := some w.toNat }) ∧ implicit s b i u)
       ∧ (v.released = true → v.bad = true → exec i s = .next (rejected s b i v)))

/-- R38, R206: REGION commits and opens a region with its D and M bits and live-in masks, behind it, the limits counting from
zero; the registers, local store and messages stay. A live-in register beyond the kernel's bounds traps with RES_BOUNDS. R21, R194: END parks while a helper runs; past its commit, with every post acknowledged, no engine command left and no fault recorded, ends the control
context; the messages and local store stay.
That RES_BOUNDS looks at the scalar registers first and names the lowest is the model's choice (log 105). -/
def Obligations.RegionsAndEnd : Prop :=
  (∀ (s : State) (b : Binding) (dbit mbit : Bool) (vm : BitVec 32) (sm : BitVec 63), Clear s b (.region dbit mbit vm sm) →
     s.ctxHere.trap.act = false →
     ((CanCommit s.ctxHere → (∀ n, n < 63 → sm.getLsbD n = true → n + 1 < b.hdr.sregs) →
         (∀ n, n < 32 → vm.getLsbD n = true → n < b.hdr.vregs) →
       ∃ u, exec (.region dbit mbit vm sm) s = .next u
         ∧ u.ctxHere.region = ⟨s.succHere b (.region dbit mbit vm sm), dbit, mbit, vm, sm.setWidth 64 <<< 1, 0, 0, false, false⟩
         ∧ u.ctxHere.pc = s.succHere b (.region dbit mbit vm sm) ∧ u.ctxHere.st = .ready ∧ u.regsHere = s.regsHere
         ∧ u.here.ls = s.here.ls ∧ u.net = s.net
         ∧ u.ctxHere.ckpt.regs = s.regsHere ∧ u.ctxHere.ckpt.entry = s.succHere b (.region dbit mbit vm sm))
     ∧ (∀ n, n < 63 → sm.getLsbD n = true → b.hdr.sregs ≤ n + 1 → (∀ j, j < n → sm.getLsbD j = true → j + 1 < b.hdr.sregs) →
       exec (.region dbit mbit vm sm) s = .next (s.trapHere b (.region dbit mbit vm sm) (resBounds 1 (n + 1))))
     ∧ (∀ n, (∀ j, j < 63 → sm.getLsbD j = true → j + 1 < b.hdr.sregs) → n < 32 → vm.getLsbD n = true → b.hdr.vregs ≤ n →
         (∀ j, j < n → vm.getLsbD j = true → j < b.hdr.vregs) →
       exec (.region dbit mbit vm sm) s = .next (s.trapHere b (.region dbit mbit vm sm) (resBounds 1 n)))))
  ∧ (∀ (s : State) (b : Binding), Clear s b .endK → s.cur.ctx = 0 → s.ctxHere.trap.act = false → s.ctxHere.committed = true →
       (∀ n, 1 ≤ n → n ≤ 10 → (s.here.ctx n).st = .idle) → s.ctxHere.out = [] → s.ctxHere.deferred = none →
       s.here.mx = [] → s.here.cx = [] → s.here.port = [] →
       ∃ u, exec .endK s = .next u ∧ u.ctxHere.st = .ended ∧ u.regsHere = s.regsHere ∧ u.net = s.net ∧ u.here.ls = s.here.ls
         ∧ u.here.sems = s.here.sems)
  ∧ (∀ (s : State) (b : Binding), Clear s b .endK → s.cur.ctx = 0 → s.ctxHere.trap.act = false →
       (∃ n, 1 ≤ n ∧ n ≤ 10 ∧ (s.here.ctx n).st.live = true) →
       exec .endK s = .next (s.put (s.here.waitsAt 0 .endK 6 true true 0 0)))

/-! ## Local store (R88-R91, R208-R217) -/

/-- R211: LD reads little-endian bytes and extends them; ST writes the low bytes of s[d]; STN writes one nibble of a byte. Each
runs when R209's checks pass, and the other bytes of local store and every register but LD's stay. R209, R211: a scalar load or
store whose range leaves the declared local store traps with RES_BOUNDS (resource 2), and one inside it that is not aligned with
MISALIGNED; TADDR is the address. Nothing is written. -/
def Obligations.ScalarLocalAccess : Prop :=
  (∀ (s : State) (b : Binding) (p : Pred) (sz : Size) (sx hi : Bool) (d a : SReg) (o : Disp),
     let ea := effAddr s.regsHere a o
     (Clear s b (.ld p sz sx d a o) →
       localTrap (s.envHere b) s.here 0x60 .load .load ea sz.bytes sz.bytes = none →
       s.here.ls.poisonAt ea.toNat sz.bytes = none →
       exec (.ld p sz sx d a o) s =
         .next (s.ran b (.ld p sz sx d a o) (s.regsHere.setS d (extend sx sz.bytes (leNat (s.here.ls.read ea.toNat sz.bytes))))))
     ∧ (Clear s b (.st p sz d a o) →
       localTrap (s.envHere b) s.here 0x61 .store .write ea sz.bytes sz.bytes = none →
       exec (.st p sz d a o) s = .next (s.ranIn b (.st p sz d a o)
         { s.here with ls := s.here.ls.write ea.toNat (natBytes sz.bytes (s.regsHere.getS d).toNat) } s.regsHere))
     ∧ (Clear s b (.stn p hi d a o) →
       localTrap (s.envHere b) s.here 0x62 .store .write ea 1 1 = none →
       let old := cellRead s.here.ls.bytes ea.toNat
       let v := s.regsHere.getS d
       let new : Byte := if hi then v.extractLsb' 0 4 ++ old.extractLsb' 0 4 else old.extractLsb' 4 4 ++ v.extractLsb' 0 4
       exec (.stn p hi d a o) s =
         .next (s.ranIn b (.stn p hi d a o) { s.here with ls := s.here.ls.write ea.toNat [new] } s.regsHere)))
  ∧ (∀ (s : State) (b : Binding) (p : Pred) (sz : Size) (sx : Bool) (d a : SReg) (o : Disp),
       let ea := effAddr s.regsHere a o
       (Clear s b (.ld p sz sx d a o) → b.hdr.lstore < ea.toNat + sz.bytes →
         exec (.ld p sz sx d a o) s = .next (s.trapHere b (.ld p sz sx d a o) (resBounds 2 0 ea)))
       ∧ (Clear s b (.ld p sz sx d a o) → ea.toNat + sz.bytes ≤ b.hdr.lstore → ea.toNat % sz.bytes ≠ 0 →
         exec (.ld p sz sx d a o) s = .next (s.trapHere b (.ld p sz sx d a o) ⟨Cause.misaligned, ea, 0⟩))
       ∧ (Clear s b (.st p sz d a o) → b.hdr.lstore < ea.toNat + sz.bytes →
         exec (.st p sz d a o) s = .next (s.trapHere b (.st p sz d a o) (resBounds 2 0 ea)))
       ∧ (Clear s b (.st p sz d a o) → ea.toNat + sz.bytes ≤ b.hdr.lstore → ea.toNat % sz.bytes ≠ 0 →
         exec (.st p sz d a o) s = .next (s.trapHere b (.st p sz d a o) ⟨Cause.misaligned, ea, 0⟩)))

/-- R88, R367: writing bytes into local store makes exactly those bytes read as written; every other byte, and every full-empty bit,
stays; a poison mark goes only from a granule that the write covers. -/
def Obligations.LocalStoreWrite : Prop :=
  ∀ (l : Store) (a : Nat) (bs : List Byte) (x g : Nat), Memory.wf l.bytes = true →
    (∀ k, (h : k < bs.length) → cellRead (l.write a bs).bytes (a + k) = bs[k])
    ∧ (x < a ∨ a + bs.length ≤ x → cellRead (l.write a bs).bytes x = cellRead l.bytes x)
    ∧ (l.write a bs).full = l.full
    ∧ ((l.write a bs).isPoison g = true ↔ l.isPoison g = true ∧ ¬ (a ≤ 16 * g ∧ 16 * g + 16 ≤ a + bs.length))

/-- R212: LDV loads 32 bytes and sets the tag, zero in the lanes that its mask turns off; STV stores the lanes of a register that its
mask leaves on, the bytes of the others staying. R213: LDVX gathers, into each enabled lane, the little-endian element at ea plus the
lane's index times the element size, zero in the others; STVX scatters the enabled lanes in ascending order, so that where two meet
the higher lane's byte stays. Each runs when its checks pass, writes no register but LDV's and LDVX's, and no byte but its lanes'. -/
def Obligations.VectorLocalAccess : Prop :=
  (∀ (s : State) (b : Binding) (p : Pred) (fmt : Tag) (mk : Option MReg) (d : VReg) (a : SReg) (o : Disp),
     let ea := effAddr s.regsHere a o
     (Clear s b (.ldv p fmt mk d a o) →
       vecTrap (s.envHere b) s.here 0x63 .load .load ea (laneRanges s.regsHere fmt mk ea.toNat) = none →
       (∀ r ∈ laneRanges s.regsHere fmt mk ea.toNat, s.here.ls.poisonAt r.1 r.2 = none) →
       exec (.ldv p fmt mk d a o) s = .next (s.ran b (.ldv p fmt mk d a o)
         (s.regsHere.setV d ⟨maskedVec s.regsHere fmt mk (vecOf (s.here.ls.read ea.toNat 32)), fmt⟩)))
     ∧ (Clear s b (.stv p fmt mk d a o) → (s.regsHere.getV d).tag ≠ 15 →
       vecTrap (s.envHere b) s.here 0x64 .store .write ea (laneRanges s.regsHere fmt mk ea.toNat) = none →
       ∃ u, exec (.stv p fmt mk d a o) s = .next u ∧ u.regsHere = s.regsHere
         ∧ u.ctxHere.pc = s.succHere b (.stv p fmt mk d a o) ∧ u.ctxHere.st = .ready ∧ u.net = s.net
         ∧ u.here.ls.bytes = cellsWrite s.here.ls.bytes ea.toNat (vecBytes
             (mergedVec s.regsHere fmt mk (s.regsHere.getV d).bits (vecOf (s.here.ls.read ea.toNat 32))))
         ∧ u.here.ls.full = s.here.ls.full))
  ∧ (∀ (s : State) (b : Binding) (p : Pred) (fmt : Tag) (mk : Option MReg) (d x : VReg) (a : SReg) (o : Disp),
       let n := tagBits fmt / 8
       let ea := effAddr s.regsHere a o
       let ls := gatherLanes s.regsHere fmt mk ea x
       let at_ (k : Nat) := ea.toNat + laneGet (s.regsHere.getV x).bits (if n = 2 then 16 else 32) k * n
       let on (k : Nat) : Prop := k < 32 / n ∧ laneOn s.regsHere mk k = true
       (Clear s b (.ldvx p fmt mk d a x o) → idxTrap s.regsHere n x = none →
         gatherTrap (s.envHere b) s.here 0x65 .load .load ea n ls = none →
         (∀ l ∈ ls, s.here.ls.poisonAt l.2 n = none) →
         ∃ V, exec (.ldvx p fmt mk d a x o) s = .next (s.ran b (.ldvx p fmt mk d a x o) (s.regsHere.setV d ⟨V, fmt⟩))
           ∧ ∀ k, k < 32 / n → laneGet V (8 * n) k = if laneOn s.regsHere mk k = true then leNat (s.here.ls.read (at_ k) n) else 0)
       ∧ (Clear s b (.stvx p fmt mk d a x o) → idxTrap s.regsHere n x = none → (s.regsHere.getV d).tag ≠ 15 →
         gatherTrap (s.envHere b) s.here 0x66 .store .write ea n ls = none → Memory.wf s.here.ls.bytes = true →
         ∃ u, exec (.stvx p fmt mk d a x o) s = .next u ∧ u.regsHere = s.regsHere
           ∧ u.ctxHere.pc = s.succHere b (.stvx p fmt mk d a x o) ∧ u.ctxHere.st = .ready ∧ u.net = s.net
           ∧ u.here.ls.full = s.here.ls.full
           ∧ (∀ k j, on k → j < n → (∀ q, k < q → on q → at_ k + j < at_ q ∨ at_ q + n ≤ at_ k + j) →
               cellRead u.here.ls.bytes (at_ k + j) = BitVec.ofNat 8 (laneGet (s.regsHere.getV d).bits (8 * n) k / 256 ^ j))
           ∧ ∀ y, (∀ k, on k → y < at_ k ∨ at_ k + n ≤ y) → cellRead u.here.ls.bytes y = cellRead s.here.ls.bytes y))

/-- R214: where its checks pass, LDF on full granules reads as LD does, or 32 bytes with its tag, and LDF.clr then empties every granule
it touched; STF writes its bytes and sets every granule it touched full. R215: FEQ reads the full-empty bit of the granule of its
address; FESET writes the bits of a run of granules. R91: LDF parks at the instruction and writes no register while a granule that it
touches is empty. R41, R214: in a D = 1 region LDF.clr traps with REGION_ILLEGAL.
An instruction that empties granules leaves a parked LDF that can take them its turn first: ldfFirst. -/
def Obligations.FullEmptyAccess : Prop :=
  (∀ (s : State) (b : Binding) (p : Pred) (clr : Bool) (f : LdfForm) (a : SReg) (o : Disp),
     let i : Instr := .ldf p clr f a o
     let ea := effAddr s.regsHere a o
     let n := match f with
       | .s sz _ _ => sz.bytes
       | .v _ _ => 32
     let gs := granules ea.toNat n
     let got := s.here.ls.read ea.toNat n
     let R := match f with
       | .s sz sx d => s.regsHere.setS d (extend sx sz.bytes (leNat got))
       | .v fmt d => s.regsHere.setV d ⟨vecOf got, fmt⟩
     let passes := localTrap (s.envHere b) s.here 0x67 (if clr then .ldfClr else .ldfKeep) (if clr then .write else .keep) ea n n = none
     let mine := (s.ctxHere.wait.map (·.order)).getD s.here.nextId
     Clear s b i →
     (clr = false → passes → gs.all s.here.ls.isFull = true → s.here.ls.poisonAt ea.toNat n = none →
       exec i s = .next (s.ran b i R))
     ∧ (clr = true → passes → s.ctxHere.region.d = false → gs.all s.here.ls.isFull = true → s.here.ls.poisonAt ea.toNat n = none →
       s.here.ldfFirst s.cur.ctx (some mine) gs = false →
       exec i s = .next (s.ranIn b i ({ s.here with ls := s.here.ls.setEmpty gs }.setCtx s.cur.ctx
         { s.ctxHere with region := { s.ctxHere.region with ldfClr := true } }) R))
     ∧ (passes → (clr = true → s.ctxHere.region.d = false) → gs.all s.here.ls.isFull = false → s.here.windows = [] →
       exec i s = .next (s.put (s.here.waitsAt s.cur.ctx i 3 true true 0 0)))
     ∧ (clr = true → ea.toNat + n ≤ b.hdr.lstore → ea.toNat % n = 0 → winTrap s.here .write ea.toNat n ea = none →
       s.ctxHere.region.d = true → exec i s = .next (s.trapHere b i ⟨Cause.regionIllegal, 0, 0x67⟩)))
  ∧ (∀ (s : State) (b : Binding) (p : Pred) (f : StfForm) (a : SReg) (o : Disp),
       let i : Instr := .stf p f a o
       let ea := effAddr s.regsHere a o
       let bs : List Byte := match f with
         | .s sz d => natBytes sz.bytes (s.regsHere.getS d).toNat
         | .v d => natBytes 32 (s.regsHere.getV d).bits.toNat
       Clear s b i → (∀ d, f = .v d → (s.regsHere.getV d).tag ≠ 15) →
       localTrap (s.envHere b) s.here 0x68 .stf .write ea bs.length bs.length = none →
       exec i s = .next (s.ranIn b i { s.here with ls := s.here.ls.writeFull ea.toNat bs } s.regsHere))
  ∧ (∀ (s : State) (b : Binding) (p : Pred) (full : Bool) (q : PReg) (a : SReg) (o : Disp) (cnt : BitVec 7),
       let ea := effAddr s.regsHere a o
       let gs := granules ea.toNat (16 * (cnt.toNat + 1))
       (Clear s b (.feq p q a o) → ea.toNat + 1 ≤ b.hdr.lstore →
         (b.det = false → exec (.feq p q a o) s = .next (s.ran b (.feq p q a o) (s.regsHere.setP q (s.here.ls.isFull (ea.toNat / 16)))))
         ∧ (b.det = true → exec (.feq p q a o) s = .next (s.trapHere b (.feq p q a o) ⟨Cause.nondet, ea, 0x69⟩)))
       ∧ (Clear s b (.feset p full cnt a o) →
         localTrap (s.envHere b) s.here 0x6A .feset .write ea (16 * (cnt.toNat + 1)) 16 = none →
         (full = false → s.here.ldfFirst s.cur.ctx none gs = false) →
         exec (.feset p full cnt a o) s = .next (s.ranIn b (.feset p full cnt a o)
           { s.here with ls := if full then s.here.ls.setFull gs else s.here.ls.setEmpty gs } s.regsHere)))

/-- R40, R109, R216: PUSH, with the data, receiver and offset it captures, and SEMS are withheld: each adds one egress entry and retires,
nothing leaves the core before the commit; with 32 entries there the instruction traps with REGION_OVERFLOW. R41: in a D = 1 region
SEMS, SEND, COLL, an MMA that accumulates and every engine command that signals trap with REGION_ILLEGAL, once their own checks before
that one pass; TAUX is the major opcode.
The 32 that REGION_OVERFLOW leaves in TAUX, and its TADDR of 0, are R363's table read against R209 (log 106). -/
def Obligations.WithheldUntilCommit : Prop :=
  (∀ (s : State) (b : Binding) (p : Pred) (big : Bool) (d : VReg) (a c : SReg) (o : Disp) (q inc : BitVec 8),
     let n := if big then 32 else 16
     let ea := effAddr s.regsHere a o
     (Clear s b (.push p big d a c o) → (s.regsHere.getV d).tag ≠ 15 → ea.toNat % n = 0 → s.ctxHere.egress.length < 32 →
       exec (.push p big d a c o) s = .next (s.put (s.here.setCtx s.cur.ctx
         { s.ctxHere.ran s.regsHere (s.succHere b (.push p big d a c o)) with
           egress := s.ctxHere.egress ++ [.push (s.regsHere.getS c) ea ((vecBytes (s.regsHere.getV d).bits).take n)
             (isTyped (s.regsHere.getV d).tag) (s.regsHere.topx.getLsbD 0)] })))
     ∧ (Clear s b (.push p big d a c o) → (s.regsHere.getV d).tag ≠ 15 → ea.toNat % n = 0 → 32 ≤ s.ctxHere.egress.length →
       exec (.push p big d a c o) s = .next (s.trapHere b (.push p big d a c o) ⟨Cause.regionOverflow, 0, 32⟩))
     ∧ (Clear s b (.sems p q inc) → s.ctxHere.region.d = false → s.ctxHere.egress.length < 32 →
       exec (.sems p q inc) s = .next (s.put (s.here.setCtx s.cur.ctx
         { s.ctxHere.ran s.regsHere (s.succHere b (.sems p q inc)) with
           egress := s.ctxHere.egress ++ [.sems q.toNat inc.toNat] })))
     ∧ (Clear s b (.sems p q inc) → s.ctxHere.region.d = false → 32 ≤ s.ctxHere.egress.length →
       exec (.sems p q inc) s = .next (s.trapHere b (.sems p q inc) ⟨Cause.regionOverflow, 0, 32⟩)))
  ∧ (∀ (s : State) (b : Binding) (p : Pred) (q n : BitVec 8) (d a c v : SReg) (len : BitVec 14) (f : Tag) (y : Sync) (k : Level)
       (cop : BitVec 8) (lw : Option SReg), s.ctxHere.region.d = true →
       (Clear s b (.sems p q n) → exec (.sems p q n) s = .next (s.trapHere b (.sems p q n) ⟨Cause.regionIllegal, 0, 0xCE⟩))
       ∧ (Clear s b (.send p d a c len f y) →
         exec (.send p d a c len f y) s = .next (s.trapHere b (.send p d a c len f y) ⟨Cause.regionIllegal, 0, 0xCB⟩))
       ∧ (Clear s b (.coll p k cop f d a c v lw y) → barrierLevel b k.toNat = true →
         exec (.coll p k cop f d a c v lw y) s =
           .next (s.trapHere b (.coll p k cop f d a c v lw y) ⟨Cause.regionIllegal, 0, 0xCC⟩)))
  ∧ (∀ (s : State) (b : Binding) (i : Instr), Clear s b i → EngineChecks s b i → regionForbids s i →
       exec i s = .next (s.trapHere b i ⟨Cause.regionIllegal, 0, i.toFields.maj.setWidth 64⟩))

/-! ## Flowstone at the core (R48-R84, R218-R229) -/

/-- R219, R40, R65: a JOIN whose page is translated, permits it and has its kind and width posts its element to the page's home
and retires; with 1,024 posts outstanding it stalls before that; a .cnt join is withheld instead, as the instruction (R109), and traps
with REGION_OVERFLOW when 32 effects are. R221: a JOIN Lk posts its element and then stalls until counter k is zero. R220: JOINV posts
the elements of its register whose lanes its mask enables, and nothing where it enables none; a .cnt JOINV is withheld like a .cnt JOIN,
whatever its mask enables; a .fill form posts one granule with the 32-bit mask of its scalar register; a .ver form 64 bytes with a
version. With 1,024 posts outstanding a JOINV stalls too.
The TADDR of 0 and the 32 that REGION_OVERFLOW leaves are R363's table read against R209 (log 106). -/
def Obligations.JoinsPosted : Prop :=
  (∀ (s : State) (b : Binding) (p : Pred) (kind : Kind) (wd : Width) (lv : Option Level) (d a : SReg) (o : Disp) (t : Tlb),
     let i : Instr := .join p kind wd lv d a o
     let ea := effAddr s.regsHere a o
     let j : JoinOut := ⟨ea, t.phys ea / 64 * 64, .elems kind wd [(ea.toNat % 64, datum kind wd.bits (s.regsHere.getS d))]⟩
     Clear s b i → LevelIn b lv →
     (inFence (s.envHere b) s.here = false → Reaches s b .join ea (wd.bits / 8) (wd.bits / 8) kind wd t → globalWin s.here ea = none →
       (kind ≠ .cnt → postLimit (s.envHere b) s.here j.line = false →
         (lv = none → exec i s = .next ((s.ran b i s.regsHere).postJoin s.cur b j))
         ∧ (lv.isSome = true → exec i s = .next ((s.put (s.here.waitsAt s.cur.ctx i 11 false true 1 0)).postJoin s.cur b j)))
       ∧ (kind ≠ .cnt → postLimit (s.envHere b) s.here j.line = true →
         exec i s = .next (s.put (s.here.waitsAt s.cur.ctx i 12 false true 0 0)))
       ∧ (kind = .cnt → s.ctxHere.egress.length < 32 → exec i s = .next (s.put (s.here.setCtx s.cur.ctx
         { s.ctxHere.ran s.regsHere (s.succHere b i) with egress := s.ctxHere.egress ++ [.join i] })))
       ∧ (kind = .cnt → 32 ≤ s.ctxHere.egress.length → exec i s = .next (s.trapHere b i ⟨Cause.regionOverflow, 0, 32⟩)))
     ∧ (∀ k, lv = some k → inFence (s.envHere b) s.here = true →
       (fenceWaits (s.envHere b) s.here k.toNat = false → exec i s = .next (s.ran b i s.regsHere))
       ∧ (fenceWaits (s.envHere b) s.here k.toNat = true →
         exec i s = .next (s.put (s.here.waitsAt s.cur.ctx i 11 false true 1 0)))))
  ∧ (∀ (s : State) (b : Binding) (p : Pred) (f : JoinvForm) (d : VReg) (a : SReg) (o : Disp) (t : Tlb),
       let i : Instr := .joinv p f d a o
       let ea := effAddr s.regsHere a o
       let line := t.phys ea / 64 * 64
       let stalls : Prop := exec i s = .next (s.put (s.here.waitsAt s.cur.ctx i 12 false true 0 0))
       let posts (data : JoinData) : Prop := exec i s = .next ((s.ran b i s.regsHere).postJoin s.cur b ⟨ea, line, data⟩)
       Clear s b i → joinvTrap s.regsHere f d = none → inFence (s.envHere b) s.here = false → globalWin s.here ea = none →
       (∀ kind wd mk, f = .elems kind wd mk → Reaches s b .join ea (wd.bits / 8) 32 kind wd t →
         let es := ((List.range (32 / (wd.bits / 8))).filter (laneOn s.regsHere mk)).map (fun k =>
           (ea.toNat % 64 + k * (wd.bits / 8), laneGet (s.regsHere.getV d).bits wd.bits k))
         (es = [] → kind ≠ .cnt → exec i s = .next (s.ran b i s.regsHere))
         ∧ (es ≠ [] → kind ≠ .cnt → postLimit (s.envHere b) s.here line = false → posts (.elems kind wd es))
         ∧ (es ≠ [] → kind ≠ .cnt → postLimit (s.envHere b) s.here line = true → stalls)
         ∧ (kind = .cnt → s.ctxHere.egress.length < 32 → exec i s = .next (s.put (s.here.setCtx s.cur.ctx
           { s.ctxHere.ran s.regsHere (s.succHere b i) with egress := s.ctxHere.egress ++ [.join i] })))
         ∧ (kind = .cnt → 32 ≤ s.ctxHere.egress.length → exec i s = .next (s.trapHere b i ⟨Cause.regionOverflow, 0, 32⟩)))
       ∧ (∀ c, f = .fill c → Reaches s b .join ea 16 16 .fill .w8 t →
         (postLimit (s.envHere b) s.here line = true → stalls) ∧ (postLimit (s.envHere b) s.here line = false → posts (.fill (ea.toNat % 64 / 16) ((s.regsHere.getS c).setWidth 32) ((s.regsHere.getV d).bits.setWidth 128))))
       ∧ (∀ c, f = .ver c → Reaches s b .join ea 64 64 .ver .w8 t →
         (postLimit (s.envHere b) s.here line = true → stalls) ∧ (postLimit (s.envHere b) s.here line = false →
           posts (.ver ((s.regsHere.getS c).setWidth 32) ((s.regsHere.getV (d + 1)).bits ++ (s.regsHere.getV d).bits)))))

/-- R49, R76, R77, R209: the checks of a Flowstone access come in order: canonical form, alignment, line, translation, permission, kind
and width. A JOIN, TREAD, XREAD or XREADV that fails one traps with that check's cause, and no request leaves; one whose translation
is not cached stalls for its walk (R79).
TAUX of KIND_MISMATCH is the model's reading (log 33). -/
def Obligations.FlowstoneChecks : Prop :=
  ∀ (s : State) (b : Binding) (i : Instr) (p : Pred) (kind : Kind) (wd : Width) (nt : BitVec 2) (d a : SReg) (v : VReg) (o : Disp)
    (acc : Access) (align n : Nat),
    (i = .join p kind wd none d a o ∧ acc = .join ∧ align = wd.bits / 8 ∧ n = wd.bits / 8 ∧ inFence (s.envHere b) s.here = false)
      ∨ (i = .tread p kind wd none nt d a o ∧ acc = .tread ∧ align = elemBytes kind wd ∧ n = elemBytes kind wd)
      ∨ (i = .xread p kind wd d a o ∧ acc = .xread ∧ align = wd.bits / 8 ∧ n = wd.bits / 8)
      ∨ (i = .xreadv p (.elems kind wd) v a o ∧ acc = .xread ∧ align = wd.bits / 8 ∧ n = 32) →
    let ea := effAddr s.regsHere a o
    let at_ := canonical ea = true ∧ ea.toNat % align = 0
    let within := at_ ∧ ea.toNat % 64 + n ≤ 64
    Clear s b i →
    (canonical ea = false → exec i s = .next (s.trapHere b i ⟨Cause.addrNoncanon, ea, 0⟩))
    ∧ (canonical ea = true → ea.toNat % align ≠ 0 → exec i s = .next (s.trapHere b i ⟨Cause.misaligned, ea, 0⟩))
    ∧ (at_ → 64 < ea.toNat % 64 + n → exec i s = .next (s.trapHere b i ⟨Cause.lineCross, ea, 0⟩))
    ∧ (within → lookup s.here s.ctxHere b.asid ea = .miss → exec i s = .next (s.walkHere b i ea))
    ∧ (within → ∀ t, lookup s.here s.ctxHere b.asid ea = .bad t → exec i s = .next (s.trapHere b i t))
    ∧ (within → ∀ t, lookup s.here s.ctxHere b.asid ea = .hit t →
      (∀ q, permTrap t acc ea = some q → exec i s = .next (s.trapHere b i q))
      ∧ (permTrap t acc ea = none → ∀ q, kindTrap t kind wd ea = some q → exec i s = .next (s.trapHere b i q)))

/-- R54, R56, R57, R58, R222, R223: TREAD with its one to four triggers, XREAD, and XREADV of elements, a granule or a version, send
one request to the page's home and park at the instruction with the request's number; the register is written by the answer (WAKE).
R56: TREAD of more than one trigger is NONDET in a deterministic launch. R221: TREAD Lk stalls before that until counter k is zero. -/
def Obligations.ReadsPark : Prop :=
  ∀ (s : State) (b : Binding) (p : Pred) (kind : Kind) (wd : Width) (lv : Option Level) (nt : BitVec 2) (d a c : SReg) (v : VReg) (o : Disp)
    (t : Tlb),
    let ea := effAddr s.regsHere a o
    let no := s.ctxHere.reqNo + 2
    let pa := t.phys ea
    let me : Origin := .ctx s.cur no
    let parked (i : Instr) (code : Nat) (r : Req) : Prop :=
      exec i s = .next ((s.put ((s.here.setCtx s.cur.ctx { s.ctxHere with reqNo := no }).waitsAt s.cur.ctx i code true false no 1)).send
        s.cur.dev (gDev pa) s.here.weights (.req (gLocal pa / 64) (some b.launch) r))
    (Clear s b (.tread p kind wd lv nt d a o) → LevelIn b lv → Reaches s b .tread ea (elemBytes kind wd) (elemBytes kind wd) kind wd t →
      s.ctxHere.hold = [] →
      let i : Instr := .tread p kind wd lv nt d a o
      (b.det = true → nt ≠ 0 → exec i s = .next (s.trapHere b i ⟨Cause.nondet, ea, 0x6F⟩))
      ∧ ((b.det = true → nt = 0) → (∀ k, lv = some k → fenceWaits (s.envHere b) s.here k.toNat = false) →
        parked i 1 (.tread me ea kind wd (ea.toNat % 64)
          ((List.range (nt.toNat + 1)).map (fun k => trigger kind wd.bits (s.regsHere.getS (d + BitVec.ofNat 6 k))))))
      ∧ (∀ k, (b.det = true → nt = 0) → lv = some k → fenceWaits (s.envHere b) s.here k.toNat = true →
        exec i s = .next (s.put (s.here.waitsAt s.cur.ctx i 11 false true 0 0))))
    ∧ (Clear s b (.xread p kind wd d a o) → Reaches s b .xread ea (wd.bits / 8) (wd.bits / 8) kind wd t →
      parked (.xread p kind wd d a o) 2 (.xread me ea kind wd (ea.toNat % 64) (wd.bits / 8) 0))
    ∧ (Clear s b (.xreadv p (.elems kind wd) v a o) → Reaches s b .xread ea (wd.bits / 8) 32 kind wd t →
      parked (.xreadv p (.elems kind wd) v a o) 2 (.xread me ea kind wd (ea.toNat % 64) 32 0))
    ∧ (Clear s b (.xreadv p .fill v a o) → Reaches s b .xread ea 16 16 .fill .w8 t →
      parked (.xreadv p .fill v a o) 2 (.xread me ea .fill .w8 (ea.toNat % 64) 16 0))
    ∧ (Clear s b (.xreadv p (.ver c) v a o) → Reaches s b .xread ea 64 64 .ver .w8 t →
      parked (.xreadv p (.ver c) v a o) 2 (.xread me ea .ver .w8 0 64 ((s.regsHere.getS c).setWidth 32)))

/-- R107, R217: FENCE retires when no post at or above its level is unacknowledged, and waits otherwise; beyond the tree it
traps with LEVEL_RANGE. R62, R224: FRZ of no bytes retires at once; FRZ of a range whose pages are translated and permit it sends, once
nothing of the context is outstanding, one freeze request to the home of every line, in ascending order, and stalls for that many
acknowledgements; the first page that is not canonical, not translatable or without F traps, and nothing is frozen; an ea or length out
of form traps with MISALIGNED. R225: LKIND writes the description of the address's page to s[d]: kind, width, permissions J, T, X and F,
page size; it needs no permission. -/
def Obligations.FencesFreezesPages : Prop :=
  (∀ (s : State) (b : Binding) (p : Pred) (k : Level), Clear s b (.fence p k) →
     (b.tree.length ≤ k.toNat →
       exec (.fence p k) s = .next (s.trapHere b (.fence p k) ⟨Cause.levelRange, 0, BitVec.ofNat 64 k.toNat⟩))
     ∧ (k.toNat < b.tree.length → s.ctxHere.hold = [] → fenceWaits (s.envHere b) s.here k.toNat = false →
       exec (.fence p k) s = .next (s.ran b (.fence p k) s.regsHere))
     ∧ (k.toNat < b.tree.length → fenceWaits (s.envHere b) s.here k.toNat = true →
       exec (.fence p k) s = .next (s.put (s.here.waitsAt s.cur.ctx (.fence p k) 11 false true 0 0))))
  ∧ (∀ (s : State) (b : Binding) (p : Pred) (a c : SReg) (o : Disp),
       let i : Instr := .frz p a c o
       let ea := effAddr s.regsHere a o
       let len := (s.regsHere.getS c).toNat
       let formed := canonical ea = true ∧ ea.toNat % 64 = 0 ∧ len % 64 = 0 ∧ len ≤ 2 ^ 36
       let found := lookupRange s.here s.ctxHere b.asid .freeze (len / 4096 + 2) ea len
       Clear s b i →
       (canonical ea = false → exec i s = .next (s.trapHere b i ⟨Cause.addrNoncanon, ea, 0⟩))
       ∧ (canonical ea = true → ¬ formed → exec i s = .next (s.trapHere b i ⟨Cause.misaligned, ea, 0⟩))
       ∧ (formed → len = 0 → exec i s = .next (s.ran b i s.regsHere))
       ∧ (∀ va, formed → 0 < len → found = .error (va, none) → exec i s = .next (s.walkHere b i va))
       ∧ (∀ va t, formed → 0 < len → found = .error (va, some t) → exec i s = .next (s.trapHere b i t))
       ∧ (∀ ts, formed → 0 < len → found = .ok ts → s.ctxHere.hold = [] → s.ctxHere.out ≠ [] →
         exec i s = .next (s.put (s.here.waitsAt s.cur.ctx i 15 false true 0 0)))
       ∧ (∀ ts, formed → 0 < len → found = .ok ts → s.ctxHere.hold = [] → s.ctxHere.out = [] →
         let no := s.ctxHere.reqNo + 2
         let lines := rangeLines ts ea (len / 64)
         exec i s = .next (lines.foldl (fun u l => u.send s.cur.dev (gDev l.2.1) s.here.weights
             (.req (gLocal l.2.1 / 64) (some b.launch) (.freeze (.ctx s.cur no) l.1 l.2.2.kind l.2.2.wd)))
           (s.put ((s.here.setCtx s.cur.ctx { s.ctxHere with reqNo := no }).waitsAt s.cur.ctx i 15 false false no lines.length)))
         ∧ ((∀ k, k < len / 64 → ∃ t ∈ ts, t.va / 2 ^ t.bits = (ea + BitVec.ofNat 64 (64 * k)).toNat / 2 ^ t.bits) →
             lines.map (·.1) = (List.range (len / 64)).map (fun k => ea + BitVec.ofNat 64 (64 * k)))))
  ∧ (∀ (s : State) (b : Binding) (p : Pred) (d a : SReg) (o : BitVec 24),
       let i : Instr := .lkind p d a o
       let ea := s.regsHere.getS a + o.signExtend 64
       Clear s b i →
       (∀ t, canonical ea = true → lookup s.here s.ctxHere b.asid ea = .hit t →
         exec i s = .next (s.ran b i (s.regsHere.setS d (BitVec.ofNat 64
           (t.kind.code.toNat + 8 * t.wd.code.toNat + 32 * b2n t.j + 64 * b2n t.t + 128 * b2n t.x + 256 * b2n t.f + 512 * t.pageField)))))
       ∧ (canonical ea = true → lookup s.here s.ctxHere b.asid ea = .miss → exec i s = .next (s.walkHere b i ea))
       ∧ (∀ t, canonical ea = true → lookup s.here s.ctxHere b.asid ea = .bad t → exec i s = .next (s.trapHere b i t))
       ∧ (canonical ea = false → exec i s = .next (s.trapHere b i ⟨Cause.addrNoncanon, ea, 0⟩)))

/-- R80, R81, R226: SMAP that passes its checks maps the window, a read window's granules empty; R82: an accumulate window's hold the
bottom of the page's kind and are full. R82, R83: a JOIN into an accumulate window joins its element to the local copy, marks the line
dirty and sends nothing; in a .cnt window the region's counts of a line stand in an egress entry (R87). R93: in a deterministic launch a
join into a window outside the context's partition traps with NONDET. R82, R228: SFLUSH of an accumulate window that is
not .cnt posts one join per dirty line, with the line's values, and leaves the lines clean and at bottom; of a read or a .cnt window it
does nothing. R84, R228: SDROP unmaps, writing nothing back, and a .cnt window's egress entries go. R228, R229: SFLUSH and SDROP of an
unmapped window trap with STASH_INVALID, subcode 7, and SMAP with the first subcode that applies; a JOIN into a read window with 9.
The order of the subcodes is the model's reading (log 23), and so are the TADDR of 0 and the 32 of REGION_OVERFLOW (log 106). -/
def Obligations.StashWindows : Prop :=
  (∀ (s : State) (b : Binding) (p : Pred) (win : BitVec 3) (acc : Bool) (d a c : SReg) (o : Disp),
     let i : Instr := .smap p win acc d a c o
     let ea := effAddr s.regsHere a o
     let off := s.regsHere.getS d
     let len := (s.regsHere.getS c).toNat
     let formed := ea.toNat % 64 = 0 ∧ off.toNat % 64 = 0 ∧ len % 64 = 0 ∧ 0 < len ∧ len ≤ 65536
     let found := lookupRange s.here s.ctxHere b.asid (if acc then .join else .xread) 18 ea len
     Clear s b i → canonical ea = true →
     (∀ t ts, formed → found = .ok (t :: ts) → smapBad (s.envHere b) s.here win.toNat acc off ea len (t :: ts) = none →
       (b.det = true → (granules off.toNat len).all (inRange (b.part s.cur.ctx)) = true) →
       (acc = false → s.here.ldfFirst s.cur.ctx none (granules off.toNat len) = false) →
       let ls := if acc then s.here.ls.writeFull off.toNat (List.replicate len (if t.kind = .min then 0xFF else 0))
         else s.here.ls.setEmpty (granules off.toNat len)
       exec i s = .next (s.ranIn b i ({ s.here with ls := ls, nextId := s.here.nextId + 1 }.setWindow win.toNat
         (some ⟨s.here.nextId, off.toNat / 16, ea, len / 64, acc, t.kind, t.wd, []⟩)) s.regsHere))
     ∧ (∀ ts n va, formed → found = .ok ts → smapBad (s.envHere b) s.here win.toNat acc off ea len ts = some (n, va) →
       exec i s = .next (s.trapHere b i ⟨Cause.stashInvalid, va, BitVec.ofNat 64 n⟩))
     ∧ (∀ va t, formed → found = .error (va, some t) → exec i s = .next (s.trapHere b i t))
     ∧ (¬ formed → exec i s = .next (s.trapHere b i ⟨Cause.stashInvalid, if off.toNat % 64 = 0 then ea else off, 6⟩)))
  ∧ (∀ (s : State) (b : Binding) (p : Pred) (kind : Kind) (wd : Width) (d a : SReg) (o : Disp) (t : Tlb) (w : Nat) (k : Window),
       let i : Instr := .join p kind wd none d a o
       let ea := effAddr s.regsHere a o
       let at_ := 16 * k.loc + (ea.toNat - k.va.toNat)
       let l := (ea.toNat - k.va.toNat) / 64
       let n := wd.bits / 8
       Clear s b i → inFence (s.envHere b) s.here = false → Reaches s b .join ea n n kind wd t → globalWin s.here ea = some (w, k) →
       (k.acc = false → exec i s = .next (s.trapHere b i ⟨Cause.stashInvalid, ea, 9⟩))
       ∧ (k.acc = true → k.kind = kind → k.wd = wd → k.va.toNat % 64 = 0 → s.here.window w = some k →
         let c := { s.here with ls := s.here.ls.write at_ (natBytes n
             (joinVal kind wd.bits (leNat (s.here.ls.read at_ n)) (datum kind wd.bits (s.regsHere.getS d)))) }.setWindow w
           (some { k with busy := setIns k.busy l })
         let es := [(ea.toNat % 64, datum kind wd.bits (s.regsHere.getS d))]
         let ran (y : List Egress) := s.ranIn b i (c.setCtx s.cur.ctx { s.ctxHere with egress := y }) s.regsHere
         let mayJoin := detLocal (s.envHere b) s.here .stf at_ n = true
         (¬ mayJoin → exec i s = .next (s.trapHere b i ⟨Cause.nondet, ea, i.toFields.maj.setWidth 64⟩))
         ∧ (mayJoin → kind ≠ .cnt → exec i s = .next (s.ranIn b i c s.regsHere))
         ∧ (mayJoin → kind = .cnt → (s.ctxHere.counts w l).isSome = true → exec i s = .next (ran (s.ctxHere.egress.map (fun g => match g with
           | .cntLine v m bs => if v = w ∧ m = l then .cntLine v m (joinElemsInto .cnt wd bs es) else g
           | _ => g))))
         ∧ (mayJoin → kind = .cnt → s.ctxHere.counts w l = none → s.ctxHere.egress.length < 32 →
           exec i s = .next (ran (s.ctxHere.egress ++ [.cntLine w l (joinElemsInto .cnt wd (List.replicate 64 0) es)])))
         ∧ (mayJoin → kind = .cnt → s.ctxHere.counts w l = none → 32 ≤ s.ctxHere.egress.length →
           exec i s = .next (s.trapHere b i ⟨Cause.regionOverflow, 0, 32⟩))))
  ∧ (∀ (s : State) (b : Binding) (p : Pred) (win : BitVec 3) (k : Window), s.here.window win.toNat = some k →
       let i : Instr := .sflush p win
       (Clear s b i → k.acc = false ∨ k.kind = .cnt → exec i s = .next (s.ran b i s.regsHere))
       ∧ (∀ ts : Nat → Tlb, Clear s b i → k.acc = true → k.kind ≠ .cnt → k.busy.Nodup → Memory.wf s.here.ls.bytes = true →
         (∀ l ∈ k.busy, Reaches s b .join (k.lineVa l) 64 64 k.kind k.wd (ts l)
           ∧ detLocal (s.envHere b) s.here .stf (16 * k.loc + 64 * l) 64 = true) →
         s.ctxHere.out.length + s.ctxHere.hold.length + k.busy.length ≤ 1024 → (s.envHere b).storeFull = false →
         ∃ C, exec i s = .next ((k.busy.map (fun l => windowLine k l (ts l) (s.here.ls.read (16 * k.loc + 64 * l) 64))).foldl (fun u j => u.postJoin s.cur b j)
             (s.ranIn b i C s.regsHere))
           ∧ C.ctx s.cur.ctx = s.ctxHere ∧ C.window win.toNat = some { k with busy := [] }
           ∧ (∀ w, w ≠ win.toNat → C.window w = s.here.window w)
           ∧ (∀ y, (∀ l ∈ k.busy, y < 16 * k.loc + 64 * l ∨ 16 * k.loc + 64 * l + 64 ≤ y) →
               cellRead C.ls.bytes y = cellRead s.here.ls.bytes y)
           ∧ (∀ l ∈ k.busy, C.ls.read (16 * k.loc + 64 * l) 64 = bottomLine k.kind)))
  ∧ (∀ (s : State) (b : Binding) (p : Pred) (win : BitVec 3),
       (s.here.window win.toNat = none →
         (Clear s b (.sflush p win) → exec (.sflush p win) s = .next (s.trapHere b (.sflush p win) ⟨Cause.stashInvalid, 0, 7⟩))
         ∧ (Clear s b (.sdrop p win) → exec (.sdrop p win) s = .next (s.trapHere b (.sdrop p win) ⟨Cause.stashInvalid, 0, 7⟩)))
       ∧ (∀ k, s.here.window win.toNat = some k → Clear s b (.sdrop p win) →
         ∃ u, exec (.sdrop p win) s = .next u ∧ u.here.window win.toNat = none ∧ u.here.ls = s.here.ls ∧ u.regsHere = s.regsHere
           ∧ (∀ w, w ≠ win.toNat → u.here.window w = s.here.window w) ∧ u.ctxHere.pc = s.succHere b (.sdrop p win)
           ∧ u.net = s.net
           ∧ (∀ n, n < 11 → (u.here.ctx n).egress = (s.here.ctx n).egress.filter (fun g => match g with
             | .cntLine w .. => w != win.toNat
             | _ => true))))

/-! ## Vector instructions (R123-R153, R232-R260) -/

/-- R238 to R242: the floating-point vector instructions write, in each enabled lane, the exact result rounded once (VADD, VSUB, VMUL,
VDIV, VSQRT, VRCP, VFMA, VSFU), one of the operands (VMIN, VMAX), or the operand with another sign (VABS, VNEG), a NaN made canonical;
disabled lanes keep their bits or become zero.
Which neighbour VSFU takes is free (log 6). -/
def Obligations.VectorFloat : Prop :=
  ∀ (p : Pred) (fmt : Tag) (vm : VMask) (np nc u : Bool) (fn : Sfu) (d a b c : VReg), tagIsFloat fmt = true →
    let f := fpOf fmt
    let signOnly (g : Nat → Nat) (x : Nat) : Nat × Word := if (f.val x).isNan = true then (f.nan, (f.val x).nv) else (g x, 0)
    Lanes2 (.vadd p fmt vm d a b) fmt vm d a b (fpAdd f)
    ∧ Lanes2 (.vsub p fmt vm d a b) fmt vm d a b (fpSub f)
    ∧ Lanes2 (.vmul p fmt vm d a b) fmt vm d a b (fpMul f)
    ∧ Lanes2 (.vdiv p fmt vm d a b) fmt vm d a b (fpDiv f)
    ∧ Lanes2 (.vmin p fmt u vm d a b) fmt vm d a b (fpMinMax f false)
    ∧ Lanes2 (.vmax p fmt u vm d a b) fmt vm d a b (fpMinMax f true)
    ∧ Lanes1 (.vabs p fmt u vm d a) fmt vm d a (signOnly (fun x => x % 2 ^ (tagBits fmt - 1)))
    ∧ Lanes1 (.vneg p fmt u vm d a) fmt vm d a (signOnly (fun x => (x + 2 ^ (tagBits fmt - 1)) % 2 ^ tagBits fmt))
    ∧ Lanes1 (.vsqrt p fmt vm d a) fmt vm d a (fpSqrt f)
    ∧ Lanes1 (.vrcp p fmt vm d a) fmt vm d a (fpRcp f)
    ∧ Lanes1 (.vsfu p fmt fn vm d a) fmt vm d a (fpSfu f fn)
    ∧ VecRuns (.vfma p fmt np nc vm d a b c) ([(a, .exact fmt), (b, .exact fmt), (c, .exact fmt)] ++ keepCheck vm d) (fun s R =>
        LanesSet s.regsHere R fmt vm d fmt (fun k =>
          fpFma f np nc (lane s.regsHere fmt a k) (lane s.regsHere fmt b k) (lane s.regsHere fmt c k)))

/-- R240, R241, R243, R245: the integer vector instructions, lane by lane: sums, differences and products modulo 2^w or clamped, with
SAT where they clamp; the upper half of a product; minimum, maximum, magnitude, negation; shifts, with 0 or copies of the sign for a
count of w or more. -/
def Obligations.VectorInteger : Prop :=
  ∀ (p : Pred) (fmt : Tag) (vm : VMask) (sat u : Bool) (d a b : VReg) (n : VCount), tagIsInt fmt = true →
    let w := tagBits fmt
    let sg := if fmt = 14 then !u else decide (fmt.toNat % 2 = 1)
    let val (x : Nat) : Int := if sg = true ∧ 2 ^ (w - 1) ≤ x then (x : Int) - 2 ^ w else x
    let low (v : Int) : Nat := (v % 2 ^ w).toNat
    let lo : Int := if sg = true then -(2 ^ (w - 1)) else 0
    let hi : Int := if sg = true then 2 ^ (w - 1) - 1 else 2 ^ w - 1
    let fit (v : Int) : Nat × Word :=
      if sat = true then (if v < lo then (low lo, Flag.sat) else if hi < v then (low hi, Flag.sat) else (low v, 0)) else (low v, 0)
    let sval (x : Nat) : Int := if 2 ^ (w - 1) ≤ x then (x : Int) - 2 ^ w else x
    let shift (i : Instr) (g : Nat → Nat → Nat) : Prop :=
      VecRuns i ((a, arithReq fmt) :: n.regs.map (·, arithReq fmt) ++ keepCheck vm d) (fun s R =>
        LanesSet s.regsHere R fmt vm d fmt (fun k => (g (lane s.regsHere fmt a k) (match n with
          | .reg c => lane s.regsHere fmt c k
          | .imm m => m.toNat), 0)))
    Lanes2 (.viadd p fmt sat u vm d a b) fmt vm d a b (fun x y => fit (val x + val y))
    ∧ Lanes2 (.visub p fmt sat u vm d a b) fmt vm d a b (fun x y => fit (val x - val y))
    ∧ Lanes2 (.vimul p fmt sat false u vm d a b) fmt vm d a b (fun x y => fit (val x * val y))
    ∧ Lanes2 (.vimul p fmt sat true u vm d a b) fmt vm d a b (fun x y => (low (val x * val y / 2 ^ w), 0))
    ∧ Lanes2 (.vmin p fmt u vm d a b) fmt vm d a b (fun x y => (if val y < val x then y else x, 0))
    ∧ Lanes2 (.vmax p fmt u vm d a b) fmt vm d a b (fun x y => (if val x < val y then y else x, 0))
    ∧ Lanes1 (.vabs p fmt false vm d a) fmt vm d a (fun x => (low (sval x).natAbs, 0))
    ∧ Lanes1 (.vneg p fmt false vm d a) fmt vm d a (fun x => (low (-(sval x)), 0))
    ∧ Lanes1 (.vneg p fmt true vm d a) fmt vm d a (fun x =>
        if x = 2 ^ (w - 1) then (2 ^ (w - 1) - 1, Flag.sat) else (low (-(sval x)), 0))
    ∧ shift (.vshl p fmt vm d a n) (fun x c => if w ≤ c then 0 else x * 2 ^ c)
    ∧ shift (.vshr p fmt vm d a n) (fun x c => if w ≤ c then 0 else x / 2 ^ c)
    ∧ shift (.vsar p fmt vm d a n) (fun x c => if w ≤ c then (if 2 ^ (w - 1) ≤ x then 2 ^ w - 1 else 0) else low (sval x / 2 ^ c))

/-- R244, R247 to R251, R258, R259: the bitwise, selecting and rearranging vector instructions, format-blind; each lane of the result
comes from the named lane of the named source. With fmt 0 the bitwise forms and VMOV take whole registers. -/
def Obligations.VectorMoves : Prop :=
  ∀ (p : Pred) (fmt : Tag) (vm : VMask) (u : Bool) (mk : MReg) (d a b c : VReg) (x y : SReg) (m : BitVec 6) (v : BitVec 32) (ix : LaneIx),
    0 < tagElems fmt →
    let n := tagElems fmt
    let at_ (r : Regs) (i : LaneIx) : Nat := match i with
      | .imm q => q.toNat
      | .reg q => (r.getS q).toNat % n
    let wtag : Tag := if tagBits fmt = 8 then 1 else if tagBits fmt = 16 then 3 else if tagBits fmt = 32 then 5 else 14
    VecRuns (.vand p 0 vm d a b) ([(a, .blind), (b, .blind)] ++ keepCheck vm d) (fun s R =>
      R = s.regsHere.setV d ⟨(s.regsHere.getV a).bits &&& (s.regsHere.getV b).bits, 0⟩)
    ∧ VecRuns (.vor p 0 vm d a b) ([(a, .blind), (b, .blind)] ++ keepCheck vm d) (fun s R =>
      R = s.regsHere.setV d ⟨(s.regsHere.getV a).bits ||| (s.regsHere.getV b).bits, 0⟩)
    ∧ VecRuns (.vxor p 0 vm d a b) ([(a, .blind), (b, .blind)] ++ keepCheck vm d) (fun s R =>
      R = s.regsHere.setV d ⟨(s.regsHere.getV a).bits ^^^ (s.regsHere.getV b).bits, 0⟩)
    ∧ LanesBlind (.vand p fmt vm d a b) fmt vm d [a, b] (fun r k => lane r fmt a k &&& lane r fmt b k)
    ∧ LanesBlind (.vor p fmt vm d a b) fmt vm d [a, b] (fun r k => lane r fmt a k ||| lane r fmt b k)
    ∧ LanesBlind (.vxor p fmt vm d a b) fmt vm d [a, b] (fun r k => lane r fmt a k ^^^ lane r fmt b k)
    ∧ LanesBlind (.vsel p fmt mk d a b) fmt ⟨none, false⟩ d [a, b] (fun r k =>
        if (r.getM mk).getLsbD k = true then lane r fmt a k else lane r fmt b k)
    ∧ VecRuns (.vperm p fmt vm d a b c) ([(a, .blind), (b, .blind), (c, .int wtag)] ++ keepCheck vm d) (fun s R =>
        LanesSet s.regsHere R fmt vm d fmt (fun k =>
          let j := lane s.regsHere fmt c k % (2 * n)
          (if j < n then lane s.regsHere fmt a j else lane s.regsHere fmt b (j - n), 0)))
    ∧ LanesBlind (.vshuf p fmt vm d a .rev) fmt vm d [a] (fun r k => lane r fmt a (n - 1 - k))
    ∧ LanesBlind (.vshuf p fmt vm d a (.ziplo b)) fmt vm d [a, b] (fun r k =>
        if k % 2 = 0 then lane r fmt a (k / 2) else lane r fmt b (k / 2))
    ∧ LanesBlind (.vshuf p fmt vm d a (.ziphi b)) fmt vm d [a, b] (fun r k =>
        if k % 2 = 0 then lane r fmt a (n / 2 + k / 2) else lane r fmt b (n / 2 + k / 2))
    ∧ LanesBlind (.vshuf p fmt vm d a (.uzev b)) fmt vm d [a, b] (fun r k =>
        if k < n / 2 then lane r fmt a (2 * k) else lane r fmt b (2 * (k - n / 2)))
    ∧ LanesBlind (.vshuf p fmt vm d a (.uzod b)) fmt vm d [a, b] (fun r k =>
        if k < n / 2 then lane r fmt a (2 * k + 1) else lane r fmt b (2 * (k - n / 2) + 1))
    ∧ LanesBlind (.vshuf p fmt vm d a (.rot m)) fmt vm d [a] (fun r k => lane r fmt a ((k + m.toNat) % n))
    ∧ LanesBlind (.vbcast p fmt u vm d (.reg x)) fmt vm d [] (fun r _ => (r.getS x).toNat)
    ∧ LanesBlind (.vbcast p fmt u vm d (.lit v)) fmt vm d [] (fun _ _ => (if u then v.setWidth 64 else v.signExtend 64 : Word).toNat)
    ∧ VecRuns (.vext p fmt u y a ix) [(a, .blind)] (fun s R =>
        let z := lane s.regsHere fmt a (at_ s.regsHere ix)
        R = s.regsHere.setS y (BitVec.ofInt 64
          (if (fmt = 1 ∨ fmt = 3 ∨ fmt = 5) ∧ 2 ^ (tagBits fmt - 1) ≤ z then (z : Int) - 2 ^ tagBits fmt else z)))
    ∧ VecRuns (.vins p fmt d x ix) [(d, .blind)] (fun s R =>
        LanesSet s.regsHere R fmt ⟨none, false⟩ d fmt (fun k =>
          (if k = at_ s.regsHere ix then (s.regsHere.getS x).toNat else lane s.regsHere fmt d k, 0)))
    ∧ VecRuns (.vtag p fmt d a) [(a, .blind)] (fun s R => R = s.regsHere.setV d ⟨(s.regsHere.getV a).bits, fmt⟩)
    ∧ VecRuns (.vmov p 0 ⟨none, false⟩ d a) [(a, .blind)] (fun s R => R = s.regsHere.setV d (s.regsHere.getV a))
    ∧ VecRuns (.vmov p fmt vm d a) ((a, .blind) :: keepCheck vm d) (fun s R =>
        LanesSet s.regsHere R fmt vm d (s.regsHere.getV a).tag (fun k => (lane s.regsHere fmt a k, 0)))
    ∧ VecRuns (.vzero p fmt d) [] (fun s R => R = s.regsHere.setV d ⟨0, fmt⟩)
    ∧ LanesBlind (.viota p fmt u vm d x) fmt vm d [] (fun r k => (r.getS x).toNat + k)

/-- R246, R252 to R257, R260: VCMP writes a mask; VRED leaves in lane 0 what the pairwise tree makes of the enabled lanes, and zero
above it; VSCAN leaves in each lane what its steps make of the enabled lanes up to it; VCVT converts lane by lane, into a window of the
lanes where the result has more of them and out of one where it has fewer; VQBLK leaves, for each of its blocks, a scale and eight FP4
codes, and VDQBLK the rounded products of codes and scales; VKEY is the order key of R153; MLOGIC.
A lane that no enabled lane feeds takes the neutral value, and flags are those of every combination made. VQBLK's corners are the
model's reading (log 24, 25). -/
def Obligations.VectorCompareReduceConvert : Prop :=
  ∀ (p : Pred) (fmt df sf : Tag) (vm : VMask) (mk : Option MReg) (cd : Cond) (op : RedOp) (w u su du sc : Bool) (pt : BitVec 3) (rm : Rm)
    (d a b c : VReg) (e : MReg) (mop : MOp), 0 < tagElems fmt →
    VecRuns (.vcmp p fmt cd u vm e a b) [(a, arithReq fmt), (b, arithReq fmt)] (fun s R =>
      let r := s.regsHere
      (∀ k, k < 64 → (R.getM e).getLsbD k = (decide (k < tagElems fmt) &&
        if laneOn r vm.mask k = true then (cmpLane fmt cd u (lane r fmt a k) (lane r fmt b k)).1 else !vm.zm && (r.getM e).getLsbD k))
      ∧ R = (r.setM e (R.getM e)).orFlags (orAll (((List.range (tagElems fmt)).filter (laneOn r vm.mask)).map (fun k =>
          (cmpLane fmt cd u (lane r fmt a k) (lane r fmt b k)).2))))
    ∧ (∀ L, L ≤ 5 → tagElems fmt = 2 ^ L →
      VecRuns (.vred p fmt op w u mk d a) [(a, arithReq fmt)] (fun s R =>
        let r := s.regsHere
        let t : Tag := if w = true ∧ tagIsFloat fmt = true then 7 else fmt
        let leaf (k : Nat) : Option (Nat × Word) :=
          if laneOn r mk k = true then
            some (if w = true ∧ tagIsFloat fmt = true then ((fpOf fmt).val (lane r fmt a k)).toFp fp32 false .rne 0
              else redLane fmt (lane r fmt a k))
          else none
        R = match treeNode (combOpt op t (w && tagIsInt fmt) u) leaf L 0 with
          | some x => (r.setV d ⟨BitVec.ofNat 256 (x.1 % 2 ^ tagBits t), t⟩).orFlags x.2
          | none => r.setV d ⟨BitVec.ofNat 256 (redIdent op t u), t⟩)
      ∧ VecRuns (.vscan p fmt op w u mk d a) [(a, arithReq fmt)] (fun s R =>
        let r := s.regsHere
        let leaf (k : Nat) : Option (Nat × Word) := if laneOn r mk k = true then some (redLane fmt (lane r fmt a k)) else none
        let node (k : Nat) := scanNode (combOpt op fmt w u) leaf L k
        R = (r.setV d (R.getV d)).orFlags (orAll ((List.range (tagElems fmt)).map (fun k => ((node k).map (·.2)).getD 0)))
          ∧ (R.getV d).tag = fmt
          ∧ ∀ k, k < tagElems fmt → lane R fmt d k = ((node k).map (·.1)).getD (redIdent op fmt u) % 2 ^ tagBits fmt))
    ∧ (∀ s bd, let i : Instr := .vcvt p df sf su du pt rm vm d a
       let r := s.regsHere
       let es := tagElems sf
       let ed := tagElems df
       let conv (src n : Nat) : Nat × Word :=
         cvtLane df sf su du (r.topx.getLsbD 0) rm (drawBits bd s.cur.ctx r n) (lane r sf a src)
       let inside (k : Nat) : Bool := decide (pt.toNat * es ≤ k ∧ k < pt.toNat * es + es)
       Clear s bd i → 0 < ed → tagCheck r (a, arithReq sf) = none →
       (∀ x ∈ (if es < ed then [(d, TagReq.blind)] else keepCheck vm d), tagCheck r x = none) →
         ∃ R, exec i s = .next (s.ran bd i (R.advance rm (min es ed)))
           ∧ (ed ≤ es → LanesSet r R df vm d df (fun k => conv (if ed < es then pt.toNat * ed + k else k) k))
           ∧ (es < ed →
             R = (r.setV d (R.getV d)).orFlags (orAll (((List.range ed).filter (fun k => inside k && laneOn r vm.mask k)).map
               (fun k => (conv (k - pt.toNat * es) (k - pt.toNat * es)).2)))
             ∧ (R.getV d).tag = df
             ∧ ∀ k, k < ed → lane R df d k =
                 if inside k = true ∧ laneOn r vm.mask k = true then
                   (conv (k - pt.toNat * es) (k - pt.toNat * es)).1 % 2 ^ tagBits df
                 else if inside k = true ∧ vm.zm = true then 0 else lane r df d k))
    ∧ (∀ s bd, let i : Instr := .vqblk p sf sc pt rm d a c
       let r := s.regsHere
       let nb := tagElems sf / 8
       let topx := r.topx.getLsbD 0
       let x (k j : Nat) : Fv := (fpOf sf).decode topx (lane r sf a (8 * k + j))
       let mag (v : Fv) : Fv := v.flip v.neg
       let largest (k : Nat) : Fv := ((List.range 8).map (fun j => mag (x k j))).foldl (fun m v => if fvLt false m v then v else m) (.num false 0 0)
       let scaleOf (n : Nat) : Fv := e3m5.decode topx n
       let suffices_ (k n : Nat) : Bool := !fvLt false (fvMul (.num false 6 0) (scaleOf n)).1 (largest k)
       let q (k j n : Nat) : Nat × Word := quantOne topx rm (drawBits bd s.cur.ctx r (8 * k + j)) (x k j) (scaleOf n)
       Clear s bd i → tagIsFloat sf = true → (pt.toNat + 1) * nb ≤ 8 →
       tagCheck r (a, .exact sf) = none → tagCheck r (c, if sc then .exact 13 else .blind) = none → tagCheck r (d, .blind) = none →
         ∃ R fl, let S (k : Nat) : Nat := laneGet (if sc then r.getV c else R.getV c).bits 8 (pt.toNat * nb + k)
             let code (k j : Nat) : Nat := laneGet (R.getV d).bits 4 (8 * (pt.toNat * nb + k) + j)
             let codes : Prop := sc = true ∨ d ≠ c
           exec i s = .next (s.ran bd i (R.advance rm (8 * nb)))
           ∧ R = (if sc then r.setV d ⟨(R.getV d).bits, 12⟩ else (r.setV d ⟨(R.getV d).bits, 12⟩).setV c ⟨(R.getV c).bits, 13⟩).orFlags
               (orAll ((List.range nb).map fl))
           ∧ (∀ n, n < 8 → (n < pt.toNat * nb ∨ pt.toNat * nb + nb ≤ n) → codes → laneGet (R.getV d).bits 32 n = laneGet (r.getV d).bits 32 n)
           ∧ (sc = false → ∀ n, n < 32 → (n < pt.toNat * nb ∨ pt.toNat * nb + nb ≤ n) →
               laneGet (R.getV c).bits 8 n = laneGet (r.getV c).bits 8 n)
           ∧ ∀ k, k < nb →
             ((∃ j < 8, (x k j).isNan = true) →
               fl k = Flag.nv ∧ (sc = false → S k = 0xFF) ∧ (codes → ∀ j, j < 8 → code k j = 0))
             ∧ ((∀ j < 8, (x k j).isNan = false) → sc = false → (largest k).isZero = true →
               fl k = 0 ∧ S k = 0 ∧ (codes → ∀ j, j < 8 → code k j = fp4.sign (x k j).neg))
             ∧ ((∀ j < 8, (x k j).isNan = false) → (sc = true ∨ (largest k).isZero = false) →
               fl k = orAll ((List.range 8).map (fun j => (q k j (S k)).2))
               ∧ (codes → ∀ j, j < 8 → code k j = (q k j (S k)).1 % 16)
               ∧ (sc = false → S k ≤ e3m5.maxCode topx
                   ∧ (∀ n, n < S k → suffices_ k n = false)
                   ∧ (suffices_ k (S k) = true ∨ S k = e3m5.maxCode topx))))
    ∧ VecRuns (.vdqblk p fmt pt d a c) [(a, .exact 12), (c, .exact 13)] (fun s R =>
      let r := s.regsHere
      let n := pt.toNat * (tagElems fmt / 8)
      LanesSet r R fmt ⟨none, false⟩ d fmt (fun k =>
        rneOf (fpOf fmt) (scaledProduct [fp4.decode (r.topx.getLsbD 0) (laneGet (r.getV a).bits 4 (8 * n + k))]
          [e3m5.decode (r.topx.getLsbD 0) (laneGet (r.getV c).bits 8 (n + k / 8))])))
    ∧ VecRuns (.vkey p 6 vm d a) ((a, .exact 7) :: keepCheck vm d) (fun s R =>
      LanesSet s.regsHere R 6 vm d 6 (fun k => (keyOf (lane s.regsHere 6 a k), 0)))
    ∧ VecRuns (.vkey p 7 vm d a) ((a, .int 5) :: keepCheck vm d) (fun s R =>
      LanesSet s.regsHere R 7 vm d 7 (fun k => (keyInv (lane s.regsHere 7 a k), 0)))
    ∧ Computes (.mlogic p mop) (fun s => let r := s.regsHere; match mop with
      | .and d a b => r.setM d (r.getM a &&& r.getM b)
      | .or d a b => r.setM d (r.getM a ||| r.getM b)
      | .xor d a b => r.setM d (r.getM a ^^^ r.getM b)
      | .andn d a b => r.setM d (r.getM a &&& ~~~ r.getM b)
      | .not d a => r.setM d (~~~ r.getM a)
      | .mov d a => r.setM d (r.getM a)
      | .froms d a => r.setM d (r.getS a)
      | .tos d a => r.setS d (r.getM a)
      | .popc d a => r.setS d (BitVec.ofNat 64 ((List.range 64).countP (r.getM a).getLsbD))
      | .first d a => r.setS d (BitVec.ofNat 64 (((List.range 64).find? (r.getM a).getLsbD).getD 64))
      | .set f d => r.setM d (BitVec.ofNat 64 (2 ^ tagElems f - 1)))

/-- R137, R234, R238 to R258: a vector instruction makes its tag checks in order; where the first that fails finds tag 15 it traps
with POISON, and where it finds another wrong tag with TAG_MISMATCH; TAUX names the register, the tag found and the tag required, and
the instruction has no other effect. Stated for every vector instruction, with the checks that vectorChecks lists.
The tag that TAUX calls required is the model's reading where two are allowed (log 22). -/
def Obligations.VectorTagTraps : Prop :=
  ∀ (s : State) (b : Binding) (i : Instr) (pre post : List (VReg × TagReq)) (v : VReg) (q : TagReq),
    let t := (s.regsHere.getV v).tag
    let trap (required : Tag) : Trap :=
      ⟨if t = 15 then Cause.poison else Cause.tagMismatch, 0, BitVec.ofNat 64 (v.toNat + 256 * t.toNat + 4096 * required.toNat)⟩
    vectorChecks i = some (pre ++ (v, q) :: post) → Clear s b i → (∀ c ∈ pre, tagCheck s.regsHere c = none) →
    match q with
    | .blind => t = 15 → exec i s = .next (s.trapHere b i (trap 0))
    | .exact n => t ≠ n → exec i s = .next (s.trapHere b i (trap n))
    | .int n => t ≠ n → (n ≠ 14 → t ≠ n + 1) → exec i s = .next (s.trapHere b i (trap n))

/-- R134, R140, R142: a value that a format holds exactly is converted to that format without a change and without a flag, in every
rounding mode: the code it came from, of an infinity or a finite value. -/
def Obligations.RoundingExact : Prop :=
  ∀ (f : FpFmt) (topx : Bool) (rm : Rm) (dr c : Nat), f ∈ [fp32, fp16, bf16, e4m3, e5m2, e3m5, fp4] →
    c < 2 ^ (f.man + f.exp + if f.signed then 1 else 0) → (f.decode topx c).isNan = false →
    (f.decode topx c).toFp f topx rm dr = (c, 0)

/-- R153, R257: the key of an FP32 value other than a NaN and −0 gives the value back, keys are ordered as the values are, and
both zeros have one key. -/
def Obligations.OrderKeys : Prop :=
  ∀ (x y : Nat), x < 2 ^ 32 → y < 2 ^ 32 → (fp32.val x).isNan = false → (fp32.val y).isNan = false →
    keyOf x < 2 ^ 32 ∧ (x ≠ 2 ^ 31 → keyInv (keyOf x) = x) ∧ keyOf (2 ^ 31) = keyOf 0
      ∧ (keyOf x < keyOf y ↔ fvLt false (fp32.val x) (fp32.val y) = true)

/-! ## Matrix unit and engines at issue (R94-R103, R261-R278) -/

/-- R96, R264: MCLAIM takes a free slot for the context, with scale 1.0 and no format, retires at once on a slot that the context owns,
and parks on another context's and on one that an earlier claimant waits for; MREL of the context's own slot releases it, at once when
no command is queued, and MBAND (R266) sets its scale; both trap with SLOT_STATE on any other slot. R99, R270: MSWAP of an accumulator
that nothing uses exchanges the banks and retires, and with a queued command of the bank it parks as issued. In a deterministic launch
an accumulator that is not assigned to the context is NONDET (R93). -/
def Obligations.OperandSlots : Prop :=
  ∀ (s : State) (b : Binding) (p : Pred) (o : OReg) (a : SReg) (acc : Bool),
    let x := s.here.slot o.toNat
    let mine := x.isFree = false ∧ x.owner = s.cur.ctx
    let yields := claimYields (s.envHere b) s.here o
    let z := s.here.acc acc
    let users := (s.here.mx.filter (·.usesBank acc)).map (·.id)
    (Clear s b (.mclaim p o) →
      (x.isFree = true → yields = false →
        ∃ u, exec (.mclaim p o) s = .next u ∧ (u.here.slot o.toNat).st = .claimed ∧ (u.here.slot o.toNat).owner = s.cur.ctx
          ∧ (u.here.slot o.toNat).isFree = false
          ∧ (u.here.slot o.toNat).fmt = none ∧ (u.here.slot o.toNat).band = 0x3F80 ∧ (u.here.slot o.toNat).data = x.data
          ∧ (∀ q, q ≠ o.toNat → u.here.slot q = s.here.slot q) ∧ u.regsHere = s.regsHere ∧ u.here.ls = s.here.ls
          ∧ u.ctxHere.pc = s.succHere b (.mclaim p o) ∧ u.ctxHere.st = .ready)
      ∧ (mine → exec (.mclaim p o) s = .next (s.ran b (.mclaim p o) s.regsHere))
      ∧ (¬ mine → x.isFree = false ∨ yields = true →
        exec (.mclaim p o) s = .next (s.put (s.here.waitsAt s.cur.ctx (.mclaim p o) 7 true true 0 0))))
    ∧ (Clear s b (.mrel p o) →
      (mine → exec (.mrel p o) s = .next (s.ranIn b (.mrel p o) (s.here.releaseSlot o.toNat) s.regsHere))
      ∧ (mine → s.here.mx = [] → ((s.here.releaseSlot o.toNat).slot o.toNat).st = .free)
      ∧ (¬ mine → exec (.mrel p o) s = .next (s.trapHere b (.mrel p o) ⟨Cause.slotState, 0, o.setWidth 64⟩)))
    ∧ (Clear s b (.mband p o a) →
      (mine → exec (.mband p o a) s = .next (s.ranIn b (.mband p o a)
        (s.here.setSlot o.toNat { x with band := (s.regsHere.getS a).setWidth 16 }) s.regsHere))
      ∧ (¬ mine → exec (.mband p o a) s = .next (s.trapHere b (.mband p o a) ⟨Cause.slotState, 0, o.setWidth 64⟩)))
    ∧ (Clear s b (.mswap p acc) →
      (detAcc (s.envHere b) acc = false → exec (.mswap p acc) s = .next (s.trapHere b (.mswap p acc) ⟨Cause.nondet, 0, 0xC6⟩))
      ∧ (detAcc (s.envHere b) acc = true → z.swap = [] → z.reads = [] → users = [] →
        exec (.mswap p acc) s = .next (s.ranIn b (.mswap p acc) (s.here.setAcc acc ⟨z.vis, z.work, [], []⟩) s.regsHere))
      ∧ (detAcc (s.envHere b) acc = true → z.swap = [] → users ≠ [] →
        exec (.mswap p acc) s = .next (s.put ((s.here.setAcc acc { z with swap := [(s.cur.ctx, users)] }).waitsAt s.cur.ctx
          (.mswap p acc) 8 true false 0 0))))

/-- R99, R150, R270, R271: MREAD with no MSWAP to wait for, of a visible bank whose accepted mode allows the tag, writes eight elements
of one row, those of segment s[a] mod 512, into the lanes of its window, converted to the tag as that mode's row gives, and ORs their
flags; the register's other lanes keep their bits. An element of an integer bank read as an integer is clamped to the tag's width, and is
itself as I32. A tag the mode does not allow traps with TAG_MISMATCH, and a register of more than eight lanes with tag 15 traps with
POISON. Behind an MSWAP that has not exchanged it stalls.
That the mode is checked first is the model's reading (log 60). -/
def Obligations.AccumulatorRead : Prop :=
  ∀ (s : State) (b : Binding) (p : Pred) (tag : Tag) (acc : Bool) (rm : Rm) (pt : BitVec 3) (d : VReg) (a : SReg),
    let i : Instr := .mread p tag acc rm pt d a
    let z := s.here.acc acc
    let seg := (s.regsHere.getS a).toNat % 512
    let allows (isInt : Bool) : Prop := if isInt then tag = 1 ∨ tag = 3 ∨ tag = 5 ∨ tag = 7 else 7 ≤ tag.toNat ∧ tag.toNat ≤ 11
    let value (j : Nat) := bankValue z.vis.accInt z.vis tag (s.regsHere.topx.getLsbD 0) rm (drawBits b s.cur.ctx s.regsHere j)
      (z.vis.get (8 * seg + j))
    Clear s b i → (∀ q ∈ z.reads, q.ctx ≠ s.cur.ctx) →
    (z.swap = [] → allows z.vis.accInt → (tagElems tag > 8 → (s.regsHere.getV d).tag ≠ 15) → detAcc (s.envHere b) acc = true →
      ∃ R, exec i s = .next (s.ran b i R) ∧ (R.getV d).tag = tag ∧ (∀ v, v ≠ d → R.getV v = s.regsHere.getV v)
        ∧ R.s = s.regsHere.s ∧ R.p = s.regsHere.p ∧ R.m = s.regsHere.m ∧ R.topx = s.regsHere.topx
        ∧ R.flags = s.regsHere.flags ||| orAll ((List.range 8).map (fun j => (value j).2))
        ∧ (∀ n, n < tagElems tag → (n < 8 * pt.toNat ∨ 8 * pt.toNat + 8 ≤ n) → lane R tag d n = lane s.regsHere tag d n)
        ∧ (∀ j, j < 8 → 8 * pt.toNat + j < tagElems tag → lane R tag d (8 * pt.toNat + j) = (value j).1 % 2 ^ tagBits tag)
        ∧ (z.vis.accInt = true → tag ≠ 7 → ∀ j, j < 8 → 8 * pt.toNat + j < tagElems tag →
            let v := (z.vis.get (8 * seg + j)).toInt
            let w := tagBits tag
            lane R tag d (8 * pt.toNat + j) = (max (-(2 ^ (w - 1))) (min v (2 ^ (w - 1) - 1)) % 2 ^ w).toNat))
    ∧ (z.swap = [] → ¬ allows z.vis.accInt →
      exec i s = .next (s.trapHere b i ⟨Cause.tagMismatch, 0, BitVec.ofNat 64 (tag.toNat * 256 + (if z.vis.accInt then 5 else 7) * 4096)⟩))
    ∧ (z.swap = [] → allows z.vis.accInt → tagElems tag > 8 → (s.regsHere.getV d).tag = 15 →
      exec i s = .next (s.trapHere b i ⟨Cause.poison, 0, BitVec.ofNat 64 (d.toNat + 256 * 15)⟩))
    ∧ (z.swap ≠ [] → allows z.nextVis.accInt → (tagElems tag > 8 → (s.regsHere.getV d).tag ≠ 15) → detAcc (s.envHere b) acc = true →
      exec i s = .next (s.put ((s.here.setAcc acc { z with reads := z.reads ++ [⟨s.cur.ctx, z.swap.length, z.nextVis.accInt⟩] }).waitsAt
        s.cur.ctx i 0 false true 0 0)))

/-- R100, R262, R263, R265, R267 to R269, R272, R273: MLOAD, MMA, MZERO, MWRITE, MSTORE and both copies, when their checks pass and their
queue has room, are put behind the others of their queue with the operand values that the registers hold, TOPX and the weights in force;
the context goes on. The granules of the local destination become empty (R89); an MLOAD's slot is loading (R95, R263); the bank that
an overwriting MMA, an MZERO or an MWRITE will write takes its mode (R267, R269). Nothing else changes. -/
def Obligations.EngineCommandsAccepted : Prop :=
  ∀ (s : State) (b : Binding) (i : Instr), Clear s b i → EngineChecks s b i → ¬ regionForbids s i →
    let c := s.here
    let r := s.regsHere
    let q : EngQ := match i with
      | .cpyFetch .. | .cpyPutj .. => .cx
      | _ => .mx
    let gone := granules (commandDst r i).1 (commandDst r i).2
    (c.queue q).length < 16 → c.ldfFirst s.cur.ctx none gone = false →
    ∃ k, exec i s = .next (s.ranIn b i
        (let c' := { c.setQueue q (c.queue q ++ [k]) with nextId := c.nextId + 1, ls := c.ls.setEmpty gone }
         match i with
         | .mload _ _ o _ _ _ => c'.settle o.toNat
         | .mma _ mf ow acc _ _ _ => if ow = true then c'.acceptMode acc (decide (mf = .i8)) else c'
         | .mzero _ tag acc _ => c'.acceptMode acc (decide (tag = 5))
         | .mwrite _ tag acc _ _ _ => c'.acceptMode acc (decide (tag = 5))
         | _ => c') r)
      ∧ k.id = c.nextId ∧ k.instr = i ∧ k.ctx = s.cur.ctx ∧ k.topx = r.topx.getLsbD 0 ∧ k.weights = c.weights
      ∧ k.started = false ∧ k.done = false ∧ k.step = .wait ∧ k.uncommitted = true
      ∧ (match i with
        | .mload _ _ _ a off _ => k.a = r.getS a + off.signExtend 64
        | .mma _ _ _ _ o1 o2 _ => k.bandA = (c.slot o1.toNat).band ∧ k.bandB = (c.slot o2.toNat).band
        | .mwrite _ _ _ a off _ => k.a = r.getS a + off.signExtend 64
        | .mstore _ _ acc _ a off _ => k.a = r.getS a + off.signExtend 64 ∧ k.e0 = (if (c.acc acc).nextVis.accInt then 1 else 0)
        | .cpyFetch _ d a n v _ => k.d = r.getS d ∧ k.a = r.getS a ∧ k.b = r.getS n ∧ k.ver = r.getS v
        | .cpyPutj _ d a n v st _ => k.d = r.getS d ∧ k.a = r.getS a ∧ k.b = r.getS n ∧ k.ver = r.getS v
            ∧ (∀ e, st = some e → k.e0 = r.getS e ∧ k.e1 = r.getS (e + 1))
        | _ => True)

/-- R100: with sixteen commands in its queue every command of the matrix and copy queues stalls at the instruction. R40, R275, R276: SEND
and COLL are withheld until the commit, one egress entry each, of the instruction, whose registers are read at the release (R109); with 32
entries there they trap with REGION_OVERFLOW; COLL at a level that is no collective level traps with LEVEL_RANGE. -/
def Obligations.EngineQueuesAndWithheldCommands : Prop :=
  (∀ (s : State) (b : Binding) (i : Instr), Clear s b i → EngineChecks s b i → ¬ regionForbids s i →
     16 ≤ (s.here.queue (cmdQueue i)).length →
     exec i s = .next (s.put (s.here.waitsAt s.cur.ctx i 13 false true 0 0)))
  ∧ (∀ (s : State) (b : Binding) (i : Instr), Clear s b i → s.ctxHere.region.d = false →
       ((∃ p d a c len tag y, i = .send p d a c len tag y)
         ∨ (∃ p k cop tag d a c v lw y, i = .coll p k cop tag d a c v lw y ∧ barrierLevel b k.toNat = true)) →
       (s.ctxHere.egress.length < 32 → exec i s = .next (s.put (s.here.setCtx s.cur.ctx
         { s.ctxHere.ran s.regsHere (s.succHere b i) with egress := s.ctxHere.egress ++ [.cmd i] })))
       ∧ (32 ≤ s.ctxHere.egress.length → exec i s = .next (s.trapHere b i ⟨Cause.regionOverflow, 0, 32⟩)))
  ∧ (∀ (s : State) (b : Binding) (p : Pred) (tag : Tag) (y : Sync) (k : Level) (cop : BitVec 8) (d a c v : SReg) (lw : Option SReg),
       Clear s b (.coll p k cop tag d a c v lw y) → barrierLevel b k.toNat = false →
       exec (.coll p k cop tag d a c v lw y) s =
         .next (s.trapHere b (.coll p k cop tag d a c v lw y) ⟨Cause.levelRange, 0, BitVec.ofNat 64 k.toNat⟩))

/-- R102, R277: SEMW retires once (count − threshold) mod 2^16 is below 2^15 and parks until then; SEMR reads the count, and is NONDET in a
deterministic launch. R103, R277: GARM and GRES set a guard, and are NONDET where R93 says so. R278: EWAIT retires with no command of the
context left in the queues it names, and parks otherwise; R370: a copy of its own that has halted, with the deferred fault not yet
delivered, has the fault delivered there. That EWAIT inside a handler goes on waiting instead, until the TRET, is the model's reading of R364
and R370 (log 61). -/
def Obligations.SemaphoresGuardsWaits : Prop :=
  ∀ (s : State) (b : Binding) (p : Pred) (q : BitVec 8) (t : BitVec 16) (d : SReg) (g : BitVec 4) (k : PReg) (neg mx cx ce : Bool),
    let n := acount s.here.sems q.toNat
    let mine (j : Cmd) : Bool := j.ctx == s.cur.ctx && !j.done
    let left := (mx && s.here.mx.any mine) || (cx && s.here.cx.any mine) || (ce && s.here.port.any mine)
    let halts := cx && s.here.cx.any (fun j => mine j && j.halted.isSome && !j.recorded)
    let free := detGuard (s.envHere b) s.here g.toNat (fun k => cmdSync k.instr)
    (Clear s b (.semw p q t) →
      (((n : Int) - t.toNat) % 65536 < 32768 → exec (.semw p q t) s = .next (s.ran b (.semw p q t) s.regsHere))
      ∧ (32768 ≤ ((n : Int) - t.toNat) % 65536 →
        exec (.semw p q t) s = .next (s.put (s.here.waitsAt s.cur.ctx (.semw p q t) 9 true true 0 0))))
    ∧ (Clear s b (.semr p d q) →
      (b.det = false → exec (.semr p d q) s = .next (s.ran b (.semr p d q) (s.regsHere.setS d (BitVec.ofNat 64 n))))
      ∧ (b.det = true → exec (.semr p d q) s = .next (s.trapHere b (.semr p d q) ⟨Cause.nondet, 0, 0xCF⟩)))
    ∧ (Clear s b (.garm p g) →
      (free = true →
        exec (.garm p g) s = .next (s.ranIn b (.garm p g) { s.here with guards := s.here.guards.set g.toNat none g.isLt } s.regsHere))
      ∧ (free = false → exec (.garm p g) s = .next (s.trapHere b (.garm p g) ⟨Cause.nondet, 0, 0xD0⟩)))
    ∧ (Clear s b (.gres p g k neg) →
      (free = true → exec (.gres p g k neg) s = .next (s.ranIn b (.gres p g k neg)
        { s.here with guards := s.here.guards.set g.toNat (some (s.regsHere.getP k ^^ neg)) g.isLt } s.regsHere))
      ∧ (free = false → exec (.gres p g k neg) s = .next (s.trapHere b (.gres p g k neg) ⟨Cause.nondet, 0, 0xD1⟩)))
    ∧ (Clear s b (.ewait p mx cx ce) →
      (left = false → exec (.ewait p mx cx ce) s = .next (s.ran b (.ewait p mx cx ce) s.regsHere))
      ∧ (left = true → (halts = false ∨ s.ctxHere.deferred = none ∨ s.ctxHere.trap.act = true) →
        exec (.ewait p mx cx ce) s = .next (s.put (s.here.waitsAt s.cur.ctx (.ewait p mx cx ce) 10 true true 0 0)))
      ∧ (∀ f, halts = true → s.ctxHere.deferred = some f → s.ctxHere.canEnter = true →
        ∃ u, exec (.ewait p mx cx ce) s = .next u ∧ u.ctxHere.pc = s.ctxHere.trap.tvec ∧ u.ctxHere.trap.tpc = s.ctxHere.pc
          ∧ u.ctxHere.trap.tcause = BitVec.ofNat 64 (2 ^ 63 + f.trap.cause % 65536) ∧ u.ctxHere.deferred = none
          ∧ u.regsHere = s.regsHere))

/-! ## System instructions (R282-R285) -/

/-- R282, R283, R284, R285: MFS reads and MTS writes the special registers of the context; a register that is read-only keeps its value;
MFS of TREEPOS gives the level's fields, and of a level beyond the tree traps with LEVEL_RANGE; MFS of CLK and CLKR read the clock, and
trap with NONDET in a deterministic launch; RNGR gives F(key, RNGCTR) and counts; TLBF drops the cached translations it names, and stalls
while a walk of its core is under way. -/
def Obligations.SpecialRegisters : Prop :=
  ∀ (s : State) (b : Binding) (p : Pred) (d a : SReg) (r : BitVec 12) (f : TlbfForm),
    let x := s.ctxHere
    let n64 := BitVec.ofNat 64
    let flag (c : Bool) (n : Nat) : Nat := if c then n else 0
    let value : Word := match r.toNat with
      | 0x000 => n64 b.lcore
      | 0x001 => n64 s.cur.core
      | 0x002 => n64 s.cur.ctx
      | 0x003 => n64 b.launch.acc
      | 0x004 => n64 (flag b.det 1)
      | 0x005 => n64 (flag b.pair 1)
      | 0x008 => n64 (b.seed.toNat % 2 ^ 32)
      | 0x009 => n64 (b.seed.toNat / 2 ^ 32)
      | 0x00A => x.regs.rngctr
      | 0x00B => x.regs.topx
      | 0x00C => x.regs.flags
      | 0x010 => x.region.entry ||| n64 (flag x.region.d 1 + flag x.region.m 2)
      | 0x018 => x.trap.tvec
      | 0x019 => x.trap.tcause
      | 0x01A => x.trap.tpc
      | 0x01B => x.trap.tword
      | 0x01C => x.trap.taddr
      | 0x01D => x.trap.taux
      | 0x020 => if s.cur.ctx = 0 ∧ b.lcore = b.super then s.here.recov.headD 0 else 0
      | 0x028 => s.here.arbw
      | 0x030 => n64 (s.device s.cur.dev).clk
      | 0x038 => n64 b.asid
      | _ => 0
    let w := s.regsHere.getS a
    let ctx (y : Context) : Core := s.here.setCtx s.cur.ctx y
    let after : Core := match r.toNat with
      | 0x00A => ctx { x with regs := { x.regs with rngctr := w } }
      | 0x00B => ctx { x with regs := { x.regs with topx := n64 (w.toNat % 2) } }
      | 0x00C => ctx { x with regs := { x.regs with flags := n64 (w.toNat % 128) } }
      | 0x018 => ctx { x with trap := { x.trap with tvec := w } }
      | 0x019 => ctx { x with trap := { x.trap with tcause := n64 (x.trap.tcause.toNat / 2 ^ 63 * 2 ^ 63 + w.toNat % 65536) } }
      | 0x01A => ctx { x with trap := { x.trap with tpc := w } }
      | 0x01B => ctx { x with trap := { x.trap with tword := w } }
      | 0x01C => ctx { x with trap := { x.trap with taddr := w } }
      | 0x01D => ctx { x with trap := { x.trap with taux := w } }
      | 0x020 => if (s.cur.ctx = 0 ∧ b.lcore = b.super) ∧ w.getLsbD 0 = true then { s.here with recov := s.here.recov.drop 1 } else s.here
      | 0x028 => { s.here with arbw := n64 (w.toNat % 2 ^ 24) }
      | _ => s.here
    (Clear s b (.mfs p d r) →
      (r.toNat < 0x100 → (r = 0x030 → b.det = false) → exec (.mfs p d r) s = .next (s.ran b (.mfs p d r) (s.regsHere.setS d value)))
      ∧ (r = 0x030 → b.det = true → exec (.mfs p d r) s = .next (s.trapHere b (.mfs p d r) ⟨Cause.nondet, 0, 0xE0⟩))
      ∧ (∀ l, 0x100 ≤ r.toNat → b.level? (r.toNat - 0x100) = some l →
        let child := if l.code = 1 then s.cur.ctx else if l.code = 0 then 0 else (b.child[r.toNat - 0x100]?).getD 0
        exec (.mfs p d r) s = .next (s.ran b (.mfs p d r) (s.regsHere.setS d (n64 (child % 2 ^ 16 + l.arity % 2 ^ 16 * 2 ^ 16
          + l.code % 2 ^ 4 * 2 ^ 32 + flag l.re (2 ^ 36) + b.tree.length % 2 ^ 7 * 2 ^ 40 + coreLevel b.tree % 2 ^ 6 * 2 ^ 48)))))
      ∧ (0x100 + b.tree.length ≤ r.toNat →
        exec (.mfs p d r) s = .next (s.trapHere b (.mfs p d r) ⟨Cause.levelRange, 0, BitVec.ofNat 64 (r.toNat - 0x100)⟩)))
    ∧ (Clear s b (.mts p a r) → exec (.mts p a r) s = .next (s.ranIn b (.mts p a r) after (after.ctx s.cur.ctx).regs))
    ∧ (Clear s b (.clkr p d) → b.det = false →
      exec (.clkr p d) s = .next (s.ran b (.clkr p d) (s.regsHere.setS d (BitVec.ofNat 64 (s.device s.cur.dev).clk))))
    ∧ (Clear s b (.clkr p d) → b.det = true → exec (.clkr p d) s = .next (s.trapHere b (.clkr p d) ⟨Cause.nondet, 0, 0xE2⟩))
    ∧ Computes (.rngr p d) (fun s => { s.regsHere with rngctr := s.regsHere.rngctr + 1 }.setS d
        (rngF (rngKey (s.here.bound.getD b) s.cur.ctx) s.regsHere.rngctr))
    ∧ (Clear s b (.tlbf p f) → (s.envHere b).walking = false →
      exec (.tlbf p f) s = .next (s.ranIn b (.tlbf p f) { s.here with tlb := s.here.tlb.filter (fun t => match f with
        | .all => false
        | .page q => !t.covers b.asid (s.regsHere.getS q)) } s.regsHere))
    ∧ (Clear s b (.tlbf p f) → (s.envHere b).walking = true →
      exec (.tlbf p f) s = .next (s.put (s.here.waitsAt s.cur.ctx (.tlbf p f) 0 false true 0 0)))

/-! ## What reaches a context or a core from outside its instructions -/

/-- R42, R399, R368, R369, R376: a D = 0 region that is 65,536 cycles old, a region of a pair that has retired 4,096 instructions, and
a wait of 2^32 cycles whose event has not come by then trap their context: its handler is entered with REGION_TOO_LONG and the region's
entry, or with PARK_TIMEOUT, the address of the access and the wait code; the wait is withdrawn and no register changes. An event that
comes in the cycle of the timeout counts first. R39, R40, R65, R100, R102, R109: the commit of a context releases its first egress
entry: a semaphore increment is applied; a counted join, with its operands as the registers stand, leaves for its home with a new
request number, and a push for its receiver; a SEND enters its queue. At 1,024 outstanding a join or push waits with code 12. R285: a
write to RECOV by the supervisor core's control context takes the held event.
That the cycles count on in the handler is the model's reading (log 64). -/
def Obligations.LimitsAndEgress : Prop :=
  (∀ (s : State) (w : Who) (b : Binding), w.ctx < 11 → (s.core w.dev w.core).bound = some b → (s.core w.dev w.core).killWait = none →
     s.liveCtx w = true → (s.ctxAt w).canEnter = true →
     let x := s.ctxAt w
     let trapped (i : Instr) (cause : Nat) (addr aux : Word) : Prop :=
       ∃ u, exec i s = .next u ∧ (u.ctxAt w).pc = x.trap.tvec ∧ (u.ctxAt w).wait = none ∧ (u.ctxAt w).st = .ready
         ∧ (u.ctxAt w).trap.tcause = BitVec.ofNat 64 (2 ^ 63 + cause) ∧ (u.ctxAt w).trap.taddr = addr
         ∧ (u.ctxAt w).trap.taux = aux ∧ (u.ctxAt w).regs = x.regs
     let entry := x.region.entry &&& 0xFFFFFFFFFFFF
     (b.peer = none → x.region.d = false → 65536 ≤ x.region.cycles → trapped (.regionTooLong w) Cause.regionTooLong 0 entry)
     ∧ (∀ p, b.pair = true → b.peer = some p → p ≠ w.core → (s.core w.dev p).eccHit = false → 4096 ≤ x.region.retired →
       trapped (.pairRegionLimit w) Cause.regionTooLong 0 entry)
     ∧ (∀ v, b.peer = none → x.wait = some v → v.code ≠ 0 → 2 ^ 32 ≤ x.watchdog →
       (s.eventNow w v = none → trapped (.parkTimeout w) Cause.parkTimeout (waitAddr (s.core w.dev w.core) x.regs v.instr) (BitVec.ofNat 64 v.code))
       ∧ (∀ u, s.eventNow w v = some u → exec (.parkTimeout w) s = .next u)))
  ∧ (∀ (s : State) (w : Who) (b : Binding) (v : Word) (q inc : Nat) (i : Instr) (j : JoinOut) (rest : List Egress), w.ctx < 11 →
       Alone s w.dev w.core b →
       let c := s.core w.dev w.core
       let x := s.ctxAt w
       (w.ctx = 0 → b.lcore = b.super → exec (.recovTake w v) s = .next (s.setCore w.dev w.core
         { c with recov := if v.getLsbD 0 then c.recov.drop 1 else c.recov }))
       ∧ (x.committing = true → b.checker = false →
         (x.egress = .sems q inc :: rest →
           ∃ u, exec (.egressRelease w) s = .next u ∧ (u.ctxAt w).egress = rest
             ∧ (u.core w.dev w.core).sems = aset c.sems q ((acount c.sems q + inc) % 65536) ∧ u.net = s.net)
         ∧ (∀ va t, x.egress = .join i :: rest → egressFlow c x b.asid (.join i) = some (va, .ok t) → cntJoin x.regs t i = some j →
           j.data.isNone = false → gDev j.line = w.dev →
           (x.out.length < 1024 →
             ∃ u h, exec (.egressRelease w) s = .next u ∧ (u.ctxAt w).egress = rest ∧ (u.ctxAt w).out.length = x.out.length + 1
               ∧ u.net = s.net ++ [⟨w.dev, h, c.weights, .req (gLocal j.line / 64) (some b.launch)
                 (.join [⟨.ctx w (s.postNo w), some b.launch, b.asid, j.va, j.data⟩])⟩])
           ∧ (1024 ≤ x.out.length → ∀ y, x.wait = some y →
             ∃ u, exec (.egressRelease w) s = .next u ∧ (u.ctxAt w).egress = x.egress ∧ u.net = s.net
               ∧ (u.ctxAt w).wait = some { y with code := 12 }))
         ∧ (∀ rcv off data typed topx p, x.egress = .push rcv off data typed topx :: rest → b.cores[rcv.toNat]? = some (w.dev, p) →
           x.out.length < 1024 →
           ∃ u h, exec (.egressRelease w) s = .next u ∧ (u.ctxAt w).egress = rest ∧ (u.ctxAt w).out.length = x.out.length + 1
             ∧ u.net = s.net ++ [⟨w.dev, h, c.weights, .land ⟨w, s.postNo w, none, b.lcore, rcv.toNat, off, data, c.plan.seq, topx, typed, b.launch, false⟩⟩])
         ∧ (∀ p d a o z y k, x.egress = .cmd (.send p d a o z k y) :: rest → c.cx.length < 16 →
           ∃ u, exec (.egressRelease w) s = .next u ∧ (u.ctxAt w).egress = rest ∧ u.net = s.net
             ∧ (u.core w.dev w.core).cx = c.cx ++ [{ newCmd c w.ctx x.regs (.send p d a o z k y) with uncommitted := false }])))

/-- R29, R32, R37, R204: once every party of a node has a counted arrival of one generation (and, at a level that leaves the device, the
node's count has come to the devices times the generation), that generation is released at every party. Each party with a VOTE takes
the votes of all combined under its own operation: the bits of all, the bits of any, or the largest. One VOTE.p whose combined result
names no plan makes the generation bad for every party, and that result is what those without a vote take. Until then nothing is
released. That such a generation is bad for parties of every kind, and what those without a vote take, are read from R37 (log 59). -/
def Obligations.BarrierRelease : Prop :=
  ∀ (s : State) (l : LaunchId) (k node g : Nat) (b : Binding) (lv : TreeLevel), s.bindingOf l = some b → b.level? k = some lv →
    let places := (nodeMembers b.tree k node).filterMap b.place
    let devs := (places.map (·.1)).eraseDups
    let arrived := places.map (fun p => (s.core p.1 p.2).waitingArrival k)
    let parties := arrived.filterMap id
    let votes := arrived.filterMap (fun o => (o.bind (·.vote)).map (·.2))
    let whole := lv.code < 7 ∨ devs.length * g ≤ s.barrierCount l (devs.foldl min (2 ^ 14)) k node
    places ≠ [] →
    ((∀ o ∈ arrived, ∃ a, o = some a ∧ a.gen = g ∧ a.counted = true) → whole →
      ∃ bad, exec (.barrierRelease l k node) s =
          .next (places.foldl (fun t p => t.modCore p.1 p.2 (fun c => c.releaseArrival k g votes bad)) s)
        ∧ (bad = none ↔ ∀ a ∈ parties, ∀ op w, a.vote = some (op, w) → a.sel = true → (voteResult op votes).toNat < b.plan.nph.length)
        ∧ (∀ v, bad = some v → ∃ a ∈ parties, ∃ op w, a.vote = some (op, w) ∧ a.sel = true ∧ v = voteResult op votes))
    ∧ ((∃ o ∈ arrived, ∀ a, o = some a → a.counted = false) → exec (.barrierRelease l k node) s = .next s)
    ∧ ((∀ o ∈ arrived, ∃ a, o = some a ∧ a.gen = g) → ¬whole → exec (.barrierRelease l k node) s = .next s)
    ∧ (∀ (c : Core) (a : Arrival) (bad : Option Word), a ∈ c.arrivals → a.level = k → a.gen = g → a.released = false →
        { a with
          released := true
          result := match a.vote with
            | some v => some (voteResult v.1 votes)
            | none => bad
          bad := bad.isSome } ∈ (c.releaseArrival k g votes bad).arrivals)
    ∧ (votes ≠ [] →
        (∀ n, (voteResult .and votes).getLsbD n = votes.all (·.getLsbD n)) ∧ (∀ n, (voteResult .or votes).getLsbD n = votes.any (·.getLsbD n))
        ∧ voteResult .max votes ∈ votes ∧ ∀ v ∈ votes, v.toNat ≤ (voteResult .max votes).toNat)

/-- R79, R81, R99, R36, R93: a finished walk gives its core a translation; the answer to a stash window's read writes its line and sets it
full; a landing inside the receiver's windows writes its bytes and sets their granules full, whether it comes now or was held, and one that has passed the checks is not
compared again; one outside the windows is refused with EXCHANGE_VIOLATION and one of another TOPX with TOPX_MISMATCH; an MSWAP
whose commands have completed and which no stalled MREAD precedes exchanges the banks and retires.
That a core caches every walk's result is the model's choice (log 40). -/
def Obligations.ArrivalsAtCores : Prop :=
  ∀ (s : State) (d c n : Nat) (x : Device) (b : Binding), aget s.devs d = some x → Alone s d c b →
    (∀ k v t, x.walks[n]? = some ⟨k, v, b.asid, t⟩ → (v = .ctx c 0 ∨ v = .cmd c .cx) → n < 96 → ∀ y, walk s d k b.asid t = .ok y →
      ∃ u, exec (.walkComplete d n) s = .next u ∧ (u.core d c).tlb = (s.core d c).tlb ++ [y] ∧ (u.device d).walks = x.walks.eraseIdx n)
    ∧ (∀ dv h wt win id l bs k, s.net[n]? = some ⟨dv, h, wt, .answer (.stash d c win id l) (.data bs)⟩ → (s.core d c).window win = some k →
      k.id = id →
      ∃ u, exec (.stashFill n) s = .next u ∧ u.net = s.net.eraseIdx n
        ∧ (u.core d c).ls = (s.core d c).ls.writeFull (16 * k.loc + 64 * l) bs
        ∧ (u.core d c).window win = some { k with busy := setDel k.busy l })
    ∧ (∀ h wt l, s.net[n]? = some ⟨d, h, wt, .land l⟩ → x.coreOf l.launch l.rcv = some (c, b) → (s.core d c).sealed = false →
      l.passed = false → l.seq = (s.core d c).plan.seq → l.src.dev = d →
      (b.admits (s.core d c).plan l = true → (l.typed = true → l.topx = ((s.core d c).ctx 0).regs.topx.getLsbD 0) →
        (s.core d c).held = [] → (b.det = true → (granules l.off.toNat l.data.length).all (fun g => !(s.core d c).ls.isFull g) = true) →
        ∃ u, exec (.pushLanding n) s = .next u ∧ (u.core d c).ls = (s.core d c).ls.writeFull l.off.toNat l.data
          ∧ u.net = s.net.eraseIdx n ++ [⟨d, none, 0x010101, .landAck l.src l.no l.cmd none⟩])
      ∧ (b.admits (s.core d c).plan l = false →
        ∃ u, exec (.pushLanding n) s = .next u ∧ (u.core d c).ls = (s.core d c).ls
          ∧ u.net = s.net.eraseIdx n ++ [⟨d, none, 0x010101, .landAck l.src l.no l.cmd
            (some ⟨Cause.exchangeViolation, l.off, BitVec.ofNat 64 b.lcore⟩)⟩])
      ∧ (b.admits (s.core d c).plan l = true → l.typed = true → l.topx ≠ ((s.core d c).ctx 0).regs.topx.getLsbD 0 →
        ∃ u, exec (.pushLanding n) s = .next u ∧ (u.core d c).ls = (s.core d c).ls ∧ ((u.core d c).ctx 0).deferred.isSome = true
          ∧ u.net = s.net.eraseIdx n ++ [⟨d, none, 0x010101, .landAck l.src l.no l.cmd
            (some ⟨Cause.topxMismatch, l.off, BitVec.ofNat 64 b.lcore⟩)⟩]))
    ∧ (∀ l, (s.core d c).held = [l] → (s.core d c).sealed = false →
      (l.passed = true ∨ l.seq = (s.core d c).plan.seq ∧ b.admits (s.core d c).plan l = true
        ∧ (l.typed = true → l.topx = ((s.core d c).ctx 0).regs.topx.getLsbD 0)) →
      (b.det = true → (granules l.off.toNat l.data.length).all (fun g => !(s.core d c).ls.isFull g) = true) →
      ∃ u, exec (.heldLandingRelease d c 0) s = .next u ∧ (u.core d c).held = []
        ∧ (u.core d c).ls = (s.core d c).ls.writeFull l.off.toNat l.data)
    ∧ (∀ k v p acc ids rest, k < 11 → ((s.core d c).ctx k).wait = some v → v.instr = .mswap p acc →
      ((s.core d c).acc acc).swap = (k, ids) :: rest → (∀ m ∈ (s.core d c).mx, m.id ∉ ids) →
      (∀ r ∈ ((s.core d c).acc acc).reads, r.ahead ≠ 0) → b.pair = false →
      ∃ u, exec (.mswapExchange ⟨d, c, k⟩) s = .next u
        ∧ (u.core d c).acc acc = ⟨((s.core d c).acc acc).vis, ((s.core d c).acc acc).work, rest,
            ((s.core d c).acc acc).reads.map (fun r => { r with ahead := r.ahead - 1 })⟩
        ∧ ((u.core d c).ctx k).wait = none ∧ ((u.core d c).ctx k).st = .ready
        ∧ ((u.core d c).ctx k).regs = ((s.core d c).ctx k).regs)

/-! ## The homes (R50-R66, R403) -/

/-- R50: the join of an element is commutative, associative and bounded by the element's width; of every kind but .cnt it is
idempotent; and a value never passes back below a trigger that it has passed. -/
def Obligations.JoinLaws : Prop :=
  ∀ (k : Kind) (w a b c t : Nat), a < 2 ^ w → b < 2 ^ w → c < 2 ^ w →
    joinVal k w a b = joinVal k w b a ∧ joinVal k w (joinVal k w a b) c = joinVal k w a (joinVal k w b c)
    ∧ joinVal k w a b < 2 ^ w ∧ joinVal k w a (bottomOf k w) = a
    ∧ (k ≠ .cnt → joinVal k w (joinVal k w a b) b = joinVal k w a b)
    ∧ (k ≠ .fill → k ≠ .ver → passed k a t = true → passed k (joinVal k w a b) t = true)

/-- R50, R62, R63, R66, R32: an element join that reaches its home leaves the element's old value joined with its datum, and every other
byte as it was; at a frozen line no join changes anything, and its acknowledgement carries WRITE_AFTER_FREEZE; a count join adds one.
R52: a .fill join writes the nibbles of its granule that its mask names and marks them written; where it names one that is written
with another value it changes nothing and fails with LATTICE_CONFLICT. R53: a .ver join of the next version writes the 64 bytes and the
version; one of the current version changes nothing, and fails with LATTICE_CONFLICT where its data differ; one of an earlier version fails
with STALE_VERSION, the line's version in TAUX; one of a later version parks while the table has room.
R13, R64, R319: a Curator's write of a line of a system-kind page stores its bytes there, its read of one answers them, and a line that
RECLAIM returns to bottom holds the bottom of its kind and no metadata; each is answered.
A line at bottom takes the bottom of its page's kind (log 5); that these three reach the home as messages is the model's reading (log 100). -/
def Obligations.HomeJoin : Prop :=
  ∀ (s : State) (n dev l : Nat) (x : Device) (wt : BitVec 24) (la : Option LaunchId) (p : Part) (k : Kind), aget s.devs dev = some x →
    let line := x.line l
    let gone := s.net.eraseIdx n
    (s.atHome n = some (dev, l, wt, la, .join [p]) → line.kind = some k → p.data.kw.1 = k → line.bad = false → (∀ q ∈ x.park, q.line ≠ l) →
      (∀ wd off v, p.data = .elems k wd [(off, v)] → line.frozen = false →
        ∃ u, exec (.rsuJoin n) s = .next u
          ∧ (u.device dev).mem = cellsWrite x.mem (64 * l + off) (natBytes (wd.bits / 8)
            (joinVal k wd.bits (leNat (cellsRead x.mem (64 * l + off) (wd.bits / 8))) v)))
      ∧ (p.from_.dev = dev →
        let acked (u : State) (t : Option Trap) : Prop := u.net = gone ++ [⟨dev, none, 0x010101, .ack p.from_ t⟩]
        let fails (t : Trap) : Prop := ∃ u, exec (.rsuJoin n) s = .next u ∧ (u.device dev).mem = x.mem
          ∧ ((u.device dev).line l).masks = line.masks ∧ ((u.device dev).line l).ver = line.ver ∧ acked u (some t)
        (line.frozen = true → fails ⟨Cause.writeAfterFreeze, p.va, 0⟩)
        ∧ (∀ g m data, p.data = .fill g m data → g < 4 → line.frozen = false →
          let old : BitVec 128 := BitVec.ofNat 128 (leNat (cellsRead x.mem (64 * l + 16 * g) 16))
          let written := (line.masks[g]?).getD 0
          let differs := ∃ i, i < 32 ∧ written.getLsbD i = true ∧ m.getLsbD i = true ∧ old.extractLsb' (4 * i) 4 ≠ data.extractLsb' (4 * i) 4
          (differs → fails ⟨Cause.latticeConflict, p.va, 0⟩)
          ∧ (¬differs → ∃ u new, exec (.rsuJoin n) s = .next u ∧ acked u none
            ∧ (u.device dev).mem = cellsWrite x.mem (64 * l + 16 * g) (natBytes 16 (BitVec.toNat (w := 128) new))
            ∧ (∀ i, i < 32 → new.extractLsb' (4 * i) 4 = if m.getLsbD i = true then data.extractLsb' (4 * i) 4 else old.extractLsb' (4 * i) 4)
            ∧ ((u.device dev).line l).masks = line.masks.setIfInBounds g (written ||| m)))
        ∧ (∀ v data, p.data = .ver v data → line.frozen = false →
          (v.toNat = line.ver.toNat + 1 → ∃ u, exec (.rsuJoin n) s = .next u ∧ acked u none
            ∧ (u.device dev).mem = cellsWrite x.mem (64 * l) (natBytes 64 data.toNat) ∧ ((u.device dev).line l).ver = v)
          ∧ (v = line.ver → leNat (x.lineBytes l) = data.toNat →
            ∃ u, exec (.rsuJoin n) s = .next u ∧ acked u none ∧ (u.device dev).mem = x.mem ∧ ((u.device dev).line l).ver = v)
          ∧ (v = line.ver → leNat (x.lineBytes l) ≠ data.toNat → fails ⟨Cause.latticeConflict, p.va, 0⟩)
          ∧ (v.toNat < line.ver.toNat → fails ⟨Cause.staleVersion, p.va, line.ver.setWidth 64⟩)
          ∧ (line.ver.toNat + 1 < v.toNat → x.parkUsed l < 8192 → ∃ u, exec (.rsuJoin n) s = .next u ∧ u.net = gone
            ∧ (u.device dev).mem = x.mem ∧ ((u.device dev).line l).ver = line.ver
            ∧ (u.device dev).park = x.park ++ [⟨l, p.launch, .join [p]⟩]))))
    ∧ (∀ h w lid lvl node, s.net[n]? = some ⟨dev, h, w, .count lid lvl node⟩ →
      ∃ u, exec (.rsuJoin n) s = .next u ∧ u.net = gone
        ∧ u.barrierCount lid dev lvl node = min (s.barrierCount lid dev lvl node + 1) (2 ^ 64 - 1))
    ∧ (∀ o, o.dev = dev → let answered (u : State) (a : Answer) : Prop := u.net = gone ++ [⟨dev, none, 0x010101, .answer o a⟩]
      (∀ bs, s.atHome n = some (dev, l, wt, la, .swrite o bs) →
        ∃ u, exec (.rsuJoin n) s = .next u ∧ (u.device dev).mem = cellsWrite x.mem (64 * l) bs ∧ answered u .ok)
      ∧ (∀ va, s.atHome n = some (dev, l, wt, la, .sread o va) → line.bad = false →
        ∃ u, exec (.rsuExactRead n) s = .next u ∧ (u.device dev).mem = x.mem ∧ answered u (.data (x.lineBytes l)))
      ∧ (s.atHome n = some (dev, l, wt, la, .bottom o k) → (∀ q ∈ x.park, q.line ≠ l) →
        ∃ u, exec (.rsuJoin n) s = .next u ∧ answered u .ok ∧ cellsRead (u.device dev).mem (64 * l) 64 = bottomLine k
          ∧ (u.device dev).line l = { Line.fresh with kind := some k }))

/-- R54, R57, R59, R62: a threshold or exact read at its home is answered at once when the line allows it, and otherwise goes to the park
table while that has room; a freeze sets the line's freeze bit and is answered. -/
def Obligations.HomeReads : Prop :=
  ∀ (s : State) (n dev l : Nat) (x : Device) (la : Option LaunchId) (o : Origin) (va : Word) (k : Kind) (wd : Width) (off len : Nat)
    (t : List Word) (v : BitVec 32) (wt : BitVec 24), aget s.devs dev = some x → (x.line l).kind = some k → o.dev = dev →
    let gone := s.net.eraseIdx n
    (s.atHome n = some (dev, l, wt, la, .tread o va k wd off t) →
      (∀ a, x.treadNow l va k wd off t = some a →
        ∃ u, exec (.rsuThresholdRead n) s = .next u ∧ u.net = gone ++ [⟨dev, none, 0x010101, .answer o a⟩] ∧ (u.device dev).mem = x.mem)
      ∧ (x.treadNow l va k wd off t = none → x.parkUsed l < 8192 →
        ∃ u, exec (.rsuThresholdRead n) s = .next u ∧ u.net = gone ∧ (u.device dev).mem = x.mem
          ∧ (u.device dev).park = x.park ++ [⟨l, la, .tread o va k wd off t⟩]))
    ∧ (s.atHome n = some (dev, l, wt, la, .xread o va k wd off len v) →
      (∀ a, x.xreadNow l va k wd off len v = some a →
        ∃ u, exec (.rsuExactRead n) s = .next u ∧ u.net = gone ++ [⟨dev, none, 0x010101, .answer o a⟩] ∧ (u.device dev).mem = x.mem)
      ∧ (x.xreadNow l va k wd off len v = none → x.parkUsed l < 8192 →
        ∃ u, exec (.rsuExactRead n) s = .next u ∧ u.net = gone ∧ (u.device dev).mem = x.mem
          ∧ (u.device dev).park = x.park ++ [⟨l, la, .xread o va k wd off len v⟩]))
    ∧ (s.atHome n = some (dev, l, wt, la, .freeze o va k wd) → (x.line l).bad = false → (∀ q ∈ x.park, q.line ≠ l) →
      ∃ u, exec (.rsuFreeze n) s = .next u ∧ ((u.device dev).line l).frozen = true ∧ (u.device dev).mem = x.mem
        ∧ u.net = gone ++ [⟨dev, none, 0x010101, .answer o .ok⟩])

/-- R54, R57, R60, R62, R65: an answer ends the wait of the context whose request has its number, and writes the read's register; the last
freeze answer retires a FRZ, an earlier one counts; an acknowledgement takes the entry off the outstanding ones; a request that the park
table could not take is sent again 256 cycles later. -/
def Obligations.AnswersArrive : Prop :=
  ∀ (s : State) (n no : Nat) (w : Who) (b : Binding) (dv : Nat) (h : Option Nat) (wt : BitVec 24) (v : Wait), w.ctx < 11 → Alone s w.dev w.core b →
    b.pair = false → (s.ctxAt w).wait = some v → v.no = no → v.poll = false →
    let regs := (s.ctxAt w).regs
    let retired (i : Instr) (R : Regs) : Prop :=
      ∃ u, exec i s = .next u ∧ u.net = s.net.eraseIdx n ∧ (u.ctxAt w).regs = R ∧ (u.ctxAt w).st = .ready ∧ (u.ctxAt w).wait = none
        ∧ (u.ctxAt w).region.retired = (s.ctxAt w).region.retired + 1
    (∀ p k wd lf nt d a o i, s.net[n]? = some ⟨dv, h, wt, .answer (.ctx w no) (.index i)⟩ → v.instr = .tread p k wd lf nt d a o →
      retired (.wake n) (regs.setS d (BitVec.ofNat 64 i)))
    ∧ (∀ p k wd d a o bs, s.net[n]? = some ⟨dv, h, wt, .answer (.ctx w no) (.data bs)⟩ → v.instr = .xread p k wd d a o →
      retired (.wake n) (regs.setS d (BitVec.ofNat 64 (leNat bs))))
    ∧ (∀ p d a o bs, s.net[n]? = some ⟨dv, h, wt, .answer (.ctx w no) (.data bs)⟩ → v.instr = .xreadv p .fill d a o →
      retired (.wake n) (regs.setV d ⟨vecOf bs, 0⟩))
    ∧ (∀ p a c o, s.net[n]? = some ⟨dv, h, wt, .answer (.ctx w no) .ok⟩ → v.instr = .frz p a c o → v.err = none →
      (v.left = 1 → retired (.freezeAck n) regs)
      ∧ (1 < v.left → ∃ u, exec (.freezeAck n) s = .next u ∧ (u.ctxAt w).wait = some { v with left := v.left - 1 }))
    ∧ (∀ t, s.net[n]? = some ⟨dv, h, wt, .ack (.ctx w no) t⟩ → s.deaf (s.core w.dev w.core) = false →
      ∃ u, exec (.ackArrival n) s = .next u ∧ (u.ctxAt w).out = (s.ctxAt w).out.filter (fun e => e.no != no))
    ∧ (∀ d x g la r age, s.devs = [(d, x)] → x.retry[n]? = some ⟨wt, .req g la r, age⟩ → 256 ≤ age → g / 2 ^ 38 = d →
      ∃ u q, exec (.parkRetry n) s = .next u ∧ (u.device d).retry = x.retry.eraseIdx n
        ∧ u.net = s.net ++ [⟨d, q, wt, .req (g % 2 ^ 38) la r⟩])

/-! ## The mesh and the fabric (R67, R68, R296-R306, R378-R383) -/

/-- R67, R68, R296: two joins that may merge become one that carries the parts of both; a router forwards a join that it has
held for 64 cycles, a switch one that it has held for 128. R298: a port serves a control packet before any other, and a packet that
waits there alone at once. R301, R302, R303, R379, R380, R383: a switch drops a packet of another routing version, and drops and logs
one of a broken format, and delivers one that its table sends to its destination; a packet with the expected number
is delivered and acknowledged, and the number expected next is one more modulo 2^32; one with an earlier number is acknowledged
again and delivered no second time, and one with a later number is discarded; an acknowledgement frees the retry store's entry, and a
packet that waited for room is then taken; an entry that is 2^24 cycles old is sent again, and after eight sends its destination is
unreachable, unless the acknowledgement has come (R393); a reset message sets the expected number to 0.
Which router holds a join, and a packet's port, are not tracked (log 13, 74). -/
def Obligations.FabricPackets : Prop :=
  (∀ (s : State) (n m : Nat),
     (∀ d age w1 w2 l la ps h2 la2 qs, s.net[n]? = some ⟨d, some age, w1, .req l la (.join ps)⟩ →
       s.net[m]? = some ⟨d, h2, w2, .req l la2 (.join qs)⟩ →
       n < m → age ≤ 64 → canMerge ps qs = true →
       (∀ q ∈ (s.net.take m).eraseIdx n, q.sameLane ⟨d, h2, w2, .req l la2 (.join qs)⟩ = false) →
       exec (.routerJoinMerge n m) s = .next { s with net := (s.net.set n ⟨d, some age, w1, .req l la (.join (ps ++ qs))⟩).eraseIdx m })
     ∧ (∀ q age, s.net[n]? = some q → q.hold = some age → 64 ≤ age →
       exec (.routerCombineTimeout n) s = .next { s with net := s.net.set n { q with hold := none } })
     ∧ (∀ p age, s.fab[n]? = some p → p.held = some age → 128 ≤ age →
       exec (.switchJoinHoldTimeout n) s = .next { s with fab := s.fab.set n { p with held := none } }))
  ∧ (∀ (s : State) (n : Nat),
       (∀ p sw k, s.fab[n]? = some p → p.out = none → p.sw = some sw → aget s.switches sw = some k →
         (p.rver ≠ k.ver → exec (.switchForward n) s = .next { s with fab := s.fab.eraseIdx n })
         ∧ (p.rver = k.ver → p.broken = true →
           ∃ e, e.cause = Cause.pktMalformed ∧ e.arg < 36 ∧ exec (.switchForward n) s =
             .next { s with fab := s.fab.eraseIdx n, switches := aset s.switches sw { k with evlog := k.evlog ++ [e] } })
         ∧ (s.fab = [p] → n = 0 → p.held = none → p.rver = k.ver → p.broken = false → s.switchPerform 0 sw k p = none →
           aget k.table p.dst = some 0 →
           ∃ u, exec (.switchForward n) s = .next u ∧ u.fab = [{ p with sw := none }] ∧ u.devs = s.devs ∧ u.net = s.net))
       ∧ (∀ p d, s.fab[n]? = some p → p.out = some d →
         ((∃ h ∈ s.heads p, h.2.cls = .control) → p.cls ≠ .control → exec (.switchForward n) s = .next s)
         ∧ (s.fab = [p] → n = 0 → p.held = none → s.firstSwitch d p.dst = none →
           ∃ u, exec (.switchForward n) s = .next u ∧ u.fab = [{ p with out := none }] ∧ u.net = s.net))
       ∧ (∀ p src no body x, s.fab[n]? = some p → p.out = none → p.sw = none → p.kind = .packet [⟨src, no, body⟩] → p.broken = false →
         aget s.devs p.dst = some x → x.lost = false → (∀ d, body ≠ .seqReset d ∧ body ≠ .seqResetAck d) → body ≠ .void →
         (no = acount x.seqIn src →
           ∃ u q h, exec (.fabricPacketReceive n) s = .next u ∧ u.net = s.net ++ [⟨p.dst, h, p.weights, body⟩]
             ∧ u.fab = s.fab.eraseIdx n ++ [q] ∧ q.kind = .ack p.dst no ∧ q.dst = src
             ∧ acount (u.device p.dst).seqIn src = (no + 1) % 2 ^ 32)
         ∧ (no ≠ acount x.seqIn src → seqBehind no (acount x.seqIn src) = true →
           ∃ u q, exec (.fabricPacketReceive n) s = .next u ∧ u.net = s.net ∧ u.fab = s.fab.eraseIdx n ++ [q]
             ∧ q.kind = .ack p.dst no ∧ q.dst = src ∧ u.devs = s.devs)
         ∧ (no ≠ acount x.seqIn src → seqBehind no (acount x.seqIn src) = false →
           exec (.fabricPacketReceive n) s = .next { s with fab := s.fab.eraseIdx n }))
       ∧ (∀ p dst src no x, s.fab[n]? = some p → p.out = none → p.sw = none → p.kind = .ack src no → p.broken = false → p.dst = dst →
         aget s.devs dst = some x →
         let left := x.store.filter (fun p => !(p.numbered && p.dst == src && p.seq == no && 0 < p.sends))
         (x.portq = [] → ∃ u, exec (.fabricAck n) s = .next u ∧ u.fab = s.fab.eraseIdx n ∧ (u.device dst).store = left)
         ∧ (∀ e, x.portq = [e] → e.numbered = true → e.dst ∉ x.needReset → Device.storeFull { x with store := left, portq := [] } = false →
           ∃ u q, exec (.fabricAck n) s = .next u ∧ u.fab = s.fab.eraseIdx n ++ [q] ∧ q.dst = e.dst
             ∧ q.kind = .packet [⟨dst, acount x.seqOut e.dst, e.body⟩] ∧ (u.device dst).portq = []))
       ∧ (∀ d x p, aget s.devs d = some x → x.store[n]? = some p → 2 ^ 24 ≤ p.age → (∀ q ∈ s.fab, q.dst ≠ d) →
         (1 ≤ p.sends → p.sends < 8 →
           ∃ u q, exec (.replayTimeout d n) s = .next u ∧ u.fab = s.fab ++ [q] ∧ q.dst = p.dst
             ∧ q.kind = (if p.numbered then .packet [⟨d, p.seq, p.body⟩] else .hop d p.body)
             ∧ (u.device d).store = x.store.set n { p with sends := p.sends + 1, age := 0 })
         ∧ (8 ≤ p.sends → x.portq = [] →
           ∃ u, exec (.replayTimeout d n) s = .next u ∧ (u.device d).store = x.store.filter (fun e => e.dst != p.dst)
             ∧ p.dst ∈ (u.device d).needReset ∧ acount (u.device d).seqOut p.dst = 0))
       ∧ (∀ d x p q, aget s.devs d = some x → x.store = [p] → p.numbered = true → 8 ≤ p.sends → 2 ^ 24 ≤ p.age → x.portq = [] → s.fab = [q] →
         q.dst = d → q.out = none → q.sw = none → q.kind = .ack p.dst p.seq → q.broken = false →
         ∃ u, exec (.replayTimeout d 0) s = .next u ∧ u.fab = [] ∧ (u.device d).store = [] ∧ (u.device d).needReset = x.needReset)
       ∧ (∀ d h wt src x, s.net[n]? = some ⟨d, h, wt, .seqReset src⟩ → aget s.devs d = some x →
         ∃ u q, exec (.seqReset n) s = .next u ∧ u.net = s.net.eraseIdx n ∧ acount (u.device d).seqIn src = 0
           ∧ u.fab = s.fab ++ [q] ∧ q.kind = .packet [⟨d, 0, .seqResetAck d⟩] ∧ q.dst = src))

/-- R301, R378, R381: an announced routing version is adopted with its unreachable destinations; a switch takes a table and a version; a
link without lane lock for 10,000 cycles, or with 16 failed resends, is dead, and a lock that comes back earlier ends the count; a lost
device keeps nothing but its flash, the messages in it go, and a launch of another device that held cores of it faults with
DEVICE_LOST and its number.
Tables and first switches are inputs (log 13). -/
def Obligations.LinksAndRoutes : Prop :=
  ∀ (s : State) (d port ver sw : Nat) (x : Device) (unreach : List Nat) (table : List (Nat × Nat)), aget s.devs d = some x →
    (x.store = [] → x.portq = [] → x.colls = [] → ∃ u, exec (.routeVersion d ver unreach false) s = .next u ∧ (u.device d).rver = ver % 2 ^ 16
      ∧ (u.device d).unreach = unreach ∧ (∀ e ∈ unreach, e ∈ (u.device d).needReset))
    ∧ (∃ u k, exec (.switchTableInstall sw ver table) s = .next u ∧ aget u.switches sw = some k ∧ k.ver = ver % 2 ^ 16 ∧ k.deficit = []
      ∧ u.devs = s.devs)
    ∧ (port < 36 → (x.port port).down = false → (16 ≤ (x.port port).resends ∨ 10000 ≤ (x.port port).lost.getD 0) →
      ∃ u, exec (.linkDown d port) s = .next u ∧ ((u.device d).port port).down = true)
    ∧ (port < 36 → (x.port port).down = false →
      ∃ u, exec (.flitCrcError d port) s = .next u
        ∧ (((u.device d).port port).resends = (x.port port).resends + 1 ∨ ((u.device d).port port).resends = 0)
        ∧ ((u.device d).port port).lost = (x.port port).lost)
    ∧ (port < 36 → (x.port port).lost = none →
      ∃ u, exec (.laneLockLoss d port) s = .next u ∧ ((u.device d).port port).lost = some 0)
    ∧ (∀ k, (x.port port).lost = some k → k < 10000 → (x.port port).down = false →
      ∃ u, exec (.laneLockRegain d port) s = .next u ∧ ((u.device d).port port).lost = none)
    ∧ (s.launchesOf d = [] →
      ∃ u, exec (.deviceLost d) s = .next u ∧ (u.device d).lost = true ∧ (u.device d).mem = [] ∧ (u.device d).cores = []
        ∧ (u.device d).store = [] ∧ (u.device d).flashA = x.flashA ∧ (u.device d).flashB = x.flashB
        ∧ u.net = s.net.filter (fun m => m.dev != d)
        ∧ ∀ e, e ≠ d → (u.device e).mem = (s.device e).mem ∧ (u.device e).cores = (s.device e).cores
          ∧ (u.device e).launches = (s.device e).launches)
    ∧ (∀ l y, s.launchesOf d = [l] → l.owner ≠ d → Runs s l.owner l.acc y →
      ∃ u z f, exec (.deviceLost d) s = .next u ∧ (u.device l.owner).launch? l.acc = some z ∧ z.fault = some f
        ∧ f.cause = Cause.deviceLost ∧ f.src = 4 ∧ f.taddr = BitVec.ofNat 64 d)

/-! ## Engines and collectives (R99-R103, R276, R286-R297, R382) -/

/-- R101, R103: the head of a queue takes steps 1 to 3 once each: it waits for its semaphore, then for its guard, which it reads once, is
discarded where that is false and runs where it is true. R99: it then waits for an exchange issued before it. R263, R265, R267, R269,
R272: MLOAD writes its slot, MMA its working bank, MWRITE and MZERO theirs with factor 1, and MSTORE local store, set full; an MMA whose
operands do not serve defers its fault. R273, R281: a CPY starts, and line by line a FETCH sends an exact read and a PUTJ joins of what
local store holds; one whose line has no translation asks for it, and one whose line may not be copied halts there. R275: a SEND leaves as one
landing; one to no bound core is abandoned. R101, R102: a completed command leaves its queue and signals. R273: a fetched line is written
and set full; from a line that fails on, the FETCH's lines are full and poisoned, and it defers the fault when it completes. R276: a lattice wait's answer lets the collective start, and its source is copied into the engine.
That a queue's commands run one after another, and where the wait for an exchange stands, are the model's reading (log 75, 98). -/
def Obligations.EngineHeads : Prop :=
  ∀ (s : State) (d c : Nat) (b : Binding) (k : Cmd) (rest : List Cmd) (p : Pred) (tag : Tag) (acc ow : Bool) (y : Sync) (mf : Mf)
    (o o2 : OReg) (rm : Rm) (a : SReg) (off : BitVec 24), Alone s d c b → b.checker = false →
    let core := s.core d c
    let z := cmdSync k.instr
    let waits := ∃ q t, z.wait = some (q, t) ∧ semPasses (acount core.sems q.toNat) t = false
    let atGuard := k.step = .guard ∨ (k.step = .wait ∧ ¬waits)
    let signalled (u : State) : Prop := (u.core d c).sems = match z.sig with
      | some (q, inc) => aset core.sems q.toNat ((acount core.sems q.toNat + inc.toNat) % 65536)
      | none => core.sems
    (core.headDec k = .waits .wait ↔ k.step = .wait ∧ waits)
    ∧ (core.headDec k = .waits .guard ↔ atGuard ∧ ∃ g, z.grd = some g ∧ core.guards[g.toNat]'(g.isLt) = none)
    ∧ (core.headDec k = .discards ↔ atGuard ∧ ∃ g, z.grd = some g ∧ core.guards[g.toNat]'(g.isLt) = some false)
    ∧ (∀ q, q ≠ .port → core.queue q = k :: rest → cmdQueue k.instr = q → k.started = false → k.halted = none → k.done = false →
      core.frozen = false →
      (∀ n, core.headDec k = .waits n → ∃ u, exec (.engineCmdHead d c q) s = .next u ∧ (u.core d c).sems = core.sems ∧ u.net = s.net
        ∧ (u.core d c).queue q = (core.queue q).map (fun j => if j.id == k.id then { j with step := n } else j)
        ∧ (u.core d c).acc acc = core.acc acc ∧ (u.core d c).ls = core.ls)
      ∧ (core.headDec k = .discards → ∃ u, exec (.engineCmdHead d c q) s = .next u ∧ u.net = s.net
        ∧ (u.core d c).queue q = (core.queue q).filter (fun j => j.id != k.id) ∧ (u.core d c).acc acc = core.acc acc
        ∧ (u.core d c).ls = core.ls.setFull (granules k.dst.1 k.dst.2) ∧ signalled u))
    ∧ (core.mx = k :: rest → cmdQueue k.instr = .mx → k.started = false → k.halted = none → k.done = false → core.frozen = false →
      let kept (u : State) := (u.core d c).mx.map (·.id) = core.mx.map (·.id)
      (core.headDec k = .runs → core.swapPending k = true → core.eccG = [] →
        ∃ u, exec (.engineCmdHead d c .mx) s = .next u ∧ kept u ∧ (u.core d c).acc acc = core.acc acc
          ∧ ∀ j ∈ (u.core d c).mx, j.id = k.id → j.step = .run)
      ∧ (core.headDec k = .runs → core.swapPending k = false → core.eccG = [] →
        ∃ u, exec (.engineCmdHead d c .mx) s = .next u ∧ kept u ∧ (∀ j ∈ (u.core d c).mx, j.id = k.id → j.started = true)
          ∧ (k.instr = .mzero p tag acc y →
              (u.core d c).acc acc = { core.acc acc with
                work := { (core.acc acc).work with el := [], isInt := tag == 5, bandA := 0x3F80, bandB := 0x3F80 } })
          ∧ (k.instr = .mwrite p tag acc a off y → core.ls.poisonAt k.a.toNat 16384 = none →
              ((u.core d c).acc acc).work.isInt = (tag == 5) ∧ ((u.core d c).acc acc).vis = (core.acc acc).vis
              ∧ ((u.core d c).acc acc).work.bandA = 0x3F80 ∧ ((u.core d c).acc acc).work.bandB = 0x3F80
              ∧ ∀ n, n < 4096 → ((u.core d c).acc acc).work.get n = BitVec.ofNat 32 (leNat (core.ls.read (k.a.toNat + 4 * n) 4)))
          ∧ (k.instr = .mload p mf o a off y → core.ls.poisonAt k.a.toNat (mloadBytes mf) = none →
              let slot := (u.core d c).slot o.toNat
              let bs := core.ls.read k.a.toNat (mloadBytes mf)
              slot.poison = false ∧ slot.dataFmt = some mf ∧ slot.dataGen = k.e0.toNat
              ∧ (∀ n, n < 4096 → byteAt slot.data n = byteAt bs n)
              ∧ (mf = .fp4 → ∀ n, n < 1024 → byteAt slot.scales n = byteAt bs (4096 + n)))
          ∧ (k.instr = .mma p mf ow acc o o2 y →
              (∀ t, mmaHeadTrap core k mf ow acc o o2 = some t →
                (u.core d c).acc acc = core.acc acc ∧ (k.ctx = 0 → ((u.core d c).ctx 0).deferred.isSome = true))
              ∧ (mmaHeadTrap core k mf ow acc o o2 = none →
                let w := (core.acc acc).work
                let start (n : Nat) : Nat := if ow = true then 0 else (w.get n).toNat
                ((u.core d c).acc acc).vis = (core.acc acc).vis ∧ ((u.core d c).acc acc).work.isInt = (mf == .i8)
                ∧ ∀ i j, i < 64 → j < 64 → ((u.core d c).acc acc).work.get (64 * i + j) = BitVec.ofNat 32
                  (if mf = .i8 then mmaInt (core.slot o.toNat) (core.slot o2.toNat) i j (start (64 * i + j))
                  else (mmaFloat mf k.topx (core.slot o.toNat) (core.slot o2.toNat) i j (start (64 * i + j))).1)))
          ∧ (k.instr = .mstore p tag acc rm a off y →
              let v := (core.acc acc).vis
              (u.core d c).ls = core.ls.writeFull k.a.toNat ((List.range 4096).flatMap (fun n =>
                natBytes (tagBytes tag) (bankValue (k.e0 == 1) v tag k.topx rm 0 (v.get n)).1)))))
    ∧ (core.cx = k :: rest → k.halted = none → k.done = false → core.eccG = [] →
      let va := k.a + BitVec.ofNat 64 k.off
      let at_ := k.d.toNat + k.off
      let become (u : State) (f : Cmd → Cmd) : Prop := (u.core d c).cx = core.cx.map (fun j => if j.id == k.id then f j else j)
      let sends (f : Cmd → Cmd) (bodies : List Body) : Prop := ∃ u ms, exec (.engineCmdHead d c .cx) s = .next u ∧ u.net = s.net ++ ms
        ∧ ms.map (fun m => (m.dev, m.weights, m.body)) = bodies.map (fun m => (d, k.weights, m)) ∧ become u f ∧ (u.core d c).ls = core.ls
      (∀ st ps pd pa pb, k.started = false → core.frozen = false → core.headDec k = .runs →
        (k.instr = .cpyFetch ps pd pa pb st y ∨ ∃ v, k.instr = .cpyPutj ps pd pa pb st v y) →
        sends (fun j => { j with step := .run, started := true, flags := 0 }) [])
      ∧ (∀ ps pd pa pb st, k.instr = .cpyFetch ps pd pa pb st y → k.started = true → k.sentAll = false →
        (engineTr core k b.asid va = .miss →
          exec (.engineCmdHead d c .cx) s = .next (s.askWalk d ⟨dieOf c, .cmd c .cx, b.asid, va⟩))
        ∧ (∀ t, engineTr core k b.asid va = .hit t → copyTrap false t va = none → gDev (t.phys va) = d →
          sends (fun j => { j with await := j.await ++ [k.off], off := k.off + 64 }) [.req (gLocal (t.phys va) / 64) (some b.launch)
            (.xread (.cmd d c .cx k.id k.off) va t.kind t.wd 0 64 (k.ver.setWidth 32))])
        ∧ (∀ f, (engineTr core k b.asid va = .bad f ∨ ∃ t, engineTr core k b.asid va = .hit t ∧ copyTrap false t va = some f) →
          ∃ u, exec (.engineCmdHead d c .cx) s = .next u ∧ u.net = s.net ∧ (k.ctx = 0 → ((u.core d c).ctx 0).deferred.isSome = true)
            ∧ ∀ j ∈ (u.core d c).cx, j.id = k.id → j.halted = some f ∧ j.off = k.off))
      ∧ (∀ ps pd pa pb st v t, k.instr = .cpyPutj ps pd pa pb st v y → k.started = true → k.sentAll = false →
        engineTr core k b.asid va = .hit t → copyTrap true t va = none → gDev (t.phys va) = d →
        (∀ i, i < 4 → core.ls.isPoison (at_ / 16 + i) = false) →
        let g := t.phys va / 64 * 64
        let join (tok : Nat) (data : JoinData) : Body := .req (gLocal g / 64) (some b.launch)
          (.join [⟨.cmd d c .cx k.id tok, some b.launch, b.asid, va, data⟩])
        (t.kind = .ver → sends (fun j => { j with await := j.await ++ [k.off], off := k.off + 64 })
          [join k.off (.ver (k.ver.setWidth 32) (BitVec.ofNat 512 (leNat (core.ls.read at_ 64))))])
        ∧ (t.kind = .fill → sends (fun j => { j with await := j.await ++ [k.off, k.off + 16, k.off + 32, k.off + 48], off := k.off + 64 })
          ((List.range 4).map (fun i => join (k.off + 16 * i)
            (.fill i 0xFFFFFFFF (BitVec.ofNat 128 (leNat (core.ls.read (at_ + 16 * i) 16))))))))
      ∧ (∀ ps pd pa pb len fmt, k.instr = .send ps pd pa pb len fmt y → k.started = false → core.frozen = false →
        core.headDec k = .runs → core.ls.poisonAt k.d.toNat (16 * (len.toNat + 1)) = none →
        (∀ r, b.place k.a.toNat = some (d, r) →
          sends (fun j => { j with step := .run, started := true, flags := 0, await := [0] }) [.land
            { src := ⟨d, c, k.ctx⟩, no := k.id, cmd := some k.id, from_ := b.lcore, rcv := k.a.toNat, off := k.b
              data := core.ls.read k.d.toNat (16 * (len.toNat + 1)), seq := k.seq, topx := k.topx, typed := isTyped fmt
              launch := b.launch, passed := false }])
        ∧ (b.place k.a.toNat = none → ∃ u, exec (.engineCmdHead d c .cx) s = .next u ∧ u.net = s.net ∧ signalled u
          ∧ (u.core d c).cx = core.cx.filter (fun j => j.id != k.id) ∧ (k.ctx = 0 → ((u.core d c).ctx 0).deferred.isSome = true))))
    ∧ (∀ q, core.queue q = k :: rest → k.started = true → k.halted = none → k.await = [] →
      (match k.instr with
        | .cpyFetch .. => k.sentAll = true
        | .cpyPutj _ _ _ _ _ st _ => k.sentAll = true ∧ (st = none ∨ k.stamped = true)
        | .coll .. => False
        | _ => True) →
      ∃ u, exec (.engineCmdComplete d c q) s = .next u ∧ (u.core d c).queue q = (core.queue q).filter (fun j => j.id != k.id)
        ∧ (u.core d c).ls = core.ls ∧ u.net = s.net ∧ signalled u
        ∧ (∀ f, k.failAt = some f → k.ctx = 0 → ((u.core d c).ctx 0).deferred.isSome = true))
    ∧ (∀ n dv h wt id off bs j, s.net[n]? = some ⟨dv, h, wt, .answer (.cmd d c .cx id off) (.data bs)⟩ → core.waiting .cx id off = some j →
      ∃ u, exec (.cpyFetchLine n) s = .next u ∧ u.net = s.net.eraseIdx n
        ∧ (u.core d c).ls = core.ls.writeFull (j.d.toNat + off) bs)
    ∧ (∀ n dv h wt id off t j, s.net[n]? = some ⟨dv, h, wt, .answer (.cmd d c .cx id off) (.trap t)⟩ → core.waiting .cx id off = some j →
      t.cause ≠ Cause.memUncorr →
      let gs := granules (j.d.toNat + off) (j.b.toNat - off)
      ∃ u, exec (.cpyFetchLine n) s = .next u ∧ (u.core d c).ls = (core.ls.setFull gs).setPoison gs
        ∧ ∀ i ∈ (u.core d c).cx, i.id = id → i.failAt = some (off, t) ∧ ∀ l ∈ i.await, l < off)
    ∧ (∀ n dv h wt id i, s.net[n]? = some ⟨dv, h, wt, .answer (.lattice d c id) (.index i)⟩ → (core.waiting .port id 0).isSome = true →
      ∃ u, exec (.collLatticeWait n) s = .next u ∧ u.net = s.net.eraseIdx n ∧ ∀ j ∈ (u.core d c).port, j.id = id → j.await = [])
    ∧ (core.port = k :: rest → k.started = true → k.await = [] → k.done = false → core.eccG = [] →
      (s.device d).stageUsed + k.b.toNat ≤ (s.device d).stagePool → core.ls.poisonAt k.src.1 k.src.2 = none →
      (s.device d).coll? (collKeyOf b k) = none →
      ∃ u, exec (.collSourceCopy d c) s = .next u ∧ (u.core d c).port = core.port.filter (fun j => j.id != k.id)
        ∧ ∃ q ∈ (u.device d).colls, q.key = collKeyOf b k ∧ ∃ m ∈ q.mine, m.lcore = b.lcore ∧ m.data = core.ls.read k.src.1 k.src.2)

/-- R297: a hop that can grants a reservation, with the slots the collective takes there, and passes it on, the last to rank 0; one that
cannot refuses, and the request waits there; a device that a switch's refusal reaches refuses too; rank 0 reserves again 512 cycles after
a refusal. R294: a collective packet has the first entry of its op list performed: it goes on to rank 0's device, its input is kept in its
slot, and the last of the slot's n inputs has them combined, as partial folds for the next slot or as the result; a result goes to every
member device, and its pieces are gathered; a rank's landing is noted, and with the last the collective ends everywhere. R295: a switch
of the tree does the same with the inputs of its slots, and acknowledges the members' own. R296, R382, R393: 65,536 cycles after its first
input a switch's slot gives up, unless an input stands before it: its inputs go on unreduced to the fallback reducer, as do those that come
later, and with every rank it sends the result.
The hop plan and a hop's free capacity are the model's choice (log 14). -/
def Obligations.CollectiveHops : Prop :=
  ∀ (s : State) (d n : Nat) (x : Device) (k : CollKey) (c : Coll), aget s.devs d = some x →
    let gone := s.net.eraseIdx n
    let result (j : Coll) : List Body := resultParts j.key (s.lastOps c) j.ver
      ⟨j.cop, j.fmt, j.inputs.any (·.typed), (j.inputs.head?.map (·.topx)).getD false⟩ (slotValue j.alg j.n j.inputs)
    (∀ h wt granted, s.net[n]? = some ⟨d, h, wt, .reserve k d [d] granted⟩ → (k.group = true ∨ s.alive k.launch = true) →
      (x.grants? d k = true → (∀ g ∈ x.grants, g.1 ≠ k) →
        ∃ u, exec (.collReserveHop n) s = .next u
          ∧ (u.device d).grants = x.grants ++ (freeNumbers (x.grants.map (·.2)) (x.slotsFor d k)).map (fun i => (k, i))
          ∧ u.net = gone ++ [⟨d, none, 0x010101, .reserved k true (granted ++ [d])⟩])
      ∧ (x.grants? d k = false →
        ∃ u, exec (.collReserveHop n) s = .next u ∧ (u.device d).grants = x.grants ∧ k ∈ (u.device d).waiting
          ∧ u.net = gone ++ [⟨d, none, 0x010101, .reserved k false granted⟩]))
    ∧ (∀ h wt hop hops granted, s.net[n]? = some ⟨d, h, wt, .reserve k d (hop :: hops) granted⟩ → hop ≠ d →
      (k.group = true ∨ s.alive k.launch = true) →
      ∃ u, exec (.collReserveHop n) s = .next u ∧ u.devs = s.devs ∧ u.net = gone ++ [⟨d, none, 0x010101, .reserved k false granted⟩])
    ∧ (∀ age h hs, x.colls[n]? = some c → c.stage = .refused age → 512 ≤ age → ({ c with via := s.aperture c } : Coll).hops = h :: hs →
      ∃ u, exec (.collReserveRetry d n) s = .next u ∧ (∀ q ∈ (u.device d).colls, q.key = c.key → q.stage = .reserving ∧ q.via = s.aperture c)
        ∧ (h = d → u.net = s.net ++ [⟨d, none, 0x010101, .reserve c.key d (h :: hs) []⟩])
        ∧ (h ≠ d → h ∉ x.needReset → ∃ q, u.fab = s.fab ++ [q] ∧ q.dst = h
          ∧ q.kind = .packet [⟨d, acount x.seqOut h, .reserve c.key d (h :: hs) []⟩]))
    ∧ (∀ h wt q ops fb g, s.net[n]? = some ⟨d, h, wt, .coll k (.forward q :: ops) fb g⟩ → x.coll? k = some c → c.root = d →
      ∃ u, exec (.collHopPacket n) s = .next u ∧ u.net = gone ++ [⟨d, none, g.weights, .coll k ops fb g⟩] ∧ u.devs = s.devs)
    ∧ (∀ h wt e sl q ops g, s.net[n]? = some ⟨d, h, wt, .coll k (.reduce e sl q :: ops) false g⟩ → x.coll? k = some c → c.failed = none →
      c.via = [] → unlike c.inputs.head? g = none → c.sent = false →
      (∀ m ∈ c.got, ¬(m.1 = sl ∧ m.2.stream = g.stream ∧ m.2.part = g.part ∧ m.2.piece = g.piece)) →
      let j := { c with got := c.got ++ [(sl, g)] }
      (slotFull (j.inSlot sl) e = false → ∃ u, exec (.collHopPacket n) s = .next u ∧ u.net = gone ∧ (u.device d).coll? k = some j)
      ∧ (slotFull (j.inSlot sl) e = true →
        (∀ e2 sl2 q2 t, ops = .reduce e2 sl2 q2 :: t → ∃ u, exec (.collHopPacket n) s = .next u
          ∧ u.net = gone ++ (slotParts c.alg c.n (j.inSlot sl)).map (fun m => ⟨d, none, m.weights, .coll k ops false m⟩)
          ∧ (u.device d).coll? k = some { j with got := j.got.filter (fun m => m.1 != sl) })
        ∧ ((∀ e2 sl2 q2 t, ops ≠ .reduce e2 sl2 q2 :: t) → ∃ u, exec (.collHopPacket n) s = .next u
          ∧ u.net = gone ++ (result j).map (fun m => ⟨d, none, c.weights, m⟩)
          ∧ (u.device d).coll? k = some { j with got := [], sent := true }
          ∧ (u.device d).grants = x.grants.filter (fun g => g.1 != k))))
    ∧ (∀ h wt g ops ver hd i p v, s.net[n]? = some ⟨d, h, wt, .result k (.multicast g :: ops) ver hd i p v⟩ → x.coll? k = some c →
      exec (.collHopPacket n) s =
        .next (c.devs.foldl (fun t e => t.send d e c.weights (.result k ops ver hd i p v)) { s with net := gone }))
    ∧ (∀ h wt ops ver hd i p v, s.net[n]? = some ⟨d, h, wt, .result k (.deposit :: ops) ver hd i p v⟩ → x.coll? k = some c →
      (k.group = true ∨ s.alive k.launch = true) → (∀ q ∈ c.res, q.1 ≠ i) → c.res.length + 1 < p →
      ∃ u, exec (.collHopPacket n) s = .next u ∧ u.net = gone ∧ (u.device d).coll? k = some { c with res := c.res ++ [(i, v)] })
    ∧ (∀ h wt rank, s.net[n]? = some ⟨d, h, wt, .landed k rank⟩ → x.coll? k = some c → rank ∉ c.landed →
      (c.landed.length + 1 ≠ c.n →
        ∃ u, exec (.collHopPacket n) s = .next u ∧ u.net = gone ∧ ∃ j, (u.device d).coll? k = some j ∧ rank ∈ j.landed)
      ∧ (c.landed.length + 1 = c.n → c.devs = [d] →
        ∃ u, exec (.collHopPacket n) s = .next u ∧ u.net = gone ++ [⟨d, none, 0x010101, .finish k⟩]
          ∧ ∀ sw q, aget u.switches sw = some q → ∀ t ∈ q.slots, t.key ≠ k))
    ∧ (∀ h wt, s.net[n]? = some ⟨d, h, wt, .finish k⟩ → x.coll? k = some c →
      ∃ u, exec (.collHopPacket n) s = .next u ∧ (u.device d).coll? k = none ∧ u.net = gone)
    ∧ (∀ p sw w, s.fab[n]? = some p → p.out = none → p.sw = some sw → aget s.switches sw = some w → p.rver = w.ver → p.broken = false →
      (∀ src no hops granted, p.kind = .packet [⟨src, no, .reserve k d (switchHop sw :: hops) granted⟩] → x.coll? k = some c →
        mayGrant (switchHop sw) (w.slots.map (·.key)) w.waiting k = true → (∀ t ∈ w.slots, t.key ≠ k) →
        ∃ u w2, exec (.switchForward n) s = .next u ∧ aget u.switches sw = some w2
          ∧ u.fab = s.fab.set n { p with kind := .packet [⟨src, no, .reserve k d hops (granted ++ [switchHop sw])⟩] }
          ∧ w2.slots = w.slots ++ (freeNumbers (w.slots.map (·.grp)) (slotCount (c.streams sw).length)).map (fun grp =>
            ⟨k, grp, c.n, c.devs, d, [], none⟩))
      ∧ (∀ src e sl q ops m, p.kind = .hop src (.coll k (.reduce e sl q :: ops) false m) →
        (w.slot? k sl = none → k ∈ w.markers →
          exec (.switchForward n) s = .next { s with fab := s.fab.set n { p with kind := .hop src (.coll k (unreduced ops) true m) } })
        ∧ (∀ t, w.slot? k sl = some t → unlike (t.got.head?.map (·.2)) m = none →
          (∀ g ∈ t.got, ¬(g.2.stream = m.stream ∧ g.2.part = m.part ∧ g.2.piece = m.piece)) →
          let t2 : SwSlot := { t with got := t.got ++ [(src, m)], age := some (t.age.getD 0) }
          let got := t2.got.map (·.2)
          let own := t2.got.filter (·.2.own)
          (slotFull got e = false → exec (.switchForward n) s = .next { s with
            fab := s.fab.eraseIdx n
            switches := aset s.switches sw { w with slots := w.slots.map (fun u => if t.other u then u else t2) } })
          ∧ (slotFull got e = true →
            ∃ u outs acks, exec (.switchForward n) s = .next u ∧ u.fab = s.fab.eraseIdx n ++ outs ++ acks ∧ u.devs = s.devs
              ∧ outs.map (·.kind) = (match ops with
                | .reduce .. :: _ =>
                  (slotParts 2 t.n got).map (fun p => Body.coll k (if q = ownPort then ops else .forward q :: ops) false p)
                | _ => resultParts k ops (BitVec.ofNat 32 (m.digest.getD 3 0)) { m.head with typed := got.any (·.typed) }
                  (slotValue 2 t.n got)).map (.hop t.root ·)
              ∧ acks.map (·.kind) = own.map (fun g => .collAck k g.2.rank g.2.piece) ∧ acks.map (·.dst) = own.map (·.1)
              ∧ ∃ w2, aget u.switches sw = some w2 ∧ w2.slots = w.slots.filter t.other))))
    ∧ (∀ sw w t, x.colls[n]? = some c → c.root = d → (c.via.flatMap (·.2)).eraseDups = [sw] → aget s.switches sw = some w →
      w.slots.filter (fun u => u.key == c.key) = [t] → 65536 ≤ t.age.getD 0 →
      (s.inputWaits sw w t = true → exec (.reduceSlotTimeout d n) s = .next s)
      ∧ (s.inputWaits sw w t = false →
        ∃ u, exec (.reduceSlotTimeout d n) s = .next u ∧ u.net = s.net ∧ u.devs = s.devs
          ∧ (∃ w2, aget u.switches sw = some w2 ∧ c.key ∈ w2.markers ∧ w2.slots = w.slots.filter t.other)
          ∧ ∃ outs, u.fab = s.fab ++ outs ∧ outs.map (·.dst) = t.got.map (fun _ => t.root)
            ∧ outs.map (·.kind) = t.got.map (fun g => .hop g.1 (.coll c.key [.multicast t.grp, .deposit] true g.2))))
    ∧ (x.colls[n]? = some c → c.fb = true → c.sent = false → holdsAll c.inputs c.n = true →
      ∃ u, exec (.fallbackReduce d n) s = .next u ∧ (∀ q ∈ (u.device d).colls, q.key = c.key → q.sent = true ∧ q.got = [])
        ∧ u.net = s.net ++ (result c).map (fun m => ⟨d, none, c.weights, m⟩))

/-! ## The host link, the logs and the queues (R85, R86, R307-R315, R341, R342, R375, R389, R391, R405) -/

/-- R85, R86, R308, R309, R313, R341, R342, R375: a 16-byte write to a granule of a .fill page becomes one join of all its nibbles,
and a well-formed 128-byte write to a .ver page one join of its version; what a translation, a kind, a format or a permission
turns away is logged under its cause, and answered Unsupported Request when not posted;
a read of BAR4's data view answers HBM's bytes and one of its metadata view the line's descriptor, and neither changes anything else; a
write to BAR4 is dropped and logged; the system window's 8-byte write is stored; PWRCAP takes the values from 1,600 to 3,200
and logs the others; a function whose requests are not taken changes nothing. The port die keeps the translation it walked (R79).
Which cause is logged when several hold, and ADDR_NONCANON for a host write, are the model's choice (log 55); so are the Unsupported
Request that a dropped non-posted write completes with and the absent answer of a dropped read (log 107). -/
def Obligations.HostWindows : Prop :=
  ∀ (s : State) (d fn off len : Nat) (x : Device) (v : Word) (np ide : Bool) (data : List Byte) (t : Tlb), aget s.devs d = some x →
    let f := x.fn fn
    let all (n : Nat) : List Bool := List.replicate n true
    let va : Word := f.hwapb + BitVec.ofNat 64 off
    let half : Word := f.hwapb + BitVec.ofNat 64 (off / 2)
    let drop (w : State) (cause : Nat) : State :=
      let u := w.modDev d (fun y => y.logErr cause fn 1 off)
      if np then { u with resp := some .unsupported } else u
    let walked (a : Word) : State := s.noteWalk d pd0 f.hwapa a
    let sent (a : Word) (j : JoinData) (u : Host.Outcome State Fault Refusal) : Prop := ∃ h, u = .next { walked a with
      net := s.net ++ [⟨d, h, 0x010101, .req (gLocal (t.phys a) / 64) none (.join [⟨.host d fn off np, none, f.hwapa, a, j⟩])⟩] }
    (x.servesIde fn ide = true → data.length = 16 → off + 16 ≤ 2 ^ 36 → va.toNat % 16 = 0 →
      let write := exec (.hostWrite d fn off data (all 16) np ide) s
      (canonical va = true → portTr s d pd0 f.hwapa va = .ok t →
        (t.kind = .fill → permTrap t .join va = none → gDev (t.phys va) = d →
          sent va (.fill ((t.phys va) / 16 % 4) 0xFFFFFFFF (BitVec.ofNat 128 (leNat data))) write)
        ∧ (∀ p, t.kind = .fill → permTrap t .join va = some p → write = .next (drop (walked va) p.cause))
        ∧ (t.kind = .ver → write = .next (drop (walked va) Cause.hostwFormat))
        ∧ (t.kind ≠ .fill → t.kind ≠ .ver → write = .next (drop (walked va) Cause.hostwKind)))
      ∧ (∀ e, canonical va = true → portTr s d pd0 f.hwapa va = .error e → write = .next (drop (walked va) e.cause))
      ∧ (canonical va = false → write = .next (drop s Cause.addrNoncanon)))
    ∧ (x.servesIde fn ide = true → data.length = 128 → off % 128 = 0 → off + 128 ≤ 2 ^ 36 → canonical half = true →
      portTr s d pd0 f.hwapa half = .ok t → t.kind = .ver →
      let write := exec (.hostWrite d fn off data (all 128) np ide) s
      (data.drop 68 = List.replicate 60 0 → permTrap t .join half = none → gDev (t.phys half) = d →
        sent half (.ver (BitVec.ofNat 32 (leNat ((data.drop 64).take 4))) (BitVec.ofNat 512 (leNat (data.take 64)))) write)
      ∧ (data.drop 68 = List.replicate 60 0 → ∀ p, permTrap t .join half = some p → write = .next (drop (walked half) p.cause))
      ∧ (data.drop 68 ≠ List.replicate 60 0 → write = .next (drop (walked half) Cause.hostwFormat)))
    ∧ (x.servesIde fn ide = false → exec (.hostWrite d fn off data (all data.length) false ide) s = .next s
      ∧ exec (.hostWrite d fn off data (all data.length) true ide) s = .next { s with resp := some .unsupported })
    ∧ (x.serves fn = true → x.wantsIde fn = false →
      (off < 2 ^ 33 → len ≤ 64 → off % 64 + len ≤ 64 → reservedG s d (d * 2 ^ 44 + 64 * ((f.obsbase + off) / 64)) = false →
        exec (.obsRead d fn off len) s = .next { s with resp := some (.value (cellsRead x.mem (f.obsbase + off) len)) })
      ∧ (2 ^ 33 ≤ off → off < 2 ^ 34 → off % 32 + len ≤ 32 →
        let line := f.obsbase / 64 + (off - 2 ^ 33) / 32
        reservedG s d (d * 2 ^ 44 + 64 * line) = false → exec (.obsRead d fn off len) s =
          .next { s with resp := some (.value (((metaBytes (x.line line)).drop (off % 32)).take len)) }))
    ∧ (x.serves fn = true → exec (.obsWrite d fn off) s = .next (s.modDev d (fun y => y.logErr Cause.obsWrite fn 2 off)))
    ∧ (x.serves fn = true → off % 8 = 0 → off < 2 ^ 24 → f.syswin % 8 = 0 → reservedG s d (f.syswin + off) = false →
      gDev (f.syswin + off) = d →
      ∃ u, exec (.syswinWrite d fn off v) s = .next u ∧ u.net = s.net
        ∧ (u.device d).mem = cellsWrite x.mem (gLocal (f.syswin + off)) (natBytes 8 v.toNat))
    ∧ (x.serves 0 = true → 1600 ≤ v.toNat → v.toNat ≤ 3200 → exec (.regWrite d 0 0x308 v) s =
      .next (s.modDev d (fun y => { y with bar0 := { y.bar0 with pwrcap := v.toNat } })))
    ∧ (x.serves 0 = true → v.toNat < 1600 ∨ 3200 < v.toNat → exec (.regWrite d 0 0x308 v) s =
      .next (s.modDev d (fun y => y.logErr Cause.regValue 0 3 0x308)))
    ∧ (x.serves fn = true → exec (.regWrite d fn 0x1110 v) s =
      .next (s.modDev d (fun y => { y with fns := aset y.fns fn { y.fn fn with obsbase := v.toNat % 2 ^ 44 } })))
    ∧ (x.serves fn = false → exec (.obsWrite d fn off) s = .next s ∧ exec (.syswinWrite d fn off v) s = .next s
      ∧ exec (.regWrite d fn off v) s = .next s ∧ exec (.obsRead d fn off len) s = .next { s with resp := none })

/-- R309, R310, R321, R325, R341, R375, R389, R391, R393, R405: a read of ERRLOG or EVLOG takes the oldest entry, and of an empty log
answers 0; CSEMINC adds to a semaphore; KEYSEL with go loads the key; ECCINJ arms the injection that it names, and a value that names
nothing is logged; TDISP and SPDM requests set an interface's state and a trust domain, and a measurement is of the image that runs;
LABORT of a launch that no thread runs faults it with ABORTED, unless its last END has retired and its collectives have landed, and of a
command that is no launch ends it and stops its queue. A lost device, and one before step 1 of bring-up, answers neither protocol (R339).
That TDISP takes any transition, and what a replaced injection leaves, are the model's reading (log 45, 47); what SPDM's answers hold is free
(log 29). -/
def Obligations.HostRequests : Prop :=
  ∀ (s : State) (d fn td slot : Nat) (x : Device) (v : Word) (st : Tdisp) (e : ErrEnt) (es : List ErrEnt) (g : EvEnt) (gs : List EvEnt),
    aget s.devs d = some x →
    let n := v.toNat
    let sem := n % 64
    (x.serves 0 = true →
      (x.errlog = e :: es → exec (.errlog d) s =
        .next { s.modDev d (fun y => { y with errlog := es }) with resp := some (.value (natBytes 8 e.word)) })
      ∧ (x.errlog = [] → exec (.errlog d) s =
        .next { s.modDev d (fun y => { y with errlog := [] }) with resp := some (.value (natBytes 8 0)) })
      ∧ (x.evlog = g :: gs → exec (.evlog d) s =
        .next { s.modDev d (fun y => { y with evlog := gs }) with resp := some (.value (natBytes 8 g.word)) })
      ∧ (x.evlog = [] → exec (.evlog d) s =
        .next { s.modDev d (fun y => { y with evlog := [] }) with resp := some (.value (natBytes 8 0)) })
      ∧ (exec (.cseminc d v) s = .next (s.modDev d (fun y =>
          { y with csems := aset y.csems sem ((acount y.csems sem + n / 256 % 256) % 65536) })))
      ∧ (n / 256 % 2 = 1 → ∃ u, exec (.keysel d v) s = .next u ∧ aget (u.device d).bar0.keys (n % 16) = some x.bar0.keybuf
          ∧ (u.device d).bar0.keysel = BitVec.ofNat 64 (256 + n % 16))
      ∧ (n / 256 % 2 = 0 → ∃ u, exec (.keysel d v) s = .next u ∧ (u.device d).bar0.keys = x.bar0.keys
          ∧ (u.device d).bar0.keysel = BitVec.ofNat 64 (n % 16))
      ∧ (eccBad n = true → exec (.eccinj d v) s = .next (s.modDev d (fun y => y.logErr Cause.regValue 0 3 0x1608)))
      ∧ (eccBad n = false → n / 2 ^ 32 % 2 = 1 → ∃ u, exec (.eccinj d v) s = .next u
          ∧ (u.core d (n % 4096)).eccArm = some (n / 4096 % 16, n / 65536 % 4, n / 2 ^ 18 % 16384)
          ∧ ∀ c, c ≠ n % 4096 → (u.core d c).eccArm = none)
      ∧ ((∀ t, t < 32 → ∀ r, (x.slot t).cmd = some r → r.acc ≠ n) →
        ∀ l, Runs s d n l → l.acc = n → (l.code = 3 → s.allEnded l = false ∨ s.collsOf ⟨d, n⟩ ≠ []) →
        ∃ u f, exec (.labort d v) s = .next u ∧ Noted u d l f ∧ f.cause = Cause.aborted ∧ f.src = 3)
      ∧ ((∀ t, t < 32 → ∀ r, (x.slot t).cmd = some r → r.acc ≠ n) → ∀ l, x.launch? n = some l → l.code = 3 → s.allEnded l = true →
        s.collsOf ⟨d, n⟩ = [] → exec (.labort d v) s = .next s)
      ∧ (∀ r, slot < 32 → (x.slot slot).cmd = some r → (x.slot slot).graph = none → r.acc = n → r.op ≠ 1 →
        (∀ t, t < slot → ∀ r, (x.slot t).cmd = some r → r.acc ≠ n) → ∃ u, exec (.labort d v) s = .next u
          ∧ ((u.device d).slot slot).cmd = none ∧ ((u.device d).slot slot).stop = true
          ∧ ∀ t, t ≠ slot → (u.device d).slot t = x.slot t))
    ∧ (fn < 16 → x.reachable = true → exec (.tdispRequest d fn st) s = .next (s.modDev d (fun y => { y with fns := aset y.fns fn { y.fn fn with tdisp := st } })))
    ∧ (x.reachable = false → ∀ q, exec (.spdmRequest d q) s = .next s ∧ exec (.tdispRequest d fn st) s = .next s)
    ∧ (x.reachable = true → (∃ r, exec (.spdmRequest d .identity) s = .next { s with resp := some (.value r) })
      ∧ exec (.spdmRequest d .measurements) s = .next { s with resp := some (.value x.measured) })
    ∧ (td < 64 → x.reachable = true → x.bar0.step = 7 → ∃ u, exec (.spdmRequest d (.setupDomain td)) s = .next u ∧ td ∈ (u.device d).domains ∧ u.net = s.net
        ∧ ∀ c, c ∈ x.domains → c ∈ (u.device d).domains)

/-- R309, R312 to R315, R341, R389: QADD of a sound descriptor offers it; the first free slot takes the offer of the highest priority, with
the descriptor's indices; a withdrawn queue that is empty leaves its slot; WIDX, WRES, DBELL and QRESUME act on the slot of the
function that owns the queue, and Curator threads write as it does, and each page write changes its own slot only; where a page does not reach, a write changes nothing and
a read answers 0 where the request is taken.
The lowest free slot and the cleared mapping dword are the model's choice (log 31, 51). -/
def Obligations.QueueRegisters : Prop :=
  ∀ (s : State) (d slot a : Nat) (w : Requester) (x : Device) (v : Word) (o : Offer), aget s.devs d = some x →
    let q := x.slot slot
    let desc := v.toNat / 64 % 2 ^ 52 * 64
    (x.up = true → x.serves 0 = true → x.memoryOk d = true → descOk s d desc = true → x.offers.all (fun p => p.desc != desc || p.withdrawn) = true →
      ∃ u, exec (.qadd d v) s = .next u ∧ (u.device d).bar0.qfixed = true
        ∧ (u.device d).offers = x.offers ++ [⟨desc, leNat (s.readG (desc + 8) 8) / 256 % 8, false, none⟩])
    ∧ (x.up = true → x.serves 0 = true → x.offers = [o] → o.desc = desc → o.withdrawn = false →
      ∃ u, exec (.qdel d v) s = .next u
        ∧ (u.device d).offers = if o.slot.isNone then [] else [{ o with withdrawn := true }])
    ∧ (x.up = true → slot < 32 → q.desc = none → (∀ t, t < slot → (x.slot t).desc ≠ none) → x.nextOffer = some o →
      ∃ u, exec (.queueMap d) s = .next u ∧ ((u.device d).slot slot).desc = some o.desc
        ∧ ((u.device d).slot slot).widx = leNat (s.readG (o.desc + 0x10) 8)
        ∧ ((u.device d).slot slot).ridx = leNat (s.readG (o.desc + 0x18) 8)
        ∧ ((u.device d).slot slot).stop = false ∧ ∀ t, t ≠ slot → (u.device d).slot t = x.slot t)
    ∧ (q.desc = some a → x.offers.find? (fun p => p.slot == some slot && p.withdrawn) = some o → q.widx = q.ridx → q.cmd = none →
      q.taken = none →
      ∃ u, exec (.queueUnmap d slot) s = .next u ∧ (u.device d).slot slot = QSlot.empty ∧ (u.device d).offers = x.offers.erase o)
    ∧ (x.reaches w slot = true →
      exec (.widx d w slot false v) s = .next (s.modDev d (fun y => { y with qslots := aset y.qslots slot { q with widx := v.toNat } }))
      ∧ exec (.widx d w slot true v) s = .next { s.modDev d (fun y =>
          { y with qslots := aset y.qslots slot { q with widx := (q.widx + v.toNat) % 2 ^ 64 } }) with
          resp := some (.value (natBytes 8 q.widx)) }
      ∧ exec (.wres d w slot) s = .next { s.modDev d (fun y =>
          { y with qslots := aset y.qslots slot { q with widx := (q.widx + 1) % 2 ^ 64 } }) with
          resp := some (.value (natBytes 8 q.widx)) }
      ∧ exec (.dbell d w slot v) s = .next (s.modDev d (fun y => { y with qslots := aset y.qslots slot { q with woken := true } }))
      ∧ (q.stop = true → q.ridx ≤ v.toNat → v.toNat ≤ q.widx → exec (.qresume d w slot v) s = .next (s.modDev d (fun y =>
          { y with qslots := aset y.qslots slot { q with ridx := v.toNat, stop := false, waiting := false, woken := true } })))
      ∧ (q.stop = false ∨ v.toNat < q.ridx ∨ q.widx < v.toNat → exec (.qresume d w slot v) s =
        .next (s.modDev d (fun y => y.logErr Cause.regValue q.fn 3 (0x100000 + slot * 0x1000 + 0x28)))))
    ∧ (x.reaches w slot = false → exec (.widx d w slot false v) s = .next s ∧ exec (.dbell d w slot v) s = .next s
      ∧ exec (.qresume d w slot v) s = .next s
      ∧ exec (.widx d w slot true v) s = .next { s with resp := x.blank w }
      ∧ exec (.wres d w slot) s = .next { s with resp := x.blank w })

/-! ## The Curator (R64, R315-R333, R373, R388) -/

/-- R314 to R317, R319, R322, R331, R333: a thread reads the packet header of its read index: one with the turn of this pass is taken, 0 or
an older turn is not yet published, and any other is RING_OVERRUN; the port die keeps what the packet's walks found (R79, R374); an accepted command takes the next accession number, and the read index
goes on; a complete command, or a complete node of a graph, first makes its stamp join when it has one, and then, its stamp
acknowledged, raises its interrupt and leaves the thread free for the next.
That a command goes step by step is the model's reading (log 15); vectors above 63 raise nothing (log 99). -/
def Obligations.CuratorPackets : Prop :=
  ∀ (s : State) (d slot desc : Nat) (x : Device) (q : QSlot), aget s.devs d = some x → x.slot slot = q → q.desc = some desc →
    let at_ := q.base + q.ridx % 2 ^ q.lg * 16
    let hdr := leNat (s.readG at_ 8)
    let behind := (q.ridx % 2 ^ 40 + 2 ^ 40 - hdr / 2 ^ 24) % 2 ^ 40
    let slotSet (f : QSlot) : State := s.modDev d (fun y => { y with qslots := aset y.qslots slot f })
    let raised (vec : Nat) : List (Nat × Nat) := if vec < 64 then x.msix ++ [(q.fn, vec)] else x.msix
    (x.up = true → q.stop = false → q.cmd = none → q.taken = none → (q.waiting = true → q.woken = true) → hdr < 2 ^ 64 →
      (hdr = 0 → exec (.packetTake d slot) s = .next (slotSet { q with waiting := true, woken := false }))
      ∧ (hdr ≠ 0 → behind = 0 → exec (.packetTake d slot) s = .next ((slotSet { q with
          taken := some (s.packet d q (BitVec.ofNat 64 hdr) (BitVec.ofNat 64 (leNat (s.readG (at_ + 8) 8))))
          waiting := false, woken := false }).notePacket d q (BitVec.ofNat 64 hdr) (BitVec.ofNat 64 (leNat (s.readG (at_ + 8) 8)))))
      ∧ (hdr ≠ 0 → 1 ≤ behind → behind ≤ 2 ^ 39 → exec (.packetTake d slot) s = .next (slotSet { q with waiting := true, woken := false }))
      ∧ (hdr ≠ 0 → 2 ^ 39 < behind → exec (.packetTake d slot) s = .next (slotSet { q with
          taken := some ⟨0, 0, [], some Cause.ringOverrun⟩, waiting := false, woken := false })))
    ∧ (∀ t y p, q.taken = some t → t.cause = none → t.hdr.toNat % 256 ∉ [1, 3, 8] → x.journalFree = true →
      x.reserveFor 0 0 = some (y, p) →
      ∃ u r, exec (.commandAccept d slot) s = .next u ∧ ((u.device d).slot slot).cmd = some r
        ∧ r = Running.fresh x.bar0.jhead (t.hdr.toNat % 256) t.hdr q.ridx t.blk
        ∧ ((u.device d).slot slot).ridx = q.ridx + 1 ∧ ((u.device d).slot slot).taken = none
        ∧ (u.device d).bar0.jhead = x.bar0.jhead + 1 ∧ u.net = s.net)
    ∧ (∀ r, q.cmd = some r → q.graph = none → r.finished = true → r.await = [] → (bit r.hdr.toNat 9 = false ∨ r.phase = stampPhase) →
      ∃ u, exec (.commandComplete d slot) s = .next u ∧ ((u.device d).slot slot).cmd = none ∧ ((u.device d).slot slot).ridx = q.ridx
        ∧ (u.device d).msix = (if bit r.hdr.toNat 8 then raised (field r.blk 0x18 2) else x.msix) ∧ u.net = s.net)
    ∧ (∀ r g, q.graph = some g → g.node = some r → r.finished = true → r.await = [] → (field r.blk 8 8 = 0 ∨ r.phase = stampPhase) →
      ∃ u, exec (.commandComplete d slot) s = .next u ∧ ((u.device d).slot slot).cmd = q.cmd
        ∧ ((u.device d).slot slot).graph = some { g with
          at_ := if r.op = 9 ∨ r.op = 10 then r.off else g.at_ + 1, node := none }
        ∧ (u.device d).msix = (if field r.blk 0x18 2 = 0 then x.msix else raised (field r.blk 0x18 2)) ∧ u.net = s.net)
    ∧ (∀ r g, q.current = some r → r.finished = true → r.await = [] → r.phase ≠ stampPhase →
      (match q.graph with
        | some _ => field r.blk 8 8 ≠ 0
        | none => bit r.hdr.toNat 9 = true) →
      let va : Word := BitVec.ofNat 64 (field r.blk 8 8)
      s.stampTo d q.asid va = some g → gDev g = d →
      ∃ u e no h, exec (.commandComplete d slot) s = .next u ∧ u.runOf d slot = some e ∧ e.await = [no] ∧ e.phase = stampPhase
        ∧ e.finished = true ∧ u.net = s.net ++ [⟨d, h, 0x010101, .req (gLocal g / 64) none
          (.join [⟨.cur d slot no, none, q.asid, va, .elems .max .w64 [(va.toNat % 64, field r.blk 0x10 8)]⟩])⟩])
    ∧ (∀ r, q.current = some r → r.finished = false ∨ r.await ≠ [] → exec (.commandComplete d slot) s = .next s)

/-- R57, R58, R62, R64, R319 to R321, R325, R372, R374, R388: what a thread's command or node does next.
LAUNCH: a record that breaks the table faults the launch with LAUNCH_INVALID, a signature that fails or is missing where its domain needs
one with LAUNCH_SIG, with the packet's ring index and header in the record, and a sound one waits for cores.
COPY reads a line by an exact read at its home, or, of a system-kind page, by a plain one, and writes it by joins, or a plain write,
before the next line, and MISALIGNED ends it where an address is no multiple of 64; JOIN sends its join; FREEZE translates the whole range and then sends one freeze request per line, or fails with nothing sent;
COLL reads its source line by line and ends once its collective has landed; WAIT ends once its semaphore is reached or its threshold read
is answered, and waits before; each ends when its requests have been answered and faults with the first failure among them.
MARK adds to its semaphore; RECLAIM waits while a launch of its address space is bound, and otherwise has each of its lines returned to
bottom at its home, as a line of its page's kind, before it ends; FLUSH of a range without a walk under way drops its translations and
markers.
The pieces of work are the model's reading (log 15), and so are FLUSH waiting for walks (log 54), MISALIGNED of COPY (log 49), the messages
for lines of system-kind pages (log 100) and that RECLAIM keeps a page's kind (log 41). -/
def Obligations.CuratorCommands : Prop :=
  ∀ (s : State) (d slot op : Nat) (q : QSlot) (r : Running), RunsCommand s d slot op q r →
    let x := s.device d
    let f (o : Nat) : Nat := field r.blk o 8
    let addr (o : Nat) : Word := BitVec.ofNat 64 (f o)
    let walked (a : Word) : State := s.noteWalk d pd0 q.asid a
    let failsIn (w : State) (i : Instr) (cause : Nat) (a : Word) : Prop := exec i s = .next (w.failRun d slot cause a)
      ∧ (((w.failRun d slot cause a).device d).slot slot).stop = true ∧ (((w.failRun d slot cause a).device d).slot slot).cmd = none
    let fails : Instr → Nat → Word → Prop := failsIn s
    let goes (i : Instr) (p : State → Running → Prop) : Prop := ∃ u e, exec i s = .next u ∧ u.runOf d slot = some e ∧ e.acc = r.acc ∧ p u e
    let ends (i : Instr) : Prop := goes i (fun u e => e.finished = true ∧ u.net = s.net)
    let waits (i : Instr) (bit_ : Bool) : Prop := goes i (fun u e => e.finished = false ∧ ((u.device d).slot slot).waiting = bit_ ∧ u.net = s.net)
    let asks (i : Instr) (phase : Nat) (l : List (Nat × (Origin → Req))) : Prop := (∀ p ∈ l, gDev p.1 = d) →
      goes i (fun u e => e.finished = false ∧ e.phase = phase ∧ ∃ n0 new, e.await = (List.range l.length).map (n0 + ·)
        ∧ u.net = s.net ++ new ∧ new.map (fun m => (m.dev, m.body)) =
          l.zipIdx.map (fun p => (d, .req (gLocal p.1.1 / 64) none (p.1.2 (.cur d slot (n0 + p.2))))))
    let idle : Prop := r.await = [] ∧ r.err = none
    let awaits (i : Instr) (a : Trap → Word) : Prop := (r.await ≠ [] → exec i s = .next s)
      ∧ (∀ t, r.await = [] → r.err = some t → fails i t.cause (a t))
    (op = 1 → r.started = false → ∀ l, Runs s d r.acc l → l.acc = r.acc →
      let rec_ := r.blk.drop 0x20
      let signed := bit (field rec_ 4 4) 3
      let sound := if signed then s.sigOk d q.asid rec_ else !x.bar0.sigreq.getLsbD (domainOf s d q.asid)
      let faults (cause : Nat) : Prop := ∃ u n, exec (.launch d slot) s = .next u ∧ Noted u d l n ∧ n.cause = cause ∧ n.src = 2
        ∧ (slot < 32 → r.hdr ≠ 0 → (∀ t e, t ≠ slot → (x.slot t).current = some e → e.acc ≠ r.acc) →
          n.tpc = BitVec.ofNat 64 r.idx ∧ n.tword = r.hdr)
      (recordOk q rec_ = false → faults Cause.launchInvalid) ∧ (recordOk q rec_ = true → sound = false → faults Cause.launchSig)
      ∧ (recordOk q rec_ = true → sound = true → exec (.launch d slot) s = .next (s.setRun d slot { r with started := true })))
    ∧ (op = 2 → let src := addr 0x20 + BitVec.ofNat 64 r.off
      let dst := addr 0x28 + BitVec.ofNat 64 r.off
      let next (i : Instr) (p : State → Prop) : Prop :=
        goes i (fun u e => e.off = r.off + 64 ∧ (e.finished = true ↔ r.off + 64 = f 0x30) ∧ u.net = s.net ∧ p u)
      awaits (.copy d slot) (·.addr)
      ∧ (idle → r.phase = 0 → src.toNat % 64 ≠ 0 → fails (.copy d slot) Cause.misaligned src)
      ∧ (idle → r.phase = 0 → src.toNat % 64 = 0 → dst.toNat % 64 ≠ 0 → fails (.copy d slot) Cause.misaligned dst)
      ∧ (idle → r.phase = 0 → src.toNat % 64 = 0 → dst.toNat % 64 = 0 → f 0x30 ≤ r.off → ends (.copy d slot))
      ∧ (∀ t, idle → r.phase = 0 → src.toNat % 64 = 0 → dst.toNat % 64 = 0 → r.off < f 0x30 →
        s.curPage d q true .xread src = .ok t →
        (t.kind ≠ .system → asks (.copy d slot) 1
          [(t.phys src, fun o => .xread o src t.kind t.wd 0 64 (BitVec.ofNat 32 (field r.blk 0x38 4)))])
        ∧ (t.kind = .system → asks (.copy d slot) 1 [(t.phys src, fun o => .sread o src)]))
      ∧ (∀ t, idle → r.phase = 1 → s.curPage d q true .join dst = .ok t →
        (t.kind = .ver → asks (.copy d slot) 2 [(t.phys dst, fun o => .join [⟨o, none, q.asid, dst,
          .ver (BitVec.ofNat 32 (field r.blk 0x3C 4)) (BitVec.ofNat 512 (leNat r.data))⟩])])
        ∧ (t.kind = .fill → asks (.copy d slot) 2 ((List.range 4).map (fun i => (t.phys dst, fun o => .join [⟨o, none, q.asid, dst,
          .fill i 0xFFFFFFFF (BitVec.ofNat 128 (leNat ((r.data.drop (16 * i)).take 16)))⟩]))))
        ∧ (t.kind = .system → asks (.copy d slot) 2 [(t.phys dst, fun o => .swrite o r.data)])
        ∧ (t.kind ∉ [.ver, .fill, .system] → failsIn (walked dst) (.copy d slot) Cause.kindMismatch dst))
      ∧ (∀ t, idle → r.phase = 1 → s.curPage d q true .join dst = .error t → failsIn (walked dst) (.copy d slot) t.cause t.addr)
      ∧ (∀ t, idle → r.phase = 0 → src.toNat % 64 = 0 → dst.toNat % 64 = 0 → r.off < f 0x30 →
        s.curPage d q true .xread src = .error t → failsIn (walked src) (.copy d slot) t.cause t.addr)
      ∧ (idle → r.phase = 2 → next (.copy d slot) (fun _ => True)))
    ∧ (op = 3 → ∀ k, r.coll = some k →
      (x.coll? k = none → r.off = 1 → ends (.cmdColl d slot))
      ∧ (∀ c cause a b, x.coll? k = some c → c.failed = some (cause, a, b) → ∃ u, exec (.cmdColl d slot) s = .next u
        ∧ ((u.device d).slot slot).stop = true ∧ ((u.device d).slot slot).cmd = none ∧ (u.device d).coll? k = none)
      ∧ (∀ c, x.coll? k = some c → c.failed = none → exec (.cmdColl d slot) s = .next s)
      ∧ (x.coll? k = none → r.off ≠ 1 → awaits (.cmdColl d slot) (·.addr)
        ∧ ∀ devs desc t, idle → s.group d q.asid (addr 0x20) = some (devs, desc) → f 0x30 % 64 = 0 → f 0x40 % 64 = 0 →
          (field r.blk 0x28 1 / 16 = 4 → f 0x38 % (64 * devs.length) = 0) → f 0x38 ≤ x.stagePool →
          x.collHeld k ((devs.findIdx? (· == d)).getD 0) = false → r.data.length ≠ f 0x38 →
          let va : Word := BitVec.ofNat 64 (f 0x30 + r.data.length)
          translateNow s d pd0 q.asid .xread va = .ok t → asks (.cmdColl d slot) 1
            [(t.phys va, fun o => .xread o va t.kind t.wd 0 64 (BitVec.ofNat 32 (field r.blk 0x48 4)))])
      ∧ (x.coll? k = none → r.off ≠ 1 → ∀ devs desc, idle → s.group d q.asid (addr 0x20) = some (devs, desc) → f 0x30 % 64 = 0 →
        f 0x40 % 64 = 0 → (field r.blk 0x28 1 / 16 = 4 → f 0x38 % (64 * devs.length) = 0) → f 0x38 ≤ x.stagePool →
        x.collHeld k ((devs.findIdx? (· == d)).getD 0) = false → r.data.length = f 0x38 →
        (x.stagePool < x.stageUsed + f 0x38 → waits (.cmdColl d slot) false)
        ∧ (x.stageUsed + f 0x38 ≤ x.stagePool → (devs.findIdx? (· == d)).getD 0 ≠ 0 →
          goes (.cmdColl d slot) (fun u e => e.off = 1 ∧ e.finished = false
            ∧ ∃ c m, (u.device d).coll? k = some c ∧ c.mine = [m] ∧ m.data = r.data ∧ m.tile = addr 0x40))))
    ∧ (op = 4 → let v := f 0x20
      (bit v 0 = true → ((acount x.csems (bits v 13 8) : Int) - (f 0x30 : Int)) % 65536 < 32768 → ends (.wait d slot))
      ∧ (bit v 0 = true → 32768 ≤ ((acount x.csems (bits v 13 8) : Int) - (f 0x30 : Int)) % 65536 → waits (.wait d slot) true)
      ∧ (bit v 0 = false → awaits (.wait d slot) (fun _ => addr 0x28) ∧ (idle → r.phase = 1 → ends (.wait d slot))
        ∧ ∀ t, idle → r.phase ≠ 1 → let va := addr 0x28
          let k := Kind.ofCode (BitVec.ofNat 3 (bits v 3 1))
          let w := Width.ofCode (BitVec.ofNat 2 (bits v 5 4))
          (va.toNat % elemBytes k w ≠ 0 → fails (.wait d slot) Cause.misaligned va)
          ∧ (va.toNat % elemBytes k w = 0 → translateNow s d pd0 q.asid .tread va = .ok t →
            (kindTrap t k w va = none → asks (.wait d slot) 1
              [(t.phys va, fun o => .tread o va k w (va.toNat % 64) [trigger k w.bits (BitVec.ofNat 64 (f 0x30))])])
            ∧ ∀ p, kindTrap t k w va = some p → failsIn (walked va) (.wait d slot) p.cause va)
          ∧ ∀ e, va.toNat % elemBytes k w = 0 → translateNow s d pd0 q.asid .tread va = .error e →
            failsIn (walked va) (.wait d slot) e.cause e.addr))
    ∧ (op = 5 → let va := addr 0x20
      let j := blockJoin r.blk
      awaits (.cmdJoin d slot) (·.addr) ∧ (idle → r.phase = 1 → ends (.cmdJoin d slot))
      ∧ (∀ t, idle → r.phase ≠ 1 → translateNow s d pd0 q.asid .join va = .error t → failsIn (walked va) (.cmdJoin d slot) t.cause t.addr)
      ∧ (∀ t, idle → r.phase ≠ 1 → translateNow s d pd0 q.asid .join va = .ok t →
        (kindTrap t j.kw.1 j.kw.2 va = none → asks (.cmdJoin d slot) 1 [(t.phys va, fun o => .join [⟨o, none, q.asid, va, j⟩])])
        ∧ ∀ p, kindTrap t j.kw.1 j.kw.2 va = some p → failsIn (walked va) (.cmdJoin d slot) p.cause va))
    ∧ (op = 6 → awaits (.freeze d slot) (·.addr) ∧ (idle → r.phase = 1 → ends (.freeze d slot))
      ∧ (∀ t, idle → r.phase ≠ 1 → s.linesOf d q.asid [.freeze] (f 0x20) (f 0x28 / 64) = .error t → fails (.freeze d slot) t.cause t.addr)
      ∧ (∀ ls, idle → r.phase ≠ 1 → s.linesOf d q.asid [.freeze] (f 0x20) (f 0x28 / 64) = .ok ls →
        asks (.freeze d slot) 1 (ls.map (fun l => (l.2.phys l.1, fun o => .freeze o l.1 l.2.kind l.2.wd)))))
    ∧ (op = 7 → awaits (.reclaim d slot) (·.addr)
      ∧ (idle → r.phase = 1 → ends (.reclaim d slot)
        ∧ ∃ u, exec (.reclaim d slot) s = .next u ∧ (slot, q.asid) ∉ (u.device d).reclaims)
      ∧ (idle → r.phase ≠ 1 → s.asidBusy q.asid = true → waits (.reclaim d slot) false
        ∧ ∃ u, exec (.reclaim d slot) s = .next u ∧ (slot, q.asid) ∈ (u.device d).reclaims)
      ∧ (idle → r.phase ≠ 1 → s.asidBusy q.asid = false →
        (∀ t, s.linesOf d q.asid [.join, .freeze] (f 0x20) (f 0x28 / 64) = .error t → fails (.reclaim d slot) t.cause t.addr)
        ∧ ∀ ls, s.linesOf d q.asid [.join, .freeze] (f 0x20) (f 0x28 / 64) = .ok ls →
          asks (.reclaim d slot) 1 (ls.map (fun l => (l.2.phys l.1, fun o => .bottom o l.2.kind)))
          ∧ ((∀ l ∈ ls, gDev (l.2.phys l.1) = d) → ∃ u, exec (.reclaim d slot) s = .next u ∧ (slot, q.asid) ∈ (u.device d).reclaims)))
    ∧ (op = 11 → ends (.mark d slot)
      ∧ (bit (f 0x20) 6 = true → ∃ u, exec (.mark d slot) s = .next u ∧ (u.device d).csems = aset x.csems (bits (f 0x20) 5 0)
          ((acount x.csems (bits (f 0x20) 5 0) + bits (f 0x20) 15 8) % 65536)))
    ∧ (op = 12 → let asid := if q.sys then field r.blk 0x30 2 else q.asid
      let lo := if f 0x28 = 0 then 0 else f 0x20
      let hi := if f 0x28 = 0 then 2 ^ 64 else f 0x20 + f 0x28
      ((∀ w ∈ x.walks, w.asid ≠ asid ∨ w.va.toNat < lo ∨ hi ≤ w.va.toNat) →
        ends (.flush d slot) ∧ ∃ u, exec (.flush d slot) s = .next u
          ∧ (∀ c, ∀ t ∈ (u.core d c).tlb, t.asid ≠ asid ∨ hi ≤ t.va ∨ t.va + 2 ^ t.bits ≤ lo)
          ∧ (∀ t ∈ (u.device d).ptlb, t.2.asid ≠ asid ∨ hi ≤ t.2.va ∨ t.2.va + 2 ^ t.2.bits ≤ lo)
          ∧ (∀ p ∈ (u.device d).pcache, markerIn s d asid lo hi p.2 = false))
      ∧ (∀ w ∈ x.walks, w.asid = asid → lo ≤ w.va.toNat → w.va.toNat < hi → goes (.flush d slot) (fun _ e => e.finished = false)))

/-- R322, R323, R325, R388: a graph starts its next node, a LAUNCH node under an accession number of its own, and is complete behind
the last; its LAUNCH node's fault is its own. COND and LOOP wait for their tile's version by a threshold read at its home and then read it
exactly; COND goes on behind itself when its predicate is not 0 and to its target otherwise; LOOP goes back and counts while its predicate
is not 0, and goes on with its counter at 0 otherwise; a LOOP at its limit faults the graph. -/
def Obligations.GraphsBranch : Prop :=
  ∀ (s : State) (d slot desc : Nat) (q : QSlot) (r n : Running) (g : GraphRun), (aget s.devs d).isSome = true →
    (s.device d).slot slot = q → q.graph = some g → q.cmd = some r → q.desc = some desc → q.stop = false →
    let s1 := s.modDev d (fun x => x.noteStart r)
    let graphOf (u : State) : Option GraphRun := ((u.device d).slot slot).graph
    let startsNode (e : Running) : Prop := ∃ u, exec (.graph d slot) s = .next u ∧ graphOf u = some { g with node := some e }
    let goes (i : Instr) (next : Nat) (counters : AMap Nat) : Prop := ∃ u e, exec i s = .next u ∧ graphOf u = some
      { g with counters := counters, node := some e } ∧ e.finished = true ∧ e.off = next ∧ u.net = s.net
    (g.node = none → g.nodes[g.at_]? = none → exec (.graph d slot) s = .next (s.modDev d (fun x =>
      { x with qslots := aset x.qslots slot { q with cmd := some { r with finished := true }, graph := none } })))
    ∧ (∀ blk, g.node = none → g.nodes[g.at_]? = some blk → field blk 0 1 ≠ 1 → field blk 0 1 ≠ 3 →
      startsNode (Running.fresh r.acc (field blk 0 1) 0 g.at_ blk))
    ∧ (∀ blk, g.node = none → g.nodes[g.at_]? = some blk → field blk 0 1 = 3 →
      let s2 := s1.noteGroup d q.asid (BitVec.ofNat 64 (field blk 0x20 8))
      (s2.numberColl d q.asid blk = none → exec (.graph d slot) s =
        .next (s2.failRun d slot Cause.packetInvalid (BitVec.ofNat 64 (field blk 0x20 8))))
      ∧ ∀ u k, s2.numberColl d q.asid blk = some (u, k) →
        startsNode { Running.fresh r.acc 3 0 g.at_ blk with coll := some k })
    ∧ (∀ blk y p, g.node = none → g.nodes[g.at_]? = some blk → field blk 0 1 = 1 → (s1.device d).journalFree = true →
      (s1.device d).reserveFor 1 (s1.recordCores d q.asid (blk.drop 0x20)) = some (y, p) →
      startsNode (Running.fresh (s.device d).bar0.jhead 1 0 g.at_ blk) ∧ ∃ u, exec (.graph d slot) s = .next u
        ∧ (u.device d).bar0.jhead = (s.device d).bar0.jhead + 1
        ∧ ∃ l ∈ (u.device d).launches, l.acc = (s.device d).bar0.jhead ∧ l.node = true ∧ l.slot = slot)
    ∧ (∀ l f, g.node = some n → n.op = 1 → (s.device d).launch? n.acc = some l → l.fault = some f → l.code = 15 →
      exec (.graph d slot) s = .next (s.failRun d slot f.cause f.taddr))
    ∧ (g.node = some n → n.finished = false → n.op = 9 ∨ n.op = 10 →
      let i := if n.op = 9 then Instr.cond d slot else .cmdLoop d slot
      let va : Word := BitVec.ofNat 64 (field n.blk 0x20 8)
      let v := nodeVersion g n.idx n.blk
      let asks (t : Tlb) (phase : Nat) (mk : Origin → Req) : Prop := ∃ u e no h, exec i s = .next u ∧ u.runOf d slot = some e
        ∧ e.phase = phase ∧ e.await = [no] ∧ e.finished = false
        ∧ u.net = s.net ++ [⟨d, h, 0x010101, .req (gLocal (t.phys va) / 64) none (mk (.cur d slot no))⟩]
      let p := field n.data 0 8 ≠ 0
      (n.await ≠ [] → exec i s = .next s)
      ∧ (∀ t, n.await = [] → n.err = some t → exec i s = .next (s.failRun d slot t.cause va))
      ∧ (∀ t, n.await = [] → n.err = none → translateNow s d pd0 q.asid .tread va = .ok t → permTrap t .xread va = none →
        kindTrap t .ver .w8 va = none → gDev (t.phys va) = d →
        (n.phase = 0 → asks t 1 (fun o => .tread o va .ver .w8 0 [v.setWidth 64]))
        ∧ (n.phase = 1 → asks t 2 (fun o => .xread o va .ver .w8 0 64 v)))
      ∧ (n.await = [] → n.err = none → n.phase = 2 →
        (n.op = 9 → p → goes i (n.idx + 1) g.counters)
        ∧ (n.op = 9 → ¬p → goes i (field n.blk 0x2C 2) g.counters)
        ∧ (n.op = 10 → ¬p → goes i (n.idx + 1) (aset g.counters n.idx 0))
        ∧ (n.op = 10 → p → acount g.counters n.idx + 1 < field n.blk 0x30 4 →
          goes i (field n.blk 0x2C 2) (aset g.counters n.idx (acount g.counters n.idx + 1)))
        ∧ (n.op = 10 → p → field n.blk 0x30 4 ≤ acount g.counters n.idx + 1 →
          exec i s = .next (s.failRun d slot Cause.loopLimit 0))))

/-- R15, R44, R45, R329 to R333: cores that pass every check of dispatch are bound to the launch whose turn it is, at status 2; a check
that fails faults it, TREE_UNBINDABLE included; a turn that grants no core leaves it waiting where some could satisfy the tree; another device
reserves free cores for it; the root SYNC's release raises it to 3; once every control context has ended and no collective is left it is
complete, at status 14, and its cores are free; a pre-empted launch, all of whose contexts have stopped, is saved at status 4; a resumed
one is bound again at status 2, with one more resumption counted.
Grants are inputs (log 10), and the empty grant is the model's way to wait (log 82); the size of a context area is free (log 30); which state is saved is read from R45 (log 77 to 80). -/
def Obligations.LaunchesGoOn : Prop :=
  ∀ (s : State) (d a : Nat) (x : Device) (l : Launch), aget s.devs d = some x → Runs s d a l → l.acc = a →
    let status (u : State) : Option Nat := ((u.device d).launch? a).map (·.code)
    (∀ gs y cs, l.code = 1 → x.waits l = true → s.reclaimed l.asid = false → s.grantsOk d l gs = true → s.itsTurn d l = true →
      s.dispatch d l gs = .ok (some (y, cs)) → ∃ u, exec (.launchBind d a gs) s = .next u ∧ status u = some 2
        ∧ ((u.device d).launch? a).map (·.cores) = some (cs.map (·.2)))
    ∧ (∀ gs, l.code = 1 → x.waits l = true → s.reclaimed l.asid = false → s.grantsOk d l gs = true → s.itsTurn d l = true →
      (s.dispatch d l gs = .ok none → exec (.launchBind d a gs) s = .next s)
      ∧ ∀ t, s.dispatch d l gs = .error t → ∃ u f, exec (.launchBind d a gs) s = .next u ∧ Noted u d l f ∧ f.cause = t.cause
        ∧ f.src = 2 ∧ f.taddr = t.addr ∧ f.taux = t.aux)
    ∧ (∀ gs, s.itsTurn d l = false → exec (.launchBind d a gs) s = .next s)
    ∧ (∀ e y c, aget s.devs e = some y → e ≠ d → s.alive ⟨d, a⟩ = true → y.coreFree c = true → aget y.bind c = none →
      ∃ u, exec (.remoteCoreReserve e ⟨d, a⟩ [c]) s = .next u ∧ aget (u.device e).bind c = some ⟨a, 1, d⟩
        ∧ (u.device e).remote = y.remote ++ [(⟨d, a⟩, [c])] ∧ u.device d = s.device d)
    ∧ (l.code = 2 → ∃ u, exec (.rootSyncRelease d a) s = .next u ∧ status u = some 3
      ∧ ∀ e c b, (s.core e c).bound = some b → b.launch = ⟨d, a⟩ → (u.core e c).rooted = true)
    ∧ (l.code = 3 → s.allEnded l = true → s.collsOf ⟨d, a⟩ = [] → ∃ u, exec (.launchComplete d a) s = .next u ∧ status u = some 14
      ∧ ∀ e c b, (u.core e c).bound = some b → b.launch ≠ ⟨d, a⟩)
    ∧ (l.code = 2 ∨ l.code = 3 → s.allEnded l = false → l.saving = true →
      (∀ p ∈ s.coresOf ⟨d, a⟩, (s.device p.1).clocked (islandOf p.2.1) = true ∧ p.2.2.killed = false ∧ p.2.2.killWait = none ∧ p.2.2.mx = [] ∧ p.2.2.cx = [] ∧ p.2.2.eccS = [] ∧ p.2.2.eccV = []
        ∧ ∀ n, n < 11 → (p.2.2.ctx n).st.live = true → (p.2.2.ctx n).pre = .stopped) →
      ∃ u, exec (.preempt d a) s = .next u ∧ status u = some 4 ∧ ((u.device d).launch? a).map (·.saving) = some false
        ∧ u.coresOf ⟨d, a⟩ = [])
    ∧ (∀ gs hdr plan cs, l.code = 4 → l.hdr = some hdr → l.plan = some plan → l.killed = [] →
      bindTree x.peers (bit (field l.record 4 4) 1) hdr.helpers l.tree gs = some cs → x.outranked l = false →
      s.reclaimed l.asid = false → s.grantsOk d l gs = true → cs.length = l.cores.length →
      ∃ u, exec (.resume d a gs) s = .next u ∧ status u = some 2 ∧ ((u.device d).launch? a).map (·.rc) = some (l.rc + 1)
        ∧ ((u.device d).launch? a).map (·.saved) = some [])

/-! ## The platform (R335-R343, R381, R392, R403, R404, R407-R409) -/

/-- R335, R337 to R343, R392: a cold reset runs the seven steps of bring-up, or stops at a failing one, or at the second where neither flash
slot holds an image that verifies; RESET takes 0x5A4D0001 only; a firmware update whose image verifies goes into the slot that does not
run, and one that does not verify, or is longer than 32 MiB, is refused; a valid ISLSET sets an island's request and stops its clock until
the change is done; windows above PWRCAP lower the power ceiling by 10 MHz each until one is below it, and windows below 95 % raise it; a
die at 105 °C is held to 470 MHz until it is below 100 °C; at 120 °C the power goes; an island's supply fault stops its clock and marks
its cores in CORESTAT, and the clock stays stopped until the supply returns.
That the return leaves the marks is the model's reading (log 85). What training, sensors and tests find comes with the event (log 10); the ceiling by die is the model's reading (log 87). -/
def Obligations.PlatformEvents : Prop :=
  ∀ (s : State) (d isl die temp pkg modW : Nat) (x : Device) (v : Word) (b : BootIn) (end_ : FwEnd), aget s.devs d = some x →
    (d < 9216 → s.devs = [(d, x)] → s.launchesOf d = [] →
      (b.failStep = none → ∃ u, exec (.coldReset d b) s = .next u ∧ (u.device d).mem = [] ∧ (u.device d).bar0.pwrcap = 3200
        ∧ (u.device d).flashA = x.flashA ∧ (u.device d).flashB = x.flashB ∧ u.net = s.net.filter (·.dev != d)
        ∧ (∀ slot, x.bootSlot = some slot → (u.device d).bar0.step = 7 ∧ (u.device d).bar0.fail = false
          ∧ (u.device d).bar0.devid = some d ∧ (u.device d).bar0.fwrun = slot)
        ∧ (x.bootSlot = none → (u.device d).bar0.step = 1 ∧ (u.device d).bar0.fail = true))
      ∧ (∀ k, b.failStep = some k → 1 ≤ k → k ≤ 7 → ∃ u, exec (.coldReset d b) s = .next u ∧ (u.device d).bar0.fail = true
        ∧ (u.device d).bar0.step = if 1 < k ∧ x.bootSlot = none then 1 else k - 1)
      ∧ (x.serves 0 = true →
        (v = 0x5A4D0001 → ∃ u, exec (.reset d v b) s = .next u ∧ (u.device d).mem = [] ∧ (u.device d).cores = []
          ∧ (u.device d).bar0.corr = x.bar0.corr ∧ (b.failStep = none → x.bootSlot ≠ none → (u.device d).bar0.step = 7))
        ∧ (v ≠ 0x5A4D0001 → exec (.reset d v b) s = .next s)))
    ∧ (x.up = true → x.serves 0 = true → x.bar0.fwbusy = false → v.getLsbD 0 = true → ∃ u, exec (.fwctlGo d v) s = .next u
        ∧ (u.device d).bar0.fwbusy = true ∧ (u.device d).bar0.fwdone = false ∧ u.net = s.net)
    ∧ (x.bar0.fwbusy = true →
      let image := s.readG x.bar0.fwaddr x.bar0.fwlen
      (x.bar0.fwlen ≤ 2 ^ 25 → ∃ u, exec (.fwUpdateDone d .ok) s = .next u ∧ (u.device d).bar0.fwbusy = false
        ∧ (Config.firmwareOk image = true → (u.device d).bar0.fwdone = true ∧ (u.device d).bar0.fwslot = !x.bar0.fwrun
          ∧ (u.device d).image (!x.bar0.fwrun) = image ∧ (u.device d).image x.bar0.fwrun = x.image x.bar0.fwrun)
        ∧ (Config.firmwareOk image = false → (u.device d).bar0.fwfail = 1 ∧ (u.device d).image = x.image))
      ∧ (2 ^ 25 < x.bar0.fwlen → ∃ u, exec (.fwUpdateDone d end_) s = .next u ∧ (u.device d).bar0.fwbusy = false
        ∧ (u.device d).bar0.fwfail = 2 ∧ (u.device d).image = x.image))
    ∧ (x.serves 0 = true → isl < 256 → let mhz := 10 * (v.toNat % 58 + 47)
        ∃ u, exec (.islset d (BitVec.ofNat 64 (isl + mhz * 2 ^ 16))) s = .next u ∧ ((u.device d).island isl).req = mhz
          ∧ ((x.island isl).changing = none → (u.device d).clocked isl = false ∨ (x.island isl).eff = ((u.device d).target isl))
          ∧ ∀ i, i ≠ isl → (u.device d).island i = x.island i)
    ∧ (∀ t, (x.island isl).changing = some t → ∃ u, exec (.freqChangeDone d isl) s = .next u ∧ ((u.device d).island isl).eff = t
        ∧ ∀ i, i ≠ isl → (u.device d).island i = x.island i)
    ∧ (x.up = true → ∃ u, exec (.powerWindow d pkg modW) s = .next u
      ∧ (x.bar0.pwrcap < pkg ∨ (x.capping = true ∧ pkg = x.bar0.pwrcap) →
        (u.device d).pceil = max 470 (x.pceil - 10) ∧ (u.device d).capping = true)
      ∧ (pkg ≤ x.bar0.pwrcap → (x.capping = true → pkg < x.bar0.pwrcap) → (u.device d).capping = false
        ∧ (u.device d).pceil = if 100 * pkg < 95 * x.bar0.pwrcap then min 1040 (x.pceil + 10) else x.pceil))
    ∧ (x.lost = false → die < 6 → ∀ i ∈ [Instr.thermalCeil d die temp, .thermalClear d die temp],
      (105 ≤ temp → temp < 120 → die ∉ x.hot → ∃ u, exec i s = .next u ∧ die ∈ (u.device d).hot ∧ bit (u.device d).bar0.thev 0 = true)
      ∧ (temp < 100 → ∃ u, exec i s = .next u ∧ die ∉ (u.device d).hot)
      ∧ (120 ≤ temp → exec i s = exec (.thermalTrip d die) s))
    ∧ (x.lost = false → die < 6 → s.launchesOf d = [] → ∃ u, exec (.thermalTrip d die) s = .next u ∧ (u.device d).lost = true
        ∧ (u.device d).mem = [] ∧ (u.device d).cores = [] ∧ (u.device d).flashA = x.flashA ∧ (u.device d).flashB = x.flashB)
    ∧ (x.lost = false → isl < 256 → (x.island isl).supply = false → (∀ c, islandOf c = isl → (x.core c).bound = none) →
        ∃ u, exec (.supplyFault d isl) s = .next u ∧ ((u.device d).island isl).supply = true ∧ (u.device d).clocked isl = false
          ∧ ∀ c, c < 4096 → islandOf c = isl → c ∈ (u.device d).bar0.corestat ∧ (u.core d c).killed = true)
    ∧ (isl < 256 → (x.island isl).supply = true → exec (.islandSupplyReturn d isl) s = .next (s.modDev d (fun y =>
        { y with islands := aset y.islands isl { x.island isl with supply := false } })))

/-- R403, R404, R407, R409, R410: a mismatch in a core's issue scheduler kills a bound core: its contexts stop, its queues are empty, and it is
sealed, once no context of it is committing; one anywhere else resets the device, and ECCSTAT keeps its counts; the test of an unbound killed core ends 2^21 cycles
after the kill: passed, it may be granted again; failed, it is marked in CORESTAT. The test of a core that its launch holds decides: it
fails the launch with CORE_KILLED, or PAIR_KILLED, where it failed or R409 names another ground; else the core restarts with an empty local
store, idle helpers and empty queues, its control context at the checkpoint, with the live-in registers that it holds and zeros; a core
whose task had ended goes on.
A test's result comes with the event (log 10); that both cores of a pair are awaited is the model's reading (log 81). -/
def Obligations.KillsAndTests : Prop :=
  ∀ (s : State) (d c : Nat) (x : Device) (lasting : Bool), aget s.devs d = some x → x.lost = false →
    (∀ b, x.bar0.step ≠ 0 → c < 4096 → Alone s d c b → (s.core d c).killed = false →
      (s.core d c).committing = false → b.place b.super = some (d, c) →
      ∃ u, exec (.dupMismatch d (some c)) s = .next u ∧ (u.core d c).killed = true ∧ (u.core d c).sealed = true
        ∧ (u.core d c).stopped = true ∧ (u.core d c).mx = [] ∧ (u.core d c).cx = [] ∧ (u.core d c).port = []
        ∧ (u.core d c).ls = (s.core d c).ls ∧ (∀ n, n < 11 → ((u.core d c).ctx n).wait = none ∧ ((u.core d c).ctx n).egress = []))
    ∧ (∀ b, x.bar0.step ≠ 0 → c < 4096 → Alone s d c b → (s.core d c).committing = true → (s.core d c).killWait = none →
      ∃ u, exec (.dupMismatch d (some c)) s = .next u ∧ u.core d c = { s.core d c with killWait := some false })
    ∧ (x.bar0.step ≠ 0 → s.devs = [(d, x)] → s.launchesOf d = [] →
      ∃ u, exec (.dupMismatch d none) s = .next u ∧ (u.device d).bar0.dup = true ∧ (u.device d).mem = [] ∧ (u.device d).cores = []
        ∧ (u.device d).bar0.corr = x.bar0.corr)
    ∧ ((s.core d c).killed = true → (s.core d c).bound = none → 2 ^ 21 ≤ (s.core d c).testAge → s.killedEntry d c = none →
      ∃ u, exec (.selfTestDone d c lasting) s = .next u ∧ (u.core d c).killed = false
        ∧ ((lasting = true ∨ (x.island (islandOf c)).supply = true) → c ∈ (u.device d).bar0.corestat)
        ∧ (lasting = false → (x.island (islandOf c)).supply = false → (u.device d).bar0.corestat = x.bar0.corestat))
    ∧ (∀ b o a y k, Alone s d c b → (s.core d c).killed = true → 2 ^ 21 ≤ (s.core d c).testAge → s.killedEntry d c = some (⟨o, a⟩, y, k) →
      Runs s o a y → y.acc = a → y.code ≠ 4 → bit (field y.record 4 4) 1 = false → y.cores[k.lcore]? = some (d, c) →
      let old := s.core d c
      let failed := lasting = true ∨ (x.island (islandOf c)).supply = true
      let left (u : State) : Prop := ((u.device o).launch? a).map (·.killed) = some (y.killed.filter (fun e => e.lcore != k.lcore))
      ((old.ctx 0).st = .ended → ∃ u, exec (.selfTestDone d c lasting) s = .next u ∧ (u.core d c).killed = false ∧ left u)
      ∧ ((old.ctx 0).st ≠ .ended → failed ∨ old.unrecoverable b.super k.lcore = true →
        ∃ u f, exec (.selfTestDone d c lasting) s = .next u ∧ Noted u o y f ∧ f.src = 5 ∧ f.lcore = k.lcore
          ∧ f.cause = if k.pair then Cause.pairKilled else Cause.coreKilled)
      ∧ ((old.ctx 0).st ≠ .ended → ¬failed → old.unrecoverable b.super k.lcore = false →
        ∃ u, exec (.selfTestDone d c lasting) s = .next u ∧ left u ∧
          let C := u.core d c
          let X := C.ctx 0
          let p := (old.ctx 0).ckpt
          C.bound = some b ∧ C.restarted = true ∧ C.killed = false ∧ C.sealed = false ∧ C.ls = ⟨[], [], []⟩ ∧ C.sems = []
          ∧ (∀ g : Fin 16, C.guards[g.val] = some true) ∧ C.mx = [] ∧ C.cx = [] ∧ C.port = [] ∧ C.slots = Core.reset.slots
          ∧ C.acc0 = Core.reset.acc0 ∧ C.acc1 = Core.reset.acc1 ∧ C.stash = Core.reset.stash ∧ C.plan = p.plan
          ∧ (∀ n, 1 ≤ n → n ≤ 10 → (C.ctx n).st = .idle) ∧ X.st = .ready ∧ X.pc = p.entry ∧ X.trap = p.trap
          ∧ (∀ i : Fin 64, X.regs.s[i.val] = if p.slive.getLsbD i.val then p.regs.s[i.val] else 0)
          ∧ (∀ i : Fin 32, X.regs.v[i.val] = if p.vlive.getLsbD i.val then p.regs.v[i.val] else VR.zero)))

/-! ## The machine as a whole -/

/-- R16, R22, R155, R156, R165: when the agenda's next turn is the issue stage of a core, the first of whose contexts in cyclic order that
can issue is ready, its head is fetched from a page with X, and its bytes decode, the step runs that instruction's meaning with the pc at
it, the context has taken the issue slot where it issues, and time passes; when it is the turn of a context that waits, the step runs the
instruction that waits, unless it would issue before its turn.
The agenda and the time that passes are the model's (log 2, 3). -/
def Obligations.StepRunsTheDecodedInstruction : Prop :=
  ∀ (s : State) (d c n : Nat) (b : Binding) (rest : List Turn) (t : Tlb) (i : Instr),
    let core := s.core d c
    let x := core.ctx n
    let pc := s.headPc core b.asid x.pc
    let w := bytesToWord (s.readG (t.phys pc) 16)
    let now := { s with agenda := rest }
    let runs (j : Instr) (at_ : Word) : Prop :=
      step s = match exec j ({ now with cur := ⟨d, c, n⟩ }.modCtx ⟨d, c, n⟩ (fun y => y.atHead at_)) with
      | .next u => .next (now.issued u ⟨d, c, n⟩).advance
      | .fault f => .fault f
      | .refused r => .refused r
    let first := ∃ before after, core.candidates = before ++ n :: after ∧ ∀ m ∈ before, now.canIssue exec ⟨d, c, m⟩ b = false
    s.issuer d c = some b → x.expired = false → core.pairLimit n = false →
    (s.agenda = .issue d c :: rest → first → x.ready = true →
      canonical pc = true → lookup core x b.asid pc = .hit t → permTrap t .fetch pc = none →
      ((s.device (gDev (t.phys pc))).line (gLocal (t.phys pc) / 64)).bad = false →
      pc.toNat % 32 + i.bytes ≤ 28 → decodeWord w = .ok i → runs i pc)
    ∧ (∀ v, s.agenda = .issue d c :: rest → first → now.canIssue exec ⟨d, c, n⟩ b = true → x.wait = some v → v.code ≠ 0 → runs v.instr x.pc)
    ∧ (∀ v, s.agenda = .poll d c n :: rest → n ∈ core.candidates → x.ready = false → x.wait = some v → v.code ≠ 0 →
      let issues := ∀ u, now.attempt exec ⟨d, c, n⟩ b = .next u → now.hasIssued u ⟨d, c, n⟩ = true
      let stays := ∀ u, now.attempt exec ⟨d, c, n⟩ b = .next u → now.hasIssued u ⟨d, c, n⟩ = false
      (now.nextCtx exec d c b = some n ∨ stays → runs v.instr x.pc)
      ∧ (now.nextCtx exec d c b ≠ some n → (∃ u, now.attempt exec ⟨d, c, n⟩ b = .next u) → issues → step s = .next now.advance))

/-- R157 to R278: words written out from the encodings decode to their instructions. -/
def Obligations.WordsDecode : Prop :=
  decodeTableWord 64 0x0000000001440C01 = some (.add ⟨0, false⟩ 3 4 (.reg 5))
  ∧ decodeTableWord 64 0xFFFFF801B0040C01 = some (.add ⟨3, true⟩ 3 4 (.imm 0xFFFFF8))
  ∧ decodeTableWord 64 0xFFFFF00000000101 = some (.br ⟨0, false⟩ (.imm 0xFFFFF0))
  ∧ decodeTableWord 64 0x0000400200041D81 = some (.ld ⟨0, false⟩ .w false 7 4 (.imm 0x40))
  ∧ decodeTableWord 64 0x00000830008615B5 = some (.join ⟨0, false⟩ .max .w32 (some 2) 5 6 (.imm 8))
  ∧ decodeTableWord 64 0x0000000701440E01 = some (.vadd ⟨0, false⟩ 7 ⟨none, false⟩ 3 4 5)
  ∧ decodeTableWord 64 0x0000000B00400317 = some (.mma ⟨0, false⟩ .bf16 true false 0 1 ⟨none, none, none⟩)
  ∧ decodeTableWord 64 0x00000C0000001781 = some (.mfs ⟨0, false⟩ 5 0x00C)
  ∧ decodeTableWord 64 0x0000000000000000 = none
  ∧ decodeTableWord 64 0x00000000000003FD = some (.ill 0x3FD)

/-- R64, R98, R102, R103, R195, R284, R312, R335, R339, R341, R342: what reset leaves: an empty memory in canonical form, no launch, no
message; the power ceiling and requests at their values; a core's semaphores at 0, guards true, engine queues empty, helpers idle. The
values that the manual does not give are the model's (log 4, 12). -/
def Obligations.ResetState : Prop :=
  let s := State.reset
  s.Canonical ∧ s.net = [] ∧ s.fab = [] ∧ s.agenda = [] ∧ (s.device 0).mem = [] ∧ (s.device 0).launches = []
    ∧ (s.device 0).bar0.pwrcap = 3200 ∧ (s.device 0).bar0.jhead = 1 ∧ (s.device 0).bar0.step = 0
    ∧ (∀ i, (s.device 0).island i = ⟨940, 940, none, false⟩) ∧ (s.device 0).bar0.islset = 940 <<< 16
    ∧ ∀ d c, (s.core d c).bound = none ∧ (s.core d c).sems = [] ∧ (s.core d c).arbw = 0x010101
      ∧ (∀ g : Fin 16, (s.core d c).guards[g.val] = some true) ∧ (s.core d c).mx = [] ∧ (s.core d c).cx = [] ∧ (s.core d c).ls = ⟨[], [], []⟩
      ∧ (∀ n, 1 ≤ n → n ≤ 10 → ((s.core d c).ctx n).st = .idle)

/-- R4, R88: memory. Writing bytes keeps the canonical form, makes exactly those bytes read as written, and leaves every other byte;
two memories in canonical form that read alike are equal.
That an unlisted byte reads 0 is the model's choice (log 5). -/
def Obligations.MemoryLaws : Prop :=
  ∀ (m n : List Host.Cell) (a x : Nat) (bs : List Byte), Memory.wf m = true →
    Memory.wf (cellsWrite m a bs) = true
    ∧ (∀ k, (h : k < bs.length) → cellRead (cellsWrite m a bs) (a + k) = bs[k])
    ∧ (x < a ∨ a + bs.length ≤ x → cellRead (cellsWrite m a bs) x = cellRead m x)
    ∧ cellsRead (cellsWrite m a bs) a bs.length = bs
    ∧ (Memory.wf n = true → (∀ y, cellRead m y = cellRead n y) → m = n)

/-- R154 to R165: decoding the encoded words of an instruction that the encodings admit gives that instruction back, with every operand. -/
def Obligations.DecodeEncode : Prop := ∀ i : Instr, i.wf = true → decodeWord (encode i) = .ok i

/-- Every step keeps the canonical form of every memory: home memories, local stores and saved cores. -/
def Obligations.StepKeepsMemoryCanonical : Prop :=
  ∀ s u : State, s.Canonical → step s = .next u → u.Canonical
end

