-- ==== Sys2Proof/Laws/State.lean ====
section
/-! SUPPORT. The small lemmas of the state: maps, devices, cores, contexts and registers after an update. -/

namespace Sys2Proof.Machine
open Sys2Proof

/-! ## Maps -/

@[simp] theorem aget_aset_self {α : Type} (m : AMap α) (a : Nat) (x : α) : aget (aset m a x) a = some x := by
  induction m with
  | nil => simp [aset, aget]
  | cons p t ih =>
    obtain ⟨k, v⟩ := p
    simp only [aset]
    split
    · simp [aget]
    · split
      · simp [aget]
      · next h => simp [aget, Ne.symm h, ih]

theorem aget_aset_ne {α : Type} (m : AMap α) {a b : Nat} (x : α) (h : b ≠ a) : aget (aset m a x) b = aget m b := by
  induction m with
  | nil => simp [aset, aget, Ne.symm h]
  | cons p t ih =>
    obtain ⟨k, v⟩ := p
    simp only [aset]
    split
    · simp [aget, Ne.symm h]
    · split
      · next e => subst e; simp [aget, Ne.symm h]
      · simp [aget, ih]

theorem aset_aset {α : Type} (m : AMap α) (a : Nat) (x y : α) : aset (aset m a x) a y = aset m a y := by
  induction m with
  | nil => simp [aset]
  | cons p t ih =>
    obtain ⟨k, v⟩ := p
    simp only [aset]
    split
    · simp [aset]
    · split
      · simp [aset]
      · next h1 h2 => simp [aset, h1, h2, ih]

/-! ## Devices -/

theorem State.device_of {s : State} {d : Nat} {x : Device} (h : aget s.devs d = some x) : s.device d = x := by
  simp [State.device, h]

theorem State.modDev_of {s : State} {d : Nat} {x : Device} (h : aget s.devs d = some x) (f : Device → Device) :
    s.modDev d f = { s with devs := aset s.devs d (f x) } := by simp [State.modDev, State.setDevice, h]

/-- A change of a device that exists leaves it there, changed. -/
theorem State.aget_modDev {s : State} {d : Nat} {x : Device} (h : aget s.devs d = some x) (f : Device → Device) :
    aget (s.modDev d f).devs d = some (f x) := by simp [State.modDev_of h]

@[simp] theorem State.device_modDev {s : State} {d : Nat} {x : Device} (h : aget s.devs d = some x) (f : Device → Device) :
    (s.modDev d f).device d = f x := State.device_of (State.aget_modDev h f)

theorem State.aget_modDev_ne (s : State) {d e : Nat} (f : Device → Device) (h : e ≠ d) :
    aget (s.modDev d f).devs e = aget s.devs e := by
  unfold State.modDev State.setDevice
  split
  · exact aget_aset_ne _ _ h
  · rfl

/-- A change of a device leaves every other device. -/
theorem State.device_modDev_ne (s : State) {d e : Nat} (f : Device → Device) (h : e ≠ d) :
    (s.modDev d f).device e = s.device e := by simp [State.device, State.aget_modDev_ne s f h]

theorem State.modDev_modDev (s : State) (d : Nat) (f g : Device → Device) :
    (s.modDev d f).modDev d g = s.modDev d (fun x => g (f x)) := by
  cases h : aget s.devs d with
  | none => simp [State.modDev, h]
  | some x => rw [State.modDev_of (State.aget_modDev h f), State.modDev_of h, State.modDev_of h]; simp [aset_aset]

@[simp] theorem State.modDev_cur (s : State) (d : Nat) (f : Device → Device) : (s.modDev d f).cur = s.cur := by
  unfold State.modDev State.setDevice; split <;> rfl
@[simp] theorem State.modDev_agenda (s : State) (d : Nat) (f : Device → Device) : (s.modDev d f).agenda = s.agenda := by
  unfold State.modDev State.setDevice; split <;> rfl
@[simp] theorem State.modDev_stepNo (s : State) (d : Nat) (f : Device → Device) : (s.modDev d f).stepNo = s.stepNo := by
  unfold State.modDev State.setDevice; split <;> rfl
@[simp] theorem State.modDev_net (s : State) (d : Nat) (f : Device → Device) : (s.modDev d f).net = s.net := by
  unfold State.modDev State.setDevice; split <;> rfl
@[simp] theorem State.modDev_fab (s : State) (d : Nat) (f : Device → Device) : (s.modDev d f).fab = s.fab := by
  unfold State.modDev State.setDevice; split <;> rfl
@[simp] theorem State.modDev_switches (s : State) (d : Nat) (f : Device → Device) : (s.modDev d f).switches = s.switches := by
  unfold State.modDev State.setDevice; split <;> rfl
@[simp] theorem State.modDev_resp (s : State) (d : Nat) (f : Device → Device) : (s.modDev d f).resp = s.resp := by
  unfold State.modDev State.setDevice; split <;> rfl

@[simp] theorem Device.slot_modSlot (x : Device) (t : Nat) (f : QSlot → QSlot) : (x.modSlot t f).slot t = f (x.slot t) := by
  simp [Device.modSlot, Device.slot]

theorem Device.slot_modSlot_ne (x : Device) {t u : Nat} (f : QSlot → QSlot) (h : u ≠ t) : (x.modSlot t f).slot u = x.slot u := by
  simp [Device.modSlot, Device.slot, aget_aset_ne _ _ h]

@[simp] theorem Device.fn_modFn (x : Device) (n : Nat) (f : Fn → Fn) : (x.modFn n f).fn n = f (x.fn n) := by
  simp [Device.modFn, Device.fn]

/-! ## Cores -/

/-- A core that holds a launch lies on a device that exists. -/
theorem State.aget_of_bound {s : State} {d c : Nat} {b : Binding} (h : (s.core d c).bound = some b) :
    aget s.devs d = some (s.device d) := by
  unfold State.core State.device at h
  cases h' : aget s.devs d with
  | none => rw [h'] at h; simp [Device.core, Device.reset, aget, Core.reset] at h
  | some x => simp [State.device, h']

/-- A core of a device that exists, after it is set. -/
theorem State.core_setCore {s : State} {d : Nat} {x : Device} (h : aget s.devs d = some x) (c : Nat) (k : Core) :
    (s.setCore d c k).core d c = k := by simp [State.core, State.setCore, State.device_modDev h, Device.core]

theorem State.core_setCore_ne (s : State) {d c e n : Nat} (k : Core) (h : e ≠ d ∨ n ≠ c) :
    (s.setCore d c k).core e n = s.core e n := by
  unfold State.core State.setCore
  by_cases he : e = d
  · subst he
    have hn : n ≠ c := by simpa using h
    cases hx : aget s.devs e with
    | none => simp [State.modDev, hx]
    | some x => simp [State.device_modDev hx, State.device_of hx, Device.core, aget_aset_ne _ _ hn]
  · rw [State.device_modDev_ne s _ he]

theorem State.setCore_setCore (s : State) (d c : Nat) (k j : Core) : (s.setCore d c k).setCore d c j = s.setCore d c j := by
  simp [State.setCore, State.modDev_modDev, aset_aset]

@[simp] theorem State.setCore_net (s : State) (d c : Nat) (k : Core) : (s.setCore d c k).net = s.net := by simp [State.setCore]
@[simp] theorem State.setCore_fab (s : State) (d c : Nat) (k : Core) : (s.setCore d c k).fab = s.fab := by simp [State.setCore]
@[simp] theorem State.setCore_cur (s : State) (d c : Nat) (k : Core) : (s.setCore d c k).cur = s.cur := by simp [State.setCore]
@[simp] theorem State.setCore_resp (s : State) (d c : Nat) (k : Core) : (s.setCore d c k).resp = s.resp := by simp [State.setCore]
@[simp] theorem State.setCore_stepNo (s : State) (d c : Nat) (k : Core) : (s.setCore d c k).stepNo = s.stepNo := by
  simp [State.setCore]

/-- A core without a partner is changed alone. -/
theorem State.modCore_alone {s : State} {d c : Nat} {b : Binding} (h : Alone s d c b) (f : Core → Core) :
    s.modCore d c f = s.setCore d c (f (s.core d c)) := by simp [State.modCore, State.modCore1, h.1, h.2]

/-- Taking the issue slot changes the core's place in the round robin alone (R22). -/
theorem State.takeSlot_of {s : State} {w : Who} {b : Binding} (h : Alone s w.dev w.core b) :
    s.takeSlot w = s.setCore w.dev w.core { s.core w.dev w.core with lastIssued := w.ctx } := State.modCore_alone h _

/-- The core of the context whose turn it is, after that core is set. -/
theorem State.here_put {s : State} {b : Binding} (h : s.here.bound = some b) (c : Core) : (s.put c).here = c := by
  unfold State.here State.put
  rw [State.setCore_cur]
  exact State.core_setCore (State.aget_of_bound h) _ _

@[simp] theorem State.put_net (s : State) (c : Core) : (s.put c).net = s.net := State.setCore_net ..
@[simp] theorem State.put_cur (s : State) (c : Core) : (s.put c).cur = s.cur := State.setCore_cur ..

/-! ## Contexts, slots, windows, registers -/

@[simp] theorem Core.ctx_setCtx (c : Core) {n : Nat} (x : Context) (h : n < 11) : (c.setCtx n x).ctx n = x := by
  simp [Core.ctx, Core.setCtx, h]

theorem Core.ctx_setCtx_ne (c : Core) {n m : Nat} (x : Context) (h : m ≠ n) : (c.setCtx n x).ctx m = c.ctx m := by
  unfold Core.ctx Core.setCtx
  split
  · split <;> simp_all [Ne.symm h]
  · rfl

@[simp] theorem Core.setCtx_bound (c : Core) (n : Nat) (x : Context) : (c.setCtx n x).bound = c.bound := by
  unfold Core.setCtx; split <;> rfl
@[simp] theorem Core.setCtx_ls (c : Core) (n : Nat) (x : Context) : (c.setCtx n x).ls = c.ls := by
  unfold Core.setCtx; split <;> rfl
@[simp] theorem Core.setCtx_slots (c : Core) (n : Nat) (x : Context) : (c.setCtx n x).slots = c.slots := by
  unfold Core.setCtx; split <;> rfl
@[simp] theorem Core.setCtx_sems (c : Core) (n : Nat) (x : Context) : (c.setCtx n x).sems = c.sems := by
  unfold Core.setCtx; split <;> rfl
@[simp] theorem Core.setCtx_guards (c : Core) (n : Nat) (x : Context) : (c.setCtx n x).guards = c.guards := by
  unfold Core.setCtx; split <;> rfl
@[simp] theorem Core.setCtx_mx (c : Core) (n : Nat) (x : Context) : (c.setCtx n x).mx = c.mx := by
  unfold Core.setCtx; split <;> rfl
@[simp] theorem Core.setCtx_cx (c : Core) (n : Nat) (x : Context) : (c.setCtx n x).cx = c.cx := by
  unfold Core.setCtx; split <;> rfl
@[simp] theorem Core.setCtx_port (c : Core) (n : Nat) (x : Context) : (c.setCtx n x).port = c.port := by
  unfold Core.setCtx; split <;> rfl
@[simp] theorem Core.setCtx_plan (c : Core) (n : Nat) (x : Context) : (c.setCtx n x).plan = c.plan := by
  unfold Core.setCtx; split <;> rfl
@[simp] theorem Core.setCtx_arrivals (c : Core) (n : Nat) (x : Context) : (c.setCtx n x).arrivals = c.arrivals := by
  unfold Core.setCtx; split <;> rfl
@[simp] theorem Core.setCtx_gens (c : Core) (n : Nat) (x : Context) : (c.setCtx n x).gens = c.gens := by
  unfold Core.setCtx; split <;> rfl
@[simp] theorem Core.setCtx_acc0 (c : Core) (n : Nat) (x : Context) : (c.setCtx n x).acc0 = c.acc0 := by
  unfold Core.setCtx; split <;> rfl
@[simp] theorem Core.setCtx_acc1 (c : Core) (n : Nat) (x : Context) : (c.setCtx n x).acc1 = c.acc1 := by
  unfold Core.setCtx; split <;> rfl
@[simp] theorem Core.setCtx_stash (c : Core) (n : Nat) (x : Context) : (c.setCtx n x).stash = c.stash := by
  unfold Core.setCtx; split <;> rfl
@[simp] theorem Core.setCtx_tlb (c : Core) (n : Nat) (x : Context) : (c.setCtx n x).tlb = c.tlb := by
  unfold Core.setCtx; split <;> rfl
@[simp] theorem Core.setCtx_held (c : Core) (n : Nat) (x : Context) : (c.setCtx n x).held = c.held := by
  unfold Core.setCtx; split <;> rfl
@[simp] theorem Core.setCtx_recov (c : Core) (n : Nat) (x : Context) : (c.setCtx n x).recov = c.recov := by
  unfold Core.setCtx; split <;> rfl
@[simp] theorem Core.setCtx_arbw (c : Core) (n : Nat) (x : Context) : (c.setCtx n x).arbw = c.arbw := by
  unfold Core.setCtx; split <;> rfl
@[simp] theorem Core.setCtx_commits (c : Core) (n : Nat) (x : Context) : (c.setCtx n x).commits = c.commits := by
  unfold Core.setCtx; split <;> rfl
@[simp] theorem Core.setCtx_killed (c : Core) (n : Nat) (x : Context) : (c.setCtx n x).killed = c.killed := by
  unfold Core.setCtx; split <;> rfl
@[simp] theorem Core.setCtx_eccArm (c : Core) (n : Nat) (x : Context) : (c.setCtx n x).eccArm = c.eccArm := by
  unfold Core.setCtx; split <;> rfl
@[simp] theorem Core.setCtx_nextId (c : Core) (n : Nat) (x : Context) : (c.setCtx n x).nextId = c.nextId := by
  unfold Core.setCtx; split <;> rfl

@[simp] theorem Core.setCtx_lastIssued (c : Core) (n : Nat) (x : Context) : (c.setCtx n x).lastIssued = c.lastIssued := by
  unfold Core.setCtx; split <;> rfl
@[simp] theorem Core.setCtx_sealed (c : Core) (n : Nat) (x : Context) : (c.setCtx n x).sealed = c.sealed := by
  unfold Core.setCtx; split <;> rfl
@[simp] theorem Core.setCtx_restarted (c : Core) (n : Nat) (x : Context) : (c.setCtx n x).restarted = c.restarted := by
  unfold Core.setCtx; split <;> rfl
@[simp] theorem Core.setCtx_ckptBad (c : Core) (n : Nat) (x : Context) : (c.setCtx n x).ckptBad = c.ckptBad := by
  unfold Core.setCtx; split <;> rfl
@[simp] theorem Core.setCtx_helperLive (c : Core) (n : Nat) (x : Context) : (c.setCtx n x).helperLive = c.helperLive := by
  unfold Core.setCtx; split <;> rfl
@[simp] theorem Core.setCtx_portLost (c : Core) (n : Nat) (x : Context) : (c.setCtx n x).portLost = c.portLost := by
  unfold Core.setCtx; split <;> rfl
@[simp] theorem Core.setCtx_eccHit (c : Core) (n : Nat) (x : Context) : (c.setCtx n x).eccHit = c.eccHit := by
  unfold Core.setCtx; split <;> rfl
@[simp] theorem Core.setCtx_killWait (c : Core) (n : Nat) (x : Context) : (c.setCtx n x).killWait = c.killWait := by
  unfold Core.setCtx; split <;> rfl
@[simp] theorem Core.setCtx_eccG (c : Core) (n : Nat) (x : Context) : (c.setCtx n x).eccG = c.eccG := by
  unfold Core.setCtx; split <;> rfl
@[simp] theorem Core.setCtx_collSeq (c : Core) (n : Nat) (x : Context) : (c.setCtx n x).collSeq = c.collSeq := by
  unfold Core.setCtx; split <;> rfl
@[simp] theorem Core.setCtx_rooted (c : Core) (n : Nat) (x : Context) : (c.setCtx n x).rooted = c.rooted := by
  unfold Core.setCtx; split <;> rfl
@[simp] theorem Core.setCtx_stopped (c : Core) (n : Nat) (x : Context) : (c.setCtx n x).stopped = c.stopped := by
  unfold Core.setCtx; split <;> rfl
@[simp] theorem Core.setCtx_wrote (c : Core) (n : Nat) (x : Context) : (c.setCtx n x).wrote = c.wrote := by
  unfold Core.setCtx; split <;> rfl
@[simp] theorem Core.setCtx_trapped (c : Core) (n : Nat) (x : Context) : (c.setCtx n x).trapped = c.trapped := by
  unfold Core.setCtx; split <;> rfl
@[simp] theorem Core.setCtx_testAge (c : Core) (n : Nat) (x : Context) : (c.setCtx n x).testAge = c.testAge := by
  unfold Core.setCtx; split <;> rfl
@[simp] theorem Core.setCtx_rentry (c : Core) (n : Nat) (x : Context) : (c.setCtx n x).rentry = c.rentry := by
  unfold Core.setCtx; split <;> rfl

@[simp] theorem Core.acc_setAcc (c : Core) (a : Bool) (x : Acc) : (c.setAcc a x).acc a = x := by
  cases a <;> rfl
@[simp] theorem Core.acc_setAcc_not (c : Core) (a : Bool) (x : Acc) : (c.setAcc a x).acc (!a) = c.acc (!a) := by
  cases a <;> rfl
theorem Core.slot_setSlot (c : Core) {o : Nat} (x : Slot) (h : o < 16) : (c.setSlot o x).slot o = x := by
  simp [Core.slot, Core.setSlot, h]
theorem Core.slot_setSlot_ne (c : Core) {o p : Nat} (x : Slot) (h : p ≠ o) : (c.setSlot o x).slot p = c.slot p := by
  unfold Core.slot Core.setSlot
  split
  · split <;> simp_all [Ne.symm h]
  · rfl
theorem Core.window_setWindow (c : Core) {w : Nat} (x : Option Window) (h : w < 8) : (c.setWindow w x).window w = x := by
  simp [Core.window, Core.setWindow, h]
theorem Core.window_setWindow_ne (c : Core) {w v : Nat} (x : Option Window) (h : v ≠ w) :
    (c.setWindow w x).window v = c.window v := by
  unfold Core.window Core.setWindow
  split
  · split <;> simp_all [Ne.symm h]
  · rfl

@[simp] theorem Regs.getV_setV (r : Regs) (i : VReg) (v : VR) : (r.setV i v).getV i = v := by simp [Regs.getV, Regs.setV]
theorem Regs.getV_setV_ne (r : Regs) {i j : VReg} (v : VR) (h : j ≠ i) : (r.setV i v).getV j = r.getV j := by
  have : i.toNat ≠ j.toNat := fun e => h (BitVec.eq_of_toNat_eq e.symm)
  simp [Regs.getV, Regs.setV, this]
@[simp] theorem Regs.getM_setM (r : Regs) (i : MReg) (v : Word) : (r.setM i v).getM i = v := by simp [Regs.getM, Regs.setM]
@[simp] theorem Regs.getV_orFlags (r : Regs) (i : VReg) (f : Word) : (r.orFlags f).getV i = r.getV i := rfl
@[simp] theorem Regs.getM_orFlags (r : Regs) (i : MReg) (f : Word) : (r.orFlags f).getM i = r.getM i := rfl
@[simp] theorem Regs.getS_orFlags (r : Regs) (i : SReg) (f : Word) : (r.orFlags f).getS i = r.getS i := rfl
@[simp] theorem Regs.getS_setV (r : Regs) (i : VReg) (j : SReg) (v : VR) : (r.setV i v).getS j = r.getS j := rfl
@[simp] theorem Regs.setV_flags (r : Regs) (i : VReg) (v : VR) : (r.setV i v).flags = r.flags := rfl
@[simp] theorem Regs.orFlags_flags (r : Regs) (f : Word) : (r.orFlags f).flags = r.flags ||| f := rfl

/-- s0 is not written (R160). -/
@[simp] theorem Regs.setS_zero (r : Regs) (v : Word) : r.setS 0#6 v = r := if_pos rfl
/-- s0 reads 0. -/
@[simp] theorem Regs.getS_zero (r : Regs) : r.getS 0#6 = 0 := if_pos rfl

end Sys2Proof.Machine
end

