-- ==== Sys2Proof/Laws/Issue.lean ====
section
/-! SUPPORT. What the issue stage does with an instruction that has nothing in its way: it runs the instruction's own meaning,
and what retirement, a trap and a wait leave. -/

namespace Sys2Proof.Machine
open Sys2Proof

theorem Core.ctx_setCtx_self (c : Core) (n : Nat) (x : Context) (h : n < 11) : (c.setCtx n x).ctx n = x := by
  simp [Core.ctx, Core.setCtx, h]

theorem Core.setCtx_setCtx (c : Core) (n : Nat) (x y : Context) : (c.setCtx n x).setCtx n y = c.setCtx n y := by
  unfold Core.setCtx; split <;> simp

/-- A live context has a number below 11. -/
theorem Core.ctx_lt_of_live (c : Core) (n : Nat) (h : (c.ctx n).st.live = true) : n < 11 := by
  unfold Core.ctx at h
  split at h
  · assumption
  · simp [Context.reset, CtxSt.live] at h

theorem Quiet.lt {s : State} {b : Binding} (h : Quiet s b) : s.cur.ctx < 11 := Core.ctx_lt_of_live _ _ h.2.2.2.1

/-- The issue of an instruction that passes every check and whose predicate is true runs its own meaning. -/
theorem issue_clear {s : State} {b : Binding} {i : Instr} (h : Clear s b i) (own : Env → Core → Res) :
    issue i own s = .next ((own (s.envHere b) s.here).post (s.put (own (s.envHere b) s.here).core)) := by
  obtain ⟨⟨⟨hb, hp, hq, hl, hs, _, heS, heV, _⟩, hr, ht⟩, hrun⟩ := h
  have e1 : (s.envHere b).ctx s.here = s.ctxHere := rfl
  have hecc : s.here.eccRead s.cur.ctx i.use = false := by simp [Core.eccRead, heS, heV]
  have hf : front i own (s.envHere b) s.here = own (s.envHere b) s.here := by
    have hset : s.here.setCtx s.cur.ctx s.ctxHere = s.here := by
      unfold Core.setCtx
      split
      · next hn => simp [State.ctxHere, Core.ctx, hn]
      · rfl
    unfold front
    simp only [e1, hl]
    have e2 : (s.envHere b).who = s.cur := rfl
    have e3 : (s.envHere b).b = b := rfl
    simp only [e2, e3, hecc, sigTrap, sigDisarm, hs, hr, ht, hset]
    have : runs s.ctxHere.regs i.pred = true := hrun
    simp [this]
  unfold issue runCtx
  have hb' : (s.core s.cur.dev s.cur.core).bound = some b := hb
  simp only [hb', hp]
  have : front i own (s.env s.cur b) (s.core s.cur.dev s.cur.core) = own (s.envHere b) s.here := hf
  rw [this]
  rfl

/-- A core that holds no armed injection and no injected register error. -/
abbrev Core.NoEcc (c : Core) : Prop := c.eccArm = none ∧ c.eccS = [] ∧ c.eccV = []

theorem Core.eccWrites_noEcc {c : Core} (h : c.NoEcc) (n : Nat) (u : RegUse) : c.eccWrites n u = c := by
  obtain ⟨h1, h2, h3⟩ := h
  unfold Core.eccWrites
  simp only [h1, h2, h3, List.filter_nil]
  cases c; simp_all

/-- Retirement in an unpaired launch with no signature armed and no injected error about. -/
theorem retireAt_quiet {e : Env} {c : Core} (i : Instr) (next : Word) (hq : e.b.pair = false) (he : c.NoEcc)
    (hs : (e.ctx c).sig = none) :
    retireAt e i next c = c.setCtx e.who.ctx ((e.ctx c).ran (e.regs c) next) := by
  unfold retireAt
  have hf : ∀ ds, (e.ctx c).feed e.b ds = e.ctx c := by intro ds; simp [Context.feed, hq]
  simp only [hf, ite_self, Core.eccWrites_noEcc he, hs, sigNext, Option.map_none]
  congr 1
  simp [Context.ran, Env.regs, hs]

/-- Not running under its predicate makes no difference to a retirement that feeds nothing and meets no injected error. -/
theorem retireAt_off {e : Env} {c : Core} (i : Instr) (next : Word) (hq : e.b.pair = false) (he : c.NoEcc) :
    retireAt e i next c false = retireAt e i next c := by
  unfold retireAt
  have hf : ∀ ds, (e.ctx c).feed e.b ds = e.ctx c := by intro ds; simp [Context.feed, hq]
  simp only [hf, ite_self, Core.eccWrites_noEcc he]

theorem done_off {e : Env} {c : Core} (i : Instr) (hq : e.b.pair = false) (he : c.NoEcc) : done e i c false = done e i c := by
  unfold done retire; rw [retireAt_off i _ hq he]

theorem Quiet.noEcc {s : State} {b : Binding} (h : Quiet s b) : s.here.NoEcc := ⟨h.2.2.2.2.2.1, h.2.2.2.2.2.2.1, h.2.2.2.2.2.2.2.1⟩

theorem Clear.quiet {s : State} {b : Binding} {i : Instr} (h : Clear s b i) : Quiet s b := h.1.1

/-- An instruction that only computes registers retires with them. -/
theorem compute_clear {s : State} {b : Binding} {i : Instr} (h : Clear s b i) (f : Env → Context → Regs) :
    compute i f s = .next (s.ran b i (f (s.envHere b) s.ctxHere)) := by
  have hq := h.quiet
  have hn := hq.lt
  unfold compute
  rw [issue_clear h]
  simp only [done, id]
  unfold State.ran State.ranTo
  congr 2
  have e2 : (s.envHere b).who = s.cur := rfl
  have e1 : ∀ c, (s.envHere b).ctx c = c.ctx s.cur.ctx := fun _ => rfl
  unfold retire
  rw [retireAt_quiet i _ hq.2.2.1]
  · simp only [Env.modCtx, Env.regs, e1, e2, Core.modCtx, Core.ctx_setCtx_self _ _ _ hn, Core.setCtx_setCtx]
    rfl
  · simp only [Core.NoEcc, Env.modCtx, Core.modCtx, Core.setCtx, e2, hn, dite_true]
    exact hq.noEcc
  · simp only [Env.modCtx, e1, e2, Core.modCtx, Core.ctx_setCtx_self _ _ _ hn]
    exact hq.2.2.2.2.1

/-! ## The shapes of meanings -/

theorem computes_of {i : Instr} {R : State → Regs} {f : Env → Context → Regs} (h : exec i = compute i f)
    (hR : ∀ s b, f (s.envHere b) s.ctxHere = R s) : Computes i R := by
  intro s b hc
  rw [h, compute_clear hc, hR]

theorem writes2_of {i : Instr} {d a : SReg} {x : Src2} {f g : Word → Word → Word} (h : exec i = scalar2 i d a x g)
    (hR : ∀ A B, g A B = f A B) : Writes2 i d a x f := by
  refine computes_of (by rw [h]; rfl) ?_
  intro s b; simp [hR]; rfl

theorem writes1_of {i : Instr} {d a : SReg} {f g : Word → Word} (h : exec i = scalar1 i d a g) (hR : ∀ A, g A = f A) :
    Writes1 i d a f := by
  refine computes_of (by rw [h]; rfl) ?_
  intro s b; simp [hR]; rfl

theorem writesP_of {i : Instr} {d : PReg} {f g : Regs → Bool} (h : exec i = predicate i d g) (hR : ∀ A, g A = f A) :
    WritesP i d f := by
  refine computes_of (by rw [h]; rfl) ?_
  intro s b; simp [hR]; rfl

theorem NoEcc.setCtx {c : Core} (h : c.NoEcc) (n : Nat) (x : Context) : (c.setCtx n x).NoEcc := by
  unfold Core.setCtx; split <;> exact h

/-- Retirement to the sequential successor, of a core that has no injected error and whose context has kept its pc and has no
armed signature. -/
theorem done_quiet {s : State} {b : Binding} {i : Instr} {c : Core} (hq : Quiet s b) (he : c.NoEcc)
    (hs : (c.ctx s.cur.ctx).sig = none) (hp : (c.ctx s.cur.ctx).pc = s.ctxHere.pc) :
    done (s.envHere b) i c = ⟨c.setCtx s.cur.ctx ((c.ctx s.cur.ctx).ran (c.ctx s.cur.ctx).regs (s.succHere b i)), id⟩ := by
  unfold done retire
  rw [retireAt_quiet (e := s.envHere b) i _ hq.2.2.1 he hs]
  have e : ((s.envHere b).ctx c).pc = s.ctxHere.pc := hp
  rw [e]
  rfl

/-- An instruction whose own meaning retires with the core c. -/
theorem issue_done {s : State} {b : Binding} {i : Instr} (h : Clear s b i) {own : Env → Core → Res} {c : Core}
    (ho : own (s.envHere b) s.here = done (s.envHere b) i c) (he : c.NoEcc)
    (hs : (c.ctx s.cur.ctx).sig = none) (hp : (c.ctx s.cur.ctx).pc = s.ctxHere.pc) :
    issue i own s = .next (s.ranIn b i c (c.ctx s.cur.ctx).regs) := by
  rw [issue_clear h, ho, done_quiet h.quiet he hs hp]
  rfl

/-- An instruction whose own meaning retires with the core as it is. -/
theorem issue_same {s : State} {b : Binding} {i : Instr} (h : Clear s b i) {own : Env → Core → Res}
    (ho : own (s.envHere b) s.here = done (s.envHere b) i s.here) :
    issue i own s = .next (s.ran b i s.regsHere) :=
  issue_done h ho h.quiet.noEcc h.quiet.2.2.2.2.1 rfl

/-- An instruction whose own meaning retires with the registers R. -/
theorem issue_regs {s : State} {b : Binding} {i : Instr} (h : Clear s b i) {own : Env → Core → Res} {R : Regs}
    (ho : own (s.envHere b) s.here = done (s.envHere b) i (s.here.setCtx s.cur.ctx { s.ctxHere with regs := R })) :
    issue i own s = .next (s.ran b i R) := by
  have hn := h.quiet.lt
  rw [issue_done h ho (NoEcc.setCtx h.quiet.noEcc _ _) (by rw [Core.ctx_setCtx _ _ hn]; exact h.quiet.2.2.2.2.1)
    (by rw [Core.ctx_setCtx _ _ hn])]
  unfold State.ranIn State.ran State.ranTo
  rw [Core.ctx_setCtx _ _ hn, Core.setCtx_setCtx]
  rfl

/-- An instruction whose own meaning traps. -/
theorem issue_trap {s : State} {b : Binding} {i : Instr} (h : Clear s b i) {own : Env → Core → Res} {t : Trap}
    (ho : own (s.envHere b) s.here = trapI (s.envHere b) i s.here t) :
    issue i own s = .next (s.trapHere b i t) := by
  rw [issue_clear h, ho]
  rfl

/-- An instruction whose own meaning waits. -/
theorem issue_wait {s : State} {b : Binding} {i : Instr} (h : Clear s b i) {own : Env → Core → Res} {code no left : Nat}
    {parked poll : Bool} (ho : own (s.envHere b) s.here = waitI (s.envHere b) i s.here code parked poll no left) :
    issue i own s = .next (s.put (s.here.waitsAt s.cur.ctx i code parked poll no left)) := by
  rw [issue_clear h, ho]
  unfold waitI Core.waitsAt
  have e1 : (s.envHere b).ctx s.here = s.here.ctx s.cur.ctx := rfl
  have e2 : (s.envHere b).who = s.cur := rfl
  simp only [e1, e2]
  cases (s.here.ctx s.cur.ctx).wait <;> rfl

/-- A transfer with a valid target. -/
theorem issue_jump {s : State} {b : Binding} {i : Instr} (h : Clear s b i) {own : Env → Core → Res} {t : Word} {f : Regs → Regs}
    (ho : own (s.envHere b) s.here = jump (s.envHere b) i s.here t f) (ht : targetInvalid t = false) :
    issue i own s = .next (s.ranTo (f s.regsHere) t) := by
  have hn := h.quiet.lt
  rw [issue_clear h, ho]
  unfold jump
  simp only [ht, Bool.false_eq_true, if_false]
  have e2 : (s.envHere b).who = s.cur := rfl
  have e1 : ∀ c, (s.envHere b).ctx c = c.ctx s.cur.ctx := fun _ => rfl
  rw [retireAt_quiet i _ h.quiet.2.2.1]
  · simp only [Env.modRegs, Env.modCtx, Env.regs, e1, e2, Core.modCtx, Core.ctx_setCtx _ _ hn, Core.setCtx_setCtx]
    rfl
  · exact NoEcc.setCtx h.quiet.noEcc _ _
  · simp only [Env.modRegs, Env.modCtx, e1, e2, Core.modCtx, Core.ctx_setCtx _ _ hn]
    exact h.quiet.2.2.2.2.1

/-- A transfer with an invalid target. -/
theorem issue_jump_trap {s : State} {b : Binding} {i : Instr} (h : Clear s b i) {own : Env → Core → Res} {t : Word}
    {f : Regs → Regs} (ho : own (s.envHere b) s.here = jump (s.envHere b) i s.here t f) (ht : targetInvalid t = true) :
    issue i own s = .next (s.trapHere b i ⟨Cause.misaligned, t, 0⟩) := by
  rw [issue_clear h, ho]
  unfold jump
  simp only [ht, if_true]
  rfl

/-- A predicated instruction whose predicate is false. -/
theorem issue_off {s : State} {b : Binding} {i : Instr} (h : Passes s b i) (hr : runs s.regsHere i.pred = false)
    (own : Env → Core → Res) : issue i own s = .next (s.ran b i s.regsHere) := by
  obtain ⟨hq, hro, ht⟩ := h
  obtain ⟨hb, hp, hq2, hl, hs, ha, heS, heV, hG⟩ := hq
  have e1 : (s.envHere b).ctx s.here = s.ctxHere := rfl
  have e2 : (s.envHere b).who = s.cur := rfl
  have e3 : (s.envHere b).b = b := rfl
  have hr' : runs s.ctxHere.regs i.pred = false := hr
  have hset : s.here.setCtx s.cur.ctx s.ctxHere = s.here := by
    unfold Core.setCtx
    split
    · next hn => simp [State.ctxHere, Core.ctx, hn]
    · rfl
  have hf : front i own (s.envHere b) s.here = done (s.envHere b) i s.here := by
    unfold front
    simp only [e1, hl, e2, e3, hr', sigTrap, sigDisarm, hs, hro, ht, hset]
    simpa using done_off (e := s.envHere b) i hq2 ⟨ha, heS, heV⟩
  unfold issue runCtx
  have hb' : (s.core s.cur.dev s.cur.core).bound = some b := hb
  simp only [hb', hp]
  have : front i own (s.env s.cur b) (s.core s.cur.dev s.cur.core) = done (s.envHere b) i s.here := hf
  rw [this, done_quiet ⟨hb, hp, hq2, hl, hs, ha, heS, heV, hG⟩ ⟨ha, heS, heV⟩ hs rfl]
  rfl

end Sys2Proof.Machine
end

