-- ==== Sys2Proof/Laws/Commit.lean ====
section
/-! SUPPORT. What a commit with nothing to wait for comes to, and what finishing a region leaves (R39, R43, R406). -/

namespace Sys2Proof.Machine
open Sys2Proof

/-- A commit with nothing to wait for runs the committing instruction's own effect at once. -/
theorem commit_can {s : State} {b : Binding} (hq : Quiet s b) (h : CanCommit s.ctxHere) (i : Instr) (own : Env → Core → Res)
    (reads : RegUse := {}) :
    commit (s.envHere b) i own s.here reads = own (s.envHere b) s.here := by
  obtain ⟨_, hp0, _, _, _, _, heS, heV, _⟩ := hq
  obtain ⟨h1, h2, h3, h4, h5⟩ := h
  have e1 : (s.envHere b).ctx s.here = s.ctxHere := rfl
  have hp : (s.envHere b).peer = none := by
    show b.peer.map _ = none
    rw [hp0]; rfl
  have hf : feedLines (s.envHere b) s.here = s.here := by unfold feedLines; rw [e1, h4]; rfl
  have hx : s.here.eccCommit s.cur.ctx reads = false := by
    have e4 : (s.here.ctx s.cur.ctx).egress = [] := h4
    simp [Core.eccCommit, Core.eccRead, heS, heV, e4]
  unfold commit
  simp only [e1, h1, h2, h3, h4, h5, pairCheck, hp, hf]
  simp [show s.here.eccCommit (s.envHere b).who.ctx reads = false from hx]

/-- A trap of a context inside a handler's scope comes before the commit. -/
theorem Core.eccLive_none {c : Core} (h : c.eccS = [] ∧ c.eccV = []) (n : Nat) : c.eccLive n = false := by
  unfold Core.eccLive; simp [h.1, h.2]

theorem Core.checkpoint_killWait (c : Core) (n : Nat) : (c.checkpoint n).killWait = c.killWait := by
  unfold Core.checkpoint Core.modCtx Core.setCtx; split <;> rfl

/-- A region that opens with no injected error about and no kill waiting writes its checkpoint. -/
theorem finishRegion_quiet {e : Env} {c : Core} (h : c.eccS = [] ∧ c.eccV = []) (hk : c.killWait = none) (post : State → State) :
    finishRegion e c post = ⟨c.checkpoint e.who.ctx, post⟩ := by
  unfold finishRegion; simp [Core.eccLive_none h, Core.checkpoint_killWait, hk]

theorem Core.checkpoint_ctx (c : Core) {n : Nat} (h : n < 11) :
    (c.checkpoint n).ctx n = { c.ctx n with ckpt := (c.ctx n).snapshot c } := by
  simp [Core.checkpoint, Core.modCtx, h]

theorem Core.checkpoint_ctx_ne (c : Core) {n m : Nat} (h : m ≠ n) : (c.checkpoint n).ctx m = c.ctx m := by
  simp [Core.checkpoint, Core.modCtx, Core.ctx_setCtx_ne _ _ h]

/-- What a counted commit leaves alone: everything but the queues' marks and the counts. -/
theorem countCommit_ctx (e : Env) (w : Word) (c : Core) (n : Nat) : (countCommit e w c).ctx n = c.ctx n := by
  unfold countCommit; split <;> rfl

@[simp] theorem countCommit_ls (e : Env) (w : Word) (c : Core) : (countCommit e w c).ls = c.ls := by
  unfold countCommit; split <;> rfl
@[simp] theorem countCommit_sems (e : Env) (w : Word) (c : Core) : (countCommit e w c).sems = c.sems := by
  unfold countCommit; split <;> rfl
@[simp] theorem countCommit_arrivals (e : Env) (w : Word) (c : Core) : (countCommit e w c).arrivals = c.arrivals := by
  unfold countCommit; split <;> rfl
@[simp] theorem countCommit_plan (e : Env) (w : Word) (c : Core) : (countCommit e w c).plan = c.plan := by
  unfold countCommit; split <;> rfl
@[simp] theorem countCommit_eccS (e : Env) (w : Word) (c : Core) : (countCommit e w c).eccS = c.eccS := by
  unfold countCommit; split <;> rfl
@[simp] theorem countCommit_eccV (e : Env) (w : Word) (c : Core) : (countCommit e w c).eccV = c.eccV := by
  unfold countCommit; split <;> rfl
@[simp] theorem countCommit_eccArm (e : Env) (w : Word) (c : Core) : (countCommit e w c).eccArm = c.eccArm := by
  unfold countCommit; split <;> rfl

theorem countCommit_noEcc {c : Core} (h : c.NoEcc) (e : Env) (w : Word) : (countCommit e w c).NoEcc := by
  simpa [Core.NoEcc] using h

@[simp] theorem Core.setCtx_eccS (c : Core) (n : Nat) (x : Context) : (c.setCtx n x).eccS = c.eccS := by
  unfold Core.setCtx; split <;> rfl
@[simp] theorem Core.setCtx_eccV (c : Core) (n : Nat) (x : Context) : (c.setCtx n x).eccV = c.eccV := by
  unfold Core.setCtx; split <;> rfl

/-- The region that opens leaves the context's registers, pc and state (R43, R206). -/
theorem Context.open_regs (x : Context) (w : Word) (d m : Bool) (sl : Word) (vl : BitVec 32) :
    (x.open_ w d m sl vl).regs = x.regs ∧ (x.open_ w d m sl vl).pc = x.pc ∧ (x.open_ w d m sl vl).st = x.st
      ∧ (x.open_ w d m sl vl).region = ⟨w, d, m, vl, sl, 0, 0, false, false⟩ := ⟨rfl, rfl, rfl, rfl⟩

/-- Retirement with the core c, whose context has kept its pc. -/
theorem retire_quiet {s : State} {b : Binding} {i : Instr} {c : Core} (hq : Quiet s b) (he : c.NoEcc)
    (hs : (c.ctx s.cur.ctx).sig = none) (hp : (c.ctx s.cur.ctx).pc = s.ctxHere.pc) :
    retire (s.envHere b) i c = c.setCtx s.cur.ctx ((c.ctx s.cur.ctx).ran (c.ctx s.cur.ctx).regs (s.succHere b i)) :=
  congrArg Res.core (done_quiet hq he hs hp)

end Sys2Proof.Machine
end

