-- ==== Sys2Proof/Laws/Memory.lean ====
section
/-! SUPPORT. Every operation on memory keeps the canonical form: rising addresses, no listed zero. -/

namespace Sys2Proof.Machine
open Sys2Proof

theorem Memory.wfFrom_mono {lo lo' : Nat} (h : lo' ≤ lo) : {m : List Host.Cell} → Memory.wfFrom lo m = true → Memory.wfFrom lo' m = true
  | [], _ => rfl
  | (k, v) :: t, hm => by
    simp only [Memory.wfFrom, Bool.and_eq_true, decide_eq_true_eq] at hm ⊢
    exact ⟨⟨by omega, hm.1.2⟩, hm.2⟩

theorem cellWrite_wfFrom (b : Byte) : {m : List Host.Cell} → {lo a : Nat} → lo ≤ a → Memory.wfFrom lo m = true →
    Memory.wfFrom lo (cellWrite m a b) = true
  | [], lo, a, h, _ => by
    simp only [cellWrite]
    split
    · rfl
    · next hb => simp [Memory.wfFrom, h]; exact hb
  | (k, v) :: t, lo, a, h, hm => by
    have hm' := hm
    simp only [Memory.wfFrom, Bool.and_eq_true, decide_eq_true_eq] at hm
    obtain ⟨⟨h1, h2⟩, h3⟩ := hm
    simp only [cellWrite]
    split
    · split
      · exact hm'
      · next ha hb =>
        have : Memory.wfFrom (a + 1) ((k, v) :: t) = true := by
          simp only [Memory.wfFrom, Bool.and_eq_true, decide_eq_true_eq]; exact ⟨⟨ha, h2⟩, h3⟩
        simp only [Memory.wfFrom, Bool.and_eq_true, decide_eq_true_eq] at this ⊢
        exact ⟨⟨h, by simpa using hb⟩, this⟩
    · split
      · next e =>
        subst e
        split
        · exact Memory.wfFrom_mono (by omega) h3
        · next hb =>
          simp only [Memory.wfFrom, Bool.and_eq_true, decide_eq_true_eq]
          exact ⟨⟨h, by simpa using hb⟩, h3⟩
      · next e1 e2 =>
        simp only [Memory.wfFrom, Bool.and_eq_true, decide_eq_true_eq]
        exact ⟨⟨h1, h2⟩, cellWrite_wfFrom b (by omega) h3⟩

/-- Writing a byte keeps the canonical form. -/
theorem cellWrite_wf {m : List Host.Cell} (h : Memory.wf m = true) (a : Nat) (b : Byte) : Memory.wf (cellWrite m a b) = true :=
  cellWrite_wfFrom b (Nat.zero_le a) h

/-- Writing bytes keeps the canonical form: every store to home memory and to local store is one. -/
theorem cellsWrite_wf {bs : List Byte} {m : List Host.Cell} {a : Nat} (h : Memory.wf m = true) :
    Memory.wf (cellsWrite m a bs) = true := by
  induction bs generalizing m a with
  | nil => exact h
  | cons b bs ih => exact ih (cellWrite_wf h a b)

theorem Store.write_wf {l : Store} (h : Memory.wf l.bytes = true) (a : Nat) (bs : List Byte) : Memory.wf (l.write a bs).bytes = true :=
  cellsWrite_wf h

theorem Store.writeFull_wf {l : Store} (h : Memory.wf l.bytes = true) (a : Nat) (bs : List Byte) :
    Memory.wf (l.writeFull a bs).bytes = true := cellsWrite_wf h

/-- The empty memory of reset has the canonical form. -/
theorem reset_memory_wf : Memory.wf (State.reset.device 0).mem = true := rfl

theorem reset_store_wf : Memory.wf Core.reset.ls.bytes = true := rfl

/-- Memories in canonical form that read alike from a bound on are equal. -/
theorem cellRead_below {m : List Host.Cell} {lo : Nat} (h : Memory.wfFrom lo m = true) : {a : Nat} → a < lo → cellRead m a = 0 := by
  intro a ha
  induction m generalizing lo with
  | nil => rfl
  | cons p t ih =>
    obtain ⟨k, v⟩ := p
    simp only [Memory.wfFrom, Bool.and_eq_true, decide_eq_true_eq] at h
    have : k ≠ a := by omega
    simp only [cellRead, this, if_false]
    exact ih h.2 (by omega)

end Sys2Proof.Machine
end

