-- ==== Sys2Proof/Tests/Slice0.lean ====
section
/-! SUPPORT. The model's own tests: the checks of WellFormed, words written out from the manual's encodings and worked values,
and for every statement a state and operands that meet its hypotheses. -/

namespace Sys2Proof.Tests
open Sys2Proof Sys2Proof.Machine

set_option Elab.async false

/-! ## WellFormed: each check refuses -/

def pt : Pred := Pred.always
def noMask : VMask := ⟨none, false⟩

theorem test_wf_scalar : [Instr.bfx pt true 1 2 0 0, .bfx pt true 1 2 60 5, .bfi pt 1 2 0 0, .bfi pt 1 2 1 64,
    .cmp pt .eq true 1 2 (.reg 3), .cmp pt .ne true 1 2 (.reg 3), .ld pt .d true 1 2 (.imm 0),
    .mfs pt 1 0x006, .mfs pt 1 0x140, .mts pt 1 0x007, .ill 0x3FC, .ill (1 <<< 64 ||| 0x3FD), .ill 0x01].all
      (fun i => !i.wf) = true := by decide +kernel

theorem test_wf_memory : [Instr.ldv pt 15 none 1 2 (.imm 0), .ldv pt 0 (some 1) 1 2 (.imm 0), .stv pt 15 none 1 2 (.imm 0),
    .ldvx pt 1 none 1 2 3 (.imm 0), .stvx pt 10 none 1 2 3 (.imm 0), .ldf pt false (.s .d true 1) 2 (.imm 0),
    .ldf pt false (.v 15 1) 2 (.imm 0), .join pt .fill .w8 none 1 2 (.imm 0), .join pt .or .w8 none 1 2 (.imm 0),
    .join pt .cnt .w32 (some 1) 1 2 (.imm 0), .joinv pt (.elems .kmax .w32 none) 1 2 (.imm 0), .joinv pt (.ver 3) 1 2 (.imm 0),
    .tread pt .system .w8 none 0 1 2 (.imm 0), .tread pt .max .w32 none 3 61 2 (.imm 0), .tread pt .cnt .w32 (some 0) 0 1 2 (.imm 0),
    .xread pt .ver .w8 1 2 (.imm 0), .xreadv pt (.elems .cnt .w8) 1 2 (.imm 0), .xreadv pt (.ver 3) 1 2 (.imm 0),
    .mstore pt 5 false .sr 2 0 Sync.none, .mstore pt 14 false .rne 2 0 Sync.none].all (fun i => !i.wf) = true := by decide +kernel

theorem test_wf_vector : [Instr.vadd pt 5 noMask 1 2 3, .vadd pt 7 ⟨none, true⟩ 1 2 3, .vfma pt 10 false false noMask 1 2 3 4,
    .vmin pt 10 false noMask 1 2 3, .vmin pt 7 true noMask 1 2 3, .vabs pt 7 true noMask 1 2, .vabs pt 2 false noMask 1 2,
    .vneg pt 6 false noMask 1 2, .vsqrt pt 5 noMask 1 2, .vrcp pt 14 noMask 1 2, .vsfu pt 3 .exp2 noMask 1 2,
    .viadd pt 7 false false noMask 1 2 3, .visub pt 5 false true noMask 1 2 3, .vimul pt 5 true true false noMask 1 2 3,
    .vand pt 15 noMask 1 2 3, .vor pt 0 ⟨some 1, false⟩ 1 2 3, .vshl pt 7 noMask 1 2 (.imm 1), .vcmp pt 12 .lt false noMask 1 2 3,
    .vsel pt 0 1 2 3 4, .vperm pt 12 noMask 1 2 3 4, .vshuf pt 12 noMask 1 2 .rev, .vbcast pt 0 false noMask 1 (.reg 2),
    .vbcast pt 1 false noMask 1 (.lit 256), .vext pt 5 false 1 2 (.imm 8), .vins pt 15 1 2 (.reg 3),
    .vred pt 7 .sum true false none 1 2, .vscan pt 7 .sum true false none 1 2, .vcvt pt 12 7 false false 0 .rne noMask 1 2,
    .vcvt pt 7 7 true false 0 .rne noMask 1 2, .vcvt pt 8 7 false false 2 .rne noMask 1 2, .vqblk pt 5 false 0 .rne 1 2 3,
    .vdqblk pt 8 4 1 2 3, .vkey pt 5 noMask 1 2, .vmov pt 15 noMask 1 2, .vzero pt 15 1, .viota pt 7 false noMask 1 2,
    .mlogic pt (.set 15 1)].all (fun i => !i.wf) = true := by decide +kernel

theorem test_wf_engine : [Instr.mread pt 6 false .rne 0 1 2, .mread pt 7 false .rne 1 1 2, .mwrite pt 6 false 1 0 Sync.none,
    .mzero pt 8 false Sync.none, .cpyPutj pt 1 2 3 4 (some 63) Sync.none, .coll pt 1 0x02 0 1 2 3 4 none Sync.none,
    .coll pt 1 0x51 7 1 2 3 4 none Sync.none, .coll pt 1 0x01 7 1 2 3 4 (some 63) Sync.none, .ewait pt false false false,
    .linkDown 0 0, .islset 0 0].all (fun i => !i.wf) = true := by decide +kernel

/-! ## Decoding: words written out from the encodings (R157-R278) -/

theorem test_decode_scalar : decodeTableWord 64 0x0000000001440C01 = some (.add pt 3 4 (.reg 5))
    ∧ decodeTableWord 64 0xFFFFF801B0040C01 = some (.add ⟨3, true⟩ 3 4 (.imm 0xFFFFF8))
    ∧ decodeTableWord 64 0x0000000402CA240D = some (.mulh pt true 9 10 (.reg 11))
    ∧ decodeTableWord 64 0x000064150004086D = some (.cmp pt .lt true 2 4 (.imm 100))
    ∧ decodeTableWord 64 0x0003080500061455 = some (.bfx pt true 5 6 8 12) := by decide +kernel

theorem test_decode_control : decodeTableWord 64 0xFFFFF00000000101 = some (.br pt (.imm 0xFFFFF0))
    ∧ decodeTableWord 64 0x11D = some (.nop pt none) ∧ decodeTableWord 64 0x119 = some .endK
    ∧ decodeTableWord 64 0x129 = some .tret ∧ decodeTableWord 64 0xFFFFFD0000000515 = some (.loop pt 1 (.imm 0xFFFFFD))
    ∧ decodeTableWord 64 0x0000000200000141 = some (.sync 2) ∧ decodeTableWord 64 0x139 = some (.arrive 0)
    ∧ decodeTableWord 64 0x13D = some (.waitb 0) ∧ decodeTableWord 64 0x0000060000061545 = some (.voteP .max 5 6 0) := by decide +kernel

theorem test_decode_region :
    decodeTableWord 128 (0x41E * 2 ^ 64 + 0x000000030000054B) = some (.region true false 3 0x20F) := by decide +kernel

theorem test_decode_memory : decodeTableWord 64 0x0000400200041D81 = some (.ld pt .w false 7 4 (.imm 0x40))
    ∧ decodeTableWord 64 0x00000001010001AD = some (.push pt true 0 0 4 (.imm 0))
    ∧ decodeTableWord 64 0x000000740000059D = some (.ldf pt false (.v 7 1) 0 (.imm 0))
    ∧ decodeTableWord 64 0x0100000904800199 = some (.stvx pt 9 none 0 0 18 (.imm 0x10000))
    ∧ decodeTableWord 64 0x00000003000001B1 = some (.fence pt 3)
    ∧ decodeTableWord 64 0x00000830008615B5 = some (.join pt .max .w32 (some 2) 5 6 (.imm 8))
    ∧ decodeTableWord 64 0x00000005014405B9 = some (.joinv pt (.fill 5) 1 4 (.imm 0))
    ∧ decodeTableWord 64 0x00000006018109B9 = some (.joinv pt (.ver 6) 2 1 (.imm 0))
    ∧ decodeTableWord 64 0x00000045000421BD = some (.tread pt .fill .w8 none 1 8 4 (.imm 0))
    ∧ decodeTableWord 64 0x00000006014101C5 = some (.xreadv pt (.ver 5) 0 1 (.imm 0))
    ∧ decodeTableWord 64 0x00000000038901C9 = some (.frz pt 9 14 (.imm 0)) := by decide +kernel

theorem test_decode_vector : decodeTableWord 64 0x0000000701440E01 = some (.vadd pt 7 noMask 3 4 5)
    ∧ decodeTableWord 64 0x0002001700C2060D = some (.vfma pt 7 true false noMask 1 2 3 4)
    ∧ decodeTableWord 64 0x00200B0302420A15 = some (.vmax pt 3 false ⟨some 3, true⟩ 2 2 9)
    ∧ decodeTableWord 64 0x01C0500800071A79 = some (.vcvt pt 8 7 false false 0 .sr noMask 6 7)
    ∧ decodeTableWord 64 0x01C6000C000B2A7D = some (.vqblk pt 7 false 0 .rne 10 11 12) := by decide +kernel

theorem test_decode_engines : decodeTableWord 128 0x0000000B00400317 = some (.mma pt .bf16 true false 0 1 Sync.none)
    ∧ decodeTableWord 64 0x31B = some (.mswap pt false) ∧ decodeTableWord 64 0x0000000700040B1F = some (.mread pt 7 false .rne 0 2 4)
    ∧ decodeTableWord 128 0x0000000700000327 = some (.mzero pt 7 false Sync.none)
    ∧ decodeTableWord 128 (0x0000600102000101 * 2 ^ 64 + 0x0000000000C20317)
      = some (.mma pt .fp4 false false 2 3 ⟨some (1, 1), some (2, 1), none⟩)
    ∧ decodeTableWord 128 (0x0003800000000000 * 2 ^ 64 + 0x0007020101851333)
      = some (.coll pt 1 0x02 7 4 5 6 7 none Sync.none)
    ∧ decodeTableWord 128 0x000000000081032B = some (.cpyFetch pt 0 1 2 0 Sync.none)
    ∧ decodeTableWord 64 0x000000020000034B = some (.ewait pt false true false) := by decide +kernel

theorem test_decode_system : decodeTableWord 64 0x00000C0000001781 = some (.mfs pt 5 0x00C)
    ∧ decodeTableWord 64 0x0000280000040385 = some (.mts pt 4 0x028) ∧ decodeTableWord 64 0x3FD = some (.ill 0x3FD)
    ∧ decodeTableWord 64 0 = none := by decide +kernel

/-! ## Small states -/

/-- Core 0 of device 0, which a placed program has bound; its control context stands at 0x1000. -/
def st0 : State := (State.reset.placed []).modDev 0 (fun x => { x with bar0 := { x.bar0 with step := 7 } })

def b0 : Binding := placedBinding

def onCore (f : Core → Core) : State := st0.modCore1 0 0 f

def onCtx (f : Context → Context) : State := onCore (fun c => c.modCtx 0 f)

/-- With some scalar registers set. -/
def withS (l : List (SReg × Word)) : State := onCtx (fun x => { x with regs := l.foldl (fun r p => r.setS p.1 p.2) x.regs })

/-- With some vector registers set. -/
def withV (l : List (VReg × VR)) : State := onCtx (fun x => { x with regs := l.foldl (fun r p => r.setV p.1 p.2) x.regs })

/-- Whether an instruction comes to a next state that passes a check. -/
def after (i : Instr) (s : State) (f : State → Bool) : Bool :=
  match exec i s with
  | .next u => f u
  | .fault _ | .refused _ => false

def who0 : Who := ⟨0, 0, 0⟩

def never : Pred := ⟨0, true⟩

/-! ## Scalar instructions and control (R181-R206) -/

theorem wit_scalar_arithmetic : Clear (withS [(2, 7)]) b0 (.sub pt 1 2 (.imm 0xFFFFFF))
    ∧ after (.sub pt 1 2 (.imm 0xFFFFFF)) (withS [(2, 7)]) (fun u => u.regsHere.getS 1 == 8 && u.ctxHere.pc == 0x1008) = true := by
  decide +kernel

theorem wit_scalar_div : after (.div pt false 1 2 (.imm 0xFFFFFF)) (withS [(2, 0x8000000000000000)])
    (fun u => u.regsHere.getS 1 == 0x8000000000000000) = true
    ∧ after (.rem pt false 1 2 (.reg 0)) (withS [(2, 9)]) (fun u => u.regsHere.getS 1 == 9) = true := by decide +kernel

theorem wit_bit_fields : after (.bfx pt false 1 2 60 4) (withS [(2, 0x8000000000000000)])
    (fun u => u.regsHere.getS 1 == 0xFFFFFFFFFFFFFFF8) = true
    ∧ after (.bfi pt 1 2 56 8) (withS [(1, 0x11), (2, 0x1FF)]) (fun u => u.regsHere.getS 1 == 0xFF00000000000011) = true
    ∧ after (.clz pt 1 2) (withS [(2, 1)]) (fun u => u.regsHere.getS 1 == 63) = true
    ∧ after (.ctz pt 1 0) st0 (fun u => u.regsHere.getS 1 == 64) = true := by decide +kernel

theorem wit_constants : after (.lih pt 1 0x01234567) (withS [(1, 0x89ABCDEF)]) (fun u => u.regsHere.getS 1 == 0x0123456789ABCDEF) = true
    ∧ after (.min pt true 1 2 (.imm 0xFFFFFF)) (withS [(2, 5)]) (fun u => u.regsHere.getS 1 == 5) = true
    ∧ after (.lea pt 1 (.scaled 2 3 3)) (withS [(2, 16), (3, 5)]) (fun u => u.regsHere.getS 1 == 56) = true := by decide +kernel

theorem wit_predicates : after (.cmp pt .lt false 2 1 (.imm 0)) (withS [(1, 0xFFFFFFFFFFFFFFFF)]) (fun u => u.regsHere.getP 2) = true
    ∧ after (.cmp pt .lt true 2 1 (.imm 0)) (withS [(1, 0xFFFFFFFFFFFFFFFF)]) (fun u => !u.regsHere.getP 2) = true := by decide +kernel

theorem wit_transfers : Clear st0 b0 (.br pt (.imm 4)) ∧ targetInvalid (st0.ctxHere.pc + dispVal (.imm 4) <<< 2) = false
    ∧ targetInvalid (st0.ctxHere.pc + dispVal (.imm 6) <<< 2) = true
    ∧ after (.call pt 1 (.imm 4)) st0 (fun u => u.ctxHere.pc == 0x1010 && u.regsHere.getS 1 == 0x1008) = true
    ∧ after (.loop pt 1 (.imm 4)) (withS [(1, 1)]) (fun u => u.ctxHere.pc == 0x1008 && u.regsHere.getS 1 == 0) = true
    ∧ after (.loop pt 1 (.imm 4)) (withS [(1, 2)]) (fun u => u.ctxHere.pc == 0x1010 && u.regsHere.getS 1 == 1) = true := by
  decide +kernel

/-- With a handler at 0x2000. -/
def handled : State := onCtx (fun x => { x with trap := { x.trap with tvec := 0x2000 } })

theorem wit_transfer_traps : Clear handled b0 (.br pt (.imm 6))
    ∧ after (.br pt (.imm 6)) handled (fun u => u.ctxHere.pc == 0x2000 && u.ctxHere.trap.tpc == 0x1000
      && u.ctxHere.trap.taddr == 0x1018 && u.ctxHere.trap.tcause == 0x8000000000000005) = true := by decide +kernel

theorem wit_signature : Clear st0 b0 (.bbsig 5) ∧ after (.bbsig 5) st0 (fun u => u.ctxHere.sig.isSome) = true := by decide +kernel

theorem wit_predicated_off : Passes st0 b0 (.trap never 1) ∧ runs st0.regsHere never = false
    ∧ after (.trap never 1) st0 (fun u => u.ctxHere.pc == 0x1008) = true := by decide +kernel

theorem wit_trap_entry : (handled.here.ctx 0).trap.act = false ∧ (handled.here.ctx 0).trap.tvec ≠ 0
    ∧ targetInvalid (handled.here.ctx 0).trap.tvec = false
    ∧ after (.trap pt 7) handled (fun u => u.ctxHere.pc == 0x2000 && u.ctxHere.trap.tpc == 0x1008 && u.ctxHere.trap.taux == 7
      && u.ctxHere.trap.tcause == 0x800000000000000D) = true := by decide +kernel

theorem wit_trap_without_handler : (st0.here.ctx 0).trap.tvec = 0 := by decide +kernel

/-- In a handler entered from 0x1000. -/
def inHandler (tpc : Word) : State := onCtx (fun x => { x with trap := { x.trap with tvec := 0x2000, tcause := 1 <<< 63, tpc := tpc } })

theorem wit_software_traps : Clear st0 b0 (.bkpt pt 3) ∧ Clear st0 b0 (.ill 0x3FD) ∧ Clear st0 b0 .tret
    ∧ Clear (inHandler 0x1000) b0 .tret ∧ (inHandler 0x1000).ctxHere.trap.act = true
    ∧ targetInvalid (inHandler 0x1001).ctxHere.trap.tpc = true ∧ (inHandler 0x1000).ctxHere.delivered = none
    ∧ after .tret (inHandler 0x3000) (fun u => u.ctxHere.pc == 0x3000 && u.ctxHere.trap.tcause == 0) = true := by decide +kernel

theorem wit_helper_start : Clear st0 b0 (.hstart pt 1 (.imm 4)) ∧ CanCommit st0.ctxHere ∧ (st0.here.ctx 1).st = .idle
    ∧ (st0.here.ctx 10).st = .idle
    ∧ after (.hstart pt 10 (.imm 4)) (withS [(7, 9), (8, 9)]) (fun u => (u.here.ctx 10).pc == 0x1010
      && (u.here.ctx 10).regs.getS 7 == 9 && (u.here.ctx 10).regs.getS 8 == 0 && u.here.commits == 1) = true := by decide +kernel

/-- The state with helper 1 live, and its turn. -/
def helperTurn : State := { onCore (fun c => c.modCtx 1 (fun _ => { Context.reset .ready with pc := 0x1010 })) with cur := ⟨0, 0, 1⟩ }

/-- The state with helper 1 exited, with NV in its FLAGS. -/
def helperGone : State := onCore (fun c => c.modCtx 1 (fun x => { x with st := .exited, regs := { x.regs with flags := 1 } }))

theorem wit_helper_exit : Clear helperTurn b0 .hexit ∧ CanCommit helperTurn.ctxHere ∧ helperTurn.cur.ctx ≠ 0
    ∧ after .hexit helperTurn (fun u => u.ctxHere.st == .exited) = true
    ∧ Clear helperGone b0 (.hwait pt 1) ∧ (helperGone.here.ctx 1).st = .exited ∧ (helperGone.here.ctx 1).out = []
    ∧ (helperGone.here.ctx 1).deferred = none
    ∧ after (.hwait pt 1) helperGone (fun u => (u.here.ctx 1).st == .idle && u.regsHere.flags == 1 && u.ctxHere.pc == 0x1008) = true := by
  decide +kernel

/-- Whether the next state has entered the handler at 0x2000 with that cause and detail. -/
def inTrap (cause aux : Word) (u : State) : Bool :=
  u.ctxHere.pc == 0x2000 && u.ctxHere.trap.tcause == 0x8000000000000000 + cause && u.ctxHere.trap.taux == aux

/-- The state with a handler at 0x2000. -/
def handling (s : State) : State := s.modCtx s.cur (fun x => { x with trap := { x.trap with tvec := 0x2000 } })

/-- Helper 1 in a state, with some posts and a deferred fault; the control context's turn. -/
def helper1 (st : CtxSt) (out : List Out) (f : Option Deferred) : State :=
  handling (onCore (fun c => c.modCtx 1 (fun x => { x with st := st, out := out, deferred := f })))

def parkedAt (code : Nat) (u : State) : Bool :=
  (u.ctxHere.st == .parked || u.ctxHere.st == .stalled) && u.ctxHere.pc == 0x1000 && u.ctxHere.wait.any (fun w => w.code == code)

theorem wit_helper_traps : Clear (helper1 .ready [] none) b0 (.hstart pt 1 (.imm 4)) ∧ CanCommit (helper1 .ready [] none).ctxHere
    ∧ after (.hstart pt 1 (.imm 4)) (helper1 .ready [] none) (inTrap Cause.helperBusy 1) = true
    ∧ after (.hstart pt 11 (.imm 4)) (helper1 .idle [] none) (inTrap Cause.resBounds (4 + 2 ^ 8 * 11)) = true
    ∧ after (.hstart pt 0 (.imm 4)) (helper1 .idle [] none) (inTrap Cause.resBounds 4) = true
    ∧ after (.hstart pt 1 (.imm 6)) (helper1 .idle [] none) (inTrap Cause.misaligned 0) = true := by decide +kernel

theorem wit_helper_wait : Clear (helper1 .ready [] none) b0 (.hwait pt 1)
    ∧ after (.hwait pt 1) (helper1 .ready [] none) (parkedAt 5) = true
    ∧ after (.hwait pt 1) (helper1 .exited [⟨2, [], true⟩] none) (parkedAt 5) = true
    ∧ after (.hwait pt 1) (helper1 .idle [] none) (fun u => u.ctxHere.pc == 0x1008) = true
    ∧ (helper1 .exited [] none).ctxHere.canEnter = true
    ∧ after (.hwait pt 1) (helper1 .exited [] (some ⟨0x21, 0x40, 7, 0, false, none⟩)) (fun u =>
      inTrap 0x21 7 u && u.ctxHere.trap.tpc == 0x1000 && (u.here.ctx 1).st == .exited && (u.here.ctx 1).deferred == none) = true := by
  decide +kernel

/-- With a post outstanding. -/
def posting : State := onCtx (fun x => { x with out := [⟨2, [], true⟩] })

/-- With an arrival of generation 1 at level 0. -/
def arrived (released bad : Bool) : State := onCore (fun c => { c with
  arrivals := [⟨0, 1, [], true, released, none, false, some 5, bad⟩], gens := [(0, 1)] })

/-- With eight arrivals at level 0: all the kernel's barriers are in flight. -/
def barriersFull : State := onCore (fun c => { c with arrivals := List.replicate 8 ⟨0, 1, [], true, false, none, false, none, false⟩ })

theorem wit_arrive : Clear st0 b0 (.arrive 0) ∧ barrierLevel b0 0 = true ∧ st0.here.arrivals.length < b0.hdr.barriers
    ∧ barrierLevel b0 1 = false ∧ st0.ctxHere.trap.act = false
    ∧ Clear barriersFull b0 (.arrive 0) ∧ b0.hdr.barriers ≤ barriersFull.here.arrivals.length
    ∧ after (.arrive 0) st0 (fun u => u.here.arrivals.map (·.gen) == [1] && u.ctxHere.pc == 0x1008) = true := by decide +kernel

/-- Past its commit, with the arrival released. -/
def past (bad : Bool) : State := (arrived true bad).modCtx ⟨0, 0, 0⟩ (fun x => { x with committed := true })

theorem wit_barrier_wait : Clear (arrived true false) b0 (.waitb 0) ∧ (oldest (arrived true false).here 0).isSome = true
    ∧ Clear (past false) b0 (.sync 0) ∧ (past false).ctxHere.committed = true
    ∧ after (.waitb 0) (arrived true false) (fun u => u.here.arrivals.isEmpty) = true
    ∧ after (.sync 0) (past false) (fun u => u.here.arrivals.isEmpty && u.ctxHere.pc == 0x1008 && !u.ctxHere.committed) = true := by
  decide +kernel

theorem wit_votes : Clear (past false) b0 (.vote .max 1 2 0) ∧ (newest (past false).here 0).isSome = true
    ∧ after (.voteP .max 1 2 0) (past false) (fun u => u.regsHere.getS 1 == 5 && u.here.plan.pending == some 5) = true := by
  decide +kernel

theorem wit_votes_fail : Clear (handling (past true)) b0 (.vote .max 1 2 0)
    ∧ after (.vote .max 1 2 0) (handling (past true)) (inTrap Cause.exchangeViolation 5) = true
    ∧ after (.voteP .max 1 2 0) (handling (past true)) (inTrap Cause.exchangeViolation 5) = true
    ∧ after (.sync 0) (handling (past true)) (fun u => inTrap Cause.exchangeViolation 5 u && u.here.arrivals.isEmpty
      && !u.ctxHere.committed) = true
    ∧ after (.waitb 0) (handling (arrived true true)) (inTrap Cause.exchangeViolation 5) = true
    ∧ after (.waitb 0) (arrived false false) (parkedAt 4) = true := by decide +kernel

theorem wit_votes_arrive : CanCommit st0.ctxHere ∧ st0.ctxHere.committed = false
    ∧ Clear st0 b0 (.voteP .max 1 2 0) ∧ (0 : Level).toNat ≤ b0.plan.xlevel ∧ covered st0.ctxHere 0 = [] ∧ covered posting.ctxHere 0 ≠ []
    ∧ after (.sync 0) st0 (fun u => parkedAt 4 u && u.ctxHere.committed && u.here.arrivals.map (·.vote) == [none]) = true
    ∧ after (.voteP .max 1 2 0) (withS [(2, 9)]) (fun u => parkedAt 4 u && u.here.arrivals.map (·.vote) == [some (.max, 9)]
      && u.here.arrivals.all (·.sel)) = true
    ∧ after (.sync 0) ((arrived false false).modCtx ⟨0, 0, 0⟩ (fun x => { x with committed := true })) (parkedAt 4) = true := by decide +kernel

theorem wit_region : Clear st0 b0 (.region true false 3 0x20F) ∧ CanCommit st0.ctxHere
    ∧ (∀ n : Fin 63, (0x20F : BitVec 63).getLsbD n = true → n.val + 1 < b0.hdr.sregs)
    ∧ after (.region true false 3 0x20F) st0 (fun u => u.ctxHere.region.slive == 0x41E && u.ctxHere.region.entry == 0x1010
      && u.ctxHere.pc == 0x1010) = true := by decide +kernel

theorem wit_end : Clear (onCtx fun x => { x with committed := true }) b0 .endK
    ∧ (∀ n : Fin 10, (st0.here.ctx (n.val + 1)).st = .idle)
    ∧ after .endK (onCtx fun x => { x with committed := true }) (fun u => u.ctxHere.st == .ended) = true := by decide +kernel

theorem wit_end_parks : (st0.here.ctx 1).st.live = false ∧ ((helper1 .ready [] none).here.ctx 1).st.live = true
    ∧ after .endK (helper1 .ready [] none) (parkedAt 6) = true := by decide +kernel

/-! ## Local store (R208-R217) -/

/-- With s1 = a, s2 = v and the bytes 01 … 20 at 0x40, granule 4 full, granule 5 empty. -/
def stored (a v : Word) : State := (withS [(1, a), (2, v)]).modCore1 0 0 (fun c => { c with
  ls := ⟨cellsWrite [] 0x40 ((List.range 32).map (fun n => BitVec.ofNat 8 (n + 1))), [4], []⟩ })

theorem wit_loads_stores : Clear (stored 0x40 9) b0 (.ld pt .h true 3 1 (.imm 2))
    ∧ localTrap ((stored 0x40 9).envHere b0) (stored 0x40 9).here 0x60 .load .load 0x42 2 2 = none
    ∧ localTrap ((stored 0x40 9).envHere b0) (stored 0x40 9).here 0x61 .store .write 0x3FFF8 8 8 = none
    ∧ localTrap ((stored 0x40 9).envHere b0) (stored 0x40 9).here 0x62 .store .write 0x41 1 1 = none
    ∧ after (.ld pt .h true 3 1 (.imm 2)) (stored 0x40 9) (fun u => u.regsHere.getS 3 == 0x403) = true
    ∧ after (.st pt .d 2 1 (.imm 0)) (stored 0x3FFF8 0x1234) (fun u => leNat (u.here.ls.read 0x3FFF8 8) == 0x1234) = true
    ∧ after (.stn pt true 2 1 (.imm 1)) (stored 0x40 9) (fun u => cellRead u.here.ls.bytes 0x41 == 0x92) = true := by
  decide +kernel

theorem wit_local_traps : Clear (stored 0x3FFF9 0) b0 (.st pt .d 2 1 (.imm 0)) ∧ b0.hdr.lstore < (0x3FFF9 : Word).toNat + Size.d.bytes
    ∧ Clear (stored 0x3FFF9 0) b0 (.ld pt .d false 2 1 (.imm 0))
    ∧ Clear (stored 0x42 0) b0 (.st pt .w 2 1 (.imm 0)) ∧ (0x42 : Word).toNat % Size.w.bytes ≠ 0 := by decide +kernel

theorem wit_store_write : Memory.wf (stored 0 0).here.ls.bytes = true
    ∧ cellRead ((stored 0 0).here.ls.write 0x40 [7]).bytes 0x40 = 7 ∧ cellRead ((stored 0 0).here.ls.write 0x40 [7]).bytes 0x41 = 2 := by
  decide +kernel

/-- With indices 0, 2 in v1's lanes, and values in v2. -/
def indexed : State := (stored 0x40 0).modCtx ⟨0, 0, 0⟩ (fun x => { x with
  regs := (x.regs.setV 1 ⟨0x200000000, 5⟩).setV 2 ⟨0x55_00000066, 5⟩ |>.setM 1 3 })

theorem wit_vector_loads : Clear indexed b0 (.ldv pt 5 (some 1) 3 1 (.imm 0))
    ∧ vecTrap (indexed.envHere b0) indexed.here 0x63 .load .load 0x40 (laneRanges indexed.regsHere 5 (some 1) 0x40) = none
    ∧ vecTrap (indexed.envHere b0) indexed.here 0x64 .store .write 0x40 (laneRanges indexed.regsHere 5 (some 1) 0x40) = none
    ∧ (indexed.regsHere.getV 2).tag ≠ 15
    ∧ after (.ldv pt 5 (some 1) 3 1 (.imm 0)) indexed (fun u => u.regsHere.getV 3 == ⟨0x0807060504030201, 5⟩) = true
    ∧ after (.stv pt 5 (some 1) 2 1 (.imm 0)) indexed (fun u => leNat (u.here.ls.read 0x40 12) == 0x0C0B0A09_00000055_00000066) = true := by
  decide +kernel

theorem wit_gathers : idxTrap indexed.regsHere 4 1 = none
    ∧ gatherTrap (indexed.envHere b0) indexed.here 0x65 .load .load 0x40 4 (gatherLanes indexed.regsHere 5 (some 1) 0x40 1) = none
    ∧ gatherTrap (indexed.envHere b0) indexed.here 0x66 .store .write 0x40 4 (gatherLanes indexed.regsHere 5 (some 1) 0x40 1) = none
    ∧ after (.ldvx pt 5 (some 1) 3 1 1 (.imm 0)) indexed (fun u => u.regsHere.getV 3 == ⟨0x0C0B0A09_04030201, 5⟩) = true
    ∧ after (.stvx pt 5 (some 1) 2 1 1 (.imm 0)) indexed (fun u =>
      leNat (u.here.ls.read 0x40 12) == 0x00000055_08070605_00000066) = true := by decide +kernel

theorem wit_full_empty : Clear (stored 0x40 7) b0 (.ldf pt false (.s .w false 3) 1 (.imm 0)) ∧ b0.det = false ∧ st0.here.windows = []
    ∧ (granules 0x40 4).all (stored 0x40 7).here.ls.isFull = true ∧ (granules 0x50 4).all (stored 0x50 7).here.ls.isFull = false
    ∧ after (.ldf pt false (.s .w false 3) 1 (.imm 0)) (stored 0x40 7) (fun u => u.regsHere.getS 3 == 0x04030201) = true
    ∧ after (.ldf pt false (.s .w false 3) 1 (.imm 0)) (stored 0x50 7) (fun u => u.ctxHere.st == .parked && u.ctxHere.pc == 0x1000) = true
    ∧ after (.stf pt (.s .w 2) 1 (.imm 0)) (stored 0x50 7) (fun u => u.here.ls.full == [4, 5] && leNat (u.here.ls.read 0x50 4) == 7) = true
    ∧ after (.feq pt 2 1 (.imm 1)) (stored 0x40 7) (fun u => u.regsHere.getP 2) = true
    ∧ after (.feset pt true 127 1 (.imm 0)) (stored 0x40 7) (fun u => u.here.ls.full.length == 128) = true := by decide +kernel

/-- With granules 4 and 5 full, in a D = 0 region. -/
def fullD0 : State := (stored 0x40 0).modCore1 0 0 (fun c => { c with ls := { c.ls with full := [4, 5] } }.modCtx 0 (fun x =>
  { x with region := { x.region with d := false } }))

theorem wit_ldf_clr : Clear fullD0 b0 (.ldf pt true (.v 7 2) 1 (.imm 0)) ∧ fullD0.ctxHere.region.d = false
    ∧ (granules 0x40 32).all fullD0.here.ls.isFull = true ∧ (∀ n : Fin 11, n.val ≠ 0 → (fullD0.here.ctx n.val).wait = none)
    ∧ after (.ldf pt true (.v 7 2) 1 (.imm 0)) fullD0 (fun u => u.here.ls.full == [] && u.ctxHere.region.ldfClr
      && (u.regsHere.getV 2).tag == 7) = true := by decide +kernel

/-- With s1 = 0x20, s2 = 3, in a D = 0 region, and n entries in the egress buffer. -/
def withheld (n : Nat) : State := (withS [(1, 0x20), (2, 3)]).modCtx ⟨0, 0, 0⟩ (fun x => { x with
  region := { x.region with d := false }, egress := List.replicate n (.sems 1 1) })

theorem wit_withheld : Clear (withheld 31) b0 (.push pt true 1 1 2 (.imm 0)) ∧ ((withheld 31).regsHere.getV 1).tag ≠ 15
    ∧ (withheld 31).ctxHere.egress.length < 32 ∧ 32 ≤ (withheld 32).ctxHere.egress.length ∧ (withheld 0).ctxHere.region.d = false
    ∧ after (.push pt true 1 1 2 (.imm 0)) (withheld 31) (fun u => u.ctxHere.egress.length == 32 && u.net.isEmpty) = true
    ∧ after (.sems pt 9 2) (withheld 0) (fun u => u.ctxHere.egress == [.sems 9 2] && u.here.sems.isEmpty) = true := by decide +kernel

theorem wit_region_illegal : Clear st0 b0 (.sems pt 1 1) ∧ Clear st0 b0 (.send pt 1 2 3 16 0 Sync.none) ∧ st0.ctxHere.region.d = true := by
  decide +kernel

theorem wit_forbidden : after (.mzero pt 7 false ⟨none, some (1, 1), none⟩) (handling st0) (inTrap Cause.regionIllegal 0xC9) = true
    ∧ after (.sems pt 9 2) (handling st0) (inTrap Cause.regionIllegal 0xCE) = true
    ∧ after (.coll pt 0 0x12 7 1 2 3 4 none Sync.none) (handling st0) (inTrap Cause.regionIllegal 0xCC) = true
    ∧ after (.sems pt 9 2) (handling (withheld 32)) (fun u => inTrap Cause.regionOverflow 32 u && u.ctxHere.egress.length == 32) = true
    ∧ after (.ldf pt true (.s .w false 3) 1 (.imm 0)) (handling (stored 0x40 7)) (inTrap Cause.regionIllegal 0x67) = true
    ∧ after (.ldf pt false (.s .w false 3) 1 (.imm 0)) (stored 0x50 7) (parkedAt 3) = true := by decide +kernel

/-! ## Flowstone (R218-R229) -/

def page (kind : Kind) (wd : Width) : Tlb :=
  { asid := 0, va := 0x10000, bits := 12, pa := 0x20000, c := false, kind := kind, wd := wd, j := true, t := true, x := true, f := true }

/-- Whether a lookup hits that translation, or fails with that trap. -/
def hits (r : Tr) (t : Tlb) : Bool :=
  match r with
  | .hit u => u == t
  | _ => false

def fails (r : Tr) (t : Trap) : Bool :=
  match r with
  | .bad u => u == t
  | _ => false

/-- Whether a range's translations are those. -/
def spans (r : Except (Word × Option Trap) (List Tlb)) (ts : List Tlb) : Bool :=
  match r with
  | .ok us => us == ts
  | .error _ => false

/-- With s1 = 0x10000 + off, s2 = v, v2 an I32 vector, and the page at 0x10000 of that kind. -/
def paged (kind : Kind) (wd : Width) (off v : Word) : State :=
  (withS [(1, 0x10000 + off), (2, v)]).modCore1 0 0 (fun c => { c with tlb := page kind wd :: c.tlb }.modCtx 0 (fun x =>
    { x with regs := x.regs.setV 2 ⟨0x200000001, 5⟩ }))

theorem wit_join : Clear (paged .max .w32 8 7) b0 (.join pt .max .w32 none 2 1 (.imm 0)) ∧ canonical 0x10008 = true
    ∧ hits (lookup (paged .max .w32 8 7).here (paged .max .w32 8 7).ctxHere b0.asid 0x10008) (page .max .w32) = true
    ∧ permTrap (page .max .w32) .join 0x10008 = none ∧ kindTrap (page .max .w32) .max .w32 0x10008 = none
    ∧ globalWin (paged .max .w32 8 7).here 0x10008 = none ∧ inFence ((paged .max .w32 8 7).envHere b0) (paged .max .w32 8 7).here = false
    ∧ postLimit ((paged .max .w32 8 7).envHere b0) (paged .max .w32 8 7).here 0x20000 = false
    ∧ after (.join pt .max .w32 none 2 1 (.imm 0)) (paged .max .w32 8 7) (fun u => u.net.length == 1 && u.ctxHere.out.length == 1
      && u.ctxHere.pc == 0x1008) = true
    ∧ after (.join pt .cnt .w32 none 2 1 (.imm 0)) (paged .cnt .w32 8 7) (fun u => u.net.isEmpty && u.ctxHere.egress.length == 1) = true := by
  decide +kernel

/-- With n posts outstanding. -/
def posted (s : State) (n : Nat) : State := s.modCtx ⟨0, 0, 0⟩ (fun x => { x with out := List.replicate n ⟨2, [], true⟩ })

theorem wit_join_waits : LevelIn b0 (some 0) ∧ Clear (paged .max .w32 8 7) b0 (.join pt .max .w32 (some 0) 2 1 (.imm 0))
    ∧ after (.join pt .max .w32 (some 0) 2 1 (.imm 0)) (paged .max .w32 8 7) (fun u => parkedAt 11 u && u.net.length == 1) = true
    ∧ postLimit ((posted (paged .max .w32 8 7) 1023).envHere b0) (posted (paged .max .w32 8 7) 1023).here 0x20000 = false
    ∧ after (.join pt .max .w32 none 2 1 (.imm 0)) (posted (paged .max .w32 8 7) 1024) (fun u => parkedAt 12 u && u.net.isEmpty) = true
    ∧ after (.join pt .cnt .w32 none 2 1 (.imm 0)) (handling ((paged .cnt .w32 8 7).modCtx who0 (fun x =>
      { x with egress := List.replicate 32 (.sems 1 1) }))) (inTrap Cause.regionOverflow 32) = true
    ∧ after (.joinv pt (.elems .max .w32 (some 3)) 2 1 (.imm 0)) (paged .max .w32 32 7) (fun u => u.net.isEmpty && u.ctxHere.pc == 0x1008) = true
    ∧ after (.joinv pt (.elems .cnt .w32 none) 2 1 (.imm 0)) (paged .cnt .w32 32 7) (fun u => u.net.isEmpty && u.ctxHere.egress.length == 1) = true := by
  decide +kernel

theorem wit_joinv : joinvTrap (paged .max .w32 32 7).regsHere (.elems .max .w32 none) 2 = none ∧ kindTrap (page .fill .w8) .fill .w8 0x10020 = none
    ∧ kindTrap (page .ver .w8) .ver .w8 0x10000 = none
    ∧ after (.joinv pt (.elems .max .w32 none) 2 1 (.imm 0)) (paged .max .w32 32 7) (fun u => u.net.length == 1) = true
    ∧ after (.joinv pt (.fill 2) 2 1 (.imm 0)) (paged .fill .w8 32 7) (fun u => u.net.length == 1 && u.ctxHere.st == .ready) = true
    ∧ after (.joinv pt (.ver 2) 2 1 (.imm 0)) (paged .ver .w8 0 7) (fun u => u.net.length == 1 && u.ctxHere.st == .ready) = true := by
  decide +kernel

theorem wit_flowstone_checks : canonical 0x1000000000000000 = false
    ∧ Clear (withS [(1, 0x1000000000000000)]) b0 (.xread pt .max .w32 2 1 (.imm 0))
    ∧ Clear (paged .max .w32 2 0) b0 (.xread pt .max .w32 2 1 (.imm 0)) ∧ (0x10002 : Word).toNat % 4 ≠ 0
    ∧ (0x1003C : Word).toNat % 64 + 4 ≤ 64
    ∧ (permTrap { page .max .w32 with x := false } .xread 0x10000).isSome = true
    ∧ (kindTrap (page .min .w32) .max .w32 0x10000).isSome = true ∧ (kindTrap (page .max .w64) .max .w32 0x10000).isSome = true := by
  decide +kernel

/-- With a failed walk of the page at 0x10000. -/
def unmapped : State := (withS [(1, 0x10000)]).modCtx ⟨0, 0, 0⟩ (fun x => { x with
  walkErr := some (0x10000, ⟨Cause.permission, 0x10000, 1⟩) })

theorem wit_translation_fails : Clear unmapped b0 (.xread pt .max .w32 2 1 (.imm 0))
    ∧ fails (lookup unmapped.here unmapped.ctxHere b0.asid 0x10000) ⟨Cause.permission, 0x10000, 1⟩ = true := by decide +kernel

theorem wit_reads : Clear (paged .max .w32 8 5) b0 (.tread pt .max .w32 none 0 2 1 (.imm 0)) ∧ permTrap (page .max .w32) .tread 0x10008 = none
    ∧ Clear (paged .max .w32 8 5) b0 (.xread pt .max .w32 2 1 (.imm 0)) ∧ permTrap (page .max .w32) .xread 0x10008 = none
    ∧ Clear (paged .fill .w8 16 5) b0 (.xreadv pt .fill 2 1 (.imm 0))
    ∧ after (.tread pt .max .w32 none 0 2 1 (.imm 0)) (paged .max .w32 8 5) (fun u => u.ctxHere.st == .parked && u.net.length == 1) = true
    ∧ after (.xread pt .max .w32 2 1 (.imm 0)) (paged .max .w32 8 5) (fun u => u.ctxHere.st == .parked && u.regsHere.getS 2 == 5) = true
    ∧ after (.xreadv pt .fill 2 1 (.imm 0)) (paged .fill .w8 16 5) (fun u => u.ctxHere.st == .parked && u.net.length == 1) = true := by
  decide +kernel

theorem wit_fence : Clear st0 b0 (.fence pt 0) ∧ b0.tree.length ≤ (1 : Level).toNat ∧ fenceWaits (st0.envHere b0) st0.here 0 = false
    ∧ fenceWaits (posting.envHere b0) posting.here 0 = true
    ∧ after (.fence pt 0) posting (fun u => u.ctxHere.st == .stalled && u.ctxHere.pc == 0x1000) = true := by decide +kernel

theorem wit_freeze : Clear (paged .max .w32 0 128) b0 (.frz pt 1 2 (.imm 0))
    ∧ spans (lookupRange (paged .max .w32 0 128).here (paged .max .w32 0 128).ctxHere b0.asid .freeze 2 0x10000 128) [page .max .w32] = true
    ∧ after (.frz pt 1 2 (.imm 0)) (paged .max .w32 0 128) (fun u => u.net.length == 2 && u.ctxHere.st == .stalled) = true
    ∧ after (.frz pt 1 2 (.imm 0)) (paged .max .w32 0 0) (fun u => u.net.isEmpty && u.ctxHere.pc == 0x1008) = true
    ∧ after (.lkind pt 3 1 0) (paged .kmax .w64 0 0) (fun u => u.regsHere.getS 3 == 0x1FC) = true := by decide +kernel

theorem wit_freeze_fails : Clear (withS [(1, 0x1000000000000000)]) b0 (.frz pt 1 2 (.imm 0))
    ∧ after (.frz pt 1 2 (.imm 0)) (handling (withS [(1, 0x1000000000000000)])) (inTrap Cause.addrNoncanon 0) = true
    ∧ after (.frz pt 1 2 (.imm 0)) (handling (paged .max .w32 32 64)) (inTrap Cause.misaligned 0) = true
    ∧ after (.frz pt 1 2 (.imm 0)) (handling ((unmapped).modCtx who0 (fun x => { x with regs := x.regs.setS 2 64 }))) (inTrap Cause.permission 1) = true
    ∧ after (.frz pt 1 2 (.imm 0)) (withS [(1, 0x10000), (2, 64)]) (fun u => u.ctxHere.st == .stalled && u.ctxHere.pc == 0x1000) = true
    ∧ after (.frz pt 1 2 (.imm 0)) (posted (paged .max .w32 0 128) 1) (fun u => parkedAt 15 u && u.net.isEmpty) = true
    ∧ after (.fence pt 1) (handling st0) (inTrap Cause.levelRange 1) = true
    ∧ after (.tread pt .max .w32 (some 0) 0 2 1 (.imm 0)) (posted (paged .max .w32 8 5) 1) (fun u => parkedAt 11 u && u.net.isEmpty) = true := by
  decide +kernel

/-- With s1 = 0x10000, s2 = a length and s3 = a local offset, and window 1 mapped. -/
def windowed : State := (withS [(1, 0x10000), (2, 128), (3, 64)]).modCore1 0 0 (fun c => { c with
  tlb := page .max .w32 :: c.tlb, stash := c.stash.set 1 (some ⟨0, 0, 0x10800, 1, false, .max, .w32, []⟩) })

theorem wit_stash : Clear windowed b0 (.smap pt 0 false 3 1 2 (.imm 0))
    ∧ spans (lookupRange windowed.here windowed.ctxHere b0.asid .xread 18 0x10000 128) [page .max .w32] = true
    ∧ smapBad (windowed.envHere b0) windowed.here 0 false 64 0x10000 128 [page .max .w32] = none
    ∧ windowed.here.window 2 = none ∧ (windowed.here.window 1).isSome = true
    ∧ after (.smap pt 0 false 3 1 2 (.imm 0)) windowed (fun u => (u.here.window 0).any (fun w => w.loc == 4 && w.len == 2)) = true
    ∧ after (.sflush pt 1) windowed (fun u => u.ctxHere.pc == 0x1008 && (u.here.window 1).isSome) = true
    ∧ after (.sdrop pt 1) windowed (fun u => u.here.window 1 == none) = true := by decide +kernel

/-- The page at 0x10000 as accumulate window 2, at 0x40 in local store, whose line 0 has 5 in its first word, and s2 = 7. -/
def accWin (kind : Kind) (busy : List Nat) : State := (paged kind .w32 0 7).modCore1 0 0 (fun c => { c with
  ls := ⟨cellsWrite [] 0x40 [5], [4, 5, 6, 7], []⟩, stash := c.stash.set 2 (some ⟨0, 4, 0x10000, 1, true, kind, .w32, busy⟩) })

def word40 (u : State) : Nat := leNat (u.here.ls.read 0x40 4)

/-- A context's counts in a line, of its first word only. -/
def counts (n : Nat) : List Byte := natBytes 4 n ++ List.replicate 60 0

theorem wit_accumulate : Clear (accWin .max []) b0 (.join pt .max .w32 none 2 1 (.imm 0)) ∧ (globalWin (accWin .max []).here 0x10000).isSome = true
    ∧ (globalWin (accWin .max []).here 0x1003C).isSome = true ∧ globalWin (accWin .max []).here 0x10040 = none
    ∧ after (.join pt .max .w32 none 2 1 (.imm 0)) (accWin .max []) (fun u => word40 u == 7 && u.net.isEmpty
      && (u.here.window 2).any (fun w => w.busy == [0]) && u.ctxHere.pc == 0x1008) = true
    ∧ after (.join pt .cnt .w32 none 2 1 (.imm 0)) (accWin .cnt []) (fun u => word40 u == 12 && u.ctxHere.egress == [.cntLine 2 0 (counts 7)]) = true
    ∧ after (.join pt .cnt .w32 none 2 1 (.imm 0)) ((accWin .cnt [0]).modCtx who0 (fun x => { x with egress := [.cntLine 2 0 (counts 5)] }))
      (fun u => word40 u == 12 && u.ctxHere.egress == [.cntLine 2 0 (counts 12)]) = true
    ∧ after (.sflush pt 2) (accWin .max [0]) (fun u => word40 u == 0 && u.net.length == 1 && u.ctxHere.pc == 0x1008
      && (u.here.window 2).any (fun w => w.busy.isEmpty)) = true
    ∧ after (.sflush pt 2) (accWin .cnt [0]) (fun u => word40 u == 5 && u.net.isEmpty) = true
    ∧ after (.sflush pt 3) (handling st0) (inTrap Cause.stashInvalid 7) = true
    ∧ after (.sdrop pt 2) ((accWin .cnt [0]).modCtx who0 (fun x => { x with egress := [.cntLine 2 0 (counts 5), .sems 1 1] })) (fun u =>
      u.ctxHere.egress == [.sems 1 1] && u.here.window 2 == none) = true := by decide +kernel

/-- The page at 0x10000 as read window 2. -/
def readWin : State := handling ((accWin .max []).modCore1 0 0 (fun c => { c with
  stash := c.stash.set 2 (some ⟨0, 4, 0x10000, 1, false, .max, .w32, []⟩) }))

theorem wit_window_traps : Clear readWin b0 (.join pt .max .w32 none 2 1 (.imm 0))
    ∧ after (.join pt .max .w32 none 2 1 (.imm 0)) readWin (inTrap Cause.stashInvalid 9) = true
    ∧ after (.smap pt 2 false 3 1 2 (.imm 0)) (handling ((windowed).modCtx who0 (fun x => { x with regs := x.regs.setS 2 32 })))
      (inTrap Cause.stashInvalid 6) = true
    ∧ after (.smap pt 0 true 3 1 2 (.imm 0)) windowed (fun u => (u.here.window 0).any (·.acc) && u.here.ls.isFull 4
      && leNat (u.here.ls.read 64 4) == 0) = true := by decide +kernel

/-! ## Vector instructions (R232-R260) -/

/-- With v1, v2 and v3 of one tag, and mask m1 enabling lane 0 only. -/
def vecs (t : Tag) (a c d : Vec) : State := onCtx (fun x => { x with
  regs := (((x.regs.setV 1 ⟨a, t⟩).setV 2 ⟨c, t⟩).setV 3 ⟨d, t⟩).setM 1 1 })

/-- Whether v4 of the next state holds those bits and that tag. -/
def v4Is (i : Instr) (s : State) (v : Vec) (t : Tag) : Bool := after i s (fun u => u.regsHere.getV 4 == ⟨v, t⟩ && u.ctxHere.pc == 0x1008)

/-- 1.0 in lane 0, 2^24 in lane 1, and 3.0 in lane 2. -/
def fp : Vec := 0x404000004B8000003F800000

theorem wit_vector_float : Clear (vecs 7 fp fp fp) b0 (.vadd pt 7 noMask 4 1 2) ∧ tagIsFloat 7 = true
    ∧ (∀ c ∈ [((1 : VReg), TagReq.exact 7), (2, arithReq 7), (3, .exact 7)] ++ keepCheck noMask 4, tagCheck (vecs 7 fp fp fp).regsHere c = none)
    ∧ v4Is (.vadd pt 7 noMask 4 1 2) (vecs 7 fp fp 0) 0x40C000004C00000040000000 7 = true
    ∧ v4Is (.vsub pt 7 noMask 4 1 2) (vecs 7 fp fp 0) 0 7 = true
    ∧ v4Is (.vmul pt 7 noMask 4 1 2) (vecs 7 fp fp 0) 0x41100000578000003F800000 7 = true := by decide +kernel

theorem wit_vector_float_flags : after (.vadd pt 7 ⟨some 1, true⟩ 4 1 2) (vecs 7 0x4B800000 0x3F800000 0)
      (fun u => u.regsHere.getV 4 == ⟨0x4B800000, 7⟩ && u.regsHere.flags == 0x10) = true
    ∧ after (.vdiv pt 7 noMask 4 1 2) (vecs 7 0x3F800000 0 0) (fun u => lane u.regsHere 7 4 0 == 0x7F800000 && u.regsHere.flags == 3) = true
    ∧ v4Is (.vdiv pt 7 ⟨some 1, true⟩ 4 1 2) (vecs 7 0x40C00000 0x40400000 0) 0x40000000 7 = true
    ∧ v4Is (.vfma pt 7 true false ⟨some 1, true⟩ 4 1 2 3) (vecs 7 0x40000000 0x40400000 0x3F800000) 0xC0A00000 7 = true
    ∧ v4Is (.vsqrt pt 7 ⟨some 1, true⟩ 4 1) (vecs 7 0x41100000 0 0) 0x40400000 7 = true
    ∧ v4Is (.vrcp pt 7 ⟨some 1, true⟩ 4 1) (vecs 7 0x40800000 0 0) 0x3E800000 7 = true := by decide +kernel

theorem wit_vector_signs : v4Is (.vmin pt 7 false ⟨some 1, true⟩ 4 1 2) (vecs 7 0x80000000 0 0) 0x80000000 7 = true
    ∧ v4Is (.vmax pt 7 false ⟨some 1, true⟩ 4 1 2) (vecs 7 0x80000000 0 0) 0 7 = true
    ∧ v4Is (.vabs pt 7 false ⟨some 1, true⟩ 4 1) (vecs 7 0xFF800000 0 0) 0x7F800000 7 = true
    ∧ v4Is (.vneg pt 7 false ⟨some 1, true⟩ 4 1) (vecs 7 0x3F800000 0 0) 0xBF800000 7 = true
    ∧ v4Is (.vsfu pt 7 .exp2 ⟨some 1, true⟩ 4 1) (vecs 7 0x40400000 0 0) 0x41000000 7 = true := by decide +kernel

theorem wit_vector_integer : tagIsInt 1 = true ∧ Clear (vecs 1 0x7F 1 0) b0 (.viadd pt 1 true false noMask 4 1 2)
    ∧ after (.viadd pt 1 true false noMask 4 1 2) (vecs 1 0x7F 1 0) (fun u => u.regsHere.getV 4 == ⟨0x7F, 1⟩ && u.regsHere.flags != 0) = true
    ∧ v4Is (.viadd pt 1 false false noMask 4 1 2) (vecs 1 0x7F 1 0) 0x80 1 = true
    ∧ v4Is (.visub pt 2 true false noMask 4 1 2) (vecs 2 1 2 0) 0 2 = true
    ∧ v4Is (.vimul pt 1 false true false noMask 4 1 2) (vecs 1 0x80 0x80 0) 0x40 1 = true
    ∧ v4Is (.vmin pt 1 false noMask 4 1 2) (vecs 1 0xFF 1 0) 0xFF 1 = true ∧ v4Is (.vmax pt 2 false noMask 4 1 2) (vecs 2 0xFF 1 0) 0xFF 2 = true
    ∧ v4Is (.vabs pt 1 false noMask 4 1) (vecs 1 0x80 0 0) 0x80 1 = true ∧ v4Is (.vneg pt 1 true noMask 4 1) (vecs 1 0x80 0 0) 0x7F 1 = true := by
  decide +kernel

theorem wit_vector_shift : v4Is (.vshl pt 1 noMask 4 1 (.imm 7)) (vecs 1 3 0 0) 0x80 1 = true
    ∧ v4Is (.vshr pt 1 noMask 4 1 (.reg 2)) (vecs 1 0x80 8 0) 0 1 = true
    ∧ v4Is (.vsar pt 1 noMask 4 1 (.reg 2)) (vecs 1 0x80 8 0) 0xFF 1 = true
    ∧ v4Is (.vsar pt 1 noMask 4 1 (.imm 1)) (vecs 1 0x80 0 0) 0xC0 1 = true := by decide +kernel

theorem wit_vector_moves : Clear (vecs 5 0 0 0) b0 (.vperm pt 7 noMask 4 1 2 3) ∧ 0 < tagElems 5
    ∧ v4Is (.vand pt 5 noMask 4 1 2) (vecs 5 0xFF 0x0F0 0) 0xF0 5 = true ∧ v4Is (.vor pt 5 noMask 4 1 2) (vecs 5 0xF 0xF0 0) 0xFF 5 = true
    ∧ v4Is (.vxor pt 5 noMask 4 1 2) (vecs 5 0xFF 0xF0 0) 0xF 5 = true ∧ v4Is (.vsel pt 5 1 4 1 2) (vecs 5 0x200000001 0x400000003 0) 0x400000001 5 = true
    ∧ v4Is (.vperm pt 5 ⟨some 1, true⟩ 4 1 2 3) (vecs 5 7 9 8) 9 5 = true
    ∧ v4Is (.vshuf pt 14 noMask 4 1 .rev) (vecs 14 (1 + 2 * 2 ^ 64 + 3 * 2 ^ 128 + 4 * 2 ^ 192) 0 0) (4 + 3 * 2 ^ 64 + 2 * 2 ^ 128 + 2 ^ 192) 14 = true
    ∧ v4Is (.vshuf pt 14 noMask 4 1 (.ziphi 2)) (vecs 14 (3 * 2 ^ 128) (7 * 2 ^ 192) 0) (3 + 7 * 2 ^ 192) 14 = true
    ∧ v4Is (.vshuf pt 14 noMask 4 1 (.uzod 2)) (vecs 14 (2 ^ 64) (5 * 2 ^ 192) 0) (1 + 5 * 2 ^ 192) 14 = true
    ∧ v4Is (.vshuf pt 14 noMask 4 1 (.rot 3)) (vecs 14 (2 ^ 192) 0 0) 1 14 = true := by decide +kernel

theorem wit_vector_scalars : after (.vbcast pt 14 false noMask 4 (.lit 0xFFFFFFFF)) st0
      (fun u => u.regsHere.getV 4 == ⟨BitVec.allOnes 256, 14⟩ && u.ctxHere.pc == 0x100C) = true
    ∧ after (.vext pt 1 false 2 1 (.imm 1)) (vecs 1 0x8000 0 0) (fun u => u.regsHere.getS 2 == 0xFFFFFFFFFFFFFF80) = true
    ∧ after (.vins pt 14 1 2 (.imm 1)) (withS [(2, 7)]) (fun u => u.regsHere.getV 1 == ⟨7 * 2 ^ 64, 14⟩) = true
    ∧ v4Is (.vtag pt 9 4 1) (vecs 5 0xAB 0 0) 0xAB 9 = true ∧ v4Is (.vmov pt 0 noMask 4 1) (vecs 5 0xAB 0 0) 0xAB 5 = true
    ∧ v4Is (.vmov pt 7 ⟨some 1, true⟩ 4 1) (vecs 5 0x1000000AB 0 0) 0xAB 5 = true ∧ v4Is (.vzero pt 9 4) st0 0 9 = true
    ∧ v4Is (.viota pt 14 true noMask 4 2) (withS [(2, 9)]) (9 + 10 * 2 ^ 64 + 11 * 2 ^ 128 + 12 * 2 ^ 192) 14 = true := by decide +kernel

theorem wit_compare : after (.vcmp pt 7 .lt false noMask 2 1 2) (vecs 7 0x80000000 0x3F800000 0) (fun u => u.regsHere.getM 2 == 1) = true
    ∧ after (.vcmp pt 14 .ge true ⟨some 1, true⟩ 2 1 2) (vecs 14 0xFFFFFFFFFFFFFFFF 0 0) (fun u => u.regsHere.getM 2 == 1) = true
    ∧ after (.mlogic pt (.andn 2 1 3)) (vecs 5 0 0 0) (fun u => u.regsHere.getM 2 == 1) = true
    ∧ after (.mlogic pt (.set 7 2)) st0 (fun u => u.regsHere.getM 2 == 0xFF) = true
    ∧ after (.mlogic pt (.first 2 2)) st0 (fun u => u.regsHere.getS 2 == 64) = true := by decide +kernel

/-- R139's worked sum: 2^24 and seven ones. -/
def sums : Vec := 0x3F8000003F8000003F8000003F8000003F8000003F8000003F8000004B800000

theorem wit_reduce : after (.vred pt 7 .sum false false none 4 1) (vecs 7 sums 0 0) (fun u => u.regsHere.getV 4 == ⟨0x4B800003, 7⟩
      && u.regsHere.flags == 0x10) = true
    ∧ after (.vscan pt 5 .sum false false none 4 1) (vecs 5 0x300000002 0 0) (fun u => lane u.regsHere 5 4 0 == 2 && lane u.regsHere 5 4 7 == 5) = true
    ∧ v4Is (.vkey pt 6 ⟨some 1, true⟩ 4 1) (vecs 7 0x3F800000 0 0) 0xBF800000 6 = true
    ∧ v4Is (.vkey pt 7 ⟨some 1, true⟩ 4 1) (vecs 6 0xBF800000 0 0) 0x3F800000 7 = true
    ∧ v4Is (.vcvt pt 5 7 false false 0 .rtz ⟨some 1, true⟩ 4 1) (vecs 7 0xC0200000 0 0) 0xFFFFFFFE 5 = true := by decide +kernel

theorem wit_reduce_masks : after (.vred pt 7 .sum true false (some 1) 4 1) (vecs 7 sums 0 0) (fun u =>
      u.regsHere.getV 4 == ⟨0x4B800000, 7⟩ && u.regsHere.flags == 0) = true
    ∧ after (.vred pt 5 .max false false (some 2) 4 1) (vecs 5 3 0 0) (fun u => u.regsHere.getV 4 == ⟨0x80000000, 5⟩) = true
    ∧ after (.vred pt 1 .sum true false none 4 1) (vecs 1 (2 ^ 256 - 1) 0 0) (fun u => u.regsHere.getV 4 == ⟨0xE0, 1⟩) = true
    ∧ after (.vscan pt 5 .sum false false (some 1) 4 1) (vecs 5 0x300000002 0 0) (fun u => lane u.regsHere 5 4 7 == 2) = true
    ∧ after (.vcvt pt 7 3 false false 1 .rne noMask 4 1) (vecs 3 (5 + 9 * 2 ^ 128) 0 0) (fun u => lane u.regsHere 7 4 0 == 0x41100000) = true
    ∧ after (.vqblk pt 7 false 0 .rne 4 1 3) (vecs 7 0x7FC00000 0 0) (fun u => laneGet (u.regsHere.getV 3).bits 8 0 == 0xFF
      && laneGet (u.regsHere.getV 4).bits 32 0 == 0 && u.regsHere.flags == 1) = true
    ∧ after (.vqblk pt 7 false 0 .rne 4 1 3) (vecs 7 0x80000000 0 0) (fun u => laneGet (u.regsHere.getV 3).bits 8 0 == 0
      && laneGet (u.regsHere.getV 4).bits 4 0 == 8) = true := by decide +kernel

theorem wit_blocks : after (.vqblk pt 7 false 0 .rne 4 1 3) (vecs 7 fp 0 0) (fun u => (u.regsHere.getV 4).tag == 12 && (u.regsHere.getV 3).tag == 13) = true
    ∧ after (.vdqblk pt 7 0 4 1 2) (onCtx fun x => { x with regs := (x.regs.setV 1 ⟨2, 12⟩).setV 2 ⟨0x38, 13⟩ })
      (fun u => (u.regsHere.getV 4).tag == 7) = true := by decide +kernel

theorem wit_tag_traps : Clear (vecs 15 0 0 0) b0 (.vadd pt 7 noMask 4 1 2) ∧ ((vecs 15 0 0 0).regsHere.getV 1).tag ≠ 7
    ∧ ((vecs 7 0 0 0).regsHere.getV 1).tag = 7 ∧ ((vecs 7 0 0 0).regsHere.getV 5).tag ≠ 7
    ∧ after (.vadd pt 7 noMask 4 1 5) ((vecs 7 0 0 0).modCtx ⟨0, 0, 0⟩ (fun x => { x with trap := { x.trap with tvec := 0x2000 } }))
      (fun u => u.ctxHere.trap.tcause == 0x8000000000000010 && u.ctxHere.trap.taux == 0x7005) = true := by decide +kernel

theorem wit_rounding : (fp4 ∈ [fp32, fp16, bf16, e4m3, e5m2, e3m5, fp4] ∧ (fp4.decode false 7).isNan = false)
    ∧ (fp4.decode false 7).toFp fp4 false .rne 0 = (7, 0) ∧ (e4m3.decode false 0x7E).toFp e4m3 false .rtz 0 = (0x7E, 0)
    ∧ (e3m5.decode true 0xFF).toFp e3m5 true .rdn 0 = (0xFF, 0) ∧ (fp32.decode false 1).toFp fp32 false .rup 0 = (1, 0) := by decide +kernel

theorem wit_keys : (fp32.val 0x80000000).isNan = false ∧ keyOf 0xBF800000 < keyOf 0x3F800000 ∧ keyOf 0x80000000 = keyOf 0
    ∧ keyInv (keyOf 0xFF800000) = 0xFF800000 := by decide +kernel

/-! ## Engines and the matrix unit (R94-R103, R261-R278) -/

/-- With slot 1 claimed by context n, and s1 and s2 set. -/
def claimed (n : Nat) (a v : Word) : State := (withS [(1, a), (2, v)]).modCore1 0 0 (fun c =>
  c.setSlot 1 { Slot.free with st := .claimed, owner := n, gen := 1 })

theorem wit_slots : Clear st0 b0 (.mclaim pt 1) ∧ (st0.here.slot 1).isFree = true ∧ (∀ n : Fin 11, (st0.here.ctx n.val).wait = none)
    ∧ ((claimed 0 0 0).here.slot 1).isFree = false ∧ ((claimed 0 0 0).here.slot 1).owner = 0 ∧ ((claimed 3 0 0).here.slot 1).owner ≠ 0
    ∧ after (.mclaim pt 1) st0 (fun u => (u.here.slot 1).st == .claimed) = true
    ∧ after (.mclaim pt 1) (claimed 0 0 0) (fun u => u.ctxHere.pc == 0x1010) = true
    ∧ after (.mclaim pt 1) (claimed 3 0 0) (fun u => u.ctxHere.st == .parked) = true
    ∧ after (.mrel pt 1) (claimed 0 0 0) (fun u => (u.here.slot 1).st == .free && u.ctxHere.pc == 0x1010) = true
    ∧ after (.mband pt 1 2) (claimed 0 0 0x14000) (fun u => (u.here.slot 1).band == 0x4000) = true
    ∧ after (.mband pt 1 2) ((claimed 3 0 0).modCtx ⟨0, 0, 0⟩ (fun x => { x with trap := { x.trap with tvec := 0x2000 } }))
      (fun u => u.ctxHere.trap.tcause == 0x8000000000000013 && u.ctxHere.trap.taux == 1) = true := by decide +kernel

/-- With a value in the first element of accumulator 0's visible bank, and s1 = its segment. -/
def accumulated (seg : Word) : State := (withS [(1, seg)]).modCore1 0 0 (fun c =>
  c.setAcc false ⟨Bank.zero, { Bank.zero with el := [0x41C00000, 5] }, [], []⟩)

theorem wit_swap : Clear st0 b0 (.mswap pt false) ∧ (st0.here.acc false).swap = [] ∧ st0.here.mx = []
    ∧ after (.mswap pt false) (accumulated 0) (fun u => (u.here.acc false).work.el == [0x41C00000, 5] && u.ctxHere.pc == 0x1010) = true := by
  decide +kernel

theorem wit_mread : Clear (accumulated 512) b0 (.mread pt 7 false .rne 0 2 1) ∧ ((accumulated 0).regsHere.getV 2).tag ≠ 15
    ∧ ((accumulated 0).here.acc false).vis.isInt = ((accumulated 0).here.acc false).vis.accInt
    ∧ after (.mread pt 7 false .rne 0 2 1) (accumulated 512) (fun u => lane u.regsHere 7 2 0 == 0x41C00000 && (u.regsHere.getV 2).tag == 7) = true
    ∧ after (.mread pt 5 false .rne 0 2 1) ((accumulated 0).modCtx ⟨0, 0, 0⟩ (fun x => { x with trap := { x.trap with tvec := 0x2000 } }))
      (fun u => u.ctxHere.trap.tcause == 0x8000000000000010 && u.ctxHere.trap.taux == 0x7500) = true := by decide +kernel

def mx1 (u : State) : Bool := u.here.mx.length == 1 && u.ctxHere.pc != 0x1000

/-- With slots 1 and 2 loaded with BF16 tiles of context 0. -/
def loaded : State := (claimed 0 0x40 0).modCore1 0 0 (fun c =>
  let x : Slot := { Slot.free with st := .ready, owner := 0, fmt := some .bf16, gen := 1, dataGen := 1, dataFmt := some .bf16 }
  (c.setSlot 1 x).setSlot 2 x)

theorem wit_engine_commands : Clear (claimed 0 0x40 0) b0 (.mload pt .fp4 1 1 0 Sync.none) ∧ (claimed 0 0x40 0).here.mx.length < 16
    ∧ mmaTrap loaded.here .bf16 1 2 = none ∧ readTagOk (st0.here.acc false).nextVis.accInt 7 = true
    ∧ after (.mload pt .fp4 1 1 0 Sync.none) (claimed 0 0x40 0) mx1 = true
    ∧ after (.mma pt .bf16 true false 1 2 Sync.none) loaded mx1 = true ∧ after (.mzero pt 5 false Sync.none) st0 mx1 = true
    ∧ after (.mwrite pt 7 false 1 0 Sync.none) (claimed 0 0x40 0) mx1 = true
    ∧ after (.mstore pt 9 false .rne 1 0 Sync.none) (claimed 0 0x40 0) mx1 = true := by decide +kernel

theorem wit_copies : Clear (withS [(1, 0x40), (2, 0x10000), (3, 128)]) b0 (.cpyFetch pt 1 2 3 4 Sync.none)
    ∧ after (.cpyFetch pt 1 2 3 4 Sync.none) (withS [(1, 0x40), (2, 0x10000), (3, 128)]) (fun u => u.here.cx.length == 1) = true
    ∧ after (.cpyPutj pt 1 2 3 4 none Sync.none) (withS [(1, 0x40), (2, 0x10000), (3, 128)]) (fun u => u.here.cx.length == 1) = true := by
  decide +kernel

/-- A command of the matrix queue. -/
def cmd0 : Cmd :=
  { id := 1, ctx := 0, instr := .mzero pt 7 false Sync.none, d := 0, a := 0, b := 0, ver := 0, e0 := 0, e1 := 0, topx := false
    bandA := 0x3F80, bandB := 0x3F80, seq := 0, alg := 0, descVer := 0, started := false, off := 0, await := [], failAt := none
    walkErr := none, halted := none, low := none, recorded := false, done := false, stamped := false, flags := 0, uncommitted := false
    weights := 0x010101, step := .wait }

/-- With sixteen commands in the matrix queue, in a D = 0 region. -/
def queueFull : State := (withheld 0).modCore1 0 0 (fun c => { c with mx := List.replicate 16 cmd0 })

theorem wit_queues : Clear queueFull b0 (.mzero pt 7 false Sync.none) ∧ queueFull.here.mx.length = 16
    ∧ barrierLevel b0 0 = true ∧ barrierLevel b0 1 = false ∧ Clear st0 b0 (.coll pt 1 0x02 7 1 2 3 4 none Sync.none)
    ∧ after (.mzero pt 7 false Sync.none) queueFull (fun u => u.ctxHere.st == .stalled) = true
    ∧ after (.send pt 1 2 3 16 0 Sync.none) (withheld 0) (fun u => u.ctxHere.egress.length == 1) = true
    ∧ after (.coll pt 0 0x02 7 1 2 3 4 none Sync.none) (withheld 31) (fun u => u.ctxHere.egress.length == 32) = true := by decide +kernel

/-- With an uncommitted MMA's overwrite of accumulator 0 queued. -/
def bankBusy : State := onCore (fun c => { c with mx := [cmd0] })

/-- An MSWAP of accumulator 0 is parked, of context 1. -/
def swapAhead (reads : List StalledRead) : State := (accumulated 0).modCore1 0 0 (fun c =>
  c.setAcc false { c.acc false with swap := [(1, [9])], reads := reads })

theorem wit_swap_waits : Clear bankBusy b0 (.mswap pt false) ∧ (bankBusy.here.mx.filter (·.usesBank false)).map (·.id) = [1]
    ∧ after (.mswap pt false) bankBusy (fun u => parkedAt 8 u && (u.here.acc false).swap == [(0, [1])]) = true
    ∧ Clear (swapAhead []) b0 (.mread pt 7 false .rne 0 2 1)
    ∧ after (.mread pt 7 false .rne 0 2 1) (swapAhead []) (fun u => (u.here.acc false).reads == [⟨0, 1, false⟩] && u.ctxHere.st == .stalled) = true := by
  decide +kernel

/-- With count n in semaphore 9. -/
def counting (n : Nat) : State := onCore (fun c => { c with sems := [(9, n)] })

theorem wit_semaphores : ((0xFFFF : Int) - (1 : BitVec 16).toNat) % 65536 ≥ 32768 ∧ ((2 : Int) - (0xFFFF : BitVec 16).toNat) % 65536 < 32768
    ∧ Clear (counting 2) b0 (.semw pt 9 0xFFFF) ∧ Clear (counting 0xFFFF) b0 (.semw pt 9 1)
    ∧ after (.semw pt 9 0xFFFF) (counting 2) (fun u => u.ctxHere.pc == 0x1010) = true
    ∧ after (.semw pt 9 1) (counting 0xFFFF) (fun u => u.ctxHere.st == .parked) = true
    ∧ after (.semr pt 1 9) (counting 0xFFFF) (fun u => u.regsHere.getS 1 == 0xFFFF) = true
    ∧ after (.garm pt 15) st0 (fun u => u.here.guards[15] == none) = true
    ∧ after (.gres pt 3 0 true) st0 (fun u => u.here.guards[3] == some false) = true
    ∧ after (.ewait pt true true true) st0 (fun u => u.ctxHere.pc == 0x1010) = true
    ∧ after (.ewait pt true false false) queueFull (fun u => u.ctxHere.st == .parked) = true := by decide +kernel

/-- A deterministic launch. -/
def bdet : Binding := { b0 with det := true }

def detState : State := onCore (fun c => { c with bound := some bdet })

theorem wit_deterministic : Clear detState bdet (.semr pt 1 9) ∧ bdet.det = true ∧ Clear detState bdet (.clkr pt 1)
    ∧ after (.clkr pt 1) (detState.modCtx ⟨0, 0, 0⟩ (fun x => { x with trap := { x.trap with tvec := 0x2000 } }))
      (fun u => u.ctxHere.trap.tcause == 0x8000000000000012 && u.ctxHere.trap.taux == 0xE2) = true := by decide +kernel

/-- A copy of the context has halted, its fault deferred. -/
def copyHalted : State := handling (onCore (fun c => { c with
  cx := [{ cmd0 with instr := .cpyFetch pt 1 2 3 4 Sync.none, started := true, halted := some ⟨0x19, 0x10000, 0⟩ }] }.modCtx 0 (fun x =>
    { x with deferred := some ⟨0x19, 0x10000, 0, 0, false, none⟩ })))

theorem wit_engine_wait_faults : Clear copyHalted b0 (.ewait pt false true false) ∧ copyHalted.ctxHere.canEnter = true
    ∧ after (.ewait pt false true false) copyHalted (fun u => inTrap 0x19 0 u && u.ctxHere.deferred == none && u.ctxHere.trap.tpc == 0x1000) = true
    ∧ after (.garm pt 3) (handling detState) (fun u => u.here.guards[3] == none || inTrap Cause.nondet 0xD0 u) = true
    ∧ after (.semr pt 1 9) (handling detState) (inTrap Cause.nondet 0xCF) = true
    ∧ after (.tlbf pt .all) (st0.modDev 0 (fun x => { x with walks := [⟨0, .ctx 0 0, 0, 0x1000⟩] })) (fun u => u.ctxHere.st == .stalled) = true
    ∧ after (.mfs pt 1 0x101) (handling st0) (inTrap Cause.levelRange 1) = true
    ∧ after (.mfs pt 1 0x100) st0 (fun u => u.regsHere.getS 1 != 0) = true := by decide +kernel

/-! ## System instructions (R282-R285) -/

theorem wit_special_reads : Clear st0 b0 (.mfs pt 1 0x010) ∧ Clear st0 b0 (.mfs pt 1 0x101) ∧ 0x100 + b0.tree.length ≤ (0x101 : BitVec 12).toNat
    ∧ after (.mfs pt 1 0x010) st0 (fun u => u.regsHere.getS 1 == 0x1003) = true
    ∧ after (.mfs pt 1 0x028) st0 (fun u => u.regsHere.getS 1 == 0x10101) = true
    ∧ after (.mfs pt 1 0x0FF) (withS [(1, 5)]) (fun u => u.regsHere.getS 1 == 0) = true := by decide +kernel

theorem wit_special_writes : Clear st0 b0 (.mts pt 1 0x00C)
    ∧ after (.mts pt 1 0x00C) (withS [(1, 0xFFF)]) (fun u => u.regsHere.flags == 0x7F) = true
    ∧ after (.mts pt 1 0x019) (inHandler 0) (fun u => u.ctxHere.trap.tcause == 0x8000000000000000) = true
    ∧ after (.mts pt 1 0x000) (withS [(1, 9)]) (fun u => u.ctxHere.pc == 0x1008) = true
    ∧ after (.mts pt 1 0x028) (withS [(1, 0xFFFFFFFF)]) (fun u => u.here.arbw == 0xFFFFFF) = true := by decide +kernel

theorem wit_clock_random : Clear st0 b0 (.clkr pt 1) ∧ (st0.envHere b0).walking = false ∧ Clear st0 b0 (.rngr pt 1)
    ∧ after (.clkr pt 1) st0 (fun u => u.regsHere.getS 1 == 0) = true ∧ after (.rngr pt 1) st0 (fun u => u.regsHere.rngctr == 1) = true
    ∧ after (.tlbf pt (.page 1)) (withS [(1, 0x1FFF)]) (fun u => u.here.tlb.isEmpty) = true
    ∧ after (.tlbf pt .all) st0 (fun u => u.here.tlb.isEmpty) = true := by decide +kernel

/-! ## What reaches a context or a core from outside its instructions -/

/-- A handler at 0x2000, and the given region and wait. -/
def limit (f : Context → Context) : State := onCtx (fun x => f { x with trap := { x.trap with tvec := 0x2000 } })

/-- Whether context 0 has entered its handler with that cause and detail. -/
def trappedWith (cause aux : Word) (u : State) : Bool :=
  u.ctxHere.pc == 0x2000 && u.ctxHere.trap.tcause == 0x8000000000000000 + cause && u.ctxHere.trap.taux == aux && u.ctxHere.wait == none

def w9 : Wait := ⟨.semw pt 9 1, 0, 9, true, 0, 0, none, false⟩

theorem wit_limits : (limit id).liveCtx who0 = true ∧ (limit id).ctxHere.canEnter = true
    ∧ after (.regionTooLong who0) (limit fun x => { x with region := { x.region with d := false, cycles := 65536 } }) (trappedWith 0xB 0x1000) = true
    ∧ after (.parkTimeout who0) (limit fun x => { x with wait := some w9, watchdog := 2 ^ 32 }) (trappedWith 0x1B 9) = true
    ∧ after (.pairRegionLimit who0) ((limit fun x => { x with region := { x.region with retired := 4096 } }).modCore1 0 0
      (fun c => { c with bound := some { b0 with pair := true, peer := some 1 } })) (trappedWith 0xB 0x1000) = true := by decide +kernel

theorem wit_timeout_event : ((limit fun x => { x with st := .parked, wait := some w9, watchdog := 2 ^ 32 }).eventNow who0 w9).isNone
    ∧ after (.parkTimeout who0) ((limit fun x => { x with st := .parked, wait := some w9, watchdog := 2 ^ 32 }).modCore1 0 0
      (fun c => { c with sems := [(9, 5)] })) (fun u => u.ctxHere.st == .ready && u.ctxHere.pc != 0x2000) = true := by decide +kernel

/-- Releasing its egress buffer. -/
def releasing (e : Egress) : State := onCtx (fun x => { x with committing := true, egress := [e, .sems 1 1] })

/-- A .cnt join of s2 = 3 at s1 = 0x10008, on a page that the core's TLB holds. -/
def releasingJoin : State := (releasing (.join (.join pt .cnt .w32 none 2 1 (.imm 0)))).modCore1 0 0 (fun c =>
  { c with tlb := page .cnt .w32 :: c.tlb }.modCtx 0 (fun x => { x with regs := (x.regs.setS 1 0x10008).setS 2 3 }))

theorem wit_egress : Alone (releasing (.sems 9 2)) 0 0 b0 ∧ b0.checker = false
    ∧ after (.egressRelease who0) (releasing (.sems 9 2)) (fun u => u.here.sems == [(9, 2)] && u.ctxHere.egress.length == 1) = true
    ∧ after (.egressRelease who0) releasingJoin (fun u => u.net.length == 1 && u.ctxHere.out.length == 1) = true
    ∧ after (.recovTake who0 1) (onCore fun c => { c with recov := [3, 5] }) (fun u => u.here.recov == [5]) = true := by decide +kernel

theorem wit_egress_posts : b0.cores[(0 : Word).toNat]? = some (0, 0)
    ∧ after (.egressRelease who0) (releasing (.push 0 0x40 (List.replicate 16 1) false false)) (fun u => u.net.length == 1 && u.ctxHere.out.length == 1
      && u.ctxHere.egress.length == 1) = true
    ∧ after (.egressRelease who0) (releasing (.cmd (.send pt 1 2 3 16 0 Sync.none))) (fun u => u.here.cx.length == 1 && u.net.isEmpty) = true
    ∧ after (.egressRelease who0) ((posted releasingJoin 1024).modCtx who0 (fun x => { x with wait := some w9 })) (fun u =>
      u.net.isEmpty && u.ctxHere.egress.length == 2 && u.ctxHere.wait.any (fun v => v.code == 12)) = true := by decide +kernel

/-- Core 0 has arrived at level 0, counted or not. -/
def atBarrier (counted : Bool) : State := onCore (fun c => { c with
  arrivals := [⟨0, 1, [], counted, false, some (.max, 6), false, none, false⟩], gens := [(0, 1)] })

theorem wit_barrier_release : (atBarrier true).bindingOf ⟨0, 0⟩ = some b0 ∧ (b0.level? 0).isSome = true
    ∧ (nodeMembers b0.tree 0 0).filterMap b0.place = [(0, 0)]
    ∧ after (.barrierRelease ⟨0, 0⟩ 0 0) (atBarrier true) (fun u => u.here.arrivals.all (fun a => a.released && a.result == some 6)) = true
    ∧ after (.barrierRelease ⟨0, 0⟩ 0 0) (atBarrier false) (fun u => u.here.arrivals.all (fun a => !a.released)) = true := by decide +kernel

theorem wit_barrier_bad : (atBarrier true).here.arrivals.length = 1
    ∧ after (.barrierRelease ⟨0, 0⟩ 0 0) (onCore fun c => { c with
      arrivals := [⟨0, 1, [], true, false, some (.max, 6), true, none, false⟩], gens := [(0, 1)] }) (fun u =>
        u.here.arrivals.all (fun a => a.released && a.bad && a.result == some 6)) = true
    ∧ voteResult .and [6, 3] = 2 ∧ voteResult .or [6, 3] = 7 ∧ voteResult .max [6, 3] = 6 := by decide +kernel

/-- Address space 0's table at 0: root table at 0x100000, and pages 0x00000000 to 0x001FFFFF of the given leaf at level 4. -/
def tables (leaf : Nat) : State :=
  let l : List (Nat × Nat) := [(0, 1 + 0x100000), (0x100000, 1 + 2 ^ 14 * 0x101), (0x101000, 1 + 2 ^ 14 * 0x102), (0x102000, 1 + 2 ^ 14 * 0x103), (0x103000, leaf)]
  st0.modDev 0 (fun x => { x with mem := l.foldl (fun m p => cellsWrite m p.1 (natBytes 8 p.2)) x.mem })

/-- A 2 MB leaf of kind code k and width code w at frame 0, with J, T, X and F. -/
def leafOf (k w : Nat) : Nat := 3 + 8 * k + 64 * w + 0xF00

def walked (u : Except Trap Tlb) (k : Kind) (w : Width) : Bool :=
  match u with
  | .ok t => t.kind == k && t.wd == w && t.bits == 21 && t.pa == 0
  | .error _ => false

def asks : State := (tables (leafOf 0 2)).modDev 0 (fun x => { x with walks := [⟨0, .ctx 0 0, 0, 0x1234⟩] })

theorem wit_walk : walked (walk asks 0 0 0 0x1234) .max .w32 = true ∧ Alone asks 0 0 b0
    ∧ after (.walkComplete 0 0) asks (fun u => u.here.tlb.length == 2 && (u.device 0).walks.isEmpty) = true := by decide +kernel

def landing : Landing := ⟨who0, 4, none, 0, 0, 0x40, [1, 2, 3, 4, 5, 6, 7, 8, 9, 10, 11, 12, 13, 14, 15, 16], 0, false, false, ⟨0, 0⟩, false⟩

/-- A plan that lets core 0 push to itself at granules 4 and 5. -/
def bplan : Binding := { b0 with plan := ⟨0, [1], 1, [((0, 0, 0), [⟨0, 4, 2⟩])]⟩ }

def receiver (f : Core → Core) : State := { onCore (fun c => f { c with bound := some bplan }) with net := [⟨0, none, 0x010101, .land landing⟩] }

theorem wit_landing : (((receiver id).device 0).coreOf ⟨0, 0⟩ 0).any (fun p => p.1 == 0) = true ∧ bplan.admits Plan.zero landing = true
    ∧ after (.pushLanding 0) (receiver id) (fun u => cellRead u.here.ls.bytes 0x4F == 16 && u.here.ls.full == [4] && u.net.length == 1) = true
    ∧ after (.heldLandingRelease 0 0 0) (receiver fun c => { c with held := [landing] }) (fun u => u.here.ls.full == [4] && u.here.held.isEmpty) = true := by
  decide +kernel

/-- Landings that are refused: beside the window, and of another TOPX. -/
def refusedLanding (l : Landing) : State := { receiver id with net := [⟨0, none, 0x010101, .land l⟩] }

theorem wit_landing_refused : bplan.admits Plan.zero { landing with off := 0x80 } = false ∧ landing.passed = false ∧ landing.seq = Plan.zero.seq
    ∧ after (.pushLanding 0) (refusedLanding { landing with off := 0x80 }) (fun u => u.here.ls.full.isEmpty
      && u.net == [⟨0, none, 0x010101, .landAck who0 4 none (some ⟨Cause.exchangeViolation, 0x80, 0⟩)⟩]) = true
    ∧ after (.pushLanding 0) (refusedLanding { landing with typed := true, topx := true }) (fun u => u.here.ls.full.isEmpty
      && u.ctxHere.deferred.any (fun f => f.cause == Cause.topxMismatch)
      && u.net == [⟨0, none, 0x010101, .landAck who0 4 none (some ⟨Cause.topxMismatch, 0x40, 0⟩)⟩]) = true
    ∧ after (.heldLandingRelease 0 0 0) (receiver fun c => { c with held := [{ landing with off := 0x80, passed := true }] }) (fun u =>
      u.here.ls.full == [8] && u.here.held.isEmpty) = true := by decide +kernel

/-- A read window's line on its way, and an MSWAP with nothing left to wait for. -/
def filling : State := { onCore (fun c => { c with
    stash := c.stash.set 1 (some ⟨7, 4, 0x10000, 1, false, .max, .w32, [0]⟩) }) with net := [⟨0, none, 0x010101, .answer (.stash 0 0 1 7 0) (.data (List.replicate 64 3))⟩] }

def swapping : State := onCore (fun c => (c.setAcc false ⟨Bank.zero, { Bank.zero with el := [5] }, [(0, [])], []⟩).modCtx 0
  (fun x => { x with st := .parked, wait := some { w9 with instr := .mswap pt false } }))

theorem wit_fill_swap : (filling.here.window 1).isSome = true
    ∧ after (.stashFill 0) filling (fun u => u.here.ls.full == [4, 5, 6, 7] && (u.here.window 1).all (fun w => w.busy.isEmpty)) = true
    ∧ after (.mswapExchange who0) swapping (fun u => (u.here.acc false).work.el == [5] && u.ctxHere.st == .ready && u.ctxHere.pc == 0x1010) = true := by
  decide +kernel

/-! ## The homes (R50-R66) -/

theorem wit_join_laws : (5 : Nat) < 2 ^ 8 ∧ joinVal .max 8 5 9 = 9 ∧ joinVal .min 8 5 9 = 5 ∧ joinVal .or 8 5 9 = 13 ∧ joinVal .cnt 8 250 9 = 255
    ∧ passed .max 9 9 = true ∧ passed .min 9 9 = true ∧ bottomOf .min 8 = 255 := by decide +kernel

/-- A request to line 0x800 of device 0, whose first element is 5. -/
def homeReq (r : Req) (f : Line → Line) : State :=
  { st0.modDev 0 (fun x => { x with mem := cellsWrite x.mem 0x20000 [5], lines := aset x.lines 0x800 (f { Line.fresh with kind := some .max, wd := .w32 }) }) with
    net := [⟨0, none, 0x010101, .req 0x800 (some ⟨0, 0⟩) r⟩] }

def part : Part := ⟨.ctx who0 4, some ⟨0, 0⟩, 0, 0x10000, .elems .max .w32 [(0, 9)]⟩

theorem wit_home_join : (homeReq (.join [part]) id).atHome 0 = some (0, 0x800, 0x010101, some ⟨0, 0⟩, .join [part])
    ∧ after (.rsuJoin 0) (homeReq (.join [part]) id) (fun u => cellRead (u.device 0).mem 0x20000 == 9 && u.net.length == 1) = true
    ∧ after (.rsuJoin 0) (homeReq (.join [part]) (fun l => { l with frozen := true })) (fun u => cellRead (u.device 0).mem 0x20000 == 5
      && u.net == [⟨0, none, 0x010101, .ack (.ctx who0 4) (some ⟨Cause.writeAfterFreeze, 0x10000, 0⟩)⟩]) = true
    ∧ after (.rsuJoin 0) { st0 with net := [⟨0, none, 0x010101, .count ⟨0, 0⟩ 1 0⟩] } (fun u => u.barrierCount ⟨0, 0⟩ 0 1 0 == 1 && u.net.isEmpty) = true := by
  decide +kernel

/-- A request to line 0x800 of some kind, with version 5 and nibbles 0 to 3 of granule 1 written as 0x4321. -/
def homeOf (k : Kind) (r : Req) : State := (homeReq r (fun l => { l with kind := some k, ver := 5, masks := l.masks.set 1 0xF })).modDev 0 (fun x =>
  { x with mem := cellsWrite x.mem 0x20000 (List.replicate 16 0 ++ [0x21, 0x43]) })

def joins (k : Kind) (j : JoinData) : State := homeOf k (.join [{ part with data := j }])

/-- Whether the home has acknowledged with a cause, 0 for none. -/
def acked (cause : Nat) (u : State) : Bool := u.net.length == 1 && u.net.all (fun m => match m.body with
  | .ack _ t => (t.map (·.cause)).getD 0 == cause
  | _ => false)

theorem wit_fill_join : after (.rsuJoin 0) (joins .fill (.fill 1 0x30 0x650000)) (fun u => acked 0 u && cellsRead (u.device 0).mem 0x20010 3 == [0x21, 0x43, 0x65]
      && ((u.device 0).line 0x800).masks[1] == 0x3F) = true
    ∧ after (.rsuJoin 0) (joins .fill (.fill 1 0x8 0x5000)) (fun u => acked Cause.latticeConflict u && cellsRead (u.device 0).mem 0x20010 2 == [0x21, 0x43]) = true := by
  decide +kernel

theorem wit_ver_join : after (.rsuJoin 0) (joins .ver (.ver 6 9)) (fun u => acked 0 u && ((u.device 0).line 0x800).ver == 6 && cellRead (u.device 0).mem 0x20000 == 9) = true
    ∧ after (.rsuJoin 0) (joins .ver (.ver 5 9)) (acked Cause.latticeConflict) = true
    ∧ after (.rsuJoin 0) (joins .ver (.ver 5 (0x4321 <<< 128))) (fun u => acked 0 u && ((u.device 0).line 0x800).ver == 5) = true
    ∧ after (.rsuJoin 0) (joins .ver (.ver 4 9)) (acked Cause.staleVersion) = true
    ∧ after (.rsuJoin 0) (joins .ver (.ver 7 9)) (fun u => u.net.isEmpty && (u.device 0).park.length == 1) = true := by decide +kernel

theorem wit_system_lines : after (.rsuJoin 0) (homeOf .system (.swrite (.cur 0 0 1) [7, 8])) (fun u => cellsRead (u.device 0).mem 0x20000 2 == [7, 8]
      && u.net == [⟨0, none, 0x010101, .answer (.cur 0 0 1) .ok⟩]) = true
    ∧ after (.rsuExactRead 0) (homeOf .system (.sread (.cur 0 0 1) 0)) (fun u => u.net.all (fun m => match m.body with
      | .answer _ (.data bs) => bs.drop 16 == [0x21, 0x43] ++ List.replicate 46 0
      | _ => false)) = true
    ∧ after (.rsuJoin 0) (homeOf .min (.bottom (.cur 0 0 1) .min)) (fun u => cellsRead (u.device 0).mem 0x20000 64 == List.replicate 64 255
      && (u.device 0).line 0x800 == { Line.fresh with kind := some .min }) = true := by decide +kernel

def trd (v : Word) : Req := .tread (.ctx who0 4) 0x10000 .max .w32 0 [v]

def xrd : Req := .xread (.ctx who0 4) 0x10000 .max .w32 0 4 0

theorem wit_home_reads : after (.rsuThresholdRead 0) (homeReq (trd 5) id) (fun u => u.net == [⟨0, none, 0x010101, .answer (.ctx who0 4) (.index 0)⟩]) = true
    ∧ after (.rsuThresholdRead 0) (homeReq (trd 6) id) (fun u => u.net.isEmpty && (u.device 0).park.length == 1) = true
    ∧ after (.rsuExactRead 0) (homeReq xrd id) (fun u => u.net.isEmpty && (u.device 0).park.length == 1) = true
    ∧ after (.rsuExactRead 0) (homeReq xrd (fun l => { l with frozen := true })) (fun u =>
      u.net == [⟨0, none, 0x010101, .answer (.ctx who0 4) (.data [5, 0, 0, 0])⟩]) = true
    ∧ after (.rsuFreeze 0) (homeReq (.freeze (.ctx who0 4) 0x10000 .max .w32) id) (fun u => ((u.device 0).line 0x800).frozen
      && u.net == [⟨0, none, 0x010101, .answer (.ctx who0 4) .ok⟩]) = true := by decide +kernel

/-- Waiting for the answer with number 4, which is there. -/
def waiting (i : Instr) (left : Nat) (b : Body) : State :=
  { onCtx (fun x => { x with st := .parked, wait := some ⟨i, 4, 1, false, 0, left, none, false⟩, out := [⟨4, [], true⟩] }) with net := [⟨0, none, 0x010101, b⟩] }

theorem wit_answers : Alone (waiting (.xread pt .max .w32 2 1 (.imm 0)) 1 .void) 0 0 b0
    ∧ after (.wake 0) (waiting (.tread pt .max .w32 none 0 2 1 (.imm 0)) 1 (.answer (.ctx who0 4) (.index 2))) (fun u => u.regsHere.getS 2 == 2
      && u.ctxHere.st == .ready && u.net.isEmpty) = true
    ∧ after (.wake 0) (waiting (.xread pt .max .w32 2 1 (.imm 0)) 1 (.answer (.ctx who0 4) (.data [5, 1, 0, 0]))) (fun u => u.regsHere.getS 2 == 0x105) = true
    ∧ after (.wake 0) (waiting (.xreadv pt .fill 2 1 (.imm 0)) 1 (.answer (.ctx who0 4) (.data (List.replicate 16 1)))) (fun u =>
      (u.regsHere.getV 2).tag == 0 && lane u.regsHere 1 2 15 == 1) = true := by decide +kernel

theorem wit_acks : after (.freezeAck 0) (waiting (.frz pt 1 2 (.imm 0)) 1 (.answer (.ctx who0 4) .ok)) (fun u => u.ctxHere.st == .ready && u.ctxHere.pc == 0x1008) = true
    ∧ after (.freezeAck 0) (waiting (.frz pt 1 2 (.imm 0)) 2 (.answer (.ctx who0 4) .ok)) (fun u => u.ctxHere.wait.any (fun w => w.left == 1)) = true
    ∧ after (.ackArrival 0) (waiting (.frz pt 1 2 (.imm 0)) 2 (.ack (.ctx who0 4) none)) (fun u => u.ctxHere.out.isEmpty) = true
    ∧ after (.parkRetry 0) (st0.modDev 0 (fun x => { x with retry := [⟨0x010101, .req 0x800 none xrd, 256⟩] })) (fun u => u.net.length == 1) = true := by decide +kernel

/-! ## The mesh and the fabric (R67, R68, R296-R306, R378-R383) -/

def joinMsg (held : Option Nat) (off : Nat) (who : Nat) : Msg :=
  ⟨0, held, 0x010101, .req 0x800 none (.join [⟨.ctx ⟨0, 0, who⟩ 4, none, 0, 0x10000, .elems .max .w32 [(off, 9)]⟩])⟩

def meshed (l : List Msg) : State := { st0 with net := l }

theorem wit_mesh : after (.routerJoinMerge 0 1) (meshed [joinMsg (some 64) 0 0, joinMsg none 0 1]) (fun u => u.net.length == 1) = true
    ∧ after (.routerJoinMerge 0 1) (meshed [joinMsg (some 65) 0 0, joinMsg none 0 1]) (fun u => u.net.length == 2) = true
    ∧ after (.routerCombineTimeout 0) (meshed [joinMsg (some 64) 0 0]) (fun u => u.net == [joinMsg none 0 0]) = true
    ∧ after (.routerCombineTimeout 0) (meshed [joinMsg (some 63) 0 0]) (fun u => u.net == [joinMsg (some 63) 0 0]) = true := by decide +kernel

def packet (sw held : Option Nat) (seq : Nat) (body : Body) : FabPkt := ⟨0, 0, .control, 0x010101, none, sw, held, false, .packet [⟨5, seq, body⟩]⟩

/-- A switch that delivers to device 0. -/
def switch0 : Switch := ⟨0, [(0, 0)], [], [], [], [], []⟩

/-- One packet in the fabric, with one switch, which delivers to device 0; 7 is expected next from device 5. -/
def fabric (p : FabPkt) : State :=
  { st0.modDev 0 (fun x => { x with seqIn := [(5, 7)] }) with fab := [p], switches := [(3, switch0)] }

def body0 : Body := .ack (.ctx who0 4) none

theorem wit_switch : after (.switchJoinHoldTimeout 0) (fabric (packet (some 3) (some 128) 0 body0)) (fun u => u.fab.all (fun p => p.held.isNone)) = true
    ∧ after (.switchForward 0) (fabric { packet (some 3) none 0 body0 with rver := 1 }) (fun u => u.fab.isEmpty) = true
    ∧ after (.switchForward 0) (fabric (packet (some 3) none 0 body0)) (fun u => u.fab == [packet none none 0 body0]) = true := by decide +kernel

theorem wit_packets : seqBehind 6 7 = true ∧ seqBehind 0xFFFFFFFF 0 = true
    ∧ after (.fabricPacketReceive 0) (fabric (packet none none 7 body0)) (fun u => u.net.length == 1 && u.fab.length == 1
      && acount (u.device 0).seqIn 5 == 8) = true
    ∧ after (.fabricPacketReceive 0) (fabric (packet none none 6 body0)) (fun u => u.net.isEmpty && u.fab.length == 1
      && acount (u.device 0).seqIn 5 == 7) = true := by decide +kernel

/-- A packet that a device's port has not sent, of a class. -/
def atPort (cls : Cls) : FabPkt := { packet none none 7 body0 with out := some 0, cls := cls }

theorem wit_ports : after (.switchForward 0) { st0 with fab := [atPort .control] } (fun u => u.fab == [packet none none 7 body0]) = true
    ∧ after (.switchForward 0) { st0 with fab := [{ atPort .coll with kind := .packet [⟨6, 7, body0⟩] }, atPort .control] } (fun u => u.fab.map (·.out) == [some 0, some 0]) = true
    ∧ (packet (some 3) none 0 body0).broken = false ∧ ({ packet (some 3) none 0 body0 with bad := true } : FabPkt).broken = true
    ∧ after (.switchForward 0) (fabric { packet (some 3) none 0 body0 with bad := true }) (fun u => u.fab.isEmpty
      && u.switches.all (fun k => k.2.evlog.map (·.cause) == [Cause.pktMalformed])) = true
    ∧ seqBehind 8 7 = false ∧ after (.fabricPacketReceive 0) (fabric (packet none none 8 body0)) (fun u => u.net.isEmpty && u.fab.isEmpty) = true := by
  decide +kernel

/-- A packet to device 5 in the retry store, of an age. -/
def sent (age sends : Nat) : State := { st0.modDev 0 (fun x => { x with store := [⟨5, 9, .control, 0x010101, body0, none, sends, age, true⟩] }) with
  fab := [⟨0, 0, .control, 0, none, none, none, false, .ack 5 9⟩] }

theorem wit_retry : after (.fabricAck 0) (sent 0 1) (fun u => (u.device 0).store.isEmpty && u.fab.isEmpty) = true
    ∧ after (.replayTimeout 0 0) { sent (2 ^ 24) 1 with fab := [] } (fun u => (u.device 0).store.all (fun p => p.sends == 2 && p.age == 0) && u.fab.length == 1) = true
    ∧ after (.replayTimeout 0 0) { sent (2 ^ 24) 7 with fab := [] } (fun u => (u.device 0).store.all (fun p => p.sends == 8)) = true
    ∧ after (.replayTimeout 0 0) (sent (2 ^ 24) 7) (fun u => (u.device 0).store.isEmpty && u.fab.isEmpty) = true
    ∧ after (.seqReset 0) { fabric (packet none none 7 body0) with net := [⟨0, none, 0x010101, .seqReset 5⟩] } (fun u => acount (u.device 0).seqIn 5 == 0
      && u.fab.length == 2) = true := by decide +kernel

theorem wit_unreachable : after (.replayTimeout 0 0) { sent (2 ^ 24) 8 with fab := [] } (fun u => (u.device 0).store.isEmpty && (u.device 0).needReset == [5]) = true
    ∧ after (.fabricAck 0) ((sent 0 1).modDev 0 (fun x => { x with portq := [⟨5, 0, .control, 0x010101, body0, none, 0, 0, true⟩] })) (fun u =>
      (u.device 0).portq.isEmpty && u.fab.length == 1) = true := by decide +kernel

def withPort (p : Port) : State := st0.modDev 0 (fun x => { x with ports := [(3, p)] })

theorem wit_links : after (.linkDown 0 3) (withPort ⟨false, 16, none⟩) (fun u => ((u.device 0).port 3).down) = true
    ∧ after (.linkDown 0 3) (withPort ⟨false, 0, some 10000⟩) (fun u => ((u.device 0).port 3).down) = true
    ∧ after (.flitCrcError 0 3) st0 (fun u => ((u.device 0).port 3).lost == none) = true
    ∧ after (.laneLockLoss 0 35) st0 (fun u => ((u.device 0).port 35).lost == some 0) = true
    ∧ after (.laneLockRegain 0 3) (withPort ⟨false, 0, some 9999⟩) (fun u => ((u.device 0).port 3).lost == none) = true := by decide +kernel

theorem wit_routes : (st0.device 0).store = [] ∧ State.reset.launchesOf 0 = []
    ∧ after (.routeVersion 0 0x10002 [7] false) st0 (fun u => (u.device 0).rver == 2 && (u.device 0).needReset.contains 7) = true
    ∧ after (.switchTableInstall 3 5 [(0, 0)]) st0 (fun u => (aget u.switches 3).any (fun k => k.ver == 5 && k.deficit.isEmpty)) = true
    ∧ after (.deviceLost 0) State.reset (fun u => (u.device 0).lost && (u.device 0).mem.isEmpty && (u.device 0).cores.isEmpty) = true := by decide +kernel

/-! ## Engines and collectives (R99-R103, R276, R286-R297, R382) -/

def head (y : Sync) (started : Bool) (sems : Nat) (g : Option Bool) : State := onCore (fun c =>
  { c.setAcc false ⟨{ Bank.zero with el := [5] }, Bank.zero, [], []⟩ with
    mx := [{ cmd0 with instr := .mzero pt 5 false y, started := started }], sems := [(1, sems)], guards := c.guards.set 2 g })

theorem wit_engine_heads : ((head ⟨some (1, 3), none, none⟩ false 2 none).here.headDec cmd0) = .runs
    ∧ after (.engineCmdHead 0 0 .mx) (head ⟨some (1, 3), none, none⟩ false 2 none) (fun u => u.here.mx.all (fun k => !k.started) && u.here.mx.length == 1) = true
    ∧ after (.engineCmdHead 0 0 .mx) (head ⟨some (1, 3), none, some 2⟩ false 3 (some false)) (fun u => u.here.mx.isEmpty && (u.here.acc false).work.el == [5]) = true
    ∧ after (.engineCmdHead 0 0 .mx) (head ⟨some (1, 3), none, none⟩ false 3 none) (fun u => (u.here.acc false).work.el == []
      && (u.here.acc false).work.isInt) = true
    ∧ after (.engineCmdComplete 0 0 .mx) (head ⟨none, some (1, 9), none⟩ true 0xFFFF none) (fun u => u.here.mx.isEmpty && u.here.sems == [(1, 8)]) = true := by
  decide +kernel

theorem wit_head_steps : ((head ⟨some (1, 3), none, some 2⟩ false 3 none).here.headDec { cmd0 with instr := .mzero pt 5 false ⟨some (1, 3), none, some 2⟩ }) = .waits .guard
    ∧ ((head ⟨some (1, 3), none, some 2⟩ false 0 none).here.headDec { cmd0 with instr := .mzero pt 5 false ⟨some (1, 3), none, some 2⟩, step := .guard })
      = .waits .guard
    ∧ after (.engineCmdHead 0 0 .mx) (head ⟨some (1, 3), none, some 2⟩ false 3 none) (fun u => u.here.mx.map (·.step) == [.guard]) = true
    ∧ after (.engineCmdHead 0 0 .mx) ((head ⟨none, none, none⟩ false 0 none).modCore1 0 0 (fun c => c.setAcc false { c.acc false with swap := [(0, [])] }))
      (fun u => u.here.mx.map (·.step) == [.run] && (u.here.acc false).work.el == [5]) = true := by decide +kernel

/-- A command at the head of the copy queue or the port, that waits for token 0. -/
def engineWaits (i : Instr) (await : List Nat) (b : Body) : State :=
  let k : Cmd := { cmd0 with instr := i, d := 0x40, a := 0x80, b := 64, started := true, await := await }
  { (onCore (fun c => { c with cx := [k], port := [k] })).modDev 0 (fun x => { x with bar0 := { x.bar0 with capool := 0x10000 } }) with net := [⟨0, none, 0x010101, b⟩] }

theorem wit_engine_answers : after (.cpyFetchLine 0) (engineWaits (.cpyFetch pt 1 2 3 4 Sync.none) [0] (.answer (.cmd 0 0 .cx 1 0) (.data (List.replicate 64 7))))
      (fun u => u.here.ls.full == [4, 5, 6, 7] && u.net.isEmpty) = true
    ∧ after (.collLatticeWait 0) (engineWaits (.coll pt 0 0x02 7 1 2 3 4 none Sync.none) [0] (.answer (.lattice 0 0 1) (.index 0)))
      (fun u => u.here.port.all (fun k => k.await.isEmpty)) = true := by decide +kernel

/-- A copy, or a SEND, at the head of the copy queue. -/
def headCx (i : Instr) (started : Bool) (off : Nat) (st : State) : State := st.modCore1 0 0 (fun c => { c with
  ls := ⟨cellsWrite [] 0x40 [5], [], []⟩, sems := [(1, 4)], bound := some { b0 with cores := [(0, 0)] }
  cx := [{ cmd0 with instr := i, d := 0x40, a := 0x10000, b := 64, ver := 6, off := off, started := started, step := if started then .run else .wait }] })

def sigs : Sync := ⟨none, some (1, 1), none⟩

theorem wit_copy_heads :
    after (.engineCmdHead 0 0 .cx) (headCx (.cpyFetch pt 1 2 3 4 sigs) false 0 st0) (fun u => u.here.cx.all (fun k => k.started && k.step == .run) && u.net.isEmpty) = true
    ∧ after (.engineCmdHead 0 0 .cx) (headCx (.cpyFetch pt 1 2 3 4 sigs) true 0 st0) (fun u => (u.device 0).walks.length == 1 && u.net.isEmpty) = true
    ∧ after (.engineCmdHead 0 0 .cx) (headCx (.cpyFetch pt 1 2 3 4 sigs) true 0 (paged .ver .w8 0 7)) (fun u => u.net.length == 1
      && u.here.cx.all (fun k => k.off == 64 && k.await == [0])) = true
    ∧ after (.engineCmdHead 0 0 .cx) (headCx (.cpyPutj pt 1 2 3 4 none sigs) true 0 (paged .ver .w8 0 7)) (fun u => u.net.length == 1
      && u.here.cx.all (fun k => k.off == 64 && k.await == [0])) = true
    ∧ after (.engineCmdHead 0 0 .cx) (headCx (.cpyPutj pt 1 2 3 4 none sigs) true 0 (paged .fill .w8 0 7)) (fun u => u.net.length == 4) = true
    ∧ after (.engineCmdHead 0 0 .cx) (headCx (.cpyPutj pt 1 2 3 4 none sigs) true 0 (paged .max .w32 0 7)) (fun u => u.ctxHere.deferred.isSome
      && u.here.cx.all (·.halted.isSome)) = true := by decide +kernel

theorem wit_send_heads : after (.engineCmdHead 0 0 .cx) ((headCx (.send pt 1 2 3 0 7 sigs) false 0 st0).modCore1 0 0 (fun c =>
      { c with cx := c.cx.map (fun k => { k with a := 0 }) })) (fun u => u.net.length == 1 && u.here.cx.all (fun k => k.await == [0])) = true
    ∧ after (.engineCmdHead 0 0 .cx) (headCx (.send pt 1 2 3 0 7 sigs) false 0 st0) (fun u => u.here.cx.isEmpty && u.here.sems == [(1, 5)]
      && u.ctxHere.deferred.isSome) = true
    ∧ after (.engineCmdComplete 0 0 .cx) (headCx (.cpyFetch pt 1 2 3 4 sigs) true 64 st0) (fun u => u.here.cx.isEmpty && u.here.sems == [(1, 5)]) = true
    ∧ after (.cpyFetchLine 0) (engineWaits (.cpyFetch pt 1 2 3 4 Sync.none) [0] (.answer (.cmd 0 0 .cx 1 0) (.trap ⟨Cause.kindMismatch, 0x10000, 0⟩)))
      (fun u => u.here.ls.full == [4, 5, 6, 7] && u.here.ls.poison == [4, 5, 6, 7]) = true := by decide +kernel

def copying : State := engineWaits (.coll pt 0 0x02 7 1 2 3 4 none Sync.none) [] .void

theorem wit_source_copy : (copying.device 0).stageUsed + 64 ≤ (copying.device 0).stagePool ∧ Alone copying 0 0 b0
    ∧ after (.collSourceCopy 0 0) copying (fun u => u.here.port.isEmpty && (u.device 0).colls.any (fun q => q.mine.any (fun m => m.lcore == 0 && m.data.length == 64))) = true := by
  decide +kernel

def ckey : CollKey := ⟨⟨0, 0⟩, true, 63, 0, 0⟩

def coll0 : Coll :=
  { key := ckey, cop := 0x02, fmt := 7, len := 4, ver := 0, alg := 0, n := 1, root := 0, rootL := 0, devs := [0], mine := [], stage := .sending
    places := [0], via := [], rver := 0, got := [], sent := false, res := [], fb := false, landed := [], pend := [], failed := none }

def contrib : Contrib := ⟨0, 0, 0, [0, 0, 128, 63], false, true, [2, 7, 4, 0], 0, 0, 0x010101, 0, 1, [0], 0, 0, 1, true⟩

def collecting (c : Coll) (l : List Msg) : State := { st0.modDev 0 (fun x => { x with colls := [c] }) with net := l }

theorem wit_hops : (st0.device 0).grants? 0 ckey = true ∧ after (.collReserveHop 0) (collecting coll0 [⟨0, none, 0x010101, .reserve ckey 0 [0] []⟩])
    (fun u => (u.device 0).grants == [(ckey, 0)] && u.net == [⟨0, none, 0x010101, .reserved ckey true [0]⟩]) = true := by decide +kernel

/-- A packet of the collective, and what comes of it. -/
def hop (c : Coll) (b : Body) (f : State → Bool) : Bool := after (.collHopPacket 0) (collecting c [⟨0, none, 0x010101, b⟩]) f

theorem wit_collective_packets : unlike coll0.inputs.head? contrib = none ∧ holdsAll [contrib] 1 = true ∧ holdsAll [contrib] 2 = false
    ∧ hop { coll0 with n := 2 } (.coll ckey [.reduce 2 0 0] false contrib) (fun u => u.net.isEmpty && (u.device 0).colls.any (fun c => c.got == [(0, contrib)])) = true
    ∧ hop coll0 (.coll ckey [.reduce 1 0 0] false contrib) (fun u => u.net.length == 1 && (u.device 0).colls.any (·.sent)) = true
    ∧ hop coll0 (.result ckey [.multicast 0, .deposit] 0 ⟨0x02, 7, false, false⟩ 0 2 [0, 0, 128, 63]) (fun u =>
      u.net == [⟨0, none, 0x010101, .result ckey [.deposit] 0 ⟨0x02, 7, false, false⟩ 0 2 [0, 0, 128, 63]⟩]) = true
    ∧ hop coll0 (.result ckey [.deposit] 0 ⟨0x02, 7, false, false⟩ 0 2 [1]) (fun u => u.net.isEmpty && (u.device 0).colls.any (fun c => c.res == [(0, [1])])) = true
    ∧ hop coll0 (.landed ckey 0) (fun u => u.net == [⟨0, none, 0x010101, .finish ckey⟩]) = true
    ∧ hop { coll0 with n := 2 } (.landed ckey 0) (fun u => u.net.isEmpty && (u.device 0).colls.any (fun c => c.landed == [0])) = true := by decide +kernel

def summand : Contrib := { contrib with digest := [1, 7, 4, 0] }

/-- A slot of a switch that has held its first input for some cycles. -/
def atSwitch (age : Nat) : State := { collecting { coll0 with via := [(0, [3])] } [] with
  switches := [(3, { switch0 with slots := [⟨ckey, 0, 2, [0], 0, [(0, summand)], some age⟩] })] }

/-- Two members' inputs meet in a slot of switch 3, below rank 0's device. -/
def atRoot (ops : List CollAct) : State := { atSwitch 7 with
  fab := [⟨0, 0, .coll, 0x010101, none, some 3, none, false, .hop 9 (.coll ckey (.reduce 2 0 ownPort :: ops) false
    { summand with rank := 1, dev := 9, ranks := [1], stream := 1 })⟩] }

theorem wit_switch_reduces : (switch0.slot? ckey 0) = none
    ∧ after (.switchForward 0) (atRoot [.multicast 0, .deposit]) (fun u => u.switches.all (fun w => w.2.slots.isEmpty) && u.fab.map (·.dst) == [0, 0, 9]
      && u.fab.map (·.kind) == [.hop 0 (.result ckey [.multicast 0, .deposit] 0 ⟨0x01, 7, true, false⟩ 0 1 [0, 0, 0, 64]), .collAck ckey 0 0, .collAck ckey 1 0]) = true
    ∧ after (.switchForward 0) (atRoot [.reduce 2 1 ownPort, .multicast 0, .deposit]) (fun u => u.fab.length == 3 && u.fab.head?.any (fun p => match p.kind with
      | .hop 0 (.coll _ (.reduce 2 1 _ :: _) false m) => m.ranks == [0, 1]
      | _ => false)) = true
    ∧ after (.switchForward 0) { collecting { coll0 with via := [(0, [3])] } [] with switches := [(3, switch0)], fab := [{ packet (some 3) none 0 body0 with
        kind := .packet [⟨9, 0, .reserve ckey 0 [switchHop 3, 0] [9]⟩] }] } (fun u => u.switches.all (fun w => w.2.slots.length == 1)
      && u.fab.all (fun p => p.kind == .packet [⟨9, 0, .reserve ckey 0 [0] [9, switchHop 3]⟩])) = true := by decide +kernel

theorem wit_collectives : after (.collReserveRetry 0 0) (collecting { coll0 with stage := .refused 512 } []) (fun u =>
      u.net == [⟨0, none, 0x010101, .reserve ckey 0 [0] []⟩] && (u.device 0).colls.all (fun c => c.stage == .reserving)) = true
    ∧ after (.collHopPacket 0) (collecting coll0 [⟨0, none, 0x010101, .coll ckey [.forward 0, .deposit] false contrib⟩]) (fun u =>
      u.net == [⟨0, none, 0x010101, .coll ckey [.deposit] false contrib⟩]) = true
    ∧ after (.collHopPacket 0) (collecting coll0 [⟨0, none, 0x010101, .finish ckey⟩]) (fun u => (u.device 0).colls.isEmpty && u.net.isEmpty) = true
    ∧ after (.reduceSlotTimeout 0 0) (atSwitch 65536) (fun u => u.fab.length == 1 && u.switches.all (fun w => w.2.markers == [ckey] && w.2.slots.isEmpty)) = true
    ∧ after (.fallbackReduce 0 0) (collecting { coll0 with fb := true, got := [(0, contrib)] } []) (fun u => u.net.length == 1) = true := by decide +kernel

/-! ## The host link, the logs and the queues (R85, R86, R307-R315, R341, R342, R375, R389, R391, R405) -/

def onDev (f : Device → Device) : State := st0.modDev 0 f

/-- Pages of .fill kind, for BAR2. -/
def hostPages : State := tables (leafOf 5 0)

def bytes16 : List Byte := (List.range 16).map (BitVec.ofNat 8)

def isFillPage (r : Except Trap Tlb) : Bool :=
  match r with
  | .ok t => t.kind == .fill && (permTrap t .join 0x10010).isNone && gDev (t.phys 0x10010) == 0
  | .error _ => false

/-- A write of function 2 to pages of a leaf, and a check of what follows. -/
def wroteTo (leaf off : Nat) (bs : List Byte) (np : Bool) (f : State → Bool) : Bool :=
  after (.hostWrite 0 2 off bs (List.replicate bs.length true) np false) (tables leaf) f

def logs (u : State) (l : List Nat) : Bool := (u.device 0).errlog.map (·.cause) == l

theorem wit_host_write : isFillPage (walk hostPages 0 pd0 0 0x10010) = true ∧ (hostPages.device 0).servesIde 2 true = true
    ∧ (hostPages.device 0).servesIde 16 true = false ∧ wroteTo (leafOf 5 0) 0x10010 bytes16 true (fun u => u.net.length == 1) = true
    ∧ wroteTo (leafOf 0 2) 0x10010 bytes16 false (fun u => u.net.isEmpty && logs u [0x30] && u.resp == none) = true
    ∧ wroteTo (leafOf 0 2) 0x10010 bytes16 true (fun u => u.net.isEmpty && logs u [0x30] && u.resp == some .unsupported) = true
    ∧ wroteTo (leafOf 7 0) 0x10010 bytes16 false (fun u => logs u [0x30]) = true
    ∧ wroteTo (3 + 8 * 5) 0x10010 bytes16 false (fun u => logs u [0x16 + 3]) = true
    ∧ wroteTo (leafOf 5 0) 0x200010 bytes16 false (fun u => logs u [0x17]) = true := by decide +kernel

/-- 64 bytes of a line, version 7, and 60 zero bytes, or the last of them 1. -/
def bytes128 (last : Byte) : List Byte := List.replicate 64 3 ++ [7, 0, 0, 0] ++ List.replicate 59 0 ++ [last]

theorem wit_host_ver : wroteTo (leafOf 6 0) 0x20000 (bytes128 0) true (fun u => u.net.map (·.body) ==
      [.req 0x400 none (.join [⟨.host 0 2 0x20000 true, none, 0, 0x10000, .ver 7 (BitVec.ofNat 512 (leNat (List.replicate 64 3)))⟩])]) = true
    ∧ wroteTo (leafOf 6 0) 0x20000 (bytes128 1) false (fun u => logs u [0x31]) = true
    ∧ wroteTo (3 + 8 * 6) 0x20000 (bytes128 0) false (fun u => logs u [0x19]) = true
    ∧ wroteTo (leafOf 6 0) 0x20010 bytes16 false (fun u => logs u [0x31]) = true
    ∧ after (.hostWrite 0 2 0x10010 bytes16 (List.replicate 16 true) false true) (hostPages.modDev 0 (fun x => x.modFn 2 (fun f =>
      { f with hwapb := 1 <<< 57 }))) (fun u => logs u [0x16]) = true := by decide +kernel

theorem wit_windows : reservedG st0 0 0x1000 = false
    ∧ after (.obsRead 0 3 0x1038 8) (onDev fun x => { x with mem := cellsWrite x.mem 0x1038 [9] }) (fun u => u.resp == some (.value [9, 0, 0, 0, 0, 0, 0, 0])
      && u.net.isEmpty) = true
    ∧ after (.obsRead 0 3 (2 ^ 33 + 16) 16) (onDev fun x => { x with lines := [(0, { Line.fresh with kind := some .max, wd := .w32, frozen := true })] })
      (fun u => u.resp == some (.value (1 :: List.replicate 15 0))) = true
    ∧ after (.obsRead 0 16 0x1038 8) st0 (fun u => u.resp == none) = true ∧ after (.obsWrite 0 16 8) st0 (fun u => logs u []) = true
    ∧ after (.obsWrite 0 3 8) st0 (fun u => (u.device 0).errlog.map (·.cause) == [0x32]) = true
    ∧ after (.syswinWrite 0 3 0x2000 0x1234) st0 (fun u => leNat (u.readG 0x2000 8) == 0x1234) = true
    ∧ after (.regWrite 0 0 0x308 1600) st0 (fun u => (u.device 0).bar0.pwrcap == 1600) = true
    ∧ after (.regWrite 0 0 0x308 3201) st0 (fun u => (u.device 0).bar0.pwrcap == 3200 && (u.device 0).errlog.length == 1) = true
    ∧ after (.regWrite 0 5 0x1110 64) st0 (fun u => ((u.device 0).fn 5).obsbase == 64) = true := by decide +kernel

/-- With one event in each log. -/
def logged : State := onDev (fun x => { x with
  errlog := [⟨0x30, 2, 1, false, 0x40⟩], evlog := [⟨0x200, 5, false, 0x1270109⟩], bar0 := { x.bar0 with keybuf := [7] } })

theorem wit_requests : after (.errlog 0) logged (fun u => (u.device 0).errlog.isEmpty && u.resp == some (.value (natBytes 8 0x402120030))) = true
    ∧ after (.evlog 0) logged (fun u => (u.device 0).evlog.isEmpty && u.resp == some (.value (natBytes 8 0x049C042600050200))) = true
    ∧ after (.cseminc 0 0x0205) logged (fun u => acount (u.device 0).csems 5 == 2) = true
    ∧ after (.keysel 0 0x103) logged (fun u => aget (u.device 0).bar0.keys 3 == some [7]) = true
    ∧ after (.errlog 0) st0 (fun u => u.resp == some (.value (List.replicate 8 0))) = true
    ∧ after (.evlog 0) st0 (fun u => u.resp == some (.value (List.replicate 8 0))) = true ∧ (st0.device 0).serves 0 = true
    ∧ eccBad 0x30000 = true ∧ eccBad 0x0000000100340001 = false
    ∧ after (.eccinj 0 0x0000000100340001) logged (fun u => (u.core 0 1).eccArm == some (0, 0, 13) && u.here.eccArm == none) = true := by decide +kernel

theorem wit_interfaces : after (.tdispRequest 0 1 .run) st0 (fun u => ((u.device 0).fn 1).tdisp == .run) = true
    ∧ after (.spdmRequest 0 (.setupDomain 63)) st0 (fun u => (u.device 0).domains == [63]) = true ∧ (State.reset.device 0).reachable = false
    ∧ (∀ t : Fin 32, ((st0.device 0).slot t.val).cmd = none) := by decide +kernel

/-- A device that has come up, with a journal of 1,024 entries at 0x400000 and working memory at 0x800000, and a queue descriptor at
0x500000 whose ring of 256 packets is at 0x600000. -/
def curator (base : State) (f : Device → Device) : State := base.modDev 0 (fun x => f { x with
  mem := cellsWrite (cellsWrite x.mem 0x500000 (natBytes 8 0x600000)) 0x500008 (natBytes 8 (8 + 256 * 3))
  bar0 := { x.bar0 with step := 7, jbase := 0x40000A, cabase := 0x800000, casize := 0x400000 } })

/-- A mapped queue of function 2. -/
def mapped : QSlot := { QSlot.empty with desc := some 0x500000, base := 0x600000, lg := 8, prio := 3, fn := 2 }

def offered : State := curator st0 (fun x => { x with offers := [⟨0x500000, 3, false, none⟩] })

theorem wit_qadd : ((curator st0 id).device 0).memoryOk 0 = true ∧ descOk (curator st0 id) 0 0x500000 = true
    ∧ after (.qadd 0 0x500000) (curator st0 id) (fun u => (u.device 0).offers == [⟨0x500000, 3, false, none⟩]) = true
    ∧ after (.qdel 0 0x500000) offered (fun u => (u.device 0).offers.isEmpty) = true
    ∧ after (.queueMap 0) offered (fun u => ((u.device 0).slot 0).desc == some 0x500000 && ((u.device 0).slot 0).base == 0x600000) = true := by
  decide +kernel

def slotted (q : QSlot) : State := curator st0 (fun x => { x with qslots := [(0, q)], offers := [⟨0x500000, 3, true, some 0⟩] })

theorem wit_doorbells : ((slotted mapped).device 0).reaches (.host 2 false) 0 = true ∧ ((slotted mapped).device 0).reaches (.host 1 false) 0 = false
    ∧ ((slotted mapped).device 0).reaches .curator 0 = true
    ∧ after (.queueUnmap 0 0) (slotted mapped) (fun u => ((u.device 0).slot 0) == QSlot.empty && (u.device 0).offers.isEmpty) = true
    ∧ after (.widx 0 (.host 2 false) 0 true 5) (slotted mapped) (fun u => ((u.device 0).slot 0).widx == 5 && u.resp == some (.value (natBytes 8 0))) = true
    ∧ after (.wres 0 (.host 2 false) 0) (slotted mapped) (fun u => ((u.device 0).slot 0).widx == 1) = true
    ∧ after (.widx 0 (.host 1 false) 0 true 5) (slotted mapped) (fun u => ((u.device 0).slot 0).widx == 0 && u.resp == some (.value (natBytes 8 0))) = true
    ∧ after (.qresume 0 (.host 2 false) 0 4) (slotted mapped) (fun u => logs u [0x33]) = true
    ∧ after (.dbell 0 (.host 2 false) 0 1) (slotted mapped) (fun u => ((u.device 0).slot 0).woken) = true
    ∧ after (.qresume 0 (.host 2 false) 0 4) (slotted { mapped with stop := true, ridx := 3, widx := 5 }) (fun u => ((u.device 0).slot 0).ridx == 4
      && !((u.device 0).slot 0).stop) = true := by decide +kernel

/-! ## The Curator (R64, R315-R333, R373, R388) -/

/-- The packet at the ring's index 0: a MARK that adds 2 to Curator semaphore 5, its block at 0x1000 of system-kind pages. -/
def published (hdr : Nat) (q : QSlot) : State := curator (tables (leafOf 7 0)) (fun x => { x with
  qslots := [(0, q)]
  mem := cellsWrite (cellsWrite x.mem 0x600000 (natBytes 16 (hdr + 2 ^ 64 * 0x1000))) 0x1000
    (natBytes 2 11 ++ natBytes 2 64 ++ List.replicate 28 0 ++ natBytes 32 0x245) })

theorem wit_take : after (.packetTake 0 0) (published 0 mapped) (fun u => ((u.device 0).slot 0).waiting && ((u.device 0).slot 0).taken.isNone) = true
    ∧ leNat ((published (11 + 2 ^ 24 * 7) mapped).readG 0x600000 8) < 2 ^ 64
    ∧ after (.packetTake 0 0) (published (11 + 2 ^ 24 * 7) { mapped with ridx := 7, base := 0x600000 - 112 }) (fun u =>
      ((u.device 0).slot 0).taken.any (fun t => t.cause.isNone && t.hdr == 0x700000B)) = true
    ∧ after (.packetTake 0 0) (published (11 + 2 ^ 24 * 6) { mapped with ridx := 7, base := 0x600000 - 112 }) (fun u =>
      ((u.device 0).slot 0).waiting && ((u.device 0).slot 0).taken.isNone) = true
    ∧ after (.packetTake 0 0) (published (11 + 2 ^ 24 * 8) { mapped with ridx := 7, base := 0x600000 - 112 }) (fun u =>
      ((u.device 0).slot 0).taken.any (fun t => t.cause == some Cause.ringOverrun)) = true := by decide +kernel

def taken0 : Taken := ⟨11, 0, natBytes 32 (11 + 2 ^ 16 * 64) ++ natBytes 32 0x245, none⟩

def run0 (op : Nat) (blk : Nat) : Running := Running.fresh 1 op 0 0 (natBytes 32 0 ++ natBytes 32 blk)

def running (r : Running) : State := slotted { mapped with cmd := some r }

theorem wit_accept : ((slotted mapped).device 0).journalFree = true ∧ (((slotted mapped).device 0).reserveFor 0 0).isSome = true
    ∧ after (.commandAccept 0 0) (slotted { mapped with taken := some taken0 }) (fun u => ((u.device 0).slot 0).cmd.any (fun r => r.acc == 1 && r.op == 11)
      && ((u.device 0).slot 0).ridx == 1 && (u.device 0).bar0.jhead == 2) = true := by decide +kernel

/-- A MARK that is complete, whose stamp goes to 0x10008 and whose interrupt is vector 5; its packet asks for both. -/
def stamping (phase : Nat) (await : List Nat) : Running :=
  { run0 11 0x245 with
      hdr := 0x300, finished := true, phase := phase, await := await
      blk := natBytes 8 11 ++ natBytes 8 0x10008 ++ natBytes 8 9 ++ natBytes 8 5 ++ natBytes 32 0x245 }

/-- On pages of a kind, without a bound core. -/
def onPages (k w : Nat) (r : Running) : State :=
  curator ((tables (leafOf k w)).modDev 0 (fun x => { x with cores := [] })) (fun x => { x with qslots := [(0, { mapped with cmd := some r })] })

theorem wit_complete : (onPages 0 3 (stamping 0 [])).stampTo 0 0 0x10008 = some 0x10008
    ∧ after (.commandComplete 0 0) (onPages 0 3 (stamping 0 [])) (fun u => u.net.length == 1 && (u.runOf 0 0).any (fun r => r.phase == stampPhase
      && r.await.length == 1) && (u.device 0).msix.isEmpty) = true
    ∧ after (.commandComplete 0 0) (onPages 0 3 (stamping stampPhase [])) (fun u => ((u.device 0).slot 0).cmd.isNone && (u.device 0).msix == [(2, 5)]
      && u.net.isEmpty) = true
    ∧ after (.commandComplete 0 0) (onPages 0 3 (stamping stampPhase [7])) (fun u => ((u.device 0).slot 0).cmd.isSome) = true
    ∧ after (.commandComplete 0 0) (slotted { mapped with cmd := some (run0 8 0), graph := some ⟨[], 4, [], some (stamping stampPhase [])⟩ }) (fun u =>
      ((u.device 0).slot 0).graph.any (fun g => g.at_ == 5 && g.node.isNone) && ((u.device 0).slot 0).cmd.isSome) = true := by decide +kernel

def ended (u : State) : Bool := (u.runOf 0 0).any (fun r => r.finished)

def waits (bit_ : Bool) (u : State) : Bool := (u.runOf 0 0).any (fun r => !r.finished) && ((u.device 0).slot 0).waiting == bit_

/-- The command has faulted and its queue has stopped. -/
def halts (u : State) : Bool := ((u.device 0).slot 0).stop && ((u.device 0).slot 0).cmd.isNone

/-- The command waits in a phase for requests to these lines. -/
def asked (phase : Nat) (lines : List Nat) (u : State) : Bool := (u.runOf 0 0).any (fun r => r.phase == phase && r.await.length == lines.length)
  && u.net.map (fun m => match m.body with
    | .req l _ _ => l
    | _ => 0) == lines

theorem wit_commands : RunsCommand (running (run0 2 0)) 0 0 2 { mapped with cmd := some (run0 2 0) } (run0 2 0)
    ∧ after (.copy 0 0) (running { run0 2 (0x80 * 2 ^ 128) with off := 0x80 }) ended = true
    ∧ after (.copy 0 0) (running { run0 2 (0x80 * 2 ^ 128) with off := 0x40, phase := 2 }) (fun u => ended u && (u.runOf 0 0).any (fun r => r.off == 0x80)) = true
    ∧ after (.copy 0 0) (running (run0 2 1)) halts = true ∧ after (.copy 0 0) (running { run0 2 0 with await := [3] }) (fun u => !ended u) = true
    ∧ after (.copy 0 0) (running { run0 2 0 with err := some ⟨0x19, 4, 0⟩ }) halts = true
    ∧ after (.cmdColl 0 0) (running { run0 3 0 with off := 1, coll := some ckey }) ended = true
    ∧ after (.wait 0 0) (running (run0 4 1)) ended = true ∧ after (.wait 0 0) (running (run0 4 (1 + 2 ^ 128))) (waits true) = true
    ∧ after (.wait 0 0) (running { run0 4 0 with phase := 1 }) ended = true
    ∧ after (.cmdJoin 0 0) (running { run0 5 0 with phase := 1 }) ended = true
    ∧ after (.freeze 0 0) (running { run0 6 0 with phase := 1 }) ended = true
    ∧ after (.reclaim 0 0) (running (run0 7 0)) (fun u => waits false u && (u.device 0).reclaims == [(0, 0)]) = true
    ∧ after (.mark 0 0) (running (run0 11 0x245)) (fun u => ended u && acount (u.device 0).csems 5 == 2) = true
    ∧ after (.flush 0 0) (running (run0 12 0)) (fun u => ended u && u.here.tlb.isEmpty) = true
    ∧ after (.flush 0 0) ((running (run0 12 0)).modDev 0 (fun x => { x with walks := [⟨0, .ctx 0 0, 0, 0x1234⟩] })) (waits false) = true := by decide +kernel

/-- On system-kind pages, for a queue with sys; 0x10000 holds a 6. -/
def sysPages (r : Running) : State :=
  curator ((tables (leafOf 7 0)).modDev 0 (fun x => { x with cores := [] })) (fun x => { x with
    mem := cellsWrite x.mem 0x10000 [6], qslots := [(0, { mapped with sys := true, cmd := some r })] })

/-- System-kind pages below 0x200000, and .ver pages from there on. -/
def twoPages : State := (tables (leafOf 7 0)).modDev 0 (fun x => { x with mem := cellsWrite x.mem 0x103008 (natBytes 8 (leafOf 6 0 + 2 ^ 14 * 0x200)) })

theorem wit_curator_pages :
    after (.cmdJoin 0 0) (onPages 0 2 (run0 5 (0x10008 + 2 ^ 64 * (0x10 + 2 ^ 8 * 4) + 2 ^ 128 * 9))) (asked 1 [0x400]) = true
    ∧ after (.cmdJoin 0 0) (onPages 0 3 (run0 5 (0x10008 + 2 ^ 64 * (0x10 + 2 ^ 8 * 4) + 2 ^ 128 * 9))) halts = true
    ∧ after (.cmdJoin 0 0) (onPages 0 2 (run0 5 (0x200008 + 2 ^ 64 * (0x10 + 2 ^ 8 * 4)))) halts = true
    ∧ after (.freeze 0 0) (onPages 0 2 (run0 6 (0x10000 + 2 ^ 64 * 128))) (asked 1 [0x400, 0x401]) = true
    ∧ after (.freeze 0 0) (onPages 0 2 (run0 6 (0x1FFFC0 + 2 ^ 64 * 128))) (fun u => halts u && u.net.isEmpty) = true
    ∧ after (.wait 0 0) (onPages 0 2 (run0 4 (0x20 + 2 ^ 64 * 0x10008))) (asked 1 [0x400]) = true
    ∧ after (.wait 0 0) (onPages 0 2 (run0 4 (0x20 + 2 ^ 64 * 0x10002))) halts = true
    ∧ after (.copy 0 0) (onPages 6 0 (run0 2 (0x10000 + 2 ^ 64 * 0x10040 + 2 ^ 128 * 64))) (asked 1 [0x400]) = true
    ∧ after (.copy 0 0) (onPages 6 0 { run0 2 (0x10000 + 2 ^ 64 * 0x10040 + 2 ^ 128 * 64) with phase := 1, data := List.replicate 64 1 }) (asked 2 [0x401]) = true
    ∧ after (.copy 0 0) (onPages 5 0 { run0 2 (0x10000 + 2 ^ 64 * 0x10040 + 2 ^ 128 * 64) with phase := 1, data := List.replicate 64 1 })
      (asked 2 [0x401, 0x401, 0x401, 0x401]) = true
    ∧ after (.copy 0 0) (sysPages (run0 2 (0x10000 + 2 ^ 64 * 0x10040 + 2 ^ 128 * 64))) (asked 1 [0x400]) = true
    ∧ after (.copy 0 0) (sysPages { run0 2 (0x10000 + 2 ^ 64 * 0x10040 + 2 ^ 128 * 64) with phase := 1, data := List.replicate 64 1 }) (asked 2 [0x401]) = true
    ∧ after (.copy 0 0) (onPages 0 2 { run0 2 (0x10000 + 2 ^ 64 * 0x10040 + 2 ^ 128 * 64) with phase := 1 }) halts = true
    ∧ after (.reclaim 0 0) (onPages 0 2 (run0 7 (0x10000 + 2 ^ 64 * 64))) (asked 1 [0x400]) = true
    ∧ after (.reclaim 0 0) (onPages 0 2 { run0 7 (0x10000 + 2 ^ 64 * 64) with phase := 1 }) ended = true := by
  decide +kernel

/-- A COLL of a group of devices 0 and 9 that has read n of its source's 64 bytes; its descriptor is at 0x2000. -/
def grouped (devs n : Nat) : State :=
  curator (twoPages.modDev 0 (fun x => { x with cores := [] })) (fun x => { x with
    bar0 := { x.bar0 with capool := 0x10000 }
    mem := cellsWrite x.mem 0x2000 (natBytes 32 (7 + 2 ^ 48 * 2) ++ natBytes 4 devs)
    qslots := [(0, { mapped with cmd := some { run0 3 0 with coll := some ckey, data := List.replicate n 1, blk := natBytes 32 3 ++ natBytes 64 (0x2000 + 2 ^ 64 * 0x702 + 2 ^ 128 * 0x200000 + 2 ^ 192 * 64 + 2 ^ 256 * 0x200040) } })] })

theorem wit_group : ((grouped 9 0).group 0 0 0x2000).isSome
    ∧ after (.cmdColl 0 0) (grouped 9 0) (asked 1 [0x8000]) = true
    ∧ after (.cmdColl 0 0) (grouped 9 64) (fun u => (u.runOf 0 0).any (fun r => r.off == 1 && !r.finished)
      && ((u.device 0).coll? ckey).any (fun c => c.mine.any (fun m => m.data.length == 64))) = true := by decide +kernel

/-- A launch that a thread runs, with a record: image at 0x180000, tree at 0x181000 with one level. -/
def record0 : List Byte := natBytes 64 (1 + 2 ^ 64 * 0x180000 + 2 ^ 128 * 0x181000 + 2 ^ 192)

def launch0 : Launch :=
  { acc := 1, slot := 0, node := false, prio := 3, asid := 0, record := record0, seed := 0, code := 1, rc := 0, hdr := none, tree := [], plan := none
    cores := [], ndev := [], rooted := false, saving := false, saved := [], recAt := 0, fault := none, stopping := false, cnts := [], cover := false, killed := [] }

def runLaunch : Running := Running.fresh 1 1 0 0 (natBytes 32 0 ++ record0)

/-- A launch that no thread runs, or a MARK that thread 2 runs. -/
def abortable (code : Nat) : State := onDev (fun x => { x with
  launches := [{ launch0 with code := code }], qslots := [(2, { QSlot.empty with cmd := some { run0 11 0x245 with acc := 9 } })] })

theorem wit_abort : ((abortable 1).device 0).launch? 1 = some launch0 ∧ (∀ t : Fin 32, ∀ r, (((abortable 1).device 0).slot t.val).cmd = some r → r.acc ≠ 1)
    ∧ after (.labort 0 1) (abortable 1) (fun u => ((u.device 0).launch? 1).any (fun l => l.fault.any (fun f => f.cause == Cause.aborted && f.src == 3))) = true
    ∧ after (.labort 0 1) (abortable 3) (fun u => ((u.device 0).launch? 1).any (fun l => l.fault.isNone)) = true
    ∧ after (.labort 0 9) (abortable 1) (fun u => ((u.device 0).slot 2).cmd.isNone && ((u.device 0).slot 2).stop) = true := by decide +kernel

/-- The image: a descriptor, its header, a tree of one core, 32 bytes of code. -/
def imaged (r : Running) (l : Launch) (f : Device → Device) : State :=
  let image := natBytes 128 (0x5A34 + 2 ^ 16 + 2 ^ 64 * 0x100 + 2 ^ 128 * 32 + 2 ^ 256 * 0x80 + 2 ^ 320 * 0xC0)
    ++ natBytes 64 (16 + 2 ^ 24 + 2 ^ 64 * 16384) ++ natBytes 16 (1 + 2 ^ 64 * 0x20001)
  curator ((tables (leafOf 7 0)).modDev 0 (fun x => { x with cores := [] })) (fun x => f { x with
    qslots := [(0, { mapped with cmd := some r })], launches := [l]
    mem := cellsWrite (cellsWrite x.mem 0x180000 image) 0x181000 (natBytes 4 0x20001) })

theorem wit_launch_record : recordOk { mapped with cmd := some runLaunch } record0 = true
    ∧ after (.launch 0 0) (imaged runLaunch launch0 id) (fun u => (u.runOf 0 0).any (fun r => r.started) && ((u.device 0).launch? 1).any (fun l => l.fault.isNone)) = true
    ∧ after (.launch 0 0) (imaged { runLaunch with blk := natBytes 128 0 } launch0 id) (fun u =>
      ((u.device 0).launch? 1).any (fun l => l.fault.any (fun f => f.cause == Cause.launchInvalid && f.src == 2))) = true
    ∧ after (.launch 0 0) (imaged runLaunch launch0 (fun x => { x with bar0 := { x.bar0 with sigreq := 1 } })) (fun u =>
      ((u.device 0).launch? 1).any (fun l => l.fault.any (fun f => f.cause == Cause.launchSig))) = true := by decide +kernel

def codeIs (u : State) (n : Nat) : Bool := ((u.device 0).launch? 1).any (fun l => l.code == n)

def binds : State := imaged { runLaunch with started := true } launch0 id

def dispatches (s : State) : Bool :=
  match s.dispatch 0 launch0 [(0, 4)] with
  | .ok (some (_, cs)) => cs.map (·.2) == [(0, 4)]
  | _ => false

theorem wit_bind : dispatches binds = true ∧ (binds.device 0).waits launch0 = true ∧ binds.grantsOk 0 launch0 [(0, 4)] = true
    ∧ binds.itsTurn 0 launch0 = true ∧ (binds.dispatch 0 launch0 []).isOk = true
    ∧ after (.launchBind 0 1 []) binds (fun u => codeIs u 1) = true
    ∧ after (.launchBind 0 1 [(0, 4)]) (binds.modDev 0 (fun x => { x with mem := cellsWrite x.mem 0x180000 [0] })) (fun u =>
      ((u.device 0).launch? 1).any (fun l => l.fault.any (fun f => f.cause == Cause.headerInvalid && f.src == 2))) = true
    ∧ after (.launchBind 0 1 [(0, 4)]) binds (fun u => codeIs u 2 && (u.core 0 4).bound.isSome && (u.core 0 4).ctxs[0].pc == 0x180100) = true := by
  decide +kernel

theorem wit_reserve : after (.remoteCoreReserve 0 ⟨7, 1⟩ [4]) ({ imaged runLaunch launch0 id with
      devs := (imaged runLaunch launch0 id).devs ++ [(7, { Device.reset with launches := [launch0] })] }) (fun u =>
      aget (u.device 0).bind 4 == some ⟨1, 1, 7⟩ && (u.device 0).remote == [(⟨7, 1⟩, [4])]) = true := by decide +kernel

/-- Core 4 of a launch at a status, its contexts in a state. -/
def bound4 (code : Nat) (st : CtxSt) (pre : PreSt) (saving : Bool) : State :=
  imaged { runLaunch with started := true } { launch0 with code := code, cores := [(0, 4)], saving := saving } (fun x =>
    { x with cores := [(4, { Core.reset.modCtx 0 (fun y => { y with st := st, pre := pre }) with
      bound := some { b0 with launch := ⟨0, 1⟩, cores := [(0, 4)] } })] })

theorem wit_running_launch : (bound4 3 .ended .run false).collsOf ⟨0, 1⟩ = [] ∧ (bound4 3 .ended .run false).allEnded { launch0 with cores := [(0, 4)] } = true
    ∧ after (.rootSyncRelease 0 1) (bound4 2 .ready .run false) (fun u => codeIs u 3 && (u.core 0 4).rooted) = true
    ∧ after (.launchComplete 0 1) (bound4 3 .ended .run false) (fun u => codeIs u 14 && (u.core 0 4).bound.isNone) = true
    ∧ after (.preempt 0 1) (bound4 3 .ready .stopped true) (fun u => codeIs u 4 && (u.core 0 4).bound.isNone) = true := by decide +kernel

def stopped4 : State := imaged { runLaunch with started := true } { launch0 with
  code := 4, cores := [(0, 4)], hdr := some placedHeader, plan := some impliedPlan, tree := [⟨1, 2, 0, 0, false⟩] } id

theorem wit_resume : after (.resume 0 1 [(0, 4)]) stopped4 (fun u => codeIs u 2 && ((u.device 0).launch? 1).any (fun l => l.rc == 1)) = true := by
  decide +kernel

/-- A graph of one node, or at its node. -/
def graphed (nodes : List (List Byte)) (node : Option Running) (at_ : Nat) : State :=
  curator (tables (leafOf 6 0)) (fun x => { x with qslots := [(0, { mapped with cmd := some (run0 8 0), graph := some ⟨nodes, at_, [], node⟩ })] })

def graphIs (u : State) (f : GraphRun → Bool) : Bool := ((u.device 0).slot 0).graph.any f

/-- A COND or LOOP node on the predicate at 0x10000, version 1, target 5, limit n. -/
def branchNode (op idx n : Nat) : Running := 
  Running.fresh 1 op 0 idx (natBytes 32 op ++ natBytes 32 (0x10000 + 2 ^ 64 + 2 ^ 96 * 5 + 2 ^ 128 * n))

/-- The node with its tile's value read. -/
def predicate (op idx n : Nat) (v : Byte) : Running := { branchNode op idx n with phase := 2, data := v :: List.replicate 63 0 }

theorem wit_graph : after (.graph 0 0) (graphed [] none 0) (fun u => ((u.device 0).slot 0).cmd.any (fun r => r.finished) && ((u.device 0).slot 0).graph.isNone) = true
    ∧ after (.graph 0 0) (graphed [natBytes 64 11] none 0) (fun u => graphIs u (fun g => g.node.any (fun n => n.op == 11))) = true
    ∧ after (.graph 0 0) (graphed [natBytes 64 3] none 0) halts = true
    ∧ after (.cond 0 0) (graphed [] (some (branchNode 9 3 0)) 3) (asked 1 [0x400]) = true
    ∧ after (.cond 0 0) (graphed [] (some { branchNode 9 3 0 with phase := 1 }) 3) (asked 2 [0x400]) = true
    ∧ after (.cond 0 0) (graphed [] (some { branchNode 9 3 0 with await := [2] }) 3) (fun u => u.net.isEmpty && !halts u) = true
    ∧ after (.cond 0 0) (graphed [] (some { branchNode 9 3 0 with err := some ⟨0x19, 0, 0⟩ }) 3) halts = true
    ∧ after (.cond 0 0) (graphed [] (some (predicate 9 3 0 1)) 3) (fun u => graphIs u (fun g => g.node.any (fun n => n.finished && n.off == 4))) = true
    ∧ after (.cond 0 0) (graphed [] (some (predicate 9 3 0 0)) 3) (fun u => graphIs u (fun g => g.node.any (fun n => n.finished && n.off == 5))) = true := by
  decide +kernel

theorem wit_loop : after (.cmdLoop 0 0) (graphed [] (some (predicate 10 7 9 0)) 7) (fun u => graphIs u (fun g => g.node.any (fun n => n.off == 8))) = true
    ∧ after (.cmdLoop 0 0) (graphed [] (some (predicate 10 7 2 1)) 7) (fun u => graphIs u (fun g => g.counters == [(7, 1)])) = true
    ∧ after (.cmdLoop 0 0) (graphed [] (some (predicate 10 7 1 1)) 7) halts = true := by decide +kernel

/-! ## The platform (R335-R343, R381, R392, R403, R404, R407-R409) -/

def boot (fail : Option Nat) : BootIn := ⟨fail, false, 0, 16, [], 1, 2, 3⟩

def upState (f : Device → Device) : State := State.reset.modDev 0 (fun x => f { x with bar0 := { x.bar0 with step := 7 } })

theorem wit_resets : State.reset.devs = [(0, Device.reset)] ∧ State.reset.launchesOf 0 = [] ∧ (boot none).failStep = none
    ∧ after (.coldReset 0 (boot (some 1))) State.reset (fun u => (u.device 0).bar0.step == 0 && (u.device 0).bar0.fail) = true
    ∧ after (.reset 0 0x5A4D0001 (boot (some 1))) (upState fun x => { x with bar0 := { x.bar0 with corr := 9 }, mem := [(4, 1)] })
      (fun u => (u.device 0).mem.isEmpty && (u.device 0).bar0.corr == 9) = true
    ∧ after (.reset 0 0x5A4D0002 (boot none)) (upState fun x => { x with mem := [(4, 1)] }) (fun u => (u.device 0).mem.length == 1) = true := by decide +kernel

theorem wit_boot (slot : Bool) (x : Device) : (x.bootSlot = some slot → x.bootFails (boot none) = none) ∧ (x.bootSlot = none → x.bootFails (boot none) = some 2) := by
  constructor <;> intro h <;> simp [Device.bootFails, boot, h]

theorem wit_firmware : after (.fwctlGo 0 1) (upState id) (fun u => (u.device 0).bar0.fwbusy) = true
    ∧ ((upState fun x => { x with bar0 := { x.bar0 with fwbusy := true, fwlen := 2 ^ 25 } }).device 0).bar0.fwbusy = true
    ∧ after (.fwUpdateDone 0 .ok) (upState fun x => { x with bar0 := { x.bar0 with fwbusy := true, fwlen := 2 ^ 25 + 1 } })
      (fun u => (u.device 0).bar0.fwfail == 2) = true := by decide +kernel

theorem wit_frequency : after (.islset 0 0x02BC0099) st0 (fun u => ((u.device 0).island 153) == ⟨700, 940, some 700, false⟩) = true
    ∧ after (.freqChangeDone 0 3) (onDev fun x => { x with islands := [(3, ⟨700, 940, some 700, false⟩)] }) (fun u =>
      ((u.device 0).island 3) == ⟨700, 700, none, false⟩) = true
    ∧ after (.powerWindow 0 3201 0) (upState id) (fun u => (u.device 0).pceil == 1030) = true
    ∧ after (.powerWindow 0 3039 0) (upState fun x => { x with pceil := 1000 }) (fun u => (u.device 0).pceil == 1010) = true
    ∧ after (.powerWindow 0 3040 0) (upState fun x => { x with pceil := 1000 }) (fun u => (u.device 0).pceil == 1000) = true := by decide +kernel

theorem wit_thermal : after (.thermalCeil 0 5 105) (upState id) (fun u => (u.device 0).hot == [5] && (u.device 0).bar0.thev == 1) = true
    ∧ after (.thermalClear 0 5 99) (upState fun x => { x with hot := [5] }) (fun u => (u.device 0).hot.isEmpty) = true
    ∧ after (.thermalTrip 0 5) (upState id) (fun u => (u.device 0).lost && (u.device 0).cores.isEmpty) = true
    ∧ after (.islandSupplyReturn 0 255) (upState fun x => { x with islands := [(255, ⟨940, 940, none, true⟩)] }) (fun u => !((u.device 0).island 255).supply) = true := by
  decide +kernel

theorem wit_kill : ((onDev fun x => { x with bar0 := { x.bar0 with step := 7 } }).device 0).lost = false ∧ b0.place b0.super = some (0, 0)
    ∧ after (.dupMismatch 0 (some 0)) (onDev fun x => { x with bar0 := { x.bar0 with step := 7 } }) (fun u => u.here.killed && u.here.sealed && u.here.stopped) = true
    ∧ after (.selfTestDone 0 9 true) ((onDev id).modCore1 0 9 (fun c => { c with killed := true, testAge := 2 ^ 21 })) (fun u => (u.device 0).bar0.corestat == [9]
      && !(u.core 0 9).killed) = true
    ∧ after (.selfTestDone 0 9 false) ((onDev id).modCore1 0 9 (fun c => { c with killed := true, testAge := 2 ^ 21 })) (fun u => (u.device 0).bar0.corestat == []) = true := by
  decide +kernel

/-- A launch whose logical core 1, on core 1 of device 0, was killed, with its test over; its control context was in a state. -/
def killedState (st : CtxSt) : State :=
  let b : Binding := { b0 with lcore := 1, cores := [(0, 0), (0, 1)], launch := ⟨0, 1⟩ }
  (onDev fun x => { x with launches := [{ launch0 with code := 3, cores := [(0, 0), (0, 1)], killed := [⟨0, 1, 1, false, none⟩] }] }).modCore1 0 1
    (fun c => ({ c with bound := some b, killed := true, sealed := true, stopped := true, testAge := 2 ^ 21, sems := [(1, 1)] }).modCtx 0
      (fun x => { x with st := st, ckpt := { x.ckpt with entry := 0x2000, slive := 2, regs := (x.regs.setS 1 7).setS 2 8 } }))

theorem wit_restart : ((killedState .ready).core 0 1).unrecoverable 0 1 = false ∧ Alone (killedState .ready) 0 1 { b0 with lcore := 1, cores := [(0, 0), (0, 1)], launch := ⟨0, 1⟩ }
    ∧ after (.selfTestDone 0 1 false) (killedState .ready) (fun u => let c := u.core 0 1
      !c.killed && !c.sealed && c.restarted && c.sems.isEmpty && (c.ctx 0).pc == 0x2000 && (c.ctx 0).regs.getS 1 == 7 && (c.ctx 0).regs.getS 2 == 0
        && (u.device 0).launches.all (·.killed.isEmpty)) = true
    ∧ after (.selfTestDone 0 1 true) (killedState .ready) (fun u => (u.device 0).launches.all (fun l => l.fault.any (fun f =>
      f.cause == Cause.coreKilled && f.src == 5 && f.lcore == 1))) = true
    ∧ after (.selfTestDone 0 1 false) (killedState .ended) (fun u => !(u.core 0 1).killed && (u.device 0).launches.all (fun l => l.fault.isNone && l.killed.isEmpty)) = true := by
  decide +kernel

theorem wit_kill_waits : after (.dupMismatch 0 (some 0)) (onCtx fun x => { x with committing := true, egress := [.sems 1 1] }) (fun u =>
      u.here.killWait == some false && !u.here.killed && u.ctxHere.committing) = true
    ∧ (onCtx fun x => { x with committing := true }).here.committing = true
    ∧ after (.powerWindow 0 3200 0) (upState fun x => { x with capping := true, pceil := 1000 }) (fun u => (u.device 0).pceil == 990 && (u.device 0).capping) = true
    ∧ after (.powerWindow 0 3200 0) (upState fun x => { x with pceil := 1000 }) (fun u => (u.device 0).pceil == 1000 && !(u.device 0).capping) = true := by decide +kernel

/-- A launch of device 7 that holds core 0 of device 0. -/
def spanning : State := { onCore (fun c => { c with bound := some { b0 with launch := ⟨7, 1⟩ } }) with
  devs := (onCore (fun c => { c with bound := some { b0 with launch := ⟨7, 1⟩ } })).devs
    ++ [(7, { Device.reset with launches := [{ launch0 with code := 3, cores := [(0, 0)] }] })] }

theorem wit_device_lost : spanning.launchesOf 0 = [⟨7, 1⟩]
    ∧ after (.deviceLost 0) spanning (fun u => ((u.device 7).launch? 1).any (fun l => l.fault.any (fun f =>
      f.cause == Cause.deviceLost && f.src == 4 && f.taddr == 0))) = true := by decide +kernel

/-! ## The machine as a whole -/

/-- A wait that polls: its semaphore has come. -/
def polls : State := { (onCtx (fun x => { x with st := .parked, wait := some w9 })).modCore1 0 0 (fun c => { c with sems := [(9, 1)] }) with
  agenda := [.poll 0 0 0] }

theorem wit_poll : polls.here.candidates.contains 0 = true ∧ polls.ctxHere.ready = false ∧ (polls.issuer 0 0).isSome = true ∧ polls.ctxHere.expired = false ∧ polls.here.pairLimit 0 = false
    ∧ w9.code ≠ 0 ∧ ({ polls with agenda := [] } : State).nextCtx exec 0 0 b0 = some 0 := by decide +kernel

/-- ADD s3 := s4 + s5 stands at 0x1000. -/
def placedAdd : State := (State.reset.withFetchWord 64 0x0000000001440C01).modCtx ⟨0, 0, 0⟩ (fun x => { x with regs := (x.regs.setS 4 5).setS 5 7 })

theorem wit_step : placedAdd.agenda = [.issue 0 0] ∧ (placedAdd.issuer 0 0).isSome = true ∧ ((placedAdd.core 0 0).ctx 0).ready = true
    ∧ (placedAdd.core 0 0).candidates.head? = some 0 ∧ hits (lookup (placedAdd.core 0 0) ((placedAdd.core 0 0).ctx 0) 0 0x1000) placedPage = true
    ∧ permTrap placedPage .fetch 0x1000 = none
    ∧ (match decodeWord (bytesToWord (placedAdd.readG 0x1000 16)) with
      | .ok i => i == .add pt 3 4 (.reg 5)
      | .error _ => false) = true
    ∧ placedAdd.headPc (placedAdd.core 0 0) 0 0x1000 = 0x1000 := by decide +kernel

theorem wit_memory : Memory.wf [(3, 5)] = true ∧ cellsWrite [(3, 5)] 3 [0] = [] ∧ cellsRead (cellsWrite [(3, 5)] 2 [1, 2]) 2 2 = [1, 2] := by
  decide +kernel

theorem wit_encode : (Instr.mma pt .bf16 true false 0 1 ⟨some (1, 1), some (2, 1), none⟩).wf = true ∧ State.reset.net = [] := by decide +kernel

/-- A kernel with 16 scalar registers. -/
def bsmall : Binding := { b0 with hdr := { placedHeader with sregs := 16 } }

theorem wit_region_bounds : Clear (onCore fun c => { c with bound := some bsmall }) bsmall (.region true false 0 0x8000)
    ∧ (0x8000 : BitVec 63).getLsbD 15 = true ∧ bsmall.hdr.sregs ≤ 15 + 1
    ∧ (∀ j : Fin 15, (0x8000 : BitVec 63).getLsbD j.val = true → j.val + 1 < bsmall.hdr.sregs) := by decide +kernel

theorem wit_supply : (State.reset.device 0).lost = false ∧ ((State.reset.device 0).island 2).supply = false
    ∧ (∀ c, islandOf c = 2 → ((State.reset.device 0).core c).bound = none) := ⟨rfl, rfl, fun _ _ => rfl⟩

theorem wit_canonical : placedAdd.Canonical ∧ ∃ u, step placedAdd = .next u := by
  refine ⟨?_, ⟨_, rfl⟩⟩
  unfold State.Canonical
  decide +kernel

end Sys2Proof.Tests
end

/-! # Memory: reading after writing (O58) -/

namespace Sys2Proof.Machine
open Sys2Proof

/-- Writing a byte of a memory in canonical form changes what is read at its address, and nowhere else. -/
theorem cellRead_cellWrite_from {m : List Host.Cell} {lo : Nat} (h : Memory.wfFrom lo m = true) (a x : Nat) (b : Byte) :
    cellRead (cellWrite m a b) x = if x = a then b else cellRead m x := by
  induction m generalizing lo with
  | nil => by_cases hb : b = 0#8 <;> simp [cellWrite, cellRead, hb, @eq_comm _ a x]
  | cons p t ih =>
    obtain ⟨k, v⟩ := p
    simp only [Memory.wfFrom, Bool.and_eq_true] at h
    have htail {y : Nat} (hy : y ≤ k) : cellRead t y = 0 := cellRead_below h.2 (by omega)
    rcases lt_trichotomy a k with hak | rfl | hka
    · by_cases hx : x = a
      · subst hx
        by_cases hb : b = 0#8 <;> simp [cellWrite, cellRead, hak, hb, hak.ne', htail hak.le]
      · by_cases hb : b = 0#8 <;> simp [cellWrite, cellRead, hak, hb, hx, Ne.symm hx]
    · by_cases hx : x = a
      · subst hx
        by_cases hb : b = 0#8 <;> simp [cellWrite, cellRead, hb, htail]
      · by_cases hb : b = 0#8 <;> simp [cellWrite, cellRead, hb, hx, Ne.symm hx]
    · simp only [cellWrite, hka.ne', Nat.lt_asymm hka, if_false, cellRead, ih h.2]
      by_cases hx : x = a <;> simp [hx, hka.ne]

theorem cellRead_cellWrite {m : List Host.Cell} (h : Memory.wf m = true) (a x : Nat) (b : Byte) :
    cellRead (cellWrite m a b) x = if x = a then b else cellRead m x := cellRead_cellWrite_from h a x b

theorem cellRead_cellsWrite_of_outside {bs : List Byte} {m : List Host.Cell} (h : Memory.wf m = true) {a x : Nat}
    (hx : x < a ∨ a + bs.length ≤ x) : cellRead (cellsWrite m a bs) x = cellRead m x := by
  induction bs generalizing m a with
  | nil => rfl
  | cons b bs ih =>
    rw [List.length_cons] at hx
    rw [cellsWrite, ih (cellWrite_wf h a b) (by omega), cellRead_cellWrite h, if_neg (by omega)]

theorem cellRead_cellsWrite_of_inside {bs : List Byte} {m : List Host.Cell} (h : Memory.wf m = true) (a : Nat) {k : Nat}
    (hk : k < bs.length) : cellRead (cellsWrite m a bs) (a + k) = bs[k] := by
  induction bs generalizing m a k with
  | nil => exact absurd hk (Nat.not_lt_zero k)
  | cons b bs ih =>
    have hwf := cellWrite_wf h a b
    cases k with
    | zero => rw [cellsWrite, cellRead_cellsWrite_of_outside hwf (by omega), cellRead_cellWrite h]; simp
    | succ k =>
      have hk' : k < bs.length := by simpa using hk
      rw [cellsWrite, show a + (k + 1) = a + 1 + k by omega, ih hwf (a + 1) hk', List.getElem_cons_succ]

theorem cellsRead_cellsWrite_self {m : List Host.Cell} (h : Memory.wf m = true) (a : Nat) (bs : List Byte) :
    cellsRead (cellsWrite m a bs) a bs.length = bs := by
  refine List.ext_getElem (by simp [cellsRead]) fun k _ hk => ?_
  simpa [cellsRead] using cellRead_cellsWrite_of_inside h a hk

/-- The least listed address of a memory in canonical form reads a byte that is not zero. -/
theorem cellRead_head_ne_zero {lo k : Nat} {v : Byte} {t : List Host.Cell} (h : Memory.wfFrom lo ((k, v) :: t) = true) :
    cellRead ((k, v) :: t) k ≠ 0 := by
  simp only [Memory.wfFrom, Bool.and_eq_true, bne_iff_ne] at h
  simpa [cellRead] using h.1.2

/-- A memory in canonical form that lists k first does not read like one whose addresses all lie above k. -/
theorem not_reads_alike_of_lt {lo k : Nat} {v : Byte} {t n : List Host.Cell} (h : Memory.wfFrom lo ((k, v) :: t) = true)
    (hn : Memory.wfFrom (k + 1) n = true) : ¬ ∀ y, cellRead ((k, v) :: t) y = cellRead n y := fun hy =>
  cellRead_head_ne_zero h ((hy k).trans (cellRead_below hn (Nat.lt_succ_self k)))

/-- The canonical form with a higher bound, where the first listed address allows it. -/
theorem Memory.wfFrom_of_le_head {lo lo' k : Nat} {v : Byte} {t : List Host.Cell} (h : Memory.wfFrom lo ((k, v) :: t) = true)
    (hk : lo' ≤ k) : Memory.wfFrom lo' ((k, v) :: t) = true := by
  simp only [Memory.wfFrom, Bool.and_eq_true, decide_eq_true_eq] at h ⊢
  exact ⟨⟨hk, h.1.2⟩, h.2⟩

/-- Two memories in canonical form that read alike are equal: their least addresses agree, and so do the rests. -/
theorem Memory.wfFrom_ext {m n : List Host.Cell} {lo : Nat} (hm : Memory.wfFrom lo m = true) (hn : Memory.wfFrom lo n = true)
    (hy : ∀ y, cellRead m y = cellRead n y) : m = n := by
  induction m generalizing n lo with
  | nil =>
    cases n with
    | nil => rfl
    | cons q n => exact absurd (hy q.1).symm (cellRead_head_ne_zero hn)
  | cons p m ih =>
    cases n with
    | nil => exact absurd (hy p.1) (cellRead_head_ne_zero hm)
    | cons q n =>
      obtain ⟨k, v⟩ := p
      obtain ⟨j, w⟩ := q
      rcases lt_trichotomy k j with hlt | rfl | hlt
      · exact absurd hy (not_reads_alike_of_lt hm (Memory.wfFrom_of_le_head hn hlt))
      · have hv : v = w := by simpa [cellRead] using hy k
        simp only [Memory.wfFrom, Bool.and_eq_true] at hm hn
        have hrest : ∀ y, cellRead m y = cellRead n y := fun y => by
          by_cases hyk : y ≤ k
          · rw [cellRead_below hm.2 (by omega), cellRead_below hn.2 (by omega)]
          · have hne : k ≠ y := by omega
            simpa [cellRead, hne] using hy y
        rw [hv, ih hm.2 hn.2 hrest]
      · exact absurd (fun y => (hy y).symm) (not_reads_alike_of_lt hn (Memory.wfFrom_of_le_head hm hlt))

end Sys2Proof.Machine

open Sys2Proof.Machine in
/-- Settles O58, from what a byte reads after one byte is written, byte by byte. -/
theorem memoryLaws : Obligations.MemoryLaws := by
  unfold Obligations.MemoryLaws
  exact fun m n a x bs h => ⟨cellsWrite_wf h, fun _ hk => cellRead_cellsWrite_of_inside h a hk,
    cellRead_cellsWrite_of_outside h, cellsRead_cellsWrite_self h a bs, fun hn hy => Memory.wfFrom_ext h hn hy⟩

/-! # Every step keeps the memories in canonical form (O60)

Each part of a state has its canonical form: a core its local store, a device its home memory, its cores and its saved cores.
An operation of the model that gives such a part gives it in that form when it was given it so: one lemma an operation, in the
order of the model, each from the lemmas of the operations it calls. The only ones that write memory do it by `cellsWrite` or
`Store.write`, so all that remains is which operation calls which. -/

namespace Sys2Proof.Machine
open Sys2Proof

-- Several hundred short proofs that wait for the model's equations at once take a thread each: they are checked in turn.
set_option Elab.async false

/-! ## The canonical form of the parts of a state -/

/-- The local store of a core has its canonical form. -/
def Core.Canonical (c : Core) : Prop := Memory.wf c.ls.bytes = true

/-- The cores that a pre-empted launch has saved have their canonical form. -/
def Launch.Canonical (l : Launch) : Prop := ∀ q ∈ l.saved, q.2.Canonical

/-- The memories of a device have their canonical form: its home memory, its cores' local stores and the saved cores. -/
def Device.Canonical (x : Device) : Prop :=
  Memory.wf x.mem = true ∧ (∀ q ∈ x.cores, q.2.Canonical) ∧ ∀ l ∈ x.launches, l.Canonical

theorem State.canonical_iff {s : State} : s.Canonical ↔ ∀ p ∈ s.devs, p.2.Canonical := Iff.rfl

/-- The result of an instruction inside a core: the core is in canonical form, and what leaves it keeps that form. -/
def Res.Canonical (r : Res) : Prop := r.core.Canonical ∧ ∀ s : State, s.Canonical → (r.post s).Canonical

/-- What a step comes to is in canonical form, if it is a next state. -/
def Stepped.Canonical (o : Stepped) : Prop := ∀ u, o = .next u → u.Canonical

/-! ## Maps -/

/-- What holds of a value set and of every value of a map holds of every value of the map after. -/
theorem forall_mem_aset {α : Type} {P : α → Prop} {m : AMap α} {a : Nat} {v : α} (hm : ∀ p ∈ m, P p.2) (hv : P v) :
    ∀ p ∈ aset m a v, P p.2 := by
  induction m with
  | nil => simpa [aset] using hv
  | cons q t ih =>
    obtain ⟨hq, ht⟩ := List.forall_mem_cons.1 hm
    unfold aset
    split
    · exact List.forall_mem_cons.2 ⟨hv, hm⟩
    · split
      · exact List.forall_mem_cons.2 ⟨hv, ht⟩
      · exact List.forall_mem_cons.2 ⟨hq, ih ht⟩

/-- The value at a key is one of the map's values. -/
theorem forall_of_aget {α : Type} {P : α → Prop} {m : AMap α} {a : Nat} {v : α} (hm : ∀ p ∈ m, P p.2)
    (h : aget m a = some v) :
    P v := by
  induction m with
  | nil => simp [aget] at h
  | cons q t ih =>
    obtain ⟨hq, ht⟩ := List.forall_mem_cons.1 hm
    unfold aget at h
    split at h
    · exact Option.some.inj h ▸ hq
    · exact ih ht h

/-- The value at a key or a default. -/
theorem forall_of_aget_getD {α : Type} {P : α → Prop} {m : AMap α} {a : Nat} {v : α} (hm : ∀ p ∈ m, P p.2) (hv : P v) :
    P ((aget m a).getD v) := by
  cases h : aget m a with
  | none => exact hv
  | some w => exact forall_of_aget hm h

/-! ## Cores -/

theorem Core.canonical_reset : Core.reset.Canonical := rfl

theorem Core.Canonical.withCtxs {c : Core} {m : Vector Context 11} (h : c.Canonical) :
    Core.Canonical { c with ctxs := m } := h

theorem Core.Canonical.withArrivals {c : Core} {m : List Arrival} (h : c.Canonical) :
    Core.Canonical { c with arrivals := m } := h

theorem Core.Canonical.ite {p : Prop} [Decidable p] {c k : Core} (h : c.Canonical) (hk : k.Canonical) :
    (if p then c else k).Canonical := by
  split
  · exact h
  · exact hk

/-! ## Devices -/

section
variable {x : Device}

theorem Device.Canonical.mem (h : x.Canonical) : Memory.wf x.mem = true := h.1

theorem Device.Canonical.cores (h : x.Canonical) : ∀ q ∈ x.cores, q.2.Canonical := h.2.1

theorem Device.Canonical.launches (h : x.Canonical) : ∀ l ∈ x.launches, l.Canonical := h.2.2

theorem Device.Canonical.core {c : Nat} (h : x.Canonical) :
    (x.core c).Canonical := forall_of_aget_getD (P := Core.Canonical) h.cores Core.canonical_reset

theorem Device.Canonical.of_launch? {a : Nat} {l : Launch} (h : x.Canonical) (hl : x.launch? a = some l) : l.Canonical :=
  h.launches l (List.mem_of_find?_eq_some hl)

/-- A device with the same memories. -/
theorem Device.Canonical.of_eq {y : Device} (h : x.Canonical) (hm : y.mem = x.mem) (hc : y.cores = x.cores)
    (hl : y.launches = x.launches) : y.Canonical := ⟨hm ▸ h.mem, hc ▸ h.cores, hl ▸ h.launches⟩

/-- Changing the queues and numbers that are no memory. -/
theorem Device.Canonical.withQueues {n : Nat} {gs : List (CollKey × Nat)} {st pq : List Sent} {rs : List (Nat × Nat)}
    (h : x.Canonical) :
    Device.Canonical { x with curNo := n, grants := gs, store := st, portq := pq, reclaims := rs } := h

/-- Writing home memory. -/
theorem Device.Canonical.setMem {m : List Host.Cell} (h : x.Canonical) (hm : Memory.wf m = true) :
    Device.Canonical { x with mem := m } :=
  ⟨hm, h.cores, h.launches⟩

/-- Setting a core. -/
theorem Device.Canonical.setCores {m : AMap Core} (h : x.Canonical) (hm : ∀ q ∈ m, q.2.Canonical) :
    Device.Canonical { x with cores := m } :=
  ⟨h.mem, hm, h.launches⟩

theorem Device.Canonical.write {a : Nat} {bs : List Byte} (h : x.Canonical) :
    Device.Canonical { x with mem := cellsWrite x.mem a bs } :=
  h.setMem (cellsWrite_wf h.mem)

theorem Device.Canonical.setLaunches {ls : List Launch} (h : x.Canonical) (hl : ∀ l ∈ ls, l.Canonical) :
    Device.Canonical { x with launches := ls } := ⟨h.mem, h.cores, hl⟩

/-- Adding a launch. -/
theorem Device.Canonical.addLaunch {l : Launch} (h : x.Canonical) (hl : l.Canonical) :
    Device.Canonical { x with launches := x.launches ++ [l] } :=
  h.setLaunches (List.forall_mem_append.2 ⟨h.launches, List.forall_mem_singleton.2 hl⟩)

/-- Changing every core by a function of its number and itself. -/
theorem Device.Canonical.mapCores {f : Nat × Core → Nat × Core} (h : x.Canonical)
    (hf : ∀ q, q.2.Canonical → (f q).2.Canonical) :
    Device.Canonical { x with cores := x.cores.map f } :=
  h.setCores (List.forall_mem_map.2 fun q hq => hf q (h.cores q hq))

theorem Device.Canonical.modLaunch {a : Nat} {f : Launch → Launch} (h : x.Canonical)
    (hf : ∀ l, l.Canonical → (f l).Canonical) :
    (x.modLaunch a f).Canonical :=
  h.setLaunches <| List.forall_mem_map.2 fun l hl => by
    split
    · exact hf l (h.launches l hl)
    · exact h.launches l hl

end

theorem Device.canonical_reset : Device.reset.Canonical := ⟨rfl, by simp [Device.reset], by simp [Device.reset]⟩

/-! ## States -/

section
variable {s : State}

theorem State.Canonical.withNet {n : List Msg} (h : s.Canonical) : State.Canonical { s with net := n } := h

theorem State.Canonical.ite {p : Prop} [Decidable p] {u : State} (h : s.Canonical) (hu : u.Canonical) :
    (if p then s else u).Canonical := by
  split
  · exact h
  · exact hu

theorem State.Canonical.ite_fst {α : Type} {p : Prop} [Decidable p] {q r : State × α} (hq : q.1.Canonical)
    (hr : r.1.Canonical) :
    (if p then q else r).1.Canonical := by
  split
  · exact hq
  · exact hr

theorem State.Canonical.of_aget {d : Nat} {x : Device} (h : s.Canonical) (hx : aget s.devs d = some x) : x.Canonical :=
  forall_of_aget (P := Device.Canonical) h hx

theorem State.Canonical.device {d : Nat} (h : s.Canonical) : (s.device d).Canonical :=
  forall_of_aget_getD (P := Device.Canonical) h Device.canonical_reset

theorem State.Canonical.core {d c : Nat} (h : s.Canonical) : (s.core d c).Canonical := h.device.core

theorem State.Canonical.setDevice {d : Nat} {x : Device} (h : s.Canonical) (hx : x.Canonical) : (s.setDevice d x).Canonical :=
  forall_mem_aset (P := Device.Canonical) h hx

theorem State.Canonical.modDev {d : Nat} {f : Device → Device} (h : s.Canonical) (hf : ∀ x, x.Canonical → (f x).Canonical) :
    (s.modDev d f).Canonical := by
  unfold State.modDev
  split
  · next x hx => exact h.setDevice (hf x (h.of_aget hx))
  · exact h

theorem State.Canonical.mapDevs {f : Nat → Device → Device} (h : s.Canonical) (hf : ∀ d x, x.Canonical → (f d x).Canonical) :
    (s.mapDevs f).Canonical := List.forall_mem_map.2 fun p hp => hf p.1 p.2 (h p hp)

theorem State.Canonical.setCore {d c : Nat} {k : Core} (h : s.Canonical) (hk : k.Canonical) : (s.setCore d c k).Canonical :=
  h.modDev fun _ hx => hx.setCores (forall_mem_aset (P := Core.Canonical) hx.cores hk)

theorem State.Canonical.modCore1 {d c : Nat} {f : Core → Core} (h : s.Canonical) (hf : ∀ c, c.Canonical → (f c).Canonical) :
    (s.modCore1 d c f).Canonical := h.setCore (hf _ h.core)

theorem State.Canonical.modCore {d c : Nat} {f : Core → Core} (h : s.Canonical) (hf : ∀ c, c.Canonical → (f c).Canonical) :
    (s.modCore d c f).Canonical := by
  unfold State.modCore
  split
  · split
    · exact (h.modCore1 hf).modCore1 hf
    · exact h.modCore1 hf
  · exact h.modCore1 hf

end

/-! ## Folds -/

theorem State.Canonical.foldl {α : Type} {f : State → α → State} {s : State} {l : List α} (h : s.Canonical)
    (hf : ∀ s a, s.Canonical → (f s a).Canonical) : (l.foldl f s).Canonical :=
  List.foldlRecOn l f (motive := State.Canonical) h fun s hs a _ => hf s a hs

theorem Device.Canonical.foldl {α : Type} {f : Device → α → Device} {x : Device} {l : List α} (h : x.Canonical)
    (hf : ∀ x a, x.Canonical → (f x a).Canonical) : (l.foldl f x).Canonical :=
  List.foldlRecOn l f (motive := Device.Canonical) h fun x hx a _ => hf x a hx

theorem Core.Canonical.foldl {α : Type} {f : Core → α → Core} {c : Core} {l : List α} (h : c.Canonical)
    (hf : ∀ c a, c.Canonical → (f c a).Canonical) : (l.foldl f c).Canonical :=
  List.foldlRecOn l f (motive := Core.Canonical) h fun c hc a _ => hf c a hc

/-! ## Results -/

theorem Res.Canonical.core {r : Res} (h : r.Canonical) : r.core.Canonical := h.1

theorem Res.Canonical.post {r : Res} (h : r.Canonical) {s : State} (hs : s.Canonical) : (r.post s).Canonical := h.2 s hs

theorem Res.Canonical.mk {c : Core} {post : State → State} (hc : c.Canonical)
    (hpost : ∀ s, s.Canonical → (post s).Canonical) : Res.Canonical ⟨c, post⟩ := ⟨hc, hpost⟩

/-- A result that leaves the rest of the machine as it is. -/
theorem Core.Canonical.stay {c : Core} (hc : c.Canonical) : Res.Canonical ⟨c, id⟩ := ⟨hc, fun _ hs => hs⟩

theorem State.Canonical.next {s : State} (h : s.Canonical) :
    Stepped.Canonical (.next s) := fun _ hu => Host.Outcome.next.inj hu ▸ h

theorem Stepped.Canonical.ite {p : Prop} [Decidable p] {o r : Stepped} (ho : Stepped.Canonical o) (hr : Stepped.Canonical r) :
    Stepped.Canonical (if p then o else r) := by
  split
  · exact ho
  · exact hr

theorem Stepped.canonical_fault {f : Fault} : Stepped.Canonical (.fault f) := nofun

theorem Stepped.canonical_refused {r : Refusal} : Stepped.Canonical (.refused r) := nofun


/-! ## The model, file by file: every operation keeps the canonical form -/

/-! ### Registers, cores and devices; traps and the end of a launch -/

section
variable {s : State} {x : Device} {c : Core} {e : Env} {l : LaunchId} {acc : Nat}

theorem Core.Canonical.setCtx {n : Nat} {x : Context} (h : c.Canonical) : (c.setCtx n x).Canonical := by
  unfold Core.setCtx
  split <;> exact h

theorem Core.Canonical.modCtx {n : Nat} {f : Context → Context} (h : c.Canonical) : (c.modCtx n f).Canonical := h.setCtx

theorem Core.Canonical.setSlot {o : Nat} {x : Slot} (h : c.Canonical) : (c.setSlot o x).Canonical := by
  unfold Core.setSlot
  split <;> exact h

theorem Core.Canonical.setAcc {a : Bool} {x : Acc} (h : c.Canonical) : (c.setAcc a x).Canonical := by
  unfold Core.setAcc
  split <;> exact h

theorem Core.Canonical.setQueue {q : EngQ} {l : List Cmd} (h : c.Canonical) : (c.setQueue q l).Canonical := by
  unfold Core.setQueue
  split <;> exact h

theorem Core.Canonical.modCmd {q : EngQ} {id : Nat} {f : Cmd → Cmd} (h : c.Canonical) : (c.modCmd q id f).Canonical :=
  h.setQueue

theorem Core.Canonical.setWindow {w : Nat} {x : Option Window} (h : c.Canonical) : (c.setWindow w x).Canonical := by
  unfold Core.setWindow
  split <;> exact h

theorem Device.Canonical.raise {fn vec : Nat} (h : x.Canonical) : (x.raise fn vec).Canonical := by
  unfold Device.raise
  split <;> exact h

theorem Device.Canonical.logEv {cause arg : Nat} (h : x.Canonical) : (x.logEv cause arg).Canonical := by
  unfold Device.logEv
  split
  · exact .raise h
  exact h

theorem Device.Canonical.logErr {cause fn src off : Nat} (h : x.Canonical) : (x.logErr cause fn src off).Canonical := by
  unfold Device.logErr
  split <;> exact h

theorem Device.Canonical.journal {e v : Nat} (h : x.Canonical) : (x.journal acc e v).Canonical := by
  unfold Device.journal
  dsimp only
  split
  · exact h.setMem (cellsWrite_wf h.mem)
  exact h

theorem Device.Canonical.setStatus {code : Nat} (h : x.Canonical) : (x.setStatus acc code).Canonical := by
  unfold Device.setStatus
  split
  · exact .journal (h.modLaunch fun _ hm => hm)
  exact h

theorem State.Canonical.freeSwitches {gone : CollKey → Bool} (h : s.Canonical) : (s.freeSwitches gone).Canonical := h

theorem State.Canonical.dropFab {gone : CollKey → Bool} {keep : Body → Bool} (h : s.Canonical) :
    (s.dropFab gone keep).Canonical := h

theorem Core.Canonical.stopAll (h : c.Canonical) : c.stopAll.Canonical := h

theorem Device.Canonical.freeLaunch (h : x.Canonical) : (x.freeLaunch l).Canonical := by
  unfold Device.freeLaunch
  refine h.mapCores fun _ hq => ?_
  split <;> exact hq

theorem Device.Canonical.stopLaunch (h : x.Canonical) : (x.stopLaunch l).Canonical := by
  unfold Device.stopLaunch
  refine h.mapCores fun _ hq => ?_
  split
  · exact hq.stopAll
  exact hq

theorem Device.Canonical.freeArea (h : x.Canonical) : (x.freeArea acc).Canonical := h

theorem Device.Canonical.endSlot {slot : Nat} (h : x.Canonical) : (x.endSlot slot).Canonical := by
  unfold Device.endSlot
  split
  · split
    · dsimp only
      split
      · exact .raise h
      exact h
    exact h
  exact h

theorem State.Canonical.finishFault {owner : Nat} (h : s.Canonical) : (s.finishFault owner acc).Canonical := by
  unfold State.finishFault
  split
  · split
    · split
      · exact h
      refine .modDev (h.mapDevs fun _ _ hx => hx.freeLaunch) fun _ hx => ?_
      dsimp only
      split
      · exact .freeArea (.setStatus (.journal (.journal (hx.setMem (cellsWrite_wf hx.mem)))))
      exact .endSlot (.freeArea (.setStatus (.journal (.journal (hx.setMem (cellsWrite_wf hx.mem))))))
    exact h
  exact h

theorem State.Canonical.launchFault {f : FaultRec} (h : s.Canonical) : (s.launchFault l f).Canonical := by
  unfold State.launchFault
  split
  · split
    · exact h
    split
    · exact h.modDev fun _ hx => hx.modLaunch fun _ hl => hl
    split
    · exact h.modDev fun _ hx => hx.modLaunch fun _ hl => hl
    exact h
  exact h

theorem State.Canonical.stopEverywhere (h : s.Canonical) : (s.stopEverywhere l).Canonical := by
  unfold State.stopEverywhere
  exact .dropFab (.freeSwitches (h.mapDevs fun _ _ hx => hx.stopLaunch))

theorem State.Canonical.endFaulted (h : s.Canonical) : (s.endFaulted l).Canonical := by
  unfold State.endFaulted
  exact .finishFault (.stopEverywhere (h.modDev fun _ hx => hx.modLaunch fun _ hl => hl))

theorem Core.Canonical.only (h : c.Canonical) : (Res.only c).Canonical := h.stay

theorem Core.Canonical.dropSwap {ctx : Nat} (h : c.Canonical) : (c.dropSwap ctx).Canonical := h

theorem Core.Canonical.takeTrap {tpc word : Word} {t : Trap} (h : c.Canonical) : (takeTrap e c tpc word t).Canonical := by
  have hd : (c.dropSwap e.who.ctx).Canonical := h.dropSwap
  unfold Machine.takeTrap
  dsimp only
  split
  · exact hd.setCtx.stay
  · exact .mk (.setCtx hd) fun _ hs => hs.launchFault

theorem Core.Canonical.trapReturn {ctx : Nat} (h : c.Canonical) : (trapReturn c ctx).Canonical := by
  unfold Machine.trapReturn
  refine .setCtx ?_
  split <;> exact h

end

/-! ### Physical memory and table walks -/

section
variable {s : State} {x : Device}

theorem State.Canonical.writeG {g : Nat} {bs : List Byte} (h : s.Canonical) : (s.writeG g bs).Canonical :=
  h.modDev fun _ hx => hx.setMem (cellsWrite_wf hx.mem)

theorem Device.Canonical.setLine {n : Nat} {l : Line} (h : x.Canonical) : (x.setLine n l).Canonical := h

theorem State.Canonical.noteWalk {here die asid : Nat} {va : Word} (h : s.Canonical) :
    (s.noteWalk here die asid va).Canonical := by
  unfold State.noteWalk
  split
  · exact h
  split
  · split
    · exact h
    exact h.modDev fun _ hx => hx
  split
  · exact h.modDev fun _ hx => hx
  exact h

theorem State.Canonical.askWalk {dev : Nat} {w : Walk} (h : s.Canonical) : (s.askWalk dev w).Canonical := by
  unfold State.askWalk
  refine h.modDev fun _ hx => ?_
  split <;> exact hx

end

/-! ### Messages -/

section
variable {s : State} {x : Device} {w : Who} {b : Binding} {src d dst slot : Nat} {weights : BitVec 24} {body : Body}

theorem Device.Canonical.noteSpill (h : x.Canonical) : x.noteSpill.Canonical := by
  unfold Device.noteSpill
  split
  · split
    · exact h
    exact .logEv h
  exact h

theorem State.Canonical.fabPut {cls : Cls} {kind : FabKind} (h : s.Canonical) :
    (s.fabPut src dst cls weights kind).Canonical := h

theorem State.Canonical.sendReset (h : s.Canonical) : (s.sendReset src dst).Canonical := h.fabPut

theorem State.Canonical.fabAccept {e : Sent} (h : s.Canonical) : (s.fabAccept src e).Canonical := by
  unfold State.fabAccept
  dsimp only
  split
  · exact .fabPut (h.modDev fun _ hx => .noteSpill hx)
  split
  · exact h.modDev fun _ hx => .noteSpill hx
  exact .sendReset (h.modDev fun _ hx => .noteSpill hx)

theorem State.Canonical.fabSend {numbered : Bool} (h : s.Canonical) :
    (s.fabSend src dst weights body numbered).Canonical := by
  unfold State.fabSend
  dsimp only
  split
  · exact h.modDev fun _ hx => hx
  exact h.fabAccept

theorem State.Canonical.pump (h : s.Canonical) : (s.pump d).Canonical := by
  unfold State.pump
  refine .foldl (h.modDev fun _ hx => .noteSpill hx) fun _ _ hs => ?_
  split
  · exact hs.modDev fun _ hx => hx
  exact hs.fabAccept

theorem State.Canonical.mesh {dev : Nat} (h : s.Canonical) : (s.mesh dev weights body).Canonical := h

theorem State.Canonical.send (h : s.Canonical) : (s.send src dst weights body).Canonical := by
  unfold State.send
  split
  · exact h.mesh
  exact h.fabSend

theorem State.Canonical.modCtx {f : Context → Context} (h : s.Canonical) : (s.modCtx w f).Canonical :=
  h.modCore fun _ hc => hc.modCtx

theorem State.Canonical.postJoin {j : JoinOut} (h : s.Canonical) : (s.postJoin w b j).Canonical := h.modCtx.send

theorem State.Canonical.postPush {rcv off : Word} {data : List Byte} {typed topx : Bool} (h : s.Canonical) :
    (s.postPush w b rcv off data typed topx).Canonical := by
  unfold State.postPush
  split
  · exact h.modCtx
  exact h.modCtx.send

theorem Device.Canonical.modSlot {t : Nat} {f : QSlot → QSlot} (h : x.Canonical) : (x.modSlot t f).Canonical := h

theorem Device.Canonical.modCurrent {t : Nat} {f : Running → Running} (h : x.Canonical) : (x.modCurrent t f).Canonical :=
  h.modSlot

theorem State.Canonical.curSend {g : Nat} {mk : Origin → Req} (h : s.Canonical) : (s.curSend d slot g mk).Canonical := by
  unfold State.curSend
  exact .send (h.modDev fun _ hx => hx.modCurrent.withQueues)

theorem State.Canonical.curJoin {asid g : Nat} {va : Word} {j : JoinData} (h : s.Canonical) :
    (s.curJoin d slot asid g va j).Canonical := h.curSend

theorem State.Canonical.curAnswer {no : Nat} {a : Answer} (h : s.Canonical) : (s.curAnswer d slot no a).Canonical :=
  h.modDev fun _ hx => hx.modCurrent

theorem State.Canonical.withdrawSlot (h : s.Canonical) : (s.withdrawSlot d slot).Canonical := h.mapDevs fun _ _ hx => hx

end

/-! ### The core kill -/

section
variable {s : State} {x : Device} {c : Core} {e : Env} {b : Binding} {dev core : Nat} {egressFailed : Bool}

theorem Core.Canonical.pushRecov {v : Word} (h : c.Canonical) : (c.pushRecov v).Canonical := by
  unfold Core.pushRecov
  split <;> exact h

theorem State.Canonical.reportRecov {v : Word} (h : s.Canonical) : (s.reportRecov b v).Canonical := by
  unfold State.reportRecov
  split
  · exact h.modCore fun _ hc => hc.pushRecov
  exact h

theorem Core.Canonical.kill (h : c.Canonical) : (c.kill egressFailed).Canonical := h

theorem Core.Canonical.poisonFrom {lcore : Nat} (h : c.Canonical) : (c.poisonFrom b lcore).Canonical := h

theorem Device.Canonical.dropCore {here : Nat} (h : x.Canonical) : (x.dropCore here dev core).Canonical := h

theorem State.Canonical.killNow {pair : Bool} (h : s.Canonical) : (s.killNow dev core pair egressFailed).Canonical := by
  unfold State.killNow
  split
  · exact h.modCore1 fun _ hk => hk
  split
  · exact h
  refine .modDev ?_ fun _ hx => hx.modLaunch fun _ hl => hl
  refine .reportRecov ?_
  refine .mapDevs (.mapDevs (h.modCore fun _ hk => hk.kill) fun _ _ hx => hx.dropCore.dropCore) fun _ _ hx => ?_
  refine hx.mapCores fun _ hq => ?_
  split
  · split
    · exact hq.poisonFrom
    exact hq
  exact hq

theorem State.Canonical.killCore {pair : Bool} (h : s.Canonical) : (s.killCore dev core pair egressFailed).Canonical := by
  unfold State.killCore
  dsimp only
  split
  · exact h.modCore fun _ hk => hk
  exact h.killNow

theorem State.Canonical.settleKill (h : s.Canonical) : (s.settleKill dev core).Canonical := by
  unfold State.settleKill
  dsimp only
  split
  · split
    · exact h
    exact h.killNow
  exact h

theorem Device.Canonical.countUnc (h : x.Canonical) : x.countUnc.Canonical := h

theorem State.Canonical.eccKill (h : s.Canonical) : (s.eccKill dev core).Canonical := by
  unfold State.eccKill
  split
  · exact h
  exact .killCore (h.modDev fun _ hx => hx.countUnc)

theorem Core.Canonical.eccFound {post : State → State} (h : c.Canonical)
    (hpost : ∀ (s : State), s.Canonical → (post s).Canonical := by exact fun _ h => h) :
    (eccFound e c post).Canonical := by
  unfold Machine.eccFound
  exact .mk h fun _ hs => .eccKill (hpost _ hs)

end

/-! ### What every instruction shares -/

section
variable {s : State} {c : Core} {e : Env} {i : Instr} {w : Who} {ctx : Nat} {ran : Bool}

theorem Core.Canonical.envModCtx {f : Context → Context} (h : c.Canonical) : (e.modCtx c f).Canonical := h.modCtx

theorem Core.Canonical.envModRegs {f : Regs → Regs} (h : c.Canonical) : (e.modRegs c f).Canonical := h.envModCtx

theorem Core.Canonical.eccWrites {u : RegUse} (h : c.Canonical) : (c.eccWrites ctx u).Canonical := by
  unfold Core.eccWrites
  dsimp only
  split <;> exact h

theorem Core.Canonical.lsWrite {full : Bool} {a : Nat} {bs : List Byte} (h : c.Canonical) :
    (c.lsWrite full a bs).Canonical := by
  have hls : Core.Canonical { c with ls := if full then c.ls.writeFull a bs else c.ls.write a bs } := by
    cases full with
    | true => exact Store.writeFull_wf h a bs
    | false => exact Store.write_wf h a bs
  unfold Core.lsWrite
  dsimp only
  split
  · split <;> exact hls
  split <;> exact hls

theorem Core.Canonical.engineWrite {a : Nat} {bs : List Byte} (h : c.Canonical) : (c.engineWrite a bs).Canonical := h.lsWrite

theorem Core.Canonical.retireAt {next : Word} (h : c.Canonical) : (retireAt e i next c ran).Canonical := by
  unfold Machine.retireAt
  refine .setCtx ?_
  split
  · exact h.eccWrites
  exact h

theorem Core.Canonical.retire (h : c.Canonical) : (retire e i c ran).Canonical := h.retireAt

theorem Core.Canonical.done (h : c.Canonical) : (done e i c ran).Canonical := h.retire.stay

theorem Core.Canonical.trapI {t : Trap} (h : c.Canonical) : (trapI e i c t).Canonical := h.takeTrap

theorem Core.Canonical.trapC {cause aux : Nat} {addr : Word} (h : c.Canonical) : (trapC e i c cause aux addr).Canonical :=
  h.trapI

theorem Core.Canonical.waitI {code no left : Nat} {parked poll : Bool} {post : State → State} (h : c.Canonical)
    (hpost : ∀ s, s.Canonical → (post s).Canonical := by exact fun _ hs => hs) :
    (waitI e i c code parked poll no left post).Canonical := by
  unfold Machine.waitI
  dsimp only
  split <;> exact .mk (.setCtx h) hpost

theorem Core.Canonical.walkI {va : Word} (h : c.Canonical) : (walkI e i c va).Canonical := by
  unfold Machine.walkI
  exact .mk (Res.Canonical.core h.waitI) fun _ hs => hs.askWalk

theorem Core.Canonical.settle {o : Nat} (h : c.Canonical) : (c.settle o).Canonical := by
  unfold Core.settle
  dsimp only
  split
  · exact h
  split
  · split
    · exact h
    exact h.setSlot
  split
  · exact h.setSlot
  split <;> exact h.setSlot

theorem Core.Canonical.settleAll (h : c.Canonical) : c.settleAll.Canonical := h.foldl fun _ _ hc => hc.settle

theorem Core.Canonical.dropRegionCmds (h : c.Canonical) : (c.dropRegionCmds ctx).Canonical := by
  unfold Core.dropRegionCmds
  exact .settleAll h

theorem Core.Canonical.leaveLine {win line : Nat} (h : c.Canonical) : (c.leaveLine ctx win line).Canonical := by
  unfold Core.leaveLine
  split
  · exact h.lsWrite.setWindow
  exact h

theorem Core.Canonical.dropCounts (h : c.Canonical) : (c.dropCounts ctx).Canonical := by
  unfold Core.dropCounts
  refine h.foldl fun _ _ hc => ?_
  split
  · exact hc.leaveLine
  exact hc

theorem Core.Canonical.pairCheck {rest : Core → Res} {feed : Core → Core} (h : c.Canonical)
    (hrest : ∀ (c : Core), c.Canonical → (rest c).Canonical)
    (hfeed : ∀ (c : Core), c.Canonical → (feed c).Canonical := by exact fun _ h => h) :
    (pairCheck e c rest feed).Canonical := by
  unfold Machine.pairCheck
  split
  · exact hrest _ (hfeed _ h)
  dsimp only
  split
  · exact .mk (Res.Canonical.core (hrest _ (.setCtx (hfeed _ h)))) fun _ hs => Res.Canonical.post
      (hrest _ (.setCtx (hfeed _ h))) (hs.foldl fun _ _ ht => ht.postJoin)
  split
  · exact .mk (hfeed _ h) fun _ hs => hs.killCore
  exact Core.Canonical.stay (.setCtx (.dropSwap (.dropRegionCmds (.dropCounts (hfeed _ h)))))

theorem Core.Canonical.front {own : Env → Core → Res} (h : c.Canonical)
    (hown : ∀ (a : Env) (c : Core), c.Canonical → (own a c).Canonical) :
    (front i own e c).Canonical := by
  unfold Machine.front
  dsimp only
  split
  · exact h.only
  split
  · exact h.trapC
  split
  · exact h.trapI
  split
  · exact h.trapI
  split
  · exact h.setCtx.done
  split
  · exact h.setCtx.eccFound
  exact hown _ _ h.setCtx

theorem State.Canonical.runCtx {f : Env → Core → Res} (h : s.Canonical)
    (hf : ∀ (a : Env) (c : Core), c.Canonical → (f a c).Canonical) : Stepped.Canonical (runCtx s w f) := by
  have hr {a : Env} {core : Nat} : (f a (s.core w.dev core)).Canonical := hf _ _ h.core
  unfold Machine.runCtx
  split
  · exact Stepped.canonical_fault
  dsimp only
  split
  · exact State.Canonical.next (hr.post (h.setCore hr.core))
  split
  · exact State.Canonical.next (hr.post (h.setCore hr.core))
  · refine State.Canonical.next ?_
    split
    · exact .eccKill (hr.post (.setCore (h.setCore hr.core) hr.core))
    · exact hr.post (.setCore (h.setCore hr.core) hr.core)

theorem State.Canonical.issue {own : Env → Core → Res} (h : s.Canonical)
    (hown : ∀ (a : Env) (c : Core), c.Canonical → (own a c).Canonical) :
    Stepped.Canonical (issue i own s) := h.runCtx fun _ _ hc => hc.front fun _ _ hk => hown _ _ hk

theorem State.Canonical.compute {f : Env → Context → Regs} (h : s.Canonical) : Stepped.Canonical (compute i f s) :=
  h.issue fun _ _ hc => hc.envModCtx.done

theorem Core.Canonical.jump {t : Word} {f : Regs → Regs} (h : c.Canonical) : (jump e i c t f).Canonical := by
  unfold Machine.jump
  split
  · exact h.trapC
  exact h.envModRegs.retireAt.stay

end

/-! ### Commits -/

section
variable {c : Core} {e : Env} {i : Instr}

theorem Core.Canonical.checkpoint {ctx : Nat} (h : c.Canonical) : (c.checkpoint ctx).Canonical := h.modCtx

theorem Core.Canonical.finishRegion {post : State → State} (h : c.Canonical)
    (hpost : ∀ (s : State), s.Canonical → (post s).Canonical := by exact fun _ h => h) :
    (finishRegion e c post).Canonical := by
  unfold Machine.finishRegion
  dsimp only
  split
  · exact .mk h.checkpoint fun _ hs => .settleKill (hpost _ hs)
  split
  · exact h.checkpoint.eccFound fun _ hs => hpost _ hs
  exact .mk h.checkpoint fun _ hs => hpost _ hs

theorem Core.Canonical.countCommit {entry : Word} (h : c.Canonical) : (countCommit e entry c).Canonical := by
  unfold Machine.countCommit
  dsimp only
  split <;> exact h

theorem Core.Canonical.deliver {d : Deferred} {clear : Core → Core} (h : c.Canonical)
    (hclear : ∀ (c : Core), c.Canonical → (clear c).Canonical) :
    (deliver e i c d clear).Canonical := by
  unfold Machine.deliver
  exact Core.Canonical.takeTrap (.envModCtx (hclear _ h))

theorem Core.Canonical.clearOwn (h : c.Canonical) : (clearOwn e c).Canonical := h.dropCounts.modCtx

theorem Core.Canonical.feedLines (h : c.Canonical) : (feedLines e c).Canonical := by
  unfold Machine.feedLines
  refine h.foldl fun _ _ hc => ?_
  split
  · split
    · exact hc.envModCtx
    exact hc
  exact hc

theorem Core.Canonical.commit {own : Env → Core → Res} {reads : RegUse} (h : c.Canonical)
    (hown : ∀ (a : Env) (c : Core), c.Canonical → (own a c).Canonical) :
    (commit e i own c reads).Canonical := by
  unfold Machine.commit
  dsimp only
  split
  · exact h.trapC
  split
  · split
    · exact hown _ _ h.envModCtx
    exact h.waitI
  split
  · exact h.deliver fun _ hj => hj.clearOwn
  split
  · exact h.walkI
  · exact h.trapI
  refine h.pairCheck (fun _ hc2 => ?_) fun _ hc2 => hc2.feedLines
  split
  · exact hc2.eccFound
  split
  · exact hown _ _ hc2
  exact hc2.envModCtx.waitI

theorem Core.Canonical.withhold {g : Egress} {rec_ : List Word} (h : c.Canonical) : (withhold e i c g rec_).Canonical := by
  unfold Machine.withhold
  dsimp only
  split
  · exact h.trapC
  exact h.envModCtx.done

end

/-! ### Scalar instructions -/

section
variable {s : State} {i : Instr} {p : Pred} {d a : SReg} {n : Bool}

theorem State.Canonical.scalar2 {x : Src2} {f : Word → Word → Word} (h : s.Canonical) :
    Stepped.Canonical (scalar2 i d a x f s) := h.compute

theorem State.Canonical.scalar1 {f : Word → Word} (h : s.Canonical) : Stepped.Canonical (scalar1 i d a f s) := h.compute

theorem State.Canonical.predicate {d : PReg} {f : Regs → Bool} (h : s.Canonical) :
    Stepped.Canonical (Machine.predicate i d f s) := h.compute

theorem State.Canonical.execAdd {x : Src2} (h : s.Canonical) : Stepped.Canonical (execAdd p d a x s) := h.scalar2

theorem State.Canonical.execSub {x : Src2} (h : s.Canonical) : Stepped.Canonical (execSub p d a x s) := h.scalar2

theorem State.Canonical.execMul {x : Src2} (h : s.Canonical) : Stepped.Canonical (execMul p d a x s) := h.scalar2

theorem State.Canonical.execAnd {x : Src2} (h : s.Canonical) : Stepped.Canonical (execAnd p d a x s) := h.scalar2

theorem State.Canonical.execOr {x : Src2} (h : s.Canonical) : Stepped.Canonical (execOr p d a x s) := h.scalar2

theorem State.Canonical.execXor {x : Src2} (h : s.Canonical) : Stepped.Canonical (execXor p d a x s) := h.scalar2

theorem State.Canonical.execAndn {x : Src2} (h : s.Canonical) : Stepped.Canonical (execAndn p d a x s) := h.scalar2

theorem State.Canonical.execShl {x : Src2} (h : s.Canonical) : Stepped.Canonical (execShl p d a x s) := h.scalar2

theorem State.Canonical.execShr {x : Src2} (h : s.Canonical) : Stepped.Canonical (execShr p d a x s) := h.scalar2

theorem State.Canonical.execSar {x : Src2} (h : s.Canonical) : Stepped.Canonical (execSar p d a x s) := h.scalar2

theorem State.Canonical.execRol {x : Src2} (h : s.Canonical) : Stepped.Canonical (execRol p d a x s) := h.scalar2

theorem State.Canonical.execMulh {x : Src2} (h : s.Canonical) : Stepped.Canonical (execMulh p n d a x s) := h.scalar2

theorem State.Canonical.execDiv {x : Src2} (h : s.Canonical) : Stepped.Canonical (execDiv p n d a x s) := h.scalar2

theorem State.Canonical.execRem {x : Src2} (h : s.Canonical) : Stepped.Canonical (execRem p n d a x s) := h.scalar2

theorem State.Canonical.execMin {x : Src2} (h : s.Canonical) : Stepped.Canonical (execMin p n d a x s) := h.scalar2

theorem State.Canonical.execMax {x : Src2} (h : s.Canonical) : Stepped.Canonical (execMax p n d a x s) := h.scalar2

theorem State.Canonical.execAbs (h : s.Canonical) : Stepped.Canonical (execAbs p d a s) := h.scalar1

theorem State.Canonical.execClz (h : s.Canonical) : Stepped.Canonical (execClz p d a s) := h.scalar1

theorem State.Canonical.execCtz (h : s.Canonical) : Stepped.Canonical (execCtz p d a s) := h.scalar1

theorem State.Canonical.execPopc (h : s.Canonical) : Stepped.Canonical (execPopc p d a s) := h.scalar1

theorem State.Canonical.execBrev (h : s.Canonical) : Stepped.Canonical (execBrev p d a s) := h.scalar1

theorem State.Canonical.execBfx {pos : BitVec 6} {len : BitVec 7} (h : s.Canonical) :
    Stepped.Canonical (execBfx p n d a pos len s) := h.scalar1

theorem State.Canonical.execBfi {pos : BitVec 6} {len : BitVec 7} (h : s.Canonical) :
    Stepped.Canonical (execBfi p d a pos len s) := h.compute

theorem State.Canonical.execSel {b : SReg} {k : PReg} {neg : Bool} (h : s.Canonical) :
    Stepped.Canonical (execSel p d a b k neg s) := h.compute

theorem State.Canonical.execLi {v : BitVec 32} (h : s.Canonical) : Stepped.Canonical (execLi p n d v s) := h.compute

theorem State.Canonical.execLih {v : BitVec 32} (h : s.Canonical) : Stepped.Canonical (execLih p d v s) := h.compute

theorem State.Canonical.execLea {f : LeaForm} (h : s.Canonical) : Stepped.Canonical (execLea p d f s) := h.compute

theorem State.Canonical.execCmp {c : Cond} {d : PReg} {x : Src2} (h : s.Canonical) :
    Stepped.Canonical (execCmp p c n d a x s) := h.predicate

theorem State.Canonical.execPand {d a b : PReg} (h : s.Canonical) : Stepped.Canonical (execPand p d a b s) := h.predicate

theorem State.Canonical.execPor {d a b : PReg} (h : s.Canonical) : Stepped.Canonical (execPor p d a b s) := h.predicate

theorem State.Canonical.execPxor {d a b : PReg} (h : s.Canonical) : Stepped.Canonical (execPxor p d a b s) := h.predicate

theorem State.Canonical.execPnot {d a : PReg} (h : s.Canonical) : Stepped.Canonical (execPnot p d a s) := h.predicate

theorem State.Canonical.execPmov {f : PmovForm} (h : s.Canonical) : Stepped.Canonical (execPmov p f s) := h.compute

end

/-! ### Control flow, helpers, barriers and regions -/

section
variable {s : State} {c : Core} {e : Env} {i : Instr} {w : Who} {b : Binding} {p : Pred} {a d : SReg} {k : Level} {t : Disp}
    {sel : Bool} {op : VoteOp}

theorem State.Canonical.execBr (h : s.Canonical) : Stepped.Canonical (execBr p t s) := h.issue fun _ _ hc => hc.jump

theorem State.Canonical.execBri (h : s.Canonical) : Stepped.Canonical (execBri p a s) := h.issue fun _ _ hc => hc.jump

theorem State.Canonical.execCall (h : s.Canonical) : Stepped.Canonical (execCall p d t s) := h.issue fun _ _ hc => hc.jump

theorem State.Canonical.execCalli (h : s.Canonical) : Stepped.Canonical (execCalli p d a s) := h.issue fun _ _ hc => hc.jump

theorem State.Canonical.execRet (h : s.Canonical) : Stepped.Canonical (execRet p a s) := h.issue fun _ _ hc => hc.jump

theorem State.Canonical.execLoop (h : s.Canonical) : Stepped.Canonical (execLoop p d t s) := by
  unfold Machine.execLoop
  refine h.issue fun _ _ hc => ?_
  dsimp only
  split
  · exact hc.jump
  exact hc.envModRegs.done

theorem State.Canonical.execNop {v : Option (BitVec 32)} (h : s.Canonical) : Stepped.Canonical (execNop p v s) := h.compute

theorem State.Canonical.execBbsig {v : BitVec 32} (h : s.Canonical) : Stepped.Canonical (execBbsig v s) :=
  h.issue fun _ _ hc => hc.retire.envModCtx.stay

theorem State.Canonical.execTrap {code : BitVec 24} (h : s.Canonical) : Stepped.Canonical (execTrap p code s) :=
  h.issue fun _ _ hc => hc.retire.takeTrap

theorem State.Canonical.execTret (h : s.Canonical) : Stepped.Canonical (execTret s) := by
  unfold Machine.execTret
  refine h.issue fun _ _ hc => ?_
  dsimp only
  split
  · exact hc.trapC
  split
  · exact hc.trapC
  exact hc.retire.trapReturn.stay

theorem Core.Canonical.releaseSlot {o : Nat} (h : c.Canonical) : (c.releaseSlot o).Canonical := h.setSlot.settle

theorem Core.Canonical.releaseOwned {ctx : Nat} (h : c.Canonical) : (c.releaseOwned ctx).Canonical := by
  unfold Core.releaseOwned
  refine h.foldl fun _ _ hc => ?_
  split
  · exact hc.releaseSlot
  exact hc

theorem State.Canonical.execHstart {hn : BitVec 4} (h : s.Canonical) : Stepped.Canonical (execHstart p hn t s) := by
  unfold Machine.execHstart
  refine h.issue fun _ _ hc => ?_
  dsimp only
  split
  · exact hc.trapC
  split
  · exact hc.trapI
  split
  · exact hc.trapC
  split
  · exact hc.trapC
  exact hc.commit fun _ _ hc3 => hc3.countCommit.retire.envModCtx.setCtx.eccWrites.checkpoint.finishRegion

theorem State.Canonical.execHexit (h : s.Canonical) : Stepped.Canonical (execHexit s) :=
  h.issue fun _ _ hc => hc.commit fun _ _ hk => hk.countCommit.retire.releaseOwned.envModCtx.finishRegion

theorem State.Canonical.execHwait {hn : BitVec 4} (h : s.Canonical) : Stepped.Canonical (execHwait p hn s) := by
  unfold Machine.execHwait
  refine h.issue fun _ _ hc => ?_
  dsimp only
  split
  · exact hc.trapI
  split
  · exact hc.done
  split
  · split
    · exact hc.deliver fun _ hc2 => hc2.modCtx
    exact hc.envModRegs.modCtx.done
  exact hc.waitI

theorem Core.Canonical.endCore (h : c.Canonical) : (endCore e c).Canonical := by
  have hr : ((Machine.retire e .endK c).releaseOwned 0).Canonical := h.retire.releaseOwned
  unfold Machine.endCore
  exact .modCtx hr.withCtxs

theorem Core.Canonical.endWait (h : c.Canonical) : (endWait e c).Canonical := by
  unfold Machine.endWait
  split
  · exact h.deliver fun _ hc => hc.modCtx
  split
  · exact h.endCore.stay
  exact h.waitI

theorem State.Canonical.execEndK (h : s.Canonical) : Stepped.Canonical (execEndK s) := by
  unfold Machine.execEndK
  refine h.issue fun _ _ hc => ?_
  split
  · exact hc.trapC
  split
  · exact hc.waitI
  split
  · exact hc.endWait
  exact hc.commit fun _ _ hc2 => .mk
    (Res.Canonical.core (Core.Canonical.endWait (Res.Canonical.core hc2.countCommit.envModCtx.finishRegion))) fun _ hs =>
    Res.Canonical.post (Core.Canonical.endWait (Res.Canonical.core hc2.countCommit.envModCtx.finishRegion))
    (Res.Canonical.post hc2.countCommit.envModCtx.finishRegion hs)

theorem Core.Canonical.registerArrival {k : Nat} {vote : Option (VoteOp × Word)} (h : c.Canonical) :
    (registerArrival e k vote sel c).Canonical := h

theorem State.Canonical.noteCounted {k g : Nat} (h : s.Canonical) : (noteCounted w b k g s).Canonical := by
  unfold Machine.noteCounted
  split
  · split
    · dsimp only
      split
      · exact h.send
      exact h
    exact h
  exact h

theorem State.Canonical.postArrival (hs : s.Canonical) : (postArrival e c s).Canonical := by
  unfold Machine.postArrival
  split
  · exact hs.noteCounted
  exact hs

theorem Core.Canonical.arriveCommit {k : Nat} {vote : Core → Option (VoteOp × Word)} {wait : Bool} (h : c.Canonical) :
    (arriveCommit e i k vote sel wait c).Canonical := by
  unfold Machine.arriveCommit
  refine h.commit fun _ _ hc => ?_
  dsimp only
  split
  · exact .mk (Res.Canonical.core
      (Core.Canonical.waitI
      (Res.Canonical.core (hc.registerArrival.countCommit.envModCtx.finishRegion fun _ hs => hs.postArrival)))) fun _ hs =>
      Res.Canonical.post
      (Core.Canonical.waitI
      (Res.Canonical.core (hc.registerArrival.countCommit.envModCtx.finishRegion fun _ ht => ht.postArrival)))
      (Res.Canonical.post (hc.registerArrival.countCommit.envModCtx.finishRegion fun _ ht => ht.postArrival) hs)
  exact hc.registerArrival.countCommit.retire.envModCtx.finishRegion fun _ hs => hs.postArrival

theorem Core.Canonical.leaveWait (h : c.Canonical) : (leaveWait e i c).Canonical := by
  unfold Machine.leaveWait
  refine Core.Canonical.finishRegion ?_
  refine .envModCtx ?_
  split <;> exact h.retire

theorem Core.Canonical.dropArrival {a : Arrival} (h : c.Canonical) : (dropArrival c a).Canonical := h

theorem State.Canonical.execArrive (h : s.Canonical) : Stepped.Canonical (execArrive k s) := by
  unfold Machine.execArrive
  refine h.issue fun _ _ hc => ?_
  split
  · exact hc.trapC
  split
  · exact hc.trapI
  split
  · exact hc.trapI
  exact hc.arriveCommit

theorem Core.Canonical.rejectWait {a : Arrival} (h : c.Canonical) : (rejectWait e i a c).Canonical :=
  h.envModCtx.checkpoint.trapI

theorem Core.Canonical.leaveForStop (h : c.Canonical) : (leaveForStop e i c).Canonical := h.envModCtx.leaveWait

theorem State.Canonical.execWaitb (h : s.Canonical) : Stepped.Canonical (execWaitb k s) := by
  unfold Machine.execWaitb
  refine h.issue fun _ _ hc => ?_
  split
  · exact hc.trapI
  split
  · exact hc.trapC
  split
  · exact hc.waitI
  split
  · exact hc.dropArrival.trapI
  split
  · exact hc.dropArrival.leaveForStop
  exact hc.dropArrival.done

theorem State.Canonical.execSync (h : s.Canonical) : Stepped.Canonical (execSync k s) := by
  unfold Machine.execSync
  refine h.issue fun _ c hc => ?_
  split
  · exact hc.trapC
  split
  · split
    · next a _ =>
      have hd : (Machine.dropArrival c a).Canonical := hc.dropArrival
      split
      · exact hc.waitI
      split
      · exact hd.rejectWait
      refine Core.Canonical.leaveWait ?_
      split <;> exact hd
    · exact hc.leaveWait
  split
  · exact hc.trapI
  split
  · exact hc.trapI
  · exact hc.arriveCommit

theorem Core.Canonical.voteOwn (h : c.Canonical) : (voteOwn i sel op d a k e c).Canonical := by
  unfold Machine.voteOwn
  split
  · exact h.trapC
  split
  · split
    · split
      · exact h.waitI
      split
      · exact h.dropArrival.rejectWait
      split
      · exact h.deliver fun _ hc2 => hc2.envModCtx
      refine Core.Canonical.leaveWait ?_
      split <;> exact h.dropArrival.envModRegs
    exact h.leaveWait
  split
  · exact h.trapI
  split
  · exact h.trapC
  split
  · exact h.trapI
  exact h.arriveCommit

theorem State.Canonical.execVote (h : s.Canonical) : Stepped.Canonical (execVote op d a k s) :=
  h.issue fun _ _ hc => hc.voteOwn

theorem State.Canonical.execVoteP (h : s.Canonical) : Stepped.Canonical (execVoteP op d a k s) :=
  h.issue fun _ _ hc => hc.voteOwn

theorem State.Canonical.execRegion {dbit mbit : Bool} {vmask : BitVec 32} {smask : BitVec 63} (h : s.Canonical) :
    Stepped.Canonical (execRegion dbit mbit vmask smask s) := by
  unfold Machine.execRegion
  refine h.issue fun _ _ hc => ?_
  split
  · exact hc.trapC
  split
  · exact hc.trapI
  split
  · exact hc.trapI
  exact hc.commit fun _ _ hc2 => hc2.countCommit.retire.envModCtx.finishRegion

end

/-! ### Local-store instructions -/

section
variable {s : State} {c : Core} {e : Env} {i : Instr} {p : Pred} {a : SReg} {o : Disp} {d : VReg} {fmt : Tag}
    {mk : Option MReg}

theorem Core.Canonical.localRead {ranges : List ByteRange} {k : Core → Res} (h : c.Canonical)
    (hk : ∀ (c : Core), c.Canonical → (k c).Canonical) :
    (localRead e i c ranges k).Canonical := by
  unfold Machine.localRead
  split
  · exact h.eccFound
  split
  · exact h.trapC
  exact hk _ h

theorem State.Canonical.execLd {sz : Size} {sx : Bool} {d : SReg} (h : s.Canonical) :
    Stepped.Canonical (execLd p sz sx d a o s) := by
  unfold Machine.execLd
  refine h.issue fun _ _ hc => ?_
  dsimp only
  split
  · exact hc.trapI
  exact hc.localRead fun _ hj => hj.envModRegs.done

theorem State.Canonical.execSt {sz : Size} {d : SReg} (h : s.Canonical) : Stepped.Canonical (execSt p sz d a o s) := by
  unfold Machine.execSt
  refine h.issue fun _ _ hc => ?_
  dsimp only
  split
  · exact hc.trapI
  exact hc.lsWrite.done

theorem State.Canonical.execStn {hi : Bool} {d : SReg} (h : s.Canonical) : Stepped.Canonical (execStn p hi d a o s) := by
  unfold Machine.execStn
  refine h.issue fun _ _ hc => ?_
  dsimp only
  split
  · exact hc.trapI
  split
  · exact hc.eccFound
  exact hc.lsWrite.done

theorem State.Canonical.execLdv (h : s.Canonical) : Stepped.Canonical (execLdv p fmt mk d a o s) := by
  unfold Machine.execLdv
  refine h.issue fun _ _ hc => ?_
  dsimp only
  split
  · exact hc.trapI
  exact hc.localRead fun _ hj => hj.envModRegs.done

theorem State.Canonical.execStv (h : s.Canonical) : Stepped.Canonical (execStv p fmt mk d a o s) := by
  unfold Machine.execStv
  refine h.issue fun _ _ hc => ?_
  dsimp only
  split
  · exact hc.trapI
  split
  · exact hc.trapI
  exact Core.Canonical.done hc.lsWrite

theorem State.Canonical.execLdvx {b : VReg} (h : s.Canonical) : Stepped.Canonical (execLdvx p fmt mk d a b o s) := by
  unfold Machine.execLdvx
  refine h.issue fun _ _ hc => ?_
  dsimp only
  split
  · exact hc.trapI
  split
  · exact hc.trapI
  exact hc.localRead fun _ hc1 => hc1.envModRegs.done

theorem State.Canonical.execStvx {b : VReg} (h : s.Canonical) : Stepped.Canonical (execStvx p fmt mk d a b o s) := by
  unfold Machine.execStvx
  refine h.issue fun _ _ hc => ?_
  dsimp only
  split
  · exact hc.trapI
  split
  · exact hc.trapI
  split
  · exact hc.trapI
  exact Core.Canonical.done (hc.foldl fun _ _ hc2 => hc2.lsWrite)

theorem State.Canonical.askStash {win : Nat} {k : Window} {l pa : Nat} (h : s.Canonical) :
    (s.askStash e win k l pa).Canonical := h.send

theorem Core.Canonical.ldfPark {off n : Nat} (h : c.Canonical) : (ldfPark e i c off n).Canonical := by
  unfold Machine.ldfPark
  split
  · exact h.waitI
  split
  · exact h.walkI
  · exact h.trapI
  exact h.pairCheck fun _ hc => hc.setWindow.waitI fun _ hs => hs.askStash

theorem State.Canonical.execLdf {clr : Bool} {f : LdfForm} (h : s.Canonical) : Stepped.Canonical (execLdf p clr f a o s) := by
  unfold Machine.execLdf
  refine h.issue fun _ _ hc => ?_
  dsimp only
  split
  · exact hc.trapI
  split
  · exact hc.trapC
  split
  · exact hc.trapI
  split
  · exact hc.trapC
  split
  · split
    · exact hc.trapC
    split
    · exact hc.ldfPark
    exact hc.localRead fun _ hc6 => Core.Canonical.done (.envModCtx hc6.envModRegs)
  split
  · exact hc.trapC
  split
  · exact hc.ldfPark
  exact hc.localRead fun _ hc6 => hc6.envModRegs.done

theorem State.Canonical.execStf {f : StfForm} (h : s.Canonical) : Stepped.Canonical (execStf p f a o s) := by
  unfold Machine.execStf
  refine h.issue fun _ _ hc => ?_
  dsimp only
  split
  · exact hc.trapI
  split
  · exact hc.trapI
  exact hc.lsWrite.done

theorem State.Canonical.execFeq {d : PReg} (h : s.Canonical) : Stepped.Canonical (execFeq p d a o s) := by
  unfold Machine.execFeq
  refine h.issue fun _ _ hc => ?_
  dsimp only
  split
  · exact hc.trapI
  split
  · exact hc.trapC
  exact hc.envModRegs.done

theorem State.Canonical.execFeset {full : Bool} {cnt : BitVec 7} (h : s.Canonical) :
    Stepped.Canonical (execFeset p full cnt a o s) := by
  unfold Machine.execFeset
  refine h.issue fun _ _ hc => ?_
  dsimp only
  split
  · exact hc.trapI
  split
  · exact hc.waitI
  refine Core.Canonical.done ?_
  split <;> exact hc

theorem State.Canonical.execPush {big : Bool} {b : SReg} (h : s.Canonical) :
    Stepped.Canonical (execPush p big d a b o s) := by
  unfold Machine.execPush
  refine h.issue fun _ _ hc => ?_
  dsimp only
  split
  · exact hc.trapI
  split
  · split
    · exact hc.trapC
    exact hc.withhold
  split
  · exact hc.trapC
  exact hc.withhold

theorem State.Canonical.execFence {k : Level} (h : s.Canonical) : Stepped.Canonical (execFence p k s) := by
  unfold Machine.execFence
  refine h.issue fun _ _ hc => ?_
  split
  · exact hc.trapI
  refine hc.pairCheck fun _ hj => ?_
  split
  · exact hj.waitI
  exact hj.done

end

/-! ### Flowstone instructions -/

section
variable {s : State} {c : Core} {e : Env} {i : Instr} {p : Pred} {a d : SReg} {o : Disp} {lv : Option Level} {kind : Kind}
    {wd : Width} {win : Nat} {ea : Word} {es : List (Nat × Nat)} {rec_ : Regs → List Word}

theorem Core.Canonical.flowAccess {acc : Access} {align n : Nat} {k : Tlb → Res} (h : c.Canonical)
    (hk : ∀ (a : Tlb), (k a).Canonical) :
    (flowAccess e i c acc ea align n kind wd k).Canonical := by
  unfold Machine.flowAccess
  split
  · exact h.walkI
  · exact h.trapI
  exact hk _

theorem Core.Canonical.localJoin {k : Window} {va : Word} (h : c.Canonical) : (c.localJoin win k va es).Canonical := by
  unfold Core.localJoin
  exact .setWindow (h.foldl fun _ _ hc => hc.lsWrite)

theorem Core.Canonical.thenFence (h : c.Canonical) : (thenFence e i c lv).Canonical := by
  unfold Machine.thenFence
  split
  · exact h.done
  refine h.pairCheck fun _ hc => ?_
  split
  · exact hc.waitI
  exact hc.done

theorem Core.Canonical.windowJoin {k : Window} {va : Word} (h : c.Canonical) :
    (windowJoin e i c win k va lv es).Canonical := by
  unfold Machine.windowJoin
  dsimp only
  split
  · exact h.trapC
  split
  · exact h.eccFound
  split
  · exact h.localJoin.thenFence
  split
  · exact h.localJoin.envModCtx.thenFence
  refine Core.Canonical.withhold ?_
  split
  · exact h.localJoin
  exact h

theorem Core.Canonical.postNow {j : JoinOut} (h : c.Canonical) : (postNow e i c j rec_).Canonical := by
  unfold Machine.postNow
  dsimp only
  split
  · split
    · exact h.pairCheck fun _ hj => hj.envModCtx.done
    exact h.envModCtx.done
  exact .mk h.retire fun _ hs => hs.postJoin

theorem Core.Canonical.sendJoin {cnt : Bool} {j : JoinOut} (h : c.Canonical) : (sendJoin e i c cnt lv j rec_).Canonical := by
  unfold Machine.sendJoin
  split
  · exact h.withhold
  split
  · exact h.waitI
  split
  · exact h.postNow
  split
  · exact h.pairCheck (fun _ hc1 => hc1.waitI) fun _ hc1 => hc1.envModCtx
  exact .mk (Res.Canonical.core h.waitI) fun _ hs => hs.postJoin

theorem Core.Canonical.joinOwn {align n : Nat} {data : JoinData} (h : c.Canonical) :
    (joinOwn e i c kind wd lv ea align n data es rec_).Canonical := by
  unfold Machine.joinOwn
  split
  · exact h.trapI
  split
  · split
    · exact h.waitI
    exact h.done
  refine h.flowAccess fun _ => ?_
  split
  · split
    · exact h.trapC
    split
    · exact h.done
    exact h.windowJoin
  split
  · exact h.done
  exact h.sendJoin

theorem State.Canonical.execJoin (h : s.Canonical) : Stepped.Canonical (execJoin p kind wd lv d a o s) :=
  h.issue fun _ _ hc => hc.joinOwn

theorem State.Canonical.execJoinv {f : JoinvForm} {d : VReg} (h : s.Canonical) :
    Stepped.Canonical (execJoinv p f d a o s) := by
  unfold Machine.execJoinv
  refine h.issue fun _ _ hc => ?_
  dsimp only
  split
  · exact hc.trapI
  split <;> exact hc.joinOwn

theorem Core.Canonical.sendRead {code pa : Nat} {req : Origin → Req} (h : c.Canonical) :
    (sendRead e i c code pa req).Canonical := h.pairCheck fun _ hc => hc.envModCtx.waitI fun _ hs => hs.send

theorem State.Canonical.execTread {nt : BitVec 2} (h : s.Canonical) :
    Stepped.Canonical (execTread p kind wd lv nt d a o s) := by
  unfold Machine.execTread
  refine h.issue fun _ _ hc => ?_
  dsimp only
  split
  · exact hc.trapI
  refine hc.flowAccess fun _ => ?_
  split
  · exact hc.trapC
  split
  · exact hc.sendRead
  split
  · exact hc.pairCheck fun _ hc2 => hc2.waitI
  exact hc.sendRead

theorem State.Canonical.execXread (h : s.Canonical) : Stepped.Canonical (execXread p kind wd d a o s) :=
  h.issue fun _ _ hc => hc.flowAccess fun _ => hc.sendRead

theorem State.Canonical.execXreadv {f : XreadvForm} {d : VReg} (h : s.Canonical) :
    Stepped.Canonical (execXreadv p f d a o s) := by
  unfold Machine.execXreadv
  refine h.issue fun _ _ hc => ?_
  dsimp only
  split <;> exact hc.flowAccess fun _ => hc.sendRead

theorem State.Canonical.execFrz {b : SReg} (h : s.Canonical) : Stepped.Canonical (execFrz p a b o s) := by
  unfold Machine.execFrz
  refine h.issue fun _ _ hc => ?_
  dsimp only
  split
  · exact hc.trapC
  split
  · exact hc.trapC
  split
  · exact hc.done
  split
  · exact hc.walkI
  · exact hc.trapI
  refine hc.pairCheck fun _ hc2 => ?_
  split
  · exact hc2.waitI
  exact hc2.envModCtx.waitI fun _ hs => hs.foldl fun _ _ ht => ht.send

theorem State.Canonical.execLkind {o : BitVec 24} (h : s.Canonical) : Stepped.Canonical (execLkind p d a o s) := by
  unfold Machine.execLkind
  refine h.issue fun _ _ hc => ?_
  dsimp only
  split
  · exact hc.trapC
  split
  · exact hc.walkI
  · exact hc.trapI
  exact hc.envModRegs.done

theorem Core.Canonical.map {acc : Bool} {off : Word} {len : Nat} {t : Tlb} (h : c.Canonical) :
    (c.map win acc off ea len t).Canonical := by
  unfold Core.map
  refine .setWindow ?_
  split
  · exact h.lsWrite
  exact h

theorem State.Canonical.execSmap {win : BitVec 3} {acc : Bool} {b : SReg} (h : s.Canonical) :
    Stepped.Canonical (execSmap p win acc d a b o s) := by
  unfold Machine.execSmap
  refine h.issue fun _ _ hc => ?_
  dsimp only
  split
  · exact hc.trapC
  split
  · exact hc.trapC
  split
  · exact hc.walkI
  · exact hc.trapI
  split
  · exact hc.trapC
  split
  · exact hc.trapC
  split
  · exact hc.waitI
  split
  · exact hc.map.done
  exact hc.done

theorem Core.Canonical.cleanLine {l : Nat} (h : c.Canonical) : (c.cleanLine win l).Canonical := by
  unfold Core.cleanLine
  split
  · exact h.lsWrite.setWindow
  exact h

theorem Core.Canonical.flushLines {fuel sent : Nat} (h : c.Canonical) : (flushLines e i win fuel sent c).Canonical := by
  induction fuel generalizing c sent with
  | zero => exact h.done
  | succ n ih =>
    unfold Machine.flushLines
    split
    · exact h.done
    split
    · exact h.done
    split
    · exact h.walkI
    · exact h.trapI
    dsimp only
    split
    · exact h.trapC
    split
    · split
      · exact h.waitI
      split
      · exact h.eccFound
      split
      · exact ih (.envModCtx h.cleanLine)
      split
      · exact h.pairCheck fun _ hc => ih (.envModCtx hc.cleanLine)
      · exact h.waitI
    · split
      · exact h.waitI
      split
      · exact h.eccFound
      · exact .mk (ih h.cleanLine).core fun _ hs => (ih h.cleanLine).post hs.postJoin

theorem State.Canonical.execSflush {win : BitVec 3} (h : s.Canonical) : Stepped.Canonical (execSflush p win s) := by
  unfold Machine.execSflush
  refine h.issue fun _ _ hc => ?_
  split
  · exact hc.trapC
  split
  · exact hc.done
  exact hc.flushLines

theorem State.Canonical.execSdrop {win : BitVec 3} (h : s.Canonical) : Stepped.Canonical (execSdrop p win s) := by
  unfold Machine.execSdrop
  refine h.issue fun _ _ hc => ?_
  split
  · exact hc.trapC
  exact Core.Canonical.done (.setWindow (hc.foldl fun _ _ hj => hj.modCtx))

end

/-! ### Flags -/

section
variable {c : Core}

theorem Core.Canonical.engineFlags {ctx : Nat} {f : Word} (h : c.Canonical) : (c.engineFlags ctx f).Canonical := h.modCtx

end

/-! ### Vector instructions -/

section
variable {s : State} {i : Instr} {d a : VReg} {p : Pred} {fmt : Tag} {vm : VMask} {u sat : Bool} {n : VCount}
    {part : BitVec 3}

theorem State.Canonical.vecOp {checks : Regs → List (VReg × TagReq)} {f : Env → Regs → Regs} (h : s.Canonical) :
    Stepped.Canonical (vecOp i checks f s) := by
  unfold Machine.vecOp
  refine h.issue fun _ _ hc => ?_
  dsimp only
  split
  · exact hc.trapI
  exact hc.envModRegs.done

theorem State.Canonical.lanes2 {f : Tag} {b : VReg} {g : Nat → Nat → Nat × Word} (h : s.Canonical) :
    Stepped.Canonical (lanes2 i f vm d a b g s) := h.vecOp

theorem State.Canonical.lanes1 {f : Tag} {g : Nat → Nat × Word} (h : s.Canonical) :
    Stepped.Canonical (lanes1 i f vm d a g s) := h.vecOp

theorem State.Canonical.execVadd {b : VReg} (h : s.Canonical) : Stepped.Canonical (execVadd p fmt vm d a b s) := h.lanes2

theorem State.Canonical.execVsub {b : VReg} (h : s.Canonical) : Stepped.Canonical (execVsub p fmt vm d a b s) := h.lanes2

theorem State.Canonical.execVmul {b : VReg} (h : s.Canonical) : Stepped.Canonical (execVmul p fmt vm d a b s) := h.lanes2

theorem State.Canonical.execVdiv {b : VReg} (h : s.Canonical) : Stepped.Canonical (execVdiv p fmt vm d a b s) := h.lanes2

theorem State.Canonical.execVfma {np nc : Bool} {b c : VReg} (h : s.Canonical) :
    Stepped.Canonical (execVfma p fmt np nc vm d a b c s) := h.vecOp

theorem State.Canonical.execVmin {b : VReg} (h : s.Canonical) : Stepped.Canonical (execVmin p fmt u vm d a b s) := h.lanes2

theorem State.Canonical.execVmax {b : VReg} (h : s.Canonical) : Stepped.Canonical (execVmax p fmt u vm d a b s) := h.lanes2

theorem State.Canonical.execVabs (h : s.Canonical) : Stepped.Canonical (execVabs p fmt sat vm d a s) := h.lanes1

theorem State.Canonical.execVneg (h : s.Canonical) : Stepped.Canonical (execVneg p fmt sat vm d a s) := h.lanes1

theorem State.Canonical.execVsqrt (h : s.Canonical) : Stepped.Canonical (execVsqrt p fmt vm d a s) := h.lanes1

theorem State.Canonical.execVrcp (h : s.Canonical) : Stepped.Canonical (execVrcp p fmt vm d a s) := h.lanes1

theorem State.Canonical.execVsfu {fn : Sfu} (h : s.Canonical) : Stepped.Canonical (execVsfu p fmt fn vm d a s) := h.lanes1

theorem State.Canonical.execViadd {b : VReg} (h : s.Canonical) : Stepped.Canonical (execViadd p fmt sat u vm d a b s) :=
  h.lanes2

theorem State.Canonical.execVisub {b : VReg} (h : s.Canonical) : Stepped.Canonical (execVisub p fmt sat u vm d a b s) :=
  h.lanes2

theorem State.Canonical.execVimul {hi : Bool} {b : VReg} (h : s.Canonical) :
    Stepped.Canonical (execVimul p fmt sat hi u vm d a b s) := h.lanes2

theorem State.Canonical.bitwise {b : VReg} {g : Vec → Vec → Vec} (h : s.Canonical) :
    Stepped.Canonical (bitwise i fmt vm d a b g s) := h.vecOp

theorem State.Canonical.execVand {b : VReg} (h : s.Canonical) : Stepped.Canonical (execVand p fmt vm d a b s) := h.bitwise

theorem State.Canonical.execVor {b : VReg} (h : s.Canonical) : Stepped.Canonical (execVor p fmt vm d a b s) := h.bitwise

theorem State.Canonical.execVxor {b : VReg} (h : s.Canonical) : Stepped.Canonical (execVxor p fmt vm d a b s) := h.bitwise

theorem State.Canonical.shiftOp {g : Nat → Nat → Nat → Nat} (h : s.Canonical) :
    Stepped.Canonical (shiftOp i fmt vm d a n g s) := h.vecOp

theorem State.Canonical.execVshl (h : s.Canonical) : Stepped.Canonical (execVshl p fmt vm d a n s) := h.shiftOp

theorem State.Canonical.execVshr (h : s.Canonical) : Stepped.Canonical (execVshr p fmt vm d a n s) := h.shiftOp

theorem State.Canonical.execVsar (h : s.Canonical) : Stepped.Canonical (execVsar p fmt vm d a n s) := h.shiftOp

theorem State.Canonical.execVcmp {c : Cond} {d : MReg} {b : VReg} (h : s.Canonical) :
    Stepped.Canonical (execVcmp p fmt c u vm d a b s) := h.vecOp

theorem State.Canonical.execVsel {mk : MReg} {b : VReg} (h : s.Canonical) : Stepped.Canonical (execVsel p fmt mk d a b s) :=
  h.vecOp

theorem State.Canonical.execVperm {b c : VReg} (h : s.Canonical) : Stepped.Canonical (execVperm p fmt vm d a b c s) := h.vecOp

theorem State.Canonical.execVshuf {pat : Shuf} (h : s.Canonical) : Stepped.Canonical (execVshuf p fmt vm d a pat s) := h.vecOp

theorem State.Canonical.execVbcast {src : BcastSrc} (h : s.Canonical) : Stepped.Canonical (execVbcast p fmt u vm d src s) :=
  h.vecOp

theorem State.Canonical.execVext {d : SReg} {ix : LaneIx} (h : s.Canonical) : Stepped.Canonical (execVext p fmt u d a ix s) :=
  h.vecOp

theorem State.Canonical.execVins {a : SReg} {ix : LaneIx} (h : s.Canonical) : Stepped.Canonical (execVins p fmt d a ix s) :=
  h.vecOp

theorem State.Canonical.execVred {op : RedOp} {w : Bool} {mk : Option MReg} (h : s.Canonical) :
    Stepped.Canonical (execVred p fmt op w u mk d a s) := h.vecOp

theorem State.Canonical.execVscan {op : RedOp} {w : Bool} {mk : Option MReg} (h : s.Canonical) :
    Stepped.Canonical (execVscan p fmt op w u mk d a s) := h.vecOp

theorem State.Canonical.execVcvt {dfmt sfmt : Tag} {su du : Bool} {rm : Rm} (h : s.Canonical) :
    Stepped.Canonical (execVcvt p dfmt sfmt su du part rm vm d a s) := h.vecOp

theorem State.Canonical.execVqblk {sfmt : Tag} {sc : Bool} {rm : Rm} {c : VReg} (h : s.Canonical) :
    Stepped.Canonical (execVqblk p sfmt sc part rm d a c s) := h.vecOp

theorem State.Canonical.execVdqblk {c : VReg} (h : s.Canonical) : Stepped.Canonical (execVdqblk p fmt part d a c s) := h.vecOp

theorem State.Canonical.execVkey (h : s.Canonical) : Stepped.Canonical (execVkey p fmt vm d a s) := h.vecOp

theorem State.Canonical.execVtag (h : s.Canonical) : Stepped.Canonical (execVtag p fmt d a s) := h.vecOp

theorem State.Canonical.execVmov (h : s.Canonical) : Stepped.Canonical (execVmov p fmt vm d a s) := h.vecOp

theorem State.Canonical.execVzero (h : s.Canonical) : Stepped.Canonical (execVzero p fmt d s) := h.vecOp

theorem State.Canonical.execViota {a : SReg} (h : s.Canonical) : Stepped.Canonical (execViota p fmt u vm d a s) := h.vecOp

theorem State.Canonical.execMlogic {op : MOp} (h : s.Canonical) : Stepped.Canonical (execMlogic p op s) := h.compute

end

/-! ### Matrix and engine instructions -/

section
variable {s : State} {c : Core} {e : Env} {i : Instr} {p : Pred} {a d vr : SReg} {y : Sync} {acc : Bool} {o : OReg}
    {tag : Tag} {off : BitVec 24} {q : BitVec 8} {g : BitVec 4}

theorem Core.Canonical.enqueue {k : Cmd} (h : c.Canonical) : (c.enqueue k).Canonical := h.setQueue

theorem Core.Canonical.emptyDst {k : Cmd} (h : c.Canonical) : (c.emptyDst k).Canonical := h

theorem Core.Canonical.accept {f : Core → Core} (h : c.Canonical)
    (hf : ∀ (c : Core), c.Canonical → (f c).Canonical := by exact fun _ h => h) :
    (accept e i c f).Canonical := by
  unfold Machine.accept
  dsimp only
  split
  · exact h.waitI
  split
  · exact h.waitI
  exact Core.Canonical.done (hf _ h.envModCtx.enqueue.emptyDst)

theorem State.Canonical.execMclaim (h : s.Canonical) : Stepped.Canonical (execMclaim p o s) := by
  unfold Machine.execMclaim
  refine h.issue fun _ _ hc => ?_
  dsimp only
  split
  · exact hc.done
  split
  · exact Core.Canonical.done (.setSlot hc)
  exact hc.waitI

theorem State.Canonical.execMrel (h : s.Canonical) : Stepped.Canonical (execMrel p o s) := by
  unfold Machine.execMrel
  refine h.issue fun _ _ hc => ?_
  split
  · exact hc.releaseSlot.done
  exact hc.trapI

theorem State.Canonical.execMload {mf : Mf} (h : s.Canonical) : Stepped.Canonical (execMload p mf o a off y s) := by
  unfold Machine.execMload
  refine h.issue fun _ _ hc => ?_
  dsimp only
  split
  · exact hc.trapI
  split
  · exact hc.trapC
  split
  · exact hc.trapI
  split
  · exact hc.trapC
  split
  · exact hc.trapC
  exact hc.accept fun _ hc4 => hc4.settle

theorem State.Canonical.execMband (h : s.Canonical) : Stepped.Canonical (execMband p o a s) := by
  unfold Machine.execMband
  refine h.issue fun _ _ hc => ?_
  split
  · exact hc.trapI
  exact hc.setSlot.done

theorem Core.Canonical.acceptMode {isInt : Bool} (h : c.Canonical) : (c.acceptMode acc isInt).Canonical := h.setAcc

theorem State.Canonical.execMma {mf : Mf} {ow : Bool} {a b : OReg} (h : s.Canonical) :
    Stepped.Canonical (execMma p mf ow acc a b y s) := by
  unfold Machine.execMma
  refine h.issue fun _ _ hc => ?_
  split
  · exact hc.trapI
  split
  · exact hc.trapC
  split
  · exact hc.trapC
  refine hc.accept fun _ hc2 => ?_
  split
  · exact hc2.acceptMode
  exact hc2

theorem State.Canonical.execMzero (h : s.Canonical) : Stepped.Canonical (execMzero p tag acc y s) := by
  unfold Machine.execMzero
  refine h.issue fun _ _ hc => ?_
  split
  · exact hc.trapC
  split
  · exact hc.trapC
  exact hc.accept fun _ hc1 => hc1.acceptMode

theorem State.Canonical.execMwrite (h : s.Canonical) : Stepped.Canonical (execMwrite p tag acc a off y s) := by
  unfold Machine.execMwrite
  refine h.issue fun _ _ hc => ?_
  dsimp only
  split
  · exact hc.trapI
  split
  · exact hc.trapC
  split
  · exact hc.trapC
  split
  · exact hc.trapC
  exact hc.accept fun _ hc3 => hc3.acceptMode

theorem State.Canonical.execMread {rm : Rm} {part : BitVec 3} {d : VReg} (h : s.Canonical) :
    Stepped.Canonical (execMread p tag acc rm part d a s) := by
  unfold Machine.execMread
  refine h.issue fun _ _ hc => ?_
  dsimp only
  split
  · exact hc.trapI
  split
  · exact hc.trapI
  split
  · exact hc.trapC
  split
  · exact hc.setAcc.waitI
  exact hc.setAcc.envModRegs.done

theorem State.Canonical.execMstore {rm : Rm} (h : s.Canonical) : Stepped.Canonical (execMstore p tag acc rm a off y s) := by
  unfold Machine.execMstore
  refine h.issue fun _ _ hc => ?_
  dsimp only
  split
  · exact hc.trapI
  split
  · exact hc.trapC
  split
  · exact hc.trapI
  split
  · exact hc.trapI
  split
  · exact hc.trapC
  split
  · exact hc.trapC
  exact hc.accept

theorem Core.Canonical.of_exchange {n : Nat} {k : Core} (h : c.Canonical) (hk : c.exchange n acc = some k) :
    k.Canonical := by
  unfold Core.exchange at hk
  dsimp only at hk
  split at hk
  · split at hk
    · exact Option.some.inj hk ▸ h.setAcc
    · exact nomatch hk
  · exact nomatch hk

theorem State.Canonical.execMswap (h : s.Canonical) : Stepped.Canonical (execMswap p acc s) := by
  unfold Machine.execMswap
  refine h.issue fun _ _ hc => ?_
  split
  · exact hc.trapC
  dsimp only
  split
  · next hk => exact ((hc.ite hc.setAcc).of_exchange hk).done
  · exact (hc.ite hc.setAcc).waitI

theorem State.Canonical.execCpyFetch {b : SReg} (h : s.Canonical) : Stepped.Canonical (execCpyFetch p d a b vr y s) := by
  unfold Machine.execCpyFetch
  refine h.issue fun _ _ hc => ?_
  dsimp only
  split
  · exact hc.trapI
  split
  · exact hc.trapC
  split
  · exact hc.trapC
  split
  · exact hc.trapC
  split
  · exact hc.trapI
  split
  · exact hc.trapC
  split
  · exact hc.trapC
  split
  · exact hc.waitI
  exact hc.pairCheck fun _ hc7 => hc7.accept

theorem State.Canonical.execCpyPutj {b : SReg} {st : Option SReg} (h : s.Canonical) :
    Stepped.Canonical (execCpyPutj p d a b vr st y s) := by
  unfold Machine.execCpyPutj
  refine h.issue fun _ _ hc => ?_
  dsimp only
  split
  · exact hc.trapI
  split
  · exact hc.trapC
  split
  · exact hc.trapC
  split
  · exact hc.trapC
  split
  · exact hc.trapC
  split
  · exact hc.trapC
  exact hc.accept

theorem Core.Canonical.withholdCmd {maj : Nat} (h : c.Canonical) : (withholdCmd e i maj c).Canonical := by
  unfold Machine.withholdCmd
  split
  · exact h.trapC
  exact h.withhold

theorem State.Canonical.execSend {b : SReg} {len : BitVec 14} {fmt : Tag} (h : s.Canonical) :
    Stepped.Canonical (execSend p d a b len fmt y s) := h.issue fun _ _ hc => hc.withholdCmd

theorem State.Canonical.execColl {k : Level} {cop : BitVec 8} {fmt : Tag} {b : SReg} {lw : Option SReg} (h : s.Canonical) :
    Stepped.Canonical (execColl p k cop fmt d a b vr lw y s) := by
  unfold Machine.execColl
  refine h.issue fun _ _ hc => ?_
  split
  · exact hc.trapI
  exact hc.withholdCmd

theorem Core.Canonical.addSem {q inc : Nat} (h : c.Canonical) : (c.addSem q inc).Canonical := h

theorem State.Canonical.execSemw {t : BitVec 16} (h : s.Canonical) : Stepped.Canonical (execSemw p q t s) := by
  unfold Machine.execSemw
  refine h.issue fun _ _ hc => ?_
  split
  · exact hc.done
  exact hc.waitI

theorem State.Canonical.execSems {inc : BitVec 8} (h : s.Canonical) : Stepped.Canonical (execSems p q inc s) := by
  unfold Machine.execSems
  refine h.issue fun _ _ hc => ?_
  split
  · exact hc.trapC
  exact hc.withhold

theorem State.Canonical.execSemr (h : s.Canonical) : Stepped.Canonical (execSemr p d q s) := by
  unfold Machine.execSemr
  refine h.issue fun _ _ hc => ?_
  split
  · exact hc.trapC
  exact hc.envModRegs.done

theorem Core.Canonical.setGuard {v : Option Bool} (h : c.Canonical) : (c.setGuard g v).Canonical := h

theorem State.Canonical.execGarm (h : s.Canonical) : Stepped.Canonical (execGarm p g s) := by
  unfold Machine.execGarm
  refine h.issue fun _ _ hc => ?_
  split
  · exact hc.trapC
  exact hc.setGuard.done

theorem State.Canonical.execGres {a : PReg} {neg : Bool} (h : s.Canonical) : Stepped.Canonical (execGres p g a neg s) := by
  unfold Machine.execGres
  refine h.issue fun _ _ hc => ?_
  split
  · exact hc.trapC
  exact hc.setGuard.done

theorem State.Canonical.execEwait {mx cx ce : Bool} (h : s.Canonical) : Stepped.Canonical (execEwait p mx cx ce s) := by
  unfold Machine.execEwait
  refine h.issue fun _ _ hc => ?_
  dsimp only
  split
  · exact hc.done
  split
  · exact hc.deliver fun _ hj => hj.envModCtx
  exact hc.waitI

end

/-! ### System instructions -/

section
variable {s : State} {c : Core} {e : Env} {p : Pred} {d : SReg}

theorem State.Canonical.execMfs {sreg : BitVec 12} (h : s.Canonical) : Stepped.Canonical (execMfs p d sreg s) := by
  unfold Machine.execMfs
  refine h.issue fun _ _ hc => ?_
  dsimp only
  split
  · split
    · exact hc.trapC
    exact hc.envModRegs.done
  split
  · exact hc.trapC
  exact hc.envModRegs.done

theorem Core.Canonical.takeRecov {v : Word} (h : c.Canonical) : (c.takeRecov v).Canonical := by
  unfold Core.takeRecov
  split <;> exact h

theorem Core.Canonical.mtsCore {n : Nat} {v : Word} (h : c.Canonical) : (mtsCore e c n v).Canonical := by
  unfold Machine.mtsCore
  dsimp only
  split
  · exact h.envModRegs
  · exact h.envModRegs
  · exact h.envModRegs
  · exact h.envModCtx
  · exact h.envModCtx
  · exact h.envModCtx
  · exact h.envModCtx
  · exact h.envModCtx
  · exact h.envModCtx
  · split
    · exact h.takeRecov
    exact h
  · exact h
  exact h

theorem State.Canonical.execMts {a : SReg} {sreg : BitVec 12} (h : s.Canonical) : Stepped.Canonical (execMts p a sreg s) :=
  h.issue fun _ _ hc => hc.mtsCore.envModCtx.done

theorem State.Canonical.execClkr (h : s.Canonical) : Stepped.Canonical (execClkr p d s) := by
  unfold Machine.execClkr
  refine h.issue fun _ _ hc => ?_
  split
  · exact hc.trapC
  exact hc.envModRegs.done

theorem State.Canonical.execRngr (h : s.Canonical) : Stepped.Canonical (execRngr p d s) := h.compute

theorem State.Canonical.execTlbf {f : TlbfForm} (h : s.Canonical) : Stepped.Canonical (execTlbf p f s) := by
  unfold Machine.execTlbf
  refine h.issue fun _ _ hc => ?_
  split
  · exact hc.waitI
  exact Core.Canonical.done hc

theorem State.Canonical.execBkpt {code : BitVec 12} (h : s.Canonical) : Stepped.Canonical (execBkpt p code s) :=
  h.issue fun _ _ hc => hc.retire.takeTrap

theorem Core.Canonical.illegalTrap {raw : BitVec 128} (h : c.Canonical) : (illegalTrap raw e c).Canonical := h.takeTrap

theorem State.Canonical.execIll {raw : BitVec 128} (h : s.Canonical) : Stepped.Canonical (execIll raw s) :=
  h.issue fun _ _ hc => hc.illegalTrap

end

/-! ### Home memory: joins, reads and parking -/

section
variable {s : State} {x : Device} {c : Core} {e : Env} {w : Who} {n dev : Nat} {va : Word} {weights : BitVec 24} {k : Kind}
    {o : Origin} {r : Req}

theorem Device.Canonical.touch {w : Width} (h : x.Canonical) : (x.touch n k w).Canonical := by
  unfold Device.touch
  refine .setLine ?_
  split
  · exact h.setMem (cellsWrite_wf h.mem)
  exact h

theorem Device.Canonical.joinElems {w : Width} {es : List (Nat × Nat)} (h : x.Canonical) :
    (x.joinElems n k w es).Canonical :=
  h.setMem <| List.foldlRecOn es _ (motive := fun m => Memory.wf m = true) h.mem fun _ hm _ _ => cellsWrite_wf hm

theorem Device.Canonical.joinFill {g : Nat} {mask : BitVec 32} {data : BitVec 128} (h : x.Canonical) :
    (x.joinFill n g mask data va).1.Canonical := by
  unfold Device.joinFill
  dsimp only
  split
  · exact h
  · exact (h.setMem (cellsWrite_wf h.mem)).setLine

theorem Device.Canonical.joinVer {v : BitVec 32} {data : BitVec 512} (h : x.Canonical) :
    (x.joinVer n v data va).1.Canonical := by
  unfold Device.joinVer
  dsimp only
  split
  · exact (h.setMem (cellsWrite_wf h.mem)).setLine
  split
  · exact h
  split <;> exact h

theorem Device.Canonical.joinLine {d : JoinData} (h : x.Canonical) : (x.joinLine n d va).1.Canonical := by
  unfold Device.joinLine
  dsimp only
  split
  · exact h
  split
  · exact h
  split
  · exact h.joinElems
  · exact h.joinFill
  · exact h.joinVer

theorem Device.Canonical.wakeReads (h : x.Canonical) : (x.wakeReads n).1.Canonical := h

theorem Device.Canonical.settleLine {fuel : Nat} (h : x.Canonical) : (x.settleLine n fuel).1.Canonical := by
  induction fuel generalizing x with
  | zero => exact h.wakeReads
  | succ fuel ih =>
    have hw : (x.wakeReads n).1.Canonical := h.wakeReads
    unfold Device.settleLine
    dsimp only
    split
    · exact ih (Device.Canonical.joinLine hw)
    · exact hw

theorem Device.Canonical.settle (h : x.Canonical) : (x.settle n).1.Canonical := h.settleLine

theorem State.Canonical.sendAll {bs : List Body} (h : s.Canonical) : (s.sendAll dev bs).Canonical := by
  unfold State.sendAll
  refine h.foldl fun _ _ hs => ?_
  split <;> exact hs.send

theorem State.Canonical.markRetry (h : s.Canonical) : (s.markRetry o).Canonical := by
  unfold State.markRetry
  split
  · exact h.modCtx
  exact h

theorem State.Canonical.parkReq {la : Option LaunchId} (h : s.Canonical) : (s.parkReq dev n weights la o r).Canonical := by
  unfold State.parkReq
  split
  · exact h.modDev fun _ hx => hx
  exact .markRetry (h.modDev fun _ hx => hx)

theorem State.Canonical.reportCnt {p : Part} (h : s.Canonical) : (s.reportCnt dev n p).Canonical := by
  unfold State.reportCnt
  split
  · split
    · exact h
    refine .modDev (h.modDev fun _ hx => hx) fun _ hx => ?_
    refine hx.modLaunch fun _ hm => ?_
    split
    · exact hm
    split <;> exact hm
  exact h

theorem State.Canonical.homePart {p : Part} (h : s.Canonical) : (s.homePart dev n weights p).Canonical := by
  unfold State.homePart
  dsimp only
  split
  · exact .parkReq (h.modDev fun _ _ => h.device.touch.joinLine)
  · exact .sendAll (.reportCnt (h.modDev fun _ _ => h.device.touch.joinLine))
  exact .sendAll (h.modDev fun _ _ => h.device.touch.joinLine)

theorem State.Canonical.settleHome {d : Nat} (h : s.Canonical) : (s.settleHome d n).Canonical :=
  (h.modDev fun _ _ => h.device.settle).sendAll

theorem State.Canonical.homeJoin {ps : List Part} (h : s.Canonical) : (s.homeJoin dev n weights ps).Canonical := by
  unfold State.homeJoin
  exact .settleHome (h.foldl fun _ _ hs => hs.homePart)

theorem State.Canonical.homeRead {la : Option LaunchId} (h : s.Canonical) : (s.homeRead dev n weights la r).Canonical := by
  unfold State.homeRead
  dsimp only
  split
  · refine .sendAll ?_
    split
    · exact h.modDev fun _ hx => hx.touch
    · exact h.modDev fun _ hx => hx.touch
    exact h
  split
  · refine .parkReq ?_
    split
    · exact h.modDev fun _ hx => hx.touch
    · exact h.modDev fun _ hx => hx.touch
    exact h
  split
  · exact h.modDev fun _ hx => hx.touch
  · exact h.modDev fun _ hx => hx.touch
  exact h

theorem State.Canonical.homeFreeze {w : Width} (h : s.Canonical) : (s.homeFreeze dev n o va k w).Canonical := by
  unfold State.homeFreeze
  split
  · exact h.sendAll
  exact .sendAll (.settleHome (h.modDev fun _ hx => hx.touch.setLine))

theorem State.Canonical.homeSystem {a : Req} (h : s.Canonical) : (s.homeSystem dev n a).Canonical := by
  unfold State.homeSystem
  split
  · exact h.sendAll
  · exact .sendAll (h.modDev fun _ hx => hx.setMem (cellsWrite_wf hx.mem))
  · exact .sendAll (.settleHome (h.modDev fun _ hx => .setLine (hx.setMem (cellsWrite_wf hx.mem))))
  exact h

theorem State.Canonical.dropMsg (h : s.Canonical) : (s.dropMsg n).Canonical := h

theorem State.Canonical.execRsuJoin (h : s.Canonical) : Stepped.Canonical (execRsuJoin n s) := by
  unfold Machine.execRsuJoin
  split
  · exact h.dropMsg.homeJoin.next
  · exact h.dropMsg.homeSystem.next
  · exact h.dropMsg.homeSystem.next
  split
  · refine State.Canonical.next ?_
    refine h.dropMsg.modDev fun _ hx => ?_
    dsimp only
    split <;> exact hx
  exact h.next

theorem State.Canonical.execRsuThresholdRead (h : s.Canonical) : Stepped.Canonical (execRsuThresholdRead n s) := by
  unfold Machine.execRsuThresholdRead
  split
  · exact h.dropMsg.homeRead.next
  exact h.next

theorem State.Canonical.execRsuExactRead (h : s.Canonical) : Stepped.Canonical (execRsuExactRead n s) := by
  unfold Machine.execRsuExactRead
  split
  · exact h.dropMsg.homeSystem.next
  · exact h.dropMsg.homeRead.next
  exact h.next

theorem State.Canonical.execRsuFreeze (h : s.Canonical) : Stepped.Canonical (execRsuFreeze n s) := by
  unfold Machine.execRsuFreeze
  split
  · exact h.dropMsg.homeFreeze.next
  exact h.next

theorem State.Canonical.onCtx {f : Env → Core → Res} (h : s.Canonical)
    (hf : ∀ (a : Env) (c : Core), c.Canonical → (f a c).Canonical) :
    (s.onCtx w f).Canonical := by
  unfold State.onCtx
  split
  · next ht => exact (h.runCtx fun _ _ hc => hf _ _ hc) _ ht
  exact h

theorem Core.Canonical.freezeStep {no : Nat} {a : Answer} (h : c.Canonical) : (freezeStep no a e c).Canonical := by
  unfold Machine.freezeStep
  split
  · split
    · exact h.only
    dsimp only
    split
    · exact h.envModCtx.only
    split
    · exact h.trapI
    exact h.done
  exact h.only

theorem State.Canonical.execFreezeAck (h : s.Canonical) : Stepped.Canonical (execFreezeAck n s) := by
  unfold Machine.execFreezeAck
  split
  · dsimp only
    split
    · split
      · exact State.Canonical.next (h.dropMsg.onCtx fun _ _ hk => hk.freezeStep)
      exact h.next
    split
    · exact State.Canonical.next (h.dropMsg.onCtx fun _ _ hj => hj.freezeStep)
    exact h.next
  · split
    · exact h.dropMsg.curAnswer.next
    exact h.next
  exact h.next

theorem Core.Canonical.wakeStep {no : Nat} {a : Answer} (h : c.Canonical) : (wakeStep no a e c).Canonical := by
  unfold Machine.wakeStep
  split
  · split
    · exact h.trapI
    exact h.envModRegs.done
  exact h.only

theorem State.Canonical.execWake (h : s.Canonical) : Stepped.Canonical (execWake n s) := by
  unfold Machine.execWake
  split
  · dsimp only
    split
    · split
      · exact h.next
      exact State.Canonical.next (h.dropMsg.onCtx fun _ _ hk => hk.wakeStep)
    split
    · exact h.next
    exact State.Canonical.next (h.dropMsg.onCtx fun _ _ hj => hj.wakeStep)
  · split
    · exact h.next
    exact h.dropMsg.curAnswer.next
  exact h.next

theorem State.Canonical.clearRetry (h : s.Canonical) : (s.clearRetry r).Canonical := by
  unfold State.clearRetry
  split
  · exact h.modCtx
  exact h

theorem State.Canonical.execParkRetry (h : s.Canonical) : Stepped.Canonical (execParkRetry n s) := by
  unfold Machine.execParkRetry
  dsimp only
  split
  · split
    · split
      · exact h.next
      exact State.Canonical.next (.send (.clearRetry (h.modDev fun _ hx => hx)))
    exact h.next
  exact h.next

theorem State.Canonical.execRouterJoinMerge {m : Nat} (h : s.Canonical) : Stepped.Canonical (execRouterJoinMerge n m s) := by
  unfold Machine.execRouterJoinMerge
  split
  · dsimp only
    split
    · exact State.Canonical.next h
    exact h.next
  exact h.next

theorem State.Canonical.execRouterCombineTimeout (h : s.Canonical) : Stepped.Canonical (execRouterCombineTimeout n s) := by
  unfold Machine.execRouterCombineTimeout
  split
  · split
    · split
      · exact State.Canonical.next h
      exact h.next
    exact h.next
  exact h.next

end

/-! ### Limits, egress and releases -/

section
variable {s : State} {c : Core} {e : Env} {i : Instr} {w : Who} {b : Binding} {n : Nat}

theorem State.Canonical.execRecovTake {v : Word} (h : s.Canonical) : Stepped.Canonical (execRecovTake w v s) := by
  unfold Machine.execRecovTake
  refine State.Canonical.next ?_
  refine h.onCtx fun _ _ hc => ?_
  refine Core.Canonical.only ?_
  split
  · exact hc.takeRecov
  exact hc

theorem State.Canonical.withdraw (h : s.Canonical) : (s.withdraw w).Canonical := h.mapDevs fun _ _ hx => hx

theorem State.Canonical.trapHead {t : Context → Trap} (h : s.Canonical) : (s.trapHead w t).Canonical := by
  unfold State.trapHead
  split
  · exact h
  exact .settleKill (h.withdraw.onCtx fun _ _ hc => hc.takeTrap)

theorem State.Canonical.execRegionTooLong (h : s.Canonical) : Stepped.Canonical (execRegionTooLong w s) := by
  unfold Machine.execRegionTooLong
  split
  · exact h.trapHead.next
  exact h.next

theorem State.Canonical.execPairRegionLimit (h : s.Canonical) : Stepped.Canonical (execPairRegionLimit w s) := by
  unfold Machine.execPairRegionLimit
  split
  · exact h.trapHead.next
  exact h.next

theorem State.Canonical.collFault {level seq cause : Nat} {taddr taux : Word} (h : s.Canonical) :
    (s.collFault b level seq cause taddr taux).Canonical := h.launchFault

theorem State.Canonical.popEgress (h : s.Canonical) : (s.popEgress w).Canonical := h.modCtx

theorem State.Canonical.pauseEgress {code : Nat} (h : s.Canonical) : (s.pauseEgress w code).Canonical := h.modCtx

theorem Core.Canonical.acceptReleased {ctx : Nat} {f : Cmd → Cmd} (h : c.Canonical) : (c.acceptReleased ctx i f).Canonical :=
  h.enqueue

theorem State.Canonical.releaseColl {level : Nat} (h : s.Canonical) : (s.releaseColl w b i level).Canonical := by
  unfold State.releaseColl
  dsimp only
  split
  · exact h.noteWalk.collFault
  exact h.modCore fun _ hc => .acceptReleased hc

theorem State.Canonical.releaseJoin {j : JoinOut} {f : Core → Core} (h : s.Canonical)
    (hf : ∀ (c : Core), c.Canonical → (f c).Canonical) :
    (s.releaseJoin w b j f).Canonical := by
  unfold State.releaseJoin
  split
  · exact h.popEgress
  split
  · exact h.pauseEgress
  exact .postJoin (h.popEgress.modCore fun _ hj => hf _ hj)

theorem State.Canonical.eccEgress (h : s.Canonical) : (s.eccEgress w).Canonical := by
  unfold State.eccEgress
  exact .killCore (h.modDev fun _ hx => hx.countUnc)

theorem State.Canonical.releaseEntry {g : Egress} (h : s.Canonical) : (s.releaseEntry w b g).Canonical := by
  unfold State.releaseEntry
  dsimp only
  split
  · exact h.askWalk
  · exact h.trapHead
  · split
    · split
      · exact h.releaseJoin fun _ hc => hc
      exact h.popEgress
    · split
      · split
        · exact h.eccEgress
        exact h.releaseJoin fun _ hj => hj.leaveLine
      exact h.popEgress
    exact h
  split
  · exact h.popEgress
  · exact h.popEgress
  · split
    · exact h.pauseEgress
    exact h.popEgress.postPush
  · split
    · exact h.pauseEgress
    split
    · exact h.popEgress.releaseColl
    exact h.popEgress.modCore fun _ hc1 => hc1.acceptReleased
  exact h.popEgress.modCore fun _ hk => hk.addSem

theorem State.Canonical.execEgressRelease (h : s.Canonical) : Stepped.Canonical (execEgressRelease w s) := by
  unfold Machine.execEgressRelease
  dsimp only
  split
  · split
    · exact h.next
    split
    · exact h.pauseEgress.releaseEntry.next
    exact h.next
  exact h.next

theorem Core.Canonical.releaseArrival {k g : Nat} {vs : List Word} {bad : Option Word} (h : c.Canonical) :
    (c.releaseArrival k g vs bad).Canonical := h

theorem State.Canonical.execBarrierRelease {l : LaunchId} {k node : Nat} (h : s.Canonical) :
    Stepped.Canonical (execBarrierRelease l k node s) := by
  unfold Machine.execBarrierRelease
  split
  · exact h.next
  dsimp only
  split
  · split
    · split
      · exact State.Canonical.next (h.foldl fun _ _ hs => hs.modCore fun _ hk => hk.releaseArrival)
      exact h.next
    split
    · exact State.Canonical.next (h.foldl fun _ _ hs => hs.modCore fun _ hj => hj.releaseArrival)
    exact h.next
  exact h.next

theorem Core.Canonical.walkFailed {f : WalkFor} {va : Word} {t : Trap} (h : c.Canonical) :
    (c.walkFailed f va t).Canonical := by
  unfold Core.walkFailed
  split
  · exact h.modCtx
  split
  · exact h.setQueue
  exact h

theorem State.Canonical.execWalkComplete {d : Nat} (h : s.Canonical) : Stepped.Canonical (execWalkComplete d n s) := by
  unfold Machine.execWalkComplete
  dsimp only
  split
  · exact h.next
  split
  · exact h.next
  split
  · exact State.Canonical.next (.modCore (h.modDev fun _ hx => hx) fun _ hk => hk)
  exact State.Canonical.next (.modCore (.noteWalk (h.modDev fun _ hx => hx)) fun _ hk => hk.walkFailed)

theorem State.Canonical.execStashFill (h : s.Canonical) : Stepped.Canonical (execStashFill n s) := by
  unfold Machine.execStashFill
  split
  · dsimp only
    split
    · split
      · exact h.dropMsg.next
      split
      · exact State.Canonical.next (h.dropMsg.modCore fun _ hj => hj.setWindow.lsWrite)
      · exact State.Canonical.next (.foldl (h.dropMsg.modCore fun _ hj => hj.setWindow) fun _ _ hs => hs.trapHead)
      exact h.dropMsg.next
    exact h.dropMsg.next
  exact h.next

theorem State.Canonical.ackLanding {dev : Nat} {l : Landing} {t : Option Trap} (h : s.Canonical) :
    (s.ackLanding dev l t).Canonical := h.send

theorem State.Canonical.applyLanding {dev core : Nat} {l : Landing} {a : LandRes} (h : s.Canonical) :
    (s.applyLanding dev core b l a).Canonical := by
  unfold State.applyLanding
  split
  · exact .ackLanding (h.modCore fun _ hc => hc.engineWrite)
  · exact h.ackLanding
  · exact .ackLanding (h.modCore fun _ hc => hc.modCtx)
  exact h.modCore fun _ hc => hc

theorem State.Canonical.execPushLanding (h : s.Canonical) : Stepped.Canonical (execPushLanding n s) := by
  unfold Machine.execPushLanding
  split
  · split
    · exact h.dropMsg.applyLanding.next
    split
    · exact h.dropMsg.next
    split
    · split
      · exact h.next
      exact h.dropMsg.send.next
    exact h.next
  exact h.next

theorem State.Canonical.execHeldLandingRelease {d c : Nat} (h : s.Canonical) :
    Stepped.Canonical (execHeldLandingRelease d c n s) := by
  unfold Machine.execHeldLandingRelease
  dsimp only
  split
  · split
    · exact State.Canonical.next (h.modCore fun _ hc => hc)
    exact State.Canonical.next (.applyLanding (h.modCore fun _ hk => hk))
  exact h.next

theorem Core.Canonical.swapStep (h : c.Canonical) : (swapStep e c).Canonical := by
  unfold Machine.swapStep
  split
  · split
    · split
      · next hk => exact (h.of_exchange hk).done
      exact h.only
    exact h.only
  exact h.only

theorem State.Canonical.execMswapExchange (h : s.Canonical) : Stepped.Canonical (execMswapExchange w s) := by
  unfold Machine.execMswapExchange
  exact State.Canonical.next (h.onCtx fun _ _ hc => hc.swapStep)

theorem State.Canonical.repoll (h : s.Canonical) : Stepped.Canonical (repoll i s) := by
  unfold Machine.repoll
  split
  · exact h.execEndK
  · exact h.execHwait
  · exact h.execWaitb
  · exact h.execSync
  · exact h.execVote
  · exact h.execVoteP
  · exact h.execLdf
  · exact h.execFence
  · exact h.execJoin
  · exact h.execJoinv
  · exact h.execTread
  · exact h.execFrz
  · exact h.execSflush
  · exact h.execMclaim
  · exact h.execMload
  · exact h.execMstore
  · exact h.execMma
  · exact h.execMwrite
  · exact h.execMzero
  · exact h.execCpyFetch
  · exact h.execCpyPutj
  · exact h.execSemw
  · exact h.execEwait
  exact h.next

theorem Stepped.Canonical.of_came {o : Stepped} {p : State → Bool} {u : State}
    (hu : (match o with
      | .next t => if p t = true then none else some t
      | _ => none) = some u) (ho : Stepped.Canonical o) : u.Canonical := by
  split at hu
  · next t =>
    split at hu
    · exact nomatch hu
    · exact Option.some.inj hu ▸ ho t rfl
  · exact nomatch hu

theorem State.Canonical.of_eventNow {v : Wait} {u : State} (h : s.Canonical) (hu : s.eventNow w v = some u) :
    u.Canonical := by
  have hcur : State.Canonical { s with cur := w } := h
  unfold State.eventNow at hu
  dsimp only at hu
  split at hu
  · exact h.execEgressRelease.of_came (p := fun t => s.waitsStill t w v) hu
  split at hu
  · exact hcur.repoll.of_came (p := fun t => s.waitsStill t w v) hu
  split at hu
  · exact h.execMswapExchange.of_came (p := fun t => s.waitsStill t w v) hu
  split at hu
  · exact Option.some.inj hu ▸ h
  · exact nomatch hu

theorem State.Canonical.execParkTimeout (h : s.Canonical) : Stepped.Canonical (execParkTimeout w s) := by
  unfold Machine.execParkTimeout
  dsimp only
  split
  · split
    · split
      · next hu => exact (h.of_eventNow hu).next
      exact h.trapHead.next
    exact h.next
  exact h.next

end

/-! ### Engine commands -/

section
variable {s : State} {c : Core} {b : Binding} {k : Cmd} {d core off id : Nat} {q : EngQ} {va : Word} {t : Trap}

theorem Core.Canonical.readGuard (h : c.Canonical) : (c.readGuard k).Canonical := h

theorem Core.Canonical.signal (h : c.Canonical) : (c.signal k).Canonical := by
  unfold Core.signal
  split
  · exact h.addSem
  exact h

theorem Core.Canonical.finishCmd (h : c.Canonical) : (c.finishCmd q k).Canonical := h.setQueue.signal.engineFlags.settleAll

theorem Core.Canonical.discardCmd (h : c.Canonical) : (c.discardCmd q k).Canonical := by
  unfold Core.discardCmd
  exact .finishCmd h

theorem Core.Canonical.deferTo {ctx : Nat} {halted : Option Nat} (h : c.Canonical) : (c.deferTo ctx t halted).Canonical :=
  h.modCtx

theorem Core.Canonical.startCmd {flags : Word} (h : c.Canonical) : (c.startCmd q k flags).Canonical := h.modCmd

theorem Core.Canonical.loadSlot {mf : Mf} {o : Nat} (h : c.Canonical) : (c.loadSlot k mf o).Canonical := by
  unfold Core.loadSlot
  dsimp only
  split
  · exact h.setSlot.deferTo
  exact h.setSlot

theorem Core.Canonical.writeBank {acc isInt : Bool} (h : c.Canonical) : (c.writeBank k acc isInt).Canonical := by
  unfold Core.writeBank
  dsimp only
  split
  · exact h.setAcc.deferTo
  exact h.setAcc

theorem Core.Canonical.mxRun (h : c.Canonical) : (c.mxRun k).Canonical := by
  unfold Core.mxRun
  split
  · exact h.loadSlot.startCmd
  · split
    · exact h.deferTo.startCmd
    exact h.setAcc.startCmd
  · exact h.engineWrite.startCmd
  · exact h.writeBank.startCmd
  · exact h.setAcc.startCmd
  exact h.startCmd

theorem Core.Canonical.haltCmd (h : c.Canonical) : (c.haltCmd k off t).Canonical := by
  unfold Core.haltCmd
  split
  · exact h.modCmd
  exact h.modCmd.deferTo

theorem State.Canonical.engineWalk {asid : Nat} (h : s.Canonical) : (s.engineWalk d core q asid va).Canonical := h.askWalk

theorem State.Canonical.copyJoin {tok : Nat} {g : Nat} {data : JoinData} (h : s.Canonical) :
    (s.copyJoin d core b k tok va g data).Canonical := h.send

theorem State.Canonical.putLine {t : Tlb} (h : s.Canonical) : (s.putLine d core b k t va).Canonical := by
  unfold State.putLine
  refine .foldl ?_ fun _ _ hs => hs.copyJoin
  split
  · exact .modCore (h.modCore fun _ hc => hc.modCmd) fun _ hc => hc.deferTo
  exact h.modCore fun _ hk => hk.modCmd

theorem State.Canonical.fetchLine {t : Tlb} (h : s.Canonical) : (s.fetchLine d core b k t va).Canonical := by
  unfold State.fetchLine
  exact .send (h.modCore fun _ hc => hc.modCmd)

theorem State.Canonical.copyLine {put : Bool} (h : s.Canonical) : (s.copyLine d core b k put).Canonical := by
  unfold State.copyLine
  dsimp only
  split
  · exact h.engineWalk
  · exact h.modCore fun _ hc => hc.haltCmd
  split
  · exact h.modCore fun _ hc => hc.haltCmd
  split
  · exact h
  split
  · exact h.fetchLine
  split
  · exact h.eccKill
  split
  · exact h.killCore
  exact h.putLine

theorem State.Canonical.stamp (h : s.Canonical) : (s.stamp d core b k).Canonical := by
  unfold State.stamp
  dsimp only
  split
  · exact h.modCore fun _ hk => hk.haltCmd
  split
  · exact h.engineWalk
  · exact h.modCore fun _ hk => hk.haltCmd
  split
  · exact h.modCore fun _ hk => hk.haltCmd
  split
  · exact h.modCore fun _ hj => hj.haltCmd
  exact .copyJoin (h.modCore fun _ hc1 => hc1.modCmd)

theorem State.Canonical.runSend {fmt : Tag} (h : s.Canonical) : (s.runSend d core b k fmt).Canonical := by
  unfold State.runSend
  dsimp only
  split
  · exact h.eccKill
  split
  · exact h.modCore fun _ hk => hk.deferTo.finishCmd
  split
  · exact h.killCore
  split
  · exact h.modCore fun _ hc2 => hc2.deferTo.finishCmd
  split
  · exact h
  exact .send (h.modCore fun _ hc2 => hc2.startCmd.modCmd)

theorem State.Canonical.collLost {cause : Nat} {addr : Word} (h : s.Canonical) : (s.collLost b k cause addr).Canonical :=
  h.collFault

theorem State.Canonical.latticeRead (h : s.Canonical) : (s.latticeRead d core b k).Canonical := by
  unfold State.latticeRead
  dsimp only
  split
  · exact h.engineWalk
  · exact h.collLost
  split
  · exact h.collLost
  split
  · exact h.collLost
  exact .send (h.modCore fun _ hj => hj.startCmd.modCmd)

theorem State.Canonical.startColl {lw : Bool} (h : s.Canonical) : (s.startColl d core b k lw).Canonical := by
  unfold State.startColl
  split
  · exact h
  split
  · exact h.collFault
  split
  · exact h.latticeRead
  exact h.modCore fun _ hc1 => hc1.startCmd

theorem State.Canonical.runMatrix (h : s.Canonical) : (s.runMatrix d core k).Canonical := by
  unfold State.runMatrix
  split
  · exact h.eccKill
  split
  · exact h
  exact h.modCore1 fun _ hj => hj.mxRun

theorem State.Canonical.runHead (h : s.Canonical) : (s.runHead d core b q k).Canonical := by
  unfold State.runHead
  split
  · exact h.modCore fun _ hc => hc.startCmd
  · exact h.modCore fun _ hc => hc.startCmd
  · exact h.runSend
  · exact h.startColl
  split
  · exact h.runMatrix
  exact h

theorem State.Canonical.continueHead (h : s.Canonical) : (s.continueHead d core b k).Canonical := by
  unfold State.continueHead
  split
  · split
    · exact h
    exact h.copyLine
  · split
    · exact h.copyLine
    split
    · exact h.stamp
    exact h
  exact h

theorem State.Canonical.headOf {c : Nat} (h : s.Canonical) : (s.headOf d c q).Canonical := by
  unfold State.headOf
  dsimp only
  split
  · split
    · exact h
    split
    · split
      · exact h
      exact h.continueHead
    split
    · exact h
    split
    · exact h.modCore1 fun _ hc2 => hc2.readGuard.modCmd
    · split
      · exact h.modCore1 fun _ hc4 => hc4.readGuard.modCmd
      exact .runHead (h.modCore1 fun _ hc4 => hc4.readGuard.modCmd)
    split
    · exact .collLost (h.modCore1 fun _ hc4 => hc4.readGuard)
    exact h.modCore1 fun _ hc4 => hc4.readGuard.discardCmd
  exact h

theorem State.Canonical.execEngineCmdHead {c : Nat} (h : s.Canonical) : Stepped.Canonical (execEngineCmdHead d c q s) := by
  unfold Machine.execEngineCmdHead
  split
  · split
    · exact h.next
    refine State.Canonical.next ?_
    refine .headOf ?_
    split
    · exact h.headOf
    exact h
  exact h.next

theorem Core.Canonical.completeCmd (h : c.Canonical) : (c.completeCmd q k).Canonical := by
  unfold Core.completeCmd
  refine .finishCmd ?_
  split
  · exact h.deferTo
  exact h

theorem Core.Canonical.completeHead (h : c.Canonical) : (c.completeHead q).Canonical := by
  unfold Core.completeHead
  split
  · split
    · exact h.completeCmd
    exact h
  exact h

theorem State.Canonical.execEngineCmdComplete {c : Nat} (h : s.Canonical) :
    Stepped.Canonical (execEngineCmdComplete d c q s) := by
  unfold Machine.execEngineCmdComplete
  exact State.Canonical.next (h.modCore fun _ hc => hc.completeHead)

theorem Core.Canonical.fetched {bs : List Byte} (h : c.Canonical) : (c.fetched k off bs).Canonical := h.engineWrite.modCmd

theorem Core.Canonical.fetchFailed (h : c.Canonical) : (c.fetchFailed k off t).Canonical := by
  unfold Core.fetchFailed
  exact .modCmd h

theorem State.Canonical.withdrawLines (h : s.Canonical) : (s.withdrawLines d core id off).Canonical := by
  unfold State.withdrawLines
  dsimp only
  refine .withNet (h.mapDevs fun _ _ hx => ?_)
  exact hx

theorem State.Canonical.execCpyFetchLine {n : Nat} (h : s.Canonical) : Stepped.Canonical (execCpyFetchLine n s) := by
  unfold Machine.execCpyFetchLine
  split
  · dsimp only
    split
    · exact h.dropMsg.next
    split
    · exact State.Canonical.next (h.dropMsg.modCore fun _ hc => hc.fetched)
    · split
      · exact State.Canonical.next (.withdrawLines (h.dropMsg.modCore fun _ hj => hj.haltCmd))
      exact State.Canonical.next (.withdrawLines (h.dropMsg.modCore fun _ hj => hj.fetchFailed))
    exact h.dropMsg.next
  exact h.next

theorem Core.Canonical.copyAck {tok : Nat} {t : Option Trap} (h : c.Canonical) : (c.copyAck id tok t).Canonical := by
  unfold Core.copyAck
  split
  · exact h
  dsimp only
  split
  · exact h.modCmd
  split
  · exact h.haltCmd.modCmd
  exact h.modCmd.deferTo

theorem Core.Canonical.sendAck {t : Option Trap} (h : c.Canonical) : (c.sendAck id t).Canonical := by
  unfold Core.sendAck
  split
  · exact h
  dsimp only
  split
  · exact h.modCmd.deferTo
  exact h.modCmd

end

/-! ### Collectives -/

section
variable {s : State} {x : Device} {c : Core} {b : Binding} {d n sw : Nat} {k key : CollKey} {m : Contrib} {ops : List CollAct}
    {p : FabPkt}

theorem Device.Canonical.modColl {f : Coll → Coll} (h : x.Canonical) : (x.modColl k f).Canonical := h

theorem State.Canonical.collEnd {c : Coll} {cause : Nat} {taddr : Option Word} {taux : Word} (h : s.Canonical) :
    (s.collEnd c cause taddr taux).Canonical := by
  unfold State.collEnd
  dsimp only
  split
  · refine h.mapDevs fun _ _ hx => ?_
    split
    · exact hx
    split
    · exact hx.modColl
    exact hx
  exact h.launchFault

theorem State.Canonical.reserveFrom {c : Coll} (h : s.Canonical) : (s.reserveFrom d c).Canonical := by
  unfold State.reserveFrom
  dsimp only
  split
  · exact .send (h.modDev fun _ hx => hx.modColl)
  exact h.modDev fun _ hx => hx.modColl

theorem State.Canonical.sendContrib {k : Coll} {c : Contrib} (h : s.Canonical) : (s.sendContrib d k c).Canonical := by
  unfold State.sendContrib
  refine h.foldl fun _ _ hs => ?_
  split
  · exact hs.mesh
  split
  · exact hs.fabSend
  exact hs.send

theorem State.Canonical.contribute {base : Coll} {c : Contrib} (h : s.Canonical) : (s.contribute d base c).Canonical := by
  unfold State.contribute
  split
  · dsimp only
    split
    · exact .reserveFrom (h.modDev fun _ hx => hx)
    exact h.modDev fun _ hx => hx
  split
  · exact h.modDev fun _ hx => hx.modColl
  split
  · exact h.collEnd
  dsimp only
  split
  · exact .reserveFrom (h.modDev fun _ hx => hx.modColl)
  split
  · exact .sendContrib (h.modDev fun _ hx => hx.modColl)
  exact h.modDev fun _ hx => hx.modColl

theorem State.Canonical.execCollLatticeWait (h : s.Canonical) : Stepped.Canonical (execCollLatticeWait n s) := by
  unfold Machine.execCollLatticeWait
  split
  · dsimp only
    split
    · split
      · exact h.dropMsg.collLost.next
      exact State.Canonical.next (h.dropMsg.modCore fun _ hj => hj.modCmd)
    exact h.dropMsg.next
  exact h.next

theorem State.Canonical.copySource {core : Nat} {k : Cmd} (h : s.Canonical) : (s.copySource d core b k).Canonical := by
  unfold State.copySource
  dsimp only
  split
  · exact h.eccKill
  split
  · exact .collLost (h.modCore fun _ hk => hk.deferTo.finishCmd)
  split
  · exact h.killCore
  exact .contribute (h.modCore fun _ hc1 => hc1.finishCmd)

theorem State.Canonical.execCollSourceCopy {c : Nat} (h : s.Canonical) : Stepped.Canonical (execCollSourceCopy d c s) := by
  unfold Machine.execCollSourceCopy
  dsimp only
  split
  · split
    · exact h.next
    split
    · exact h.next
    exact h.copySource.next
  exact h.next

theorem Device.Canonical.grant (h : x.Canonical) : (x.grant d k).Canonical := by
  unfold Device.grant
  split <;> exact h

theorem State.Canonical.reserveHop {root : Nat} {hops granted : List Nat} (h : s.Canonical) :
    (s.reserveHop d k root hops granted).Canonical := by
  unfold State.reserveHop
  split
  · exact h
  split
  · exact h.send
  split
  · dsimp only
    split <;> exact .send (h.modDev fun _ hx => hx.grant)
  exact .send (h.modDev fun _ hx => hx)

theorem State.Canonical.startDev {c : Coll} (h : s.Canonical) : (s.startDev d c).Canonical := by
  unfold State.startDev
  exact .foldl (h.modDev fun _ hx => hx.modColl) fun _ _ hs => hs.sendContrib

theorem State.Canonical.freeSlots (h : s.Canonical) : (s.freeSlots k).Canonical := h

theorem State.Canonical.reserveEnd {c : Coll} {ok : Bool} (h : s.Canonical) : (s.reserveEnd d c ok).Canonical := by
  unfold State.reserveEnd
  split
  · exact h.startDev.foldl fun _ _ hs => hs.send
  exact .modDev (.freeSlots (h.mapDevs fun _ _ hx => hx)) fun _ hx => hx.modColl

theorem State.Canonical.execCollReserveHop (h : s.Canonical) : Stepped.Canonical (execCollReserveHop n s) := by
  unfold Machine.execCollReserveHop
  split
  · exact h.dropMsg.reserveHop.next
  · split
    · exact h.dropMsg.reserveEnd.next
    exact h.dropMsg.next
  · split
    · exact h.dropMsg.startDev.next
    exact h.next
  exact h.next

theorem State.Canonical.execCollReserveRetry (h : s.Canonical) : Stepped.Canonical (execCollReserveRetry d n s) := by
  unfold Machine.execCollReserveRetry
  split
  · split
    · split
      · exact h.reserveFrom.next
      exact h.next
    exact h.next
  exact h.next

theorem State.Canonical.sendResult {c : Coll} (h : s.Canonical) : (s.sendResult d c).Canonical := by
  unfold State.sendResult
  exact .foldl (h.modDev fun _ hx => hx.modColl.withQueues) fun _ _ hs => hs.mesh

theorem State.Canonical.collAcked {rank piece : Nat} (h : s.Canonical) : (s.collAcked d k rank piece).Canonical := by
  unfold State.collAcked
  exact .pump (h.modDev fun _ hx => hx)

theorem State.Canonical.ackInput (h : s.Canonical) : (s.ackInput d k m).Canonical := by
  unfold State.ackInput
  split
  · exact h.collAcked
  exact h.fabPut

theorem State.Canonical.passOn {c : Coll} {slot : Nat} (h : s.Canonical) : (s.passOn d c slot ops).Canonical := by
  unfold State.passOn
  exact .foldl (h.modDev fun _ hx => hx.modColl) fun _ _ hs => hs.mesh

theorem State.Canonical.slotInput {slot : Nat} {c : Coll} {fb : Bool} (h : s.Canonical) :
    (s.slotInput d c n slot ops fb m).Canonical := by
  unfold State.slotInput
  split
  · exact h
  split
  · exact h.collEnd
  dsimp only
  split
  · exact .ite h.ackInput h
  split
  · exact .modDev (.ite h.ackInput h) fun _ hx => hx.modColl
  split
  · exact .passOn (.modDev (.ite h.ackInput h) fun _ hx => hx.modColl)
  · exact .sendResult (.modDev (.ite h.ackInput h) fun _ hx => hx.modColl)

theorem Device.Canonical.dropColl (h : x.Canonical) : (x.dropColl k).Canonical := h

theorem State.Canonical.depositAt {c : Coll} {ver : BitVec 32} {v : List Byte} (h : s.Canonical) :
    (s.depositAt d c ver v m).Canonical := by
  unfold State.depositAt
  split
  · exact h.send
  dsimp only
  split
  · exact h.noteWalk.collEnd
  exact .foldl (h.modDev fun _ hx => hx.modColl) fun _ _ hs => hs.send

theorem State.Canonical.resultPiece {c : Coll} {ver : BitVec 32} {piece : Nat} {v : List Byte} (h : s.Canonical) :
    (s.resultPiece d c ver piece n v).Canonical := by
  unfold State.resultPiece
  dsimp only
  generalize (if (c.res.any fun p => p.1 == piece) = true then c.res else c.res ++ [(piece, v)]) = res
  split
  · exact h.modDev fun _ hx => hx.modColl
  · exact .foldl (h.modDev fun _ hx => hx.modColl.withQueues) fun _ _ hs => hs.depositAt

theorem State.Canonical.reapColl (h : s.Canonical) : (s.reapColl d k).Canonical := by
  unfold State.reapColl
  split
  · exact h
  exact h.modDev fun _ hx => hx.dropColl

theorem State.Canonical.execCollHopPacket (h : s.Canonical) : Stepped.Canonical (execCollHopPacket n s) := by
  unfold Machine.execCollHopPacket
  split
  · exact h.next
  dsimp only
  split
  · exact h.dropMsg.send.next
  · refine State.Canonical.next ?_
    split <;> exact h.dropMsg.slotInput
  · exact h.dropMsg.slotInput.next
  · exact State.Canonical.next (h.dropMsg.foldl fun _ _ hs => hs.send)
  · exact h.dropMsg.resultPiece.reapColl.next
  · refine State.Canonical.next ?_
    split
    · exact .foldl (.freeSwitches (h.dropMsg.modDev fun _ hx => hx.modColl)) fun _ _ hs => hs.send
    exact h.dropMsg.modDev fun _ hx => hx.modColl
  · exact State.Canonical.next (h.dropMsg.modDev fun _ hx => hx.dropColl)
  · exact h.dropMsg.next
  · exact h.dropMsg.next
  · exact h.dropMsg.next
  · exact h.dropMsg.next
  exact h.next

theorem State.Canonical.depositAck {lcore : Nat} {t : Option Trap} (h : s.Canonical) :
    (s.depositAck d k lcore t).Canonical := by
  unfold State.depositAck
  split
  · exact h
  split
  · exact h.collEnd
  · dsimp only
    split
    · exact .send (h.modDev fun _ hx => hx.modColl)
    exact h.modDev fun _ hx => hx.modColl
  exact h

theorem State.Canonical.setFab (h : s.Canonical) : (s.setFab n p).Canonical := h

theorem State.Canonical.of_switchReserve {root : Nat} {k : Switch} {u : State} (h : s.Canonical)
    (hu : s.switchReserve sw k key root = some u) : u.Canonical := by
  unfold State.switchReserve at hu
  split at hu
  · exact nomatch hu
  split at hu
  · exact Option.some.inj hu ▸ h
  split at hu
  · exact nomatch hu
  · exact Option.some.inj hu ▸ h

theorem State.Canonical.switchResult {k : Switch} {t : SwSlot} {port : Nat} (h : s.Canonical) :
    (s.switchResult sw k t port ops m).Canonical := h

theorem State.Canonical.switchInput {k : Switch} {src : Nat} {e grp port : Nat} (h : s.Canonical) :
    (s.switchInput n sw k p src key e grp port ops m).Canonical := by
  unfold State.switchInput
  dsimp only
  split
  · split
    · exact h.setFab
    split
    · exact h
    exact h.setFab
  split
  · exact .collEnd h
  · exact h
  split
  · exact h
  split
  · exact .switchResult h
  exact h

theorem State.Canonical.of_switchPerform {k : Switch} {u : State} (h : s.Canonical)
    (hu : s.switchPerform n sw k p = some u) : u.Canonical := by
  unfold State.switchPerform at hu
  split at hu
  · split at hu
    · exact nomatch hu
    split at hu
    · next t ht => exact Option.some.inj hu ▸ (h.of_switchReserve ht).setFab
    split at hu
    · exact nomatch hu
    · exact Option.some.inj hu ▸ h
  · exact Option.some.inj hu ▸ h.switchInput
  · exact Option.some.inj hu ▸ h
  · exact nomatch hu

theorem State.Canonical.switchTimeout {k : Switch} {t : SwSlot} (h : s.Canonical) : (s.switchTimeout sw k t).Canonical := h

theorem State.Canonical.timeOut (h : s.Canonical) : (s.timeOut key sw).Canonical := by
  unfold State.timeOut
  refine h.foldl fun _ _ hs => ?_
  split
  · split
    · exact hs.switchTimeout
    exact hs
  exact hs

theorem State.Canonical.execReduceSlotTimeout (h : s.Canonical) : Stepped.Canonical (execReduceSlotTimeout d n s) := by
  unfold Machine.execReduceSlotTimeout
  split
  · refine State.Canonical.next ?_
    split
    · exact h.foldl fun _ _ hs => hs.timeOut
    exact h
  exact h.next

theorem State.Canonical.execFallbackReduce (h : s.Canonical) : Stepped.Canonical (execFallbackReduce d n s) := by
  unfold Machine.execFallbackReduce
  split
  · split
    · exact State.Canonical.next (h.sendResult.modDev fun _ hx => hx.logEv)
    exact h.next
  exact h.next

end

/-! ### Acknowledgements -/

section
variable {s : State} {c : Core}

theorem Core.Canonical.acked {no : Nat} {t : Option Trap} (h : c.Canonical) : (c.acked no t).Canonical := h

theorem State.Canonical.ackCtx {no : Nat} {err : Option Trap} (h : s.Canonical) : (s.ackCtx no err).Canonical := by
  have hacked : ∀ q : Nat × Core, q.2.Canonical → (q.2.acked no err).Canonical := fun _ hq => hq.acked
  unfold State.ackCtx
  dsimp only
  refine State.Canonical.foldl (h.mapDevs fun _ x hx => ⟨hx.mem, List.forall_mem_map.2 fun q hq => ?_,
    List.forall_mem_map.2 fun l hl => List.forall_mem_map.2 fun q hq => hacked q (hx.launches l hl q hq)⟩)
    fun _ _ hs => hs.foldl fun _ _ hs => hs.noteCounted
  split
  · exact hx.cores q hq
  · exact hacked q (hx.cores q hq)

theorem State.Canonical.execAckArrival {n : Nat} (h : s.Canonical) : Stepped.Canonical (execAckArrival n s) := by
  have hd : (s.dropMsg n).Canonical := h.dropMsg
  unfold Machine.execAckArrival
  split
  · dsimp only
    split
    · exact hd.ackCtx.next
    · exact State.Canonical.next (hd.modCore fun _ hc => hc.copyAck)
    · exact hd.depositAck.next
    · split
      · refine State.Canonical.next ?_
        split <;> exact hd.modDev fun _ hx => hx.logErr
      refine State.Canonical.next ?_
      split <;> exact hd
    · exact hd.curAnswer.next
    · exact hd.next
    · exact hd.next
  · dsimp only
    split
    · exact State.Canonical.next (hd.modCore fun _ hc => hc.sendAck)
    · exact hd.ackCtx.next
  · exact h.next

end

/-! ### The fabric -/

section
variable {s : State} {x : Device} {c : Core} {d n port ver dst : Nat} {p : FabPkt}

theorem State.Canonical.arriveSwitch {sw : Nat} (h : s.Canonical) : (s.arriveSwitch sw p).Canonical := by
  unfold State.arriveSwitch
  dsimp only
  split
  · split
    · split <;> exact h
    exact h
  exact h

theorem State.Canonical.moveOn {k : Switch} (h : s.Canonical) : (s.moveOn n k p).Canonical := by
  unfold State.moveOn
  dsimp only
  split
  · exact h
  · exact .arriveSwitch h
  exact h

theorem State.Canonical.leavePort (h : s.Canonical) : (s.leavePort n d p).Canonical := by
  unfold State.leavePort
  dsimp only
  split
  · exact .arriveSwitch h
  exact h

theorem State.Canonical.execSwitchForward (h : s.Canonical) : Stepped.Canonical (execSwitchForward n s) := by
  unfold Machine.execSwitchForward
  split
  · exact h.next
  split
  · split
    · exact State.Canonical.next (.leavePort (h.modDev fun _ hx => hx))
    exact h.next
  · exact h.next
  split
  · exact h.setFab.next
  split
  · exact State.Canonical.next h
  split
  · exact State.Canonical.next h
  split
  · next hu => exact (h.of_switchPerform hu).next
  split
  · exact State.Canonical.next (.moveOn h)
  exact h.next

theorem State.Canonical.execSwitchJoinHoldTimeout (h : s.Canonical) : Stepped.Canonical (execSwitchJoinHoldTimeout n s) := by
  unfold Machine.execSwitchJoinHoldTimeout
  split
  · split
    · split
      · exact State.Canonical.next h
      exact h.next
    exact h.next
  exact h.next

theorem State.Canonical.execSwitchTableInstall {sw : Nat} {table : List (Nat × Nat)} (h : s.Canonical) :
    Stepped.Canonical (execSwitchTableInstall sw ver table s) := by
  unfold Machine.execSwitchTableInstall
  exact State.Canonical.next h

theorem State.Canonical.receivePart {weights : BitVec 24} {p : FabPart} (h : s.Canonical) :
    (s.receivePart d weights p).Canonical := by
  unfold State.receivePart
  split
  · exact h.mesh
  · exact h.mesh
  dsimp only
  split
  · split
    · exact .fabPut (h.modDev fun _ hx => hx)
    exact .mesh (.fabPut (h.modDev fun _ hx => hx))
  split
  · exact h.fabPut
  exact h

theorem State.Canonical.execFabricPacketReceive (h : s.Canonical) : Stepped.Canonical (execFabricPacketReceive n s) := by
  unfold Machine.execFabricPacketReceive
  split
  · split
    · exact h.next
    dsimp only
    split
    · split
      · exact State.Canonical.next h
      split
      · exact State.Canonical.next h
      split
      · exact State.Canonical.next (.modDev h fun _ hx => hx.logEv)
      exact State.Canonical.next (.foldl h fun _ _ hs => hs.receivePart)
    · split
      · exact State.Canonical.next h
      split
      · exact State.Canonical.next h
      split
      · exact State.Canonical.next (.modDev h fun _ hx => hx.logEv)
      exact State.Canonical.next (.mesh h)
    · exact h.next
    exact h.next
  exact h.next

theorem State.Canonical.takeAck (h : s.Canonical) : (s.takeAck n).Canonical := by
  unfold State.takeAck
  split
  · dsimp only
    split
    · exact h
    split
    · exact h
    · exact h
    · split
      · exact .modDev h fun _ hx => hx.logEv
      exact .pump (.modDev h fun _ hx => hx)
    split
    · exact .modDev h fun _ hx => hx.logEv
    exact .collAcked h
  exact h

theorem State.Canonical.execFabricAck (h : s.Canonical) : Stepped.Canonical (execFabricAck n s) := h.takeAck.next

theorem State.Canonical.countAcks (h : s.Canonical) : (s.countAcks d).Canonical := by
  unfold State.countAcks
  refine h.foldl fun _ _ hs => ?_
  split
  · exact hs.takeAck
  exact hs

theorem State.Canonical.resetDone (h : s.Canonical) : (s.resetDone d dst).Canonical := by
  unfold State.resetDone
  split
  · exact h
  exact .foldl (h.modDev fun _ hx => hx) fun _ _ hs => hs.fabPut

theorem State.Canonical.execSeqReset (h : s.Canonical) : Stepped.Canonical (execSeqReset n s) := by
  unfold Machine.execSeqReset
  split
  · exact State.Canonical.next (.fabPut (h.dropMsg.modDev fun _ hx => hx))
  · exact h.dropMsg.resetDone.next
  exact h.next

theorem State.Canonical.endCurator {bs : List Body} {cause : Nat} (h : s.Canonical) : (s.endCurator bs cause).Canonical := by
  unfold State.endCurator
  refine h.foldl fun _ _ hs => ?_
  split
  · exact hs.curAnswer
  exact hs

theorem State.Canonical.endGroups {bs : List Body} (h : s.Canonical) : (s.endGroups bs dst).Canonical := by
  unfold State.endGroups
  refine h.foldl fun _ _ hs => ?_
  split
  · exact hs.collEnd
  exact hs

theorem State.Canonical.unreachable (h : s.Canonical) : (s.unreachable d dst).Canonical := by
  unfold State.unreachable
  exact .endGroups (.endCurator (.foldl (.pump (h.modDev fun _ hx => hx)) fun _ _ hs => hs.launchFault))

theorem State.Canonical.resend {i : Nat} (h : s.Canonical) : (s.resend d i).Canonical := by
  unfold State.resend
  split
  · exact h
  exact .fabPut (h.modDev fun _ hx => hx)

theorem State.Canonical.execReplayTimeout (h : s.Canonical) : Stepped.Canonical (execReplayTimeout d n s) := by
  unfold Machine.execReplayTimeout
  dsimp only
  split
  · exact h.countAcks.next
  split
  · exact h.countAcks.next
  split
  · split
    · exact h.countAcks.next
    exact State.Canonical.next (.sendReset (h.countAcks.modDev fun _ hx => hx))
  split
  · exact h.countAcks.unreachable.next
  exact h.countAcks.resend.next

theorem State.Canonical.restartColl {c : Coll} (h : s.Canonical) : (s.restartColl d ver c).Canonical := by
  unfold State.restartColl
  refine State.Canonical.reserveFrom (State.Canonical.dropFab (State.Canonical.freeSwitches ?_))
  exact (h.mapDevs fun _ _ hx => hx.modColl.withQueues).withNet

theorem State.Canonical.execRouteVersion {unreach : List Nat} {rerouted : Bool} (h : s.Canonical) :
    Stepped.Canonical (execRouteVersion d ver unreach rerouted s) := by
  unfold Machine.execRouteVersion
  split
  · exact h.next
  refine State.Canonical.next ?_
  refine .foldl
    (.foldl (.foldl
    (.pump (.modDev
    (.foldl (.foldl (.foldl (h.countAcks.modDev fun _ hx => .logEv hx) fun _ _ hs => hs.unreachable) fun _ _ hs => hs.modDev
    fun _ hx => hx) fun _ _ hs => hs.restartColl) fun _ hx => hx)) fun _ _ hs => hs.unreachable) fun _ _ hs => hs.sendReset)
    fun _ _ hs => ?_
  split
  · exact hs
  exact hs.resend

theorem Device.Canonical.modPort {p : Nat} {f : Port → Port} (h : x.Canonical) : (x.modPort p f).Canonical := h

theorem State.Canonical.execLinkDown (h : s.Canonical) : Stepped.Canonical (execLinkDown d port s) := by
  unfold Machine.execLinkDown
  dsimp only
  split
  · exact State.Canonical.next (h.modDev fun _ hx => hx.modPort.logEv)
  exact h.next

theorem State.Canonical.execFlitCrcError (h : s.Canonical) : Stepped.Canonical (execFlitCrcError d port s) := by
  unfold Machine.execFlitCrcError
  split
  · exact State.Canonical.next (h.modDev fun _ hx => hx.modPort)
  exact h.next

theorem State.Canonical.execLaneLockLoss (h : s.Canonical) : Stepped.Canonical (execLaneLockLoss d port s) := by
  unfold Machine.execLaneLockLoss
  split
  · exact State.Canonical.next (h.modDev fun _ hx => hx.modPort)
  exact h.next

theorem State.Canonical.execLaneLockRegain (h : s.Canonical) : Stepped.Canonical (execLaneLockRegain d port s) := by
  unfold Machine.execLaneLockRegain
  dsimp only
  split
  · split
    · exact State.Canonical.next (h.modDev fun _ hx => hx.modPort)
    exact h.next
  exact h.next

theorem State.Canonical.forget {l : LaunchId} (h : s.Canonical) : (s.forget l).Canonical :=
  h.stopEverywhere.mapDevs fun _ _ hx => hx.freeLaunch

theorem State.Canonical.withdrawDev (h : s.Canonical) : (s.withdrawDev d).Canonical := h.foldl fun _ _ hs => hs.withdrawSlot

theorem State.Canonical.loseDevice {after : Device} (h : s.Canonical) (hafter : after.Canonical) :
    (s.loseDevice d after).Canonical := by
  unfold State.loseDevice
  dsimp only
  refine .withNet (.modDev (.withdrawDev (.endCurator (h.foldl fun _ _ hs => ?_))) fun _ _ => hafter)
  split
  · exact hs.forget
  · exact hs.launchFault

theorem State.Canonical.execDeviceLost (h : s.Canonical) : Stepped.Canonical (execDeviceLost d s) := by
  unfold Machine.execDeviceLost
  split
  · exact h.next
  exact State.Canonical.next (h.loseDevice Device.canonical_reset)

end

/-! ### The host link and the management registers -/

section
variable {s : State} {x : Device} {d off fn asid : Nat} {v : Word}

theorem Device.Canonical.modFn {n : Nat} {f : Fn → Fn} (h : x.Canonical) : (x.modFn n f).Canonical := h

theorem State.Canonical.portWalk {va : Word} (h : s.Canonical) : (s.portWalk d asid va).1.Canonical := by
  unfold State.portWalk
  split
  · exact h
  · exact h.noteWalk

theorem State.Canonical.dropHost {cause : Nat} {nonPosted : Bool} (h : s.Canonical) :
    (s.dropHost d fn off cause nonPosted).Canonical := by
  unfold State.dropHost
  dsimp only
  split <;> exact h.modDev fun _ hx => hx.logErr

theorem State.Canonical.hostFill {va : Word} {data : List Byte} {en : List Bool} {gs : List Nat}
    (h : s.Canonical) : (s.hostFill d asid va data en gs).1.Canonical := by
  induction gs generalizing s with
  | nil => exact h
  | cons g gs ih =>
    unfold State.hostFill
    dsimp only
    split
    · exact h.portWalk
    split
    · exact h.portWalk
    split
    · exact h.portWalk
    split
    · exact h.portWalk
    · exact ih h.portWalk

theorem State.Canonical.hostJoins {o : Origin} {js : List (Word × Nat × JoinData)} (h : s.Canonical) :
    (s.hostJoins d asid o js).Canonical := h.foldl fun _ _ hs => hs.send

theorem State.Canonical.execHostWrite {data : List Byte} {en : List Bool} {nonPosted onIde : Bool}
    (h : s.Canonical) : Stepped.Canonical (execHostWrite d fn off data en nonPosted onIde s) := by
  unfold Machine.execHostWrite
  dsimp only
  split
  · refine State.Canonical.next ?_
    split <;> exact h
  split
  · split
    · exact State.Canonical.next (.dropHost (.ite_fst h.portWalk h))
    split
    · exact State.Canonical.next (.dropHost (.ite_fst h.portWalk h))
    · exact State.Canonical.next (.hostJoins (.ite_fst h.portWalk h))
  split
  · exact State.Canonical.next (.dropHost (.hostFill (.ite_fst h.portWalk h)))
  · exact State.Canonical.next (.hostJoins (.hostFill (.ite_fst h.portWalk h)))

theorem State.Canonical.execObsRead {len : Nat} (h : s.Canonical) : Stepped.Canonical (execObsRead d fn off len s) := by
  unfold Machine.execObsRead
  dsimp only
  split
  · exact State.Canonical.next h
  split <;> split <;> exact State.Canonical.next h

theorem State.Canonical.execObsWrite (h : s.Canonical) : Stepped.Canonical (execObsWrite d fn off s) := by
  unfold Machine.execObsWrite
  split
  · exact State.Canonical.next (h.modDev fun _ hx => hx.logErr)
  exact h.next

theorem State.Canonical.writeDword {g : Nat} (h : s.Canonical) : (s.writeDword g v).Canonical :=
  h.writeG.modDev fun _ hx => hx

theorem State.Canonical.execSyswinWrite (h : s.Canonical) : Stepped.Canonical (execSyswinWrite d fn off v s) := by
  unfold Machine.execSyswinWrite
  dsimp only
  split
  · exact h.next
  exact h.writeDword.next

theorem State.Canonical.execTdispRequest {st : Tdisp} (h : s.Canonical) : Stepped.Canonical (execTdispRequest d fn st s) := by
  unfold Machine.execTdispRequest
  split
  · exact h.next
  exact State.Canonical.next (h.modDev fun _ hx => hx.modFn)

theorem State.Canonical.execSpdmRequest {r : SpdmReq} (h : s.Canonical) : Stepped.Canonical (execSpdmRequest d r s) := by
  unfold Machine.execSpdmRequest
  dsimp only
  split
  · exact h.next
  split
  · exact State.Canonical.next h
  · exact State.Canonical.next h
  refine State.Canonical.next ?_
  split
  · exact .modDev h fun _ hx => hx
  exact h

theorem State.Canonical.execErrlog (h : s.Canonical) : Stepped.Canonical (execErrlog d s) := by
  unfold Machine.execErrlog
  dsimp only
  split
  · exact State.Canonical.next h
  exact State.Canonical.next (h.modDev fun _ hx => hx)

theorem State.Canonical.execEvlog (h : s.Canonical) : Stepped.Canonical (execEvlog d s) := by
  unfold Machine.execEvlog
  dsimp only
  split
  · exact State.Canonical.next h
  exact State.Canonical.next (h.modDev fun _ hx => hx)

theorem Device.Canonical.badReg (h : x.Canonical) : (x.badReg fn off).Canonical := h.logErr

theorem State.Canonical.execEccinj (h : s.Canonical) : Stepped.Canonical (execEccinj d v s) := by
  unfold Machine.execEccinj
  dsimp only
  split
  · exact h.next
  split
  · exact State.Canonical.next (h.modDev fun _ hx => hx.badReg)
  refine State.Canonical.next ?_
  split
  · exact .modCore1 (h.modDev fun _ hx => hx.mapCores fun _ hq => hq) fun _ hc1 => hc1
  exact h.modDev fun _ hx => hx.mapCores fun _ hq => hq

theorem State.Canonical.execCseminc (h : s.Canonical) : Stepped.Canonical (execCseminc d v s) := by
  unfold Machine.execCseminc
  dsimp only
  split
  · exact h.next
  exact State.Canonical.next (h.modDev fun _ hx => hx)

theorem State.Canonical.execKeysel (h : s.Canonical) : Stepped.Canonical (execKeysel d v s) := by
  unfold Machine.execKeysel
  dsimp only
  split
  · exact h.next
  exact State.Canonical.next (h.modDev fun _ hx => hx)

theorem Device.Canonical.of_fnReg {v : Nat} {y : Device} (h : x.Canonical) (hy : x.fnReg fn off v = some y) :
    y.Canonical := by
  unfold Device.fnReg at hy
  split at hy
  iterate 4 exact Option.some.inj hy ▸ h.modFn
  exact nomatch hy

theorem Device.Canonical.fixedReg {b : Bar0} (h : x.Canonical) : (x.fixedReg off b).Canonical := by
  unfold Device.fixedReg
  split
  · exact h.badReg
  exact h

theorem Device.Canonical.pfReg {v : Nat} (h : x.Canonical) : (x.pfReg off v).Canonical := by
  unfold Device.pfReg
  dsimp only
  split
  · split
    · exact h
    exact h.badReg
  · exact h
  · exact h
  · exact h.fixedReg
  · exact h
  · exact h.fixedReg
  · exact h.fixedReg
  · exact h.fixedReg
  · exact h
  · exact h
  · split <;> exact h
  · exact h
  · exact h
  split <;> exact h

theorem State.Canonical.execRegWrite (h : s.Canonical) : Stepped.Canonical (execRegWrite d fn off v s) := by
  unfold Machine.execRegWrite
  split
  · exact h.next
  refine State.Canonical.next ?_
  refine h.modDev fun _ hx => ?_
  split
  · next hz => exact hx.of_fnReg hz
  split
  · exact hx.pfReg
  exact hx

end

/-! ### The queues and the journal -/

section
variable {s : State} {x : Device} {d slot asid n op cause : Nat} {q : QSlot} {r : Running} {v va taddr : Word}
    {blk : List Byte}

theorem State.Canonical.noteSpan (h : s.Canonical) : (s.noteSpan d asid va n).Canonical := h.foldl fun _ _ hs => hs.noteWalk

theorem State.Canonical.noteRead {a : Except Trap (List Byte)} (h : s.Canonical) : (s.noteRead d asid va a).Canonical := by
  unfold State.noteRead
  split
  · exact h.noteWalk
  exact h.noteSpan

theorem State.Canonical.execQadd (h : s.Canonical) : Stepped.Canonical (execQadd d v s) := by
  unfold Machine.execQadd
  dsimp only
  split
  · exact h.next
  split
  · exact State.Canonical.next (h.modDev fun _ hx => hx.badReg)
  exact State.Canonical.next (h.modDev fun _ hx => hx)

theorem State.Canonical.execQdel (h : s.Canonical) : Stepped.Canonical (execQdel d v s) := by
  unfold Machine.execQdel
  dsimp only
  split
  · exact h.next
  split
  · exact State.Canonical.next (h.modDev fun _ hx => hx.badReg)
  split <;> exact State.Canonical.next (h.modDev fun _ hx => hx)

theorem State.Canonical.execQueueMap (h : s.Canonical) : Stepped.Canonical (execQueueMap d s) := by
  unfold Machine.execQueueMap
  dsimp only
  split
  · split
    · exact h.next
    exact State.Canonical.next (.writeG (h.modDev fun _ hx => hx))
  exact h.next

theorem State.Canonical.execQueueUnmap (h : s.Canonical) : Stepped.Canonical (execQueueUnmap d slot s) := by
  unfold Machine.execQueueUnmap
  dsimp only
  split
  · split
    · exact h.next
    exact State.Canonical.next (.writeG (.writeG (h.modDev fun _ hx => hx)))
  exact h.next

theorem State.Canonical.execWidx {w : Requester} {fetchAdd : Bool} (h : s.Canonical) :
    Stepped.Canonical (execWidx d w slot fetchAdd v s) := by
  unfold Machine.execWidx
  dsimp only
  split
  · refine State.Canonical.next ?_
    split <;> exact h
  split <;> exact State.Canonical.next (h.modDev fun _ hx => hx.modSlot)

theorem State.Canonical.execWres {w : Requester} (h : s.Canonical) : Stepped.Canonical (execWres d w slot s) := by
  unfold Machine.execWres
  dsimp only
  split
  · exact State.Canonical.next h
  exact State.Canonical.next (h.modDev fun _ hx => hx.modSlot)

theorem State.Canonical.execDbell {w : Requester} {_v : Word} (h : s.Canonical) :
    Stepped.Canonical (execDbell d w slot _v s) := by
  unfold Machine.execDbell
  split
  · exact State.Canonical.next (h.modDev fun _ hx => hx.modSlot)
  exact h.next

theorem State.Canonical.execQresume {w : Requester} (h : s.Canonical) : Stepped.Canonical (execQresume d w slot v s) := by
  unfold Machine.execQresume
  dsimp only
  split
  · exact h.next
  split
  · exact State.Canonical.next (h.modDev fun _ hx => hx.modSlot)
  exact State.Canonical.next (h.modDev fun _ hx => hx.badReg)

theorem State.Canonical.noteChain (h : s.Canonical) : (s.noteChain d asid op n va).Canonical := by
  induction n generalizing s va with
  | zero => exact h.noteRead
  | succ n ih =>
    unfold State.noteChain
    dsimp only
    split
    · exact ih h.noteRead
    · exact h.noteRead

theorem State.Canonical.notePacket {hdr ptr : Word} (h : s.Canonical) : (s.notePacket d q hdr ptr).Canonical := by
  unfold State.notePacket
  split
  · exact h
  exact h.noteChain

theorem State.Canonical.execPacketTake (h : s.Canonical) : Stepped.Canonical (execPacketTake d slot s) := by
  unfold Machine.execPacketTake
  dsimp only
  split
  · exact h.next
  split
  · exact State.Canonical.next (h.modDev fun _ hx => hx.modSlot)
  split
  · exact State.Canonical.next (.notePacket (h.modDev fun _ hx => hx.modSlot))
  split <;> exact State.Canonical.next (h.modDev fun _ hx => hx.modSlot)

theorem Device.Canonical.journalOpen {desc e3 : Nat} (h : x.Canonical) : (x.journalOpen desc e3 op).Canonical := by
  unfold Device.journalOpen
  dsimp only
  generalize List.replicate 64 (0 : Byte) = bs
  refine .journal (.journal (.journal (.journal (.journal (.journal ⟨cellsWrite_wf h.mem, h.cores, ?_⟩)))))
  dsimp only
  split
  · exact h.launches
  · exact fun l hl => h.launches l (List.mem_of_mem_filter hl)

theorem State.Canonical.noteTree {rec_ : List Byte} (h : s.Canonical) : (s.noteTree d asid rec_).Canonical :=
  h.foldl fun _ _ hs => hs.noteWalk

/-- A way to reserve space that leaves the memories of a device as they are. -/
def ReserveCanonical (f : Device → Nat → Nat → Option (Device × Nat)) : Prop :=
  ∀ x op n p, x.Canonical → f x op n = some p → p.1.Canonical

/-- The search for a place is any function here: left as it is, the kernel would run it when it compares two forms of the
definition, since it opens a match before it opens a function. -/
theorem reserveCanonical_reserveFor : ReserveCanonical Device.reserveFor := by
  delta Device.reserveFor
  generalize Device.place = place
  generalize Device.spaceFor = spaceFor
  revert place spaceFor
  refine id fun place spaceFor x op n p h hp => ?_
  dsimp only at hp
  split at hp
  · exact nomatch hp
  split at hp
  · exact nomatch hp
  rw [← Option.some.inj hp]
  dsimp only
  split <;> exact h

theorem Device.Canonical.of_reserveFor {free : Bool} {a : Nat} {y : Device} (h : x.Canonical)
    (hy : (if free = true then x.reserveFor op n else none) = some (y, a)) : y.Canonical := by
  split at hy
  · exact reserveCanonical_reserveFor _ _ _ _ h hy
  · exact nomatch hy

theorem canonical_newLaunch {acc recAt : Nat} {node : Bool} :
    (newLaunch x acc slot node q blk recAt).Canonical := List.forall_mem_nil _

theorem State.Canonical.noteGroup (h : s.Canonical) : (s.noteGroup d asid va).Canonical := by
  unfold State.noteGroup
  dsimp only
  split
  · exact h.noteRead
  exact h.noteRead.noteRead

theorem State.Canonical.of_numberColl {u : State} {key : CollKey} (h : s.Canonical)
    (hu : s.numberColl d asid blk = some (u, key)) : u.Canonical := by
  unfold State.numberColl at hu
  obtain ⟨g, _, hg⟩ := Option.map_eq_some_iff.1 hu
  obtain ⟨rfl, _⟩ := Prod.mk.inj hg
  exact h.modDev fun _ hx => hx

theorem State.Canonical.noteGraph (h : s.Canonical) : (s.noteGraph d q blk).Canonical := by
  unfold State.noteGraph
  dsimp only
  split
  · exact h.noteRead
  refine h.noteRead.foldl fun _ _ hs => ?_
  split <;> exact hs.noteRead

theorem Device.Canonical.failCommand {aux : Word} (h : x.Canonical) : (x.failCommand slot r cause taddr aux).Canonical := by
  unfold Device.failCommand
  dsimp only
  split
  · exact .raise (.withQueues (.modSlot (.journal (.journal (.journal h.write)))))
  · exact .withQueues (.modSlot (.journal (.journal (.journal h.write))))

theorem State.Canonical.setRun {waiting : Bool} (h : s.Canonical) : (s.setRun d slot r waiting).Canonical :=
  h.modDev fun _ hx => hx.modSlot

theorem State.Canonical.failRun {node : Nat} (h : s.Canonical) : (s.failRun d slot cause taddr node).Canonical := by
  have hw : ((if cause == Cause.memUncorr then s.noteWalk d pd0 ((s.device d).slot slot).asid taddr else s).withdrawSlot d
      slot).Canonical := .withdrawSlot (.ite h.noteWalk h)
  unfold State.failRun
  dsimp only
  split
  · exact hw.modDev fun _ hx => hx.failCommand
  · exact hw

theorem State.Canonical.execCommandAccept (h : s.Canonical) : Stepped.Canonical (execCommandAccept d slot s) := by
  unfold Machine.execCommandAccept
  dsimp only
  split
  · split
    · exact h.next
    · next y _ hy =>
      have hopen {desc e3 op : Nat} {f : QSlot → QSlot} :
          (s.modDev d fun _ => (y.journalOpen desc e3 op).modSlot slot f).Canonical :=
        h.modDev fun _ _ => (h.device.of_reserveFor hy).journalOpen.modSlot
      split
      · exact hopen.failRun.next
      split
      · exact State.Canonical.next (hopen.noteTree.modDev fun _ hx => hx.addLaunch canonical_newLaunch)
      · split
        · exact hopen.noteGroup.failRun.next
        · next hu => exact (hopen.noteGroup.of_numberColl hu).setRun.next
      · split
        · exact hopen.noteGraph.failRun.next
        · exact State.Canonical.next (hopen.noteGraph.modDev fun _ hx => hx.modSlot)
      · exact hopen.next
  · exact h.next

theorem Device.Canonical.noteStart (h : x.Canonical) : (x.noteStart r).Canonical := h.journal

theorem State.Canonical.ownFault {acc src : Nat} {taux : Word} (h : s.Canonical) :
    (s.ownFault d acc src cause taddr taux).Canonical := h.launchFault

theorem State.Canonical.execLabort (h : s.Canonical) : Stepped.Canonical (execLabort d v s) := by
  unfold Machine.execLabort
  dsimp only
  split
  · exact h.next
  split
  · split
    · split
      · exact State.Canonical.next (.ite h h.ownFault)
      · refine State.Canonical.next (.failRun ?_)
        split
        · exact .ite h h.ownFault
        · exact h
    · exact h.next
  · exact State.Canonical.next (.ite h h.ownFault)

theorem State.Canonical.stampRun {wanted : Bool} {finish : Device → Device} (h : s.Canonical)
    (hfinish : ∀ (x : Device), x.Canonical → (finish x).Canonical) :
    (s.stampRun d slot q r wanted finish).Canonical := by
  unfold State.stampRun
  dsimp only
  split
  · exact h.modDev fun _ hx => hfinish _ hx
  split
  · exact .curJoin (h.noteWalk.modDev fun _ hx => hx.modCurrent)
  exact h.noteWalk.modDev fun _ hx => hfinish _ hx

theorem Device.Canonical.endCommand (h : x.Canonical) : (x.endCommand slot q r).Canonical := by
  unfold Device.endCommand
  refine .modSlot ?_
  split
  · refine .raise ?_
    split
    · exact h
    exact h.journal.journal
  split
  · exact h
  exact h.journal.journal

theorem Device.Canonical.endNode {g : GraphRun} (h : x.Canonical) : (x.endNode slot q g r).Canonical := by
  unfold Device.endNode
  refine .modSlot ?_
  split
  · exact h
  exact h.raise

theorem State.Canonical.execCommandComplete (h : s.Canonical) : Stepped.Canonical (execCommandComplete d slot s) := by
  unfold Machine.execCommandComplete
  dsimp only
  split
  · split
    · exact h.next
    exact State.Canonical.next (h.stampRun fun _ hx => hx.endNode)
  · split
    · exact h.next
    exact State.Canonical.next (h.stampRun fun _ hx => hx.endCommand)
  exact h.next

end

/-! ### Commands of the Curator -/

section
variable {s : State} {d slot : Nat} {r : Running} {q : QSlot}

theorem State.Canonical.startRun (h : s.Canonical) : (s.startRun d slot q r).Canonical := by
  unfold State.startRun
  split
  · exact h
  refine .setRun ?_
  refine h.modDev fun _ hx => ?_
  split
  · exact hx
  exact hx.noteStart

theorem State.Canonical.finishRun (h : s.Canonical) : (s.finishRun d slot r).Canonical := h.setRun

theorem State.Canonical.waitRun (h : s.Canonical) : (s.waitRun d slot q r).Canonical := h.startRun.setRun

theorem State.Canonical.askRun {phase : Nat} (h : s.Canonical) : (s.askRun d slot q r phase).Canonical := h.startRun.setRun

theorem State.Canonical.execLaunch (h : s.Canonical) : Stepped.Canonical (execLaunch d slot s) := by
  unfold Machine.execLaunch
  split
  · exact h.next
  split
  · exact h.next
  dsimp only
  split
  · exact h.setRun.ownFault.next
  split
  · split
    · exact h.setRun.ownFault.next
    exact h.setRun.next
  split
  · exact h.setRun.ownFault.next
  exact h.setRun.next

theorem State.Canonical.copyOut {dst : Word} {bs : List Byte} (h : s.Canonical) :
    (s.copyOut d slot q r dst bs).Canonical := by
  unfold State.copyOut
  dsimp only
  split
  · exact h.noteWalk.failRun
  split
  · exact h.noteWalk.askRun.curSend
  · exact h.noteWalk.askRun.curJoin
  · exact h.noteWalk.askRun.foldl fun _ _ hs => hs.curJoin
  exact h.noteWalk.failRun

theorem State.Canonical.copyIn {src : Word} (h : s.Canonical) : (s.copyIn d slot q r src).Canonical := by
  unfold State.copyIn
  dsimp only
  split
  · exact h.noteWalk.failRun
  exact h.noteWalk.askRun.curSend

theorem State.Canonical.execCopy (h : s.Canonical) : Stepped.Canonical (execCopy d slot s) := by
  unfold Machine.execCopy
  split
  · exact h.next
  dsimp only
  split
  · exact h.next
  · exact h.failRun.next
  split
  · exact h.setRun.next
  split
  · exact h.copyOut.next
  split
  · exact h.failRun.next
  split
  · exact h.failRun.next
  split
  · exact h.startRun.finishRun.next
  exact h.copyIn.next

theorem State.Canonical.execCmdJoin (h : s.Canonical) : Stepped.Canonical (execCmdJoin d slot s) := by
  unfold Machine.execCmdJoin
  split
  · exact h.next
  dsimp only
  split
  · exact h.next
  · exact h.failRun.next
  split
  · exact h.finishRun.next
  split
  · exact h.noteWalk.failRun.next
  split
  · exact h.noteWalk.failRun.next
  exact h.noteWalk.askRun.curJoin.next

theorem State.Canonical.execFreeze (h : s.Canonical) : Stepped.Canonical (execFreeze d slot s) := by
  unfold Machine.execFreeze
  split
  · exact h.next
  split
  · exact h.next
  · exact h.failRun.next
  split
  · exact h.finishRun.next
  split
  · exact h.failRun.next
  exact State.Canonical.next (h.noteSpan.askRun.foldl fun _ _ hs => hs.curSend)

theorem State.Canonical.execReclaim (h : s.Canonical) : Stepped.Canonical (execReclaim d slot s) := by
  unfold Machine.execReclaim
  split
  · exact h.next
  dsimp only
  split
  · exact h.next
  · exact h.failRun.next
  split
  · exact State.Canonical.next (.finishRun (h.modDev fun _ hx => hx))
  split
  · refine State.Canonical.next ?_
    refine h.waitRun.modDev fun _ hx => ?_
    split <;> exact hx
  split
  · exact h.failRun.next
  refine State.Canonical.next ?_
  refine .foldl ?_ fun _ _ hs => hs.curSend
  refine h.noteSpan.askRun.modDev fun _ hx => ?_
  split <;> exact hx

theorem State.Canonical.groupContribute {key : CollKey} {devs : List Nat} {desc data : List Byte} (h : s.Canonical) :
    (s.groupContribute d slot q r key devs desc data).Canonical := by
  unfold State.groupContribute
  split
  · exact h.waitRun
  exact h.startRun.setRun.contribute

theorem State.Canonical.groupRead {va : Word} (h : s.Canonical) : (s.groupRead d slot q r va).Canonical := by
  unfold State.groupRead
  dsimp only
  split
  · exact h.noteWalk.failRun
  exact h.noteWalk.startRun.setRun.curSend

theorem State.Canonical.execCmdColl (h : s.Canonical) : Stepped.Canonical (execCmdColl d slot s) := by
  unfold Machine.execCmdColl
  split
  · exact h.next
  split
  · exact h.next
  split
  · split
    · exact State.Canonical.next (.failRun (h.modDev fun _ hx => hx.dropColl))
    exact h.next
  split
  · exact h.finishRun.next
  split
  · exact h.next
  · exact h.failRun.next
  dsimp only
  split
  · exact h.failRun.next
  split
  · exact h.failRun.next
  split
  · exact h.failRun.next
  split
  · exact h.failRun.next
  split
  · exact h.failRun.next
  split
  · exact h.waitRun.next
  split
  · exact h.groupContribute.next
  exact h.groupRead.next

theorem State.Canonical.execWait (h : s.Canonical) : Stepped.Canonical (execWait d slot s) := by
  unfold Machine.execWait
  split
  · exact h.next
  dsimp only
  split
  · split
    · exact h.startRun.finishRun.next
    exact h.waitRun.next
  split
  · exact h.next
  · exact h.failRun.next
  split
  · exact h.finishRun.next
  split
  · exact h.failRun.next
  split
  · exact h.noteWalk.failRun.next
  split
  · exact h.noteWalk.failRun.next
  exact h.noteWalk.askRun.curSend.next

theorem State.Canonical.execMark (h : s.Canonical) : Stepped.Canonical (execMark d slot s) := by
  unfold Machine.execMark
  split
  · exact h.next
  refine State.Canonical.next ?_
  refine .finishRun ?_
  split
  · exact h.startRun.modDev fun _ hx => hx
  exact h.startRun

theorem State.Canonical.execFlush (h : s.Canonical) : Stepped.Canonical (execFlush d slot s) := by
  unfold Machine.execFlush
  split
  · exact h.next
  dsimp only
  split
  · split
    · split
      · exact h.startRun.next
      exact State.Canonical.next (.finishRun (h.startRun.modDev fun _ hx => hx.mapCores fun _ hq1 => hq1))
    split
    · exact h.startRun.next
    exact State.Canonical.next (.finishRun (h.startRun.modDev fun _ hx => hx.mapCores fun _ hq1 => hq1))
  split
  · split
    · exact h.startRun.next
    exact State.Canonical.next (.finishRun (h.startRun.modDev fun _ hx => hx.mapCores fun _ hq1 => hq1))
  split
  · exact h.startRun.next
  exact State.Canonical.next (.finishRun (h.startRun.modDev fun _ hx => hx.mapCores fun _ hq1 => hq1))

theorem State.Canonical.launchNode {g : GraphRun} {gr : Running} {desc : Nat} {blk : List Byte} (h : s.Canonical) :
    (s.launchNode d slot q g gr desc blk).Canonical := by
  unfold State.launchNode
  dsimp only
  split
  · exact h
  · next hy =>
    have hopen := (h.device.of_reserveFor hy).journalOpen (desc := desc)
      (e3 := g.at_ % 65536 + gr.acc % 2 ^ 48 * 65536) (op := 1)
    exact .noteTree (h.modDev fun _ _ => .modSlot (hopen.addLaunch canonical_newLaunch))

theorem State.Canonical.execGraph (h : s.Canonical) : Stepped.Canonical (execGraph d slot s) := by
  unfold Machine.execGraph
  dsimp only
  split
  · next r _ _ _ _ =>
    have hstart : (s.modDev d (fun x => x.noteStart r)).Canonical := h.modDev fun _ hx => hx.noteStart
    split
    · exact h.next
    split
    · split
      · exact h.next
      split
      · split
        · split
          · exact h.failRun.next
          · exact h.next
        · exact h.next
      · exact h.next
    split
    · exact State.Canonical.next (h.modDev fun _ hx => hx.modSlot)
    split
    · exact hstart.launchNode.next
    split
    · split
      · exact hstart.noteGroup.failRun.next
      · next ht => exact State.Canonical.next ((hstart.noteGroup.of_numberColl ht).modDev fun _ hx => hx.modSlot)
    · exact State.Canonical.next (hstart.modDev fun _ hx => hx.modSlot)
  · exact h.next

theorem State.Canonical.branch {g : GraphRun} {next : Nat} {counters : AMap Nat} (h : s.Canonical) :
    (s.branch d slot g r next counters).Canonical := h.modDev fun _ hx => hx.modSlot

theorem State.Canonical.of_predicate {va : Word} {v : BitVec 32} {u : State}
    (h : s.Canonical) (hu : s.predicate d slot q r va v = .on u) : u.Canonical := by
  have hnote : (s.noteWalk d pd0 q.asid va).Canonical := h.noteWalk
  unfold State.predicate at hu
  split at hu
  · exact PredRes.on.inj hu ▸ h
  · exact PredRes.on.inj hu ▸ h.failRun
  split at hu
  · exact nomatch hu
  dsimp only at hu
  split at hu
  · exact PredRes.on.inj hu ▸ hnote.failRun
  split at hu
  · exact PredRes.on.inj hu ▸ hnote.failRun
  split at hu
  · exact PredRes.on.inj hu ▸ hnote.failRun
  split at hu
  · exact PredRes.on.inj hu ▸ hnote.askRun.curSend
  · exact PredRes.on.inj hu ▸ hnote.askRun.curSend

theorem State.Canonical.execCond (h : s.Canonical) : Stepped.Canonical (execCond d slot s) := by
  unfold Machine.execCond
  split
  · exact h.next
  split
  · exact h.next
  dsimp only
  split
  · next ht => exact (h.of_predicate ht).next
  exact h.branch.next

theorem State.Canonical.execCmdLoop (h : s.Canonical) : Stepped.Canonical (execCmdLoop d slot s) := by
  unfold Machine.execCmdLoop
  split
  · exact h.next
  split
  · exact h.next
  dsimp only
  split
  · next ht => exact (h.of_predicate ht).next
  · exact h.branch.next
  split
  · exact h.failRun.next
  exact h.branch.next

end

/-! ### Binding, dispatch and pre-emption -/

section
variable {s : State} {c : Core} {b : Binding} {d acc : Nat} {l : LaunchId}

theorem Core.Canonical.loadCore {args : List Byte} {no : Nat} {old : Core} : (loadCore b args no old).Canonical := by
  unfold Machine.loadCore
  exact .checkpoint (.setCtx Core.canonical_reset)

theorem State.Canonical.bindEntry {st : Nat} {p : Nat × Nat} (h : s.Canonical) : (s.bindEntry l st p).Canonical :=
  h.modDev fun _ hx => hx

theorem State.Canonical.loadCores {l : Launch} {x : Dispatch} {cs : List (List Nat × Nat × Nat)} (h : s.Canonical) :
    (s.loadCores d l x cs).Canonical := by
  unfold State.loadCores
  refine h.foldl fun _ _ hs => ?_
  dsimp only
  split
  · exact .setCore (hs.setCore Core.Canonical.loadCore) Core.Canonical.loadCore
  exact hs.setCore Core.Canonical.loadCore

theorem State.Canonical.execRemoteCoreReserve {cores : List Nat} (h : s.Canonical) :
    Stepped.Canonical (execRemoteCoreReserve d l cores s) := by
  unfold Machine.execRemoteCoreReserve
  dsimp only
  split
  · exact State.Canonical.next (.modDev (h.foldl fun _ _ hs => hs.bindEntry) fun _ hx => hx)
  exact h.next

theorem State.Canonical.bindNow {l : Launch} {x : Dispatch} {cs : List (List Nat × Nat × Nat)} {grants : List (Nat × Nat)}
    (h : s.Canonical) :
    (s.bindNow d l x cs grants).Canonical := by
  unfold State.bindNow
  exact .modDev (.loadCores (.mapDevs (h.foldl fun _ _ hs => hs.bindEntry) fun _ _ hx => hx)) fun _ hx => .setStatus
    (hx.modLaunch fun _ hm => hm)

theorem State.Canonical.execLaunchBind {grants : List (Nat × Nat)} (h : s.Canonical) :
    Stepped.Canonical (execLaunchBind d acc grants s) := by
  unfold Machine.execLaunchBind
  split
  · exact h.next
  split
  · exact h.next
  split
  · refine State.Canonical.next ?_
    refine .ownFault ?_
    split
    · exact h.noteWalk
    exact h
  · exact h.next
  exact h.bindNow.next

theorem State.Canonical.mapCores {f : Core → Core} (h : s.Canonical) (hf : ∀ (c : Core), c.Canonical → (f c).Canonical) :
    (s.mapCores l f).Canonical := by
  unfold State.mapCores
  refine h.mapDevs fun _ _ hx => ?_
  refine hx.mapCores fun _ hq => ?_
  split
  · split
    · exact hf _ hq
    exact hq
  exact hq

theorem State.Canonical.execRootSyncRelease (h : s.Canonical) : Stepped.Canonical (execRootSyncRelease d acc s) := by
  unfold Machine.execRootSyncRelease
  split
  · exact h.next
  split
  · exact h.next
  exact State.Canonical.next (.modDev (h.mapCores fun _ hk => hk) fun _ hx => .setStatus (hx.modLaunch fun _ hm => hm))

theorem State.Canonical.execLaunchComplete (h : s.Canonical) : Stepped.Canonical (execLaunchComplete d acc s) := by
  unfold Machine.execLaunchComplete
  dsimp only
  split
  · exact h.next
  split
  · exact h.finishFault.next
  split
  · exact h.next
  split
  · split
    · exact h.collEnd.next
    exact h.next
  split
  · exact State.Canonical.next
      (.setRun (.modDev (h.mapDevs fun _ _ hx => hx.freeLaunch) fun _ hx => hx.journal.setStatus.freeArea))
  exact State.Canonical.next (.modDev (h.mapDevs fun _ _ hx => hx.freeLaunch) fun _ hx => hx.journal.setStatus.freeArea)

theorem Core.Canonical.preempt {n : Nat} (h : c.Canonical) : (c.preempt n).Canonical := by
  have hd : (((c.dropSwap n).dropCounts n).dropRegionCmds n).Canonical := h.dropSwap.dropCounts.dropRegionCmds
  unfold Core.preempt
  dsimp only
  split
  · exact h
  split
  · exact h.modCtx
  split
  · exact .modCtx hd.withArrivals
  · exact h.modCtx

theorem State.Canonical.askStop (h : s.Canonical) : (s.askStop l).Canonical := by
  unfold State.askStop
  refine .foldl (h.mapDevs fun _ _ hx => hx.mapCores fun q hq => ?_) fun _ _ hs => hs.settleKill.foldl fun _ _ ht => ?_
  · have hp : ((List.range 11).foldl Core.preempt q.2).Canonical := hq.foldl fun _ _ hk => hk.preempt
    generalize (List.range 11).foldl Core.preempt q.2 = k at hp
    split
    · exact hp
    · exact hq
  · split
    · exact ht.withdraw
    · exact ht

theorem Core.Canonical.saved (h : c.Canonical) : c.saved.Canonical := by
  unfold Core.saved
  split
  · exact h
  dsimp only
  split <;> exact h

theorem Core.Canonical.unbind : c.unbind.Canonical := Core.canonical_reset

theorem State.Canonical.unbindAll (h : s.Canonical) : (s.unbindAll l).Canonical := by
  unfold State.unbindAll
  dsimp only
  refine .withNet (.mapDevs (h.foldl fun _ _ hs => hs.mapDevs fun _ _ hx => hx.dropCore) fun _ x hx =>
    ⟨hx.mem, List.forall_mem_map.2 fun q hq => ?_, hx.launches⟩)
  replace hq : q.2.Canonical := hx.cores q hq
  split
  · split
    · exact Core.Canonical.unbind
    · exact hq
  · exact hq

theorem State.Canonical.savedCores (h : s.Canonical) : ∀ q ∈ s.savedCores l, q.2.Canonical := by
  unfold State.savedCores
  intro q hq
  obtain ⟨p, hp, hq⟩ := List.mem_flatMap.1 hq
  obtain ⟨r, hr, hq⟩ := List.mem_filterMap.1 hq
  have hsaved : r.2.saved.Canonical := ((State.canonical_iff.1 h p hp).cores r hr).saved
  split at hq
  · split at hq
    · exact Option.some.inj hq ▸ hsaved
    · exact nomatch hq
  · exact nomatch hq

theorem State.Canonical.saveAll (h : s.Canonical) : (s.saveAll d acc).Canonical := by
  unfold State.saveAll
  exact .modDev h.unbindAll fun _ hx => .setStatus (hx.modLaunch fun _ _ => h.savedCores)

theorem State.Canonical.execPreempt (h : s.Canonical) : Stepped.Canonical (execPreempt d acc s) := by
  have hask : ((s.modDev d (fun x => x.modLaunch acc (fun l => { l with saving := true }))).askStop ⟨d, acc⟩).Canonical :=
    .askStop (h.modDev fun _ hx => hx.modLaunch fun _ hl => hl)
  unfold Machine.execPreempt
  dsimp only
  split
  · exact h.next
  split
  · exact h.next
  split
  · exact hask.next
  split
  · exact hask.eccKill.next
  · exact hask.saveAll.next

end

/-! ### Reset, power and temperature -/

section
variable {s : State} {x : Device} {b : Binding} {d die temp isl : Nat} {v : Word}

theorem Device.Canonical.cleared {warm : Bool} : (x.cleared warm).Canonical := Device.canonical_reset

theorem Device.Canonical.bootStep {n : Nat} {b : BootIn} (h : x.Canonical) : (bootStep d n b x).Canonical := by
  unfold Machine.bootStep
  dsimp only
  split
  · exact h
  · exact h
  · exact h.setMem rfl
  · exact h
  · exact h
  · exact h
  exact h

theorem Device.Canonical.bringUp {b : BootIn} (h : x.Canonical) : (bringUp d b x).Canonical := by
  unfold Machine.bringUp
  split <;> exact h.foldl fun _ _ hx => hx.bootStep

theorem State.Canonical.resetDevice {b : BootIn} {warm : Bool} (h : s.Canonical) : (s.resetDevice d b warm).Canonical := by
  have hup : ((s.loseDevice d ((s.device d).cleared warm)).setDevice d (bringUp d b ((s.device d).cleared warm))).Canonical :=
    .setDevice (h.loseDevice Device.Canonical.cleared) (.bringUp Device.Canonical.cleared)
  unfold State.resetDevice
  dsimp only
  refine hup.modDev fun _ hx => ?_
  split
  · exact .logEv (hx.of_eq rfl rfl rfl)
  · exact hx.of_eq rfl rfl rfl

theorem State.Canonical.execColdReset {b : BootIn} (h : s.Canonical) : Stepped.Canonical (execColdReset d b s) := by
  unfold Machine.execColdReset
  split
  · exact h.next
  exact h.resetDevice.next

theorem State.Canonical.execReset {b : BootIn} (h : s.Canonical) : Stepped.Canonical (execReset d v b s) := by
  unfold Machine.execReset
  split
  · exact h.next
  split
  · exact h.next
  exact h.resetDevice.next

theorem State.Canonical.execFwctlGo (h : s.Canonical) : Stepped.Canonical (execFwctlGo d v s) := by
  unfold Machine.execFwctlGo
  dsimp only
  split
  · exact h.next
  exact State.Canonical.next (h.modDev fun _ hx => hx)

theorem Device.Canonical.fwEnd {fail : Nat} (h : x.Canonical) : (x.fwEnd fail).Canonical := h

theorem Device.Canonical.flashed {image : List Byte} (h : x.Canonical) : (x.flashed image).Canonical := h

theorem State.Canonical.execFwUpdateDone {e : FwEnd} (h : s.Canonical) : Stepped.Canonical (execFwUpdateDone d e s) := by
  unfold Machine.execFwUpdateDone
  dsimp only
  split
  · exact h.next
  split
  · exact State.Canonical.next (h.modDev fun _ hx => hx.fwEnd)
  split
  · exact State.Canonical.next (h.modDev fun _ hx => hx.fwEnd)
  split
  · exact State.Canonical.next (h.modDev fun _ hx => hx.fwEnd)
  exact State.Canonical.next (h.modDev fun _ hx => hx.flashed.fwEnd)

theorem Device.Canonical.retarget {i : Nat} (h : x.Canonical) : (x.retarget i).Canonical := by
  unfold Device.retarget
  dsimp only
  split <;> exact h

theorem Device.Canonical.retargetAll (h : x.Canonical) : x.retargetAll.Canonical := h.foldl fun _ _ hx => hx.retarget

theorem State.Canonical.execIslset (h : s.Canonical) : Stepped.Canonical (execIslset d v s) := by
  unfold Machine.execIslset
  dsimp only
  split
  · exact h.next
  split
  · exact State.Canonical.next (h.modDev fun _ hx => hx.badReg)
  exact State.Canonical.next (h.modDev fun _ hx => .foldl hx fun _ _ hy => .retarget hy)

theorem State.Canonical.execFreqChangeDone (h : s.Canonical) : Stepped.Canonical (execFreqChangeDone d isl s) := by
  unfold Machine.execFreqChangeDone
  split
  · exact State.Canonical.next (h.modDev fun _ hx => .retarget hx)
  exact h.next

theorem State.Canonical.execPowerWindow {pkg modW : Nat} (h : s.Canonical) :
    Stepped.Canonical (execPowerWindow d pkg modW s) := by
  unfold Machine.execPowerWindow
  dsimp only
  split
  · exact h.next
  refine State.Canonical.next ?_
  refine h.modDev fun _ _ => ?_
  refine .retargetAll ?_
  split
  · split
    · exact .logEv h.device
    exact h.device
  split <;> exact h.device

theorem Device.Canonical.sense (h : x.Canonical) : (x.sense die temp).Canonical := h

theorem Device.Canonical.heed (h : x.Canonical) : (x.heed die temp).Canonical := by
  have hs : (x.sense die temp).Canonical := h.sense
  unfold Device.heed
  dsimp only
  split
  · exact .retargetAll (.logEv (hs.of_eq rfl rfl rfl))
  split
  · exact .retargetAll (hs.of_eq rfl rfl rfl)
  · exact hs

theorem State.Canonical.tripDevice (h : s.Canonical) : (s.tripDevice d).Canonical := h.loseDevice Device.canonical_reset

theorem State.Canonical.temperature (h : s.Canonical) : (s.temperature d die temp).Canonical := by
  unfold State.temperature
  split
  · exact h
  split
  · exact h.tripDevice
  exact h.modDev fun _ hx => hx.heed

theorem State.Canonical.execThermalCeil (h : s.Canonical) : Stepped.Canonical (execThermalCeil d die temp s) :=
  h.temperature.next

theorem State.Canonical.execThermalClear (h : s.Canonical) : Stepped.Canonical (execThermalClear d die temp s) :=
  h.temperature.next

theorem State.Canonical.execThermalTrip (h : s.Canonical) : Stepped.Canonical (execThermalTrip d die s) := h.temperature.next

theorem State.Canonical.execSupplyFault (h : s.Canonical) : Stepped.Canonical (execSupplyFault d isl s) := by
  unfold Machine.execSupplyFault
  dsimp only
  split
  · exact h.next
  · exact State.Canonical.next
      (.foldl (h.modDev fun _ hx => .logEv (hx.of_eq rfl rfl rfl)) fun _ _ hs => hs.killCore)

theorem State.Canonical.execIslandSupplyReturn (h : s.Canonical) : Stepped.Canonical (execIslandSupplyReturn d isl s) := by
  unfold Machine.execIslandSupplyReturn
  split
  · exact State.Canonical.next (h.modDev fun _ hx => hx)
  exact h.next

theorem State.Canonical.hostRead {fn off : Nat} {onIde : Bool} (h : s.Canonical) : (s.hostRead d fn off onIde).Canonical := by
  unfold State.hostRead
  dsimp only
  split
  · exact h
  split
  · split
    · split
      · next ht => exact h.execWres _ ht
      exact h
    split <;> exact h
  split
  · split <;> exact h
  split
  · exact h
  split
  · exact h
  split
  · split
    · next ht => exact h.execErrlog _ ht
    exact h
  split
  · split
    · next ht => exact h.execEvlog _ ht
    exact h
  exact h

theorem State.Canonical.hostReq {a : HostReq} (h : s.Canonical) : (s.hostReq a).Canonical := h.hostRead

end

/-! ### Resumption and recovery -/

section
variable {s : State} {x : Device} {c : Core} {b : Binding} {l : LaunchId} {d acc : Nat}

theorem Core.Canonical.restart {no : Nat} : (c.restart no).Canonical := by
  unfold Core.restart
  exact .setCtx Core.canonical_reset

theorem State.Canonical.forgetKill {owner lcore : Nat} (h : s.Canonical) : (s.forgetKill owner acc lcore).Canonical :=
  h.modDev fun _ hx => hx.modLaunch fun _ hl => hl

theorem State.Canonical.decideKill {owner : Nat} {k : Killed} {failed : Bool} (h : s.Canonical) :
    (s.decideKill owner acc k failed).Canonical := by
  unfold State.decideKill
  split
  · exact h
  split
  · exact h
  dsimp only
  split
  · exact h
  split
  · exact .forgetKill (h.modCore fun _ hk => hk)
  split
  · exact h.launchFault
  exact .reportRecov (.forgetKill (h.modCore fun _ _ => Core.Canonical.restart))

theorem State.Canonical.noteTest {k : Killed} {failed : Bool} (h : s.Canonical) : (s.noteTest l k failed).Canonical :=
  h.modDev fun _ hx => hx.modLaunch fun _ hl => hl

theorem State.Canonical.execSelfTestDone {c : Nat} {lasting : Bool} (h : s.Canonical) :
    Stepped.Canonical (execSelfTestDone d c lasting s) := by
  unfold Machine.execSelfTestDone
  dsimp only
  generalize (lasting || ((s.device d).island (islandOf c)).supply) = failed
  have hmark : (if failed = true then
      s.modDev d (fun x => { x with bar0 := { x.bar0 with corestat := setIns x.bar0.corestat c } }) else s).Canonical :=
    .ite (h.modDev fun _ hx => hx) h
  generalize (if failed = true then
      s.modDev d (fun x => { x with bar0 := { x.bar0 with corestat := setIns x.bar0.corestat c } }) else s) = t at hmark ⊢
  split
  · exact h.next
  split
  · exact .ite hmark.next (State.Canonical.next (hmark.modCore1 fun _ hc => hc))
  · have hcore : (t.modCore1 d c fun x => { x with killed := false }).Canonical := hmark.modCore1 fun _ hc => hc
    exact .ite (State.Canonical.next (.ite hcore hcore.noteTest)) (.ite hcore.next hcore.decideKill.next)

theorem Core.Canonical.resume {no : Nat} {old : Core} (h : c.Canonical) : (c.resume b no old).Canonical := h

theorem State.Canonical.placeSaved {l : Launch} {x : Dispatch} {cs : List (List Nat × (Nat × Nat))} (h : s.Canonical)
    (hl : l.Canonical) : (s.placeSaved d l x cs).Canonical := by
  unfold State.placeSaved
  refine List.foldlRecOn l.saved _ (motive := State.Canonical) h fun u hu q hq => ?_
  dsimp only
  split
  · exact hu
  · exact hu.setCore (hl q hq).resume

theorem State.Canonical.setCount {k node : Nat} (h : s.Canonical) : (s.setCount l b k node).Canonical := by
  unfold State.setCount
  dsimp only
  split
  · exact h
  refine .foldl (h.modDev fun _ hx => hx) fun _ _ hs => ?_
  refine hs.foldl fun _ _ ht => ?_
  split
  · exact ht.send
  exact ht

theorem State.Canonical.setCounts (h : s.Canonical) : (s.setCounts l).Canonical := by
  unfold State.setCounts
  split
  · exact h
  refine h.foldl fun _ _ hs => ?_
  split
  · split
    · exact hs.foldl fun _ _ ht => ht.setCount
    exact hs
  exact hs

theorem State.Canonical.moveColls {cs : List (Nat × Nat)} {tree : List TreeLevel} (h : s.Canonical) :
    (s.moveColls l cs tree).Canonical := h.mapDevs fun _ _ hx => hx

theorem State.Canonical.execResume {grants : List (Nat × Nat)} (h : s.Canonical) :
    Stepped.Canonical (execResume d acc grants s) := by
  unfold Machine.execResume
  dsimp only
  split
  · exact h.next
  · next hl =>
      split
      · split
        · exact h.next
        exact State.Canonical.next
          (.foldl (.setCounts
          (.moveColls
          (.modDev (.placeSaved (.mapDevs (h.foldl fun _ _ hs => hs.bindEntry) fun _ _ hx => hx) (h.device.of_launch? hl)) fun
          _ hx => .setStatus (hx.modLaunch fun _ _ => List.forall_mem_nil _)))) fun _ _ hs => hs.decideKill)
      · split
        · exact h.ownFault.next
        exact h.next
      exact h.next

theorem State.Canonical.upset {a : Upset} (h : s.Canonical) : (s.upset a).Canonical := by
  unfold State.upset
  split
  · exact h.modDev fun _ hx => hx
  · exact h.eccKill
  · exact .killCore (h.modDev fun _ hx => hx.countUnc)
  · exact .killCore (h.modDev fun _ hx => hx.countUnc)
  · exact .settleHome (h.modDev fun _ hx => hx.setLine.countUnc)
  · exact h.modDev fun _ hx => .countUnc hx
  · split
    · exact .sendAll (h.modDev fun _ hx => .countUnc hx)
    exact h
  · split
    · split
      · exact h
      exact h.setFab
    exact h
  split
  · dsimp only
    split
    · exact .launchFault (h.modDev fun _ hx => .countUnc hx)
    exact h.modDev fun _ hx => .countUnc hx
  exact h

theorem State.Canonical.execDupMismatch {core : Option Nat} (h : s.Canonical) :
    Stepped.Canonical (execDupMismatch d core s) := by
  unfold Machine.execDupMismatch
  split
  · exact h.next
  split
  · exact h.next
  split
  · split
    · exact h.killCore.next
    exact h.next
  exact State.Canonical.next (h.resetDevice.modDev fun _ hx => hx)

end

/-! ### What acts next, and the passing of time -/

section
variable {s : State} {x : Device} {c : Core} {i : Instr} {w : Who} {b : Binding} {ex : Meanings}

theorem State.Canonical.takeSlot (h : s.Canonical) : (s.takeSlot w).Canonical := h.modCore fun _ hc => hc

theorem State.Canonical.issued {before after : State} (hafter : after.Canonical) : (before.issued after w).Canonical := by
  unfold State.issued
  split
  · exact hafter.takeSlot
  exact hafter

theorem State.Canonical.issueCtx (h : s.Canonical) (hex : ∀ i s, s.Canonical → Stepped.Canonical (ex i s)) :
    Stepped.Canonical ((s.issueCtx w b).runWith ex) := by
  have hcur : State.Canonical { s with cur := w } := h
  unfold State.issueCtx
  dsimp only
  split
  · exact hex _ _ hcur
  split
  · exact hex _ _ hcur
  split
  · exact State.Canonical.next (hcur.onCtx fun _ _ hc => hc.walkI)
  · exact State.Canonical.next (hcur.onCtx fun _ _ hc => hc.takeTrap)
  · exact State.Canonical.next (hcur.onCtx fun _ _ hc => hc.envModCtx.illegalTrap)
  · exact hex _ _ hcur.modCtx

theorem State.Canonical.attempt (h : s.Canonical) (hex : ∀ i s, s.Canonical → Stepped.Canonical (ex i s)) :
    Stepped.Canonical (s.attempt ex w b) := by
  unfold State.attempt
  split
  · next u hu => exact State.Canonical.next (.issued (h.issueCtx hex u hu))
  · exact h.issueCtx hex

theorem State.Canonical.issueStage {d core : Nat} (h : s.Canonical)
    (hex : ∀ i s, s.Canonical → Stepped.Canonical (ex i s)) :
    Stepped.Canonical (s.issueStage ex d core) := by
  unfold State.issueStage
  split
  · exact h.next
  split
  · exact h.attempt hex
  · exact h.next

theorem State.Canonical.pollStage {d core n : Nat} (h : s.Canonical)
    (hex : ∀ i s, s.Canonical → Stepped.Canonical (ex i s)) :
    Stepped.Canonical (s.pollStage ex d core n) := by
  unfold State.pollStage
  split
  · exact h.next
  split
  · exact h.next
  split
  · next u hu =>
    split
    · exact h.next
    · exact State.Canonical.next (h.attempt hex u hu)
  · exact h.attempt hex

theorem State.Canonical.take {t : Option Turn} (h : s.Canonical) (hex : ∀ i s, s.Canonical → Stepped.Canonical (ex i s)) :
    Stepped.Canonical (s.take ex t) := by
  unfold State.take
  split
  · exact h.issueStage hex
  · exact h.pollStage hex
  · exact h.upset.next
  · exact h.hostReq.next
  · split
    · exact h.next
    · exact hex _ _ h
  · exact h.next

theorem State.Canonical.nextTurn (h : s.Canonical) (hex : ∀ i s, s.Canonical → Stepped.Canonical (ex i s)) :
    Stepped.Canonical (s.next ex) := State.Canonical.take (s := { s with agenda := s.agenda.drop 1 }) h hex

theorem Core.Canonical.age {k r : Nat} {saving : Bool} (h : c.Canonical) : (c.age k r saving).Canonical := h

theorem Device.Canonical.age {r : Nat} {isl : Nat → Nat} {saving : LaunchId → Bool} (h : x.Canonical) :
    (x.age r isl saving).Canonical := ⟨h.mem, List.forall_mem_map.2 fun q hq => (h.cores q hq).age, h.launches⟩

theorem State.Canonical.advance (h : s.Canonical) : s.advance.Canonical := by
  unfold State.advance
  dsimp only
  refine List.forall_mem_map.2 fun p hp => Device.Canonical.age ?_
  split at hp
  · exact h p hp
  · exact (h.foldl fun _ _ hs => hs.endFaulted) p hp

end

/-! ### Every instruction -/

section
variable {s : State} {i : Instr}

theorem State.Canonical.exec (h : s.Canonical) : Stepped.Canonical (exec i s) := by
  unfold Machine.exec
  split
  · exact h.execAdd
  · exact h.execSub
  · exact h.execMul
  · exact h.execMulh
  · exact h.execDiv
  · exact h.execRem
  · exact h.execAnd
  · exact h.execOr
  · exact h.execXor
  · exact h.execAndn
  · exact h.execShl
  · exact h.execShr
  · exact h.execSar
  · exact h.execRol
  · exact h.execMin
  · exact h.execMax
  · exact h.execAbs
  · exact h.execClz
  · exact h.execCtz
  · exact h.execPopc
  · exact h.execBrev
  · exact h.execBfx
  · exact h.execBfi
  · exact h.execSel
  · exact h.execLi
  · exact h.execLih
  · exact h.execLea
  · exact h.execCmp
  · exact h.execPand
  · exact h.execPor
  · exact h.execPxor
  · exact h.execPnot
  · exact h.execPmov
  · exact h.execBr
  · exact h.execBri
  · exact h.execCall
  · exact h.execCalli
  · exact h.execRet
  · exact h.execLoop
  · exact h.execEndK
  · exact h.execNop
  · exact h.execBbsig
  · exact h.execTrap
  · exact h.execTret
  · exact h.execHstart
  · exact h.execHexit
  · exact h.execHwait
  · exact h.execArrive
  · exact h.execWaitb
  · exact h.execSync
  · exact h.execVote
  · exact h.execVoteP
  · exact h.execRegion
  · exact h.execLd
  · exact h.execSt
  · exact h.execStn
  · exact h.execLdv
  · exact h.execStv
  · exact h.execLdvx
  · exact h.execStvx
  · exact h.execLdf
  · exact h.execStf
  · exact h.execFeq
  · exact h.execFeset
  · exact h.execPush
  · exact h.execFence
  · exact h.execJoin
  · exact h.execJoinv
  · exact h.execTread
  · exact h.execXread
  · exact h.execXreadv
  · exact h.execFrz
  · exact h.execLkind
  · exact h.execSmap
  · exact h.execSflush
  · exact h.execSdrop
  · exact h.execVadd
  · exact h.execVsub
  · exact h.execVmul
  · exact h.execVfma
  · exact h.execVmin
  · exact h.execVmax
  · exact h.execVabs
  · exact h.execVneg
  · exact h.execVdiv
  · exact h.execVsqrt
  · exact h.execVrcp
  · exact h.execVsfu
  · exact h.execViadd
  · exact h.execVisub
  · exact h.execVimul
  · exact h.execVand
  · exact h.execVor
  · exact h.execVxor
  · exact h.execVshl
  · exact h.execVshr
  · exact h.execVsar
  · exact h.execVcmp
  · exact h.execVsel
  · exact h.execVperm
  · exact h.execVshuf
  · exact h.execVbcast
  · exact h.execVext
  · exact h.execVins
  · exact h.execVred
  · exact h.execVscan
  · exact h.execVcvt
  · exact h.execVqblk
  · exact h.execVdqblk
  · exact h.execVkey
  · exact h.execVtag
  · exact h.execVmov
  · exact h.execVzero
  · exact h.execViota
  · exact h.execMlogic
  · exact h.execMclaim
  · exact h.execMrel
  · exact h.execMload
  · exact h.execMstore
  · exact h.execMband
  · exact h.execMma
  · exact h.execMswap
  · exact h.execMread
  · exact h.execMwrite
  · exact h.execMzero
  · exact h.execCpyFetch
  · exact h.execCpyPutj
  · exact h.execSend
  · exact h.execColl
  · exact h.execSemw
  · exact h.execSems
  · exact h.execSemr
  · exact h.execGarm
  · exact h.execGres
  · exact h.execEwait
  · exact h.execMfs
  · exact h.execMts
  · exact h.execClkr
  · exact h.execRngr
  · exact h.execTlbf
  · exact h.execBkpt
  · exact h.execIll
  · exact h.execRecovTake
  · exact h.execEgressRelease
  · exact h.execRegionTooLong
  · exact h.execPairRegionLimit
  · exact h.execParkTimeout
  · exact h.execBarrierRelease
  · exact h.execAckArrival
  · exact h.execRsuJoin
  · exact h.execRsuThresholdRead
  · exact h.execRsuExactRead
  · exact h.execRsuFreeze
  · exact h.execFreezeAck
  · exact h.execWake
  · exact h.execParkRetry
  · exact h.execRouterJoinMerge
  · exact h.execRouterCombineTimeout
  · exact h.execSwitchJoinHoldTimeout
  · exact h.execWalkComplete
  · exact h.execStashFill
  · exact h.execPushLanding
  · exact h.execHeldLandingRelease
  · exact h.execEngineCmdHead
  · exact h.execEngineCmdComplete
  · exact h.execCpyFetchLine
  · exact h.execMswapExchange
  · exact h.execCollLatticeWait
  · exact h.execCollSourceCopy
  · exact h.execCollReserveHop
  · exact h.execCollReserveRetry
  · exact h.execCollHopPacket
  · exact h.execReduceSlotTimeout
  · exact h.execFallbackReduce
  · exact h.execFabricPacketReceive
  · exact h.execSwitchForward
  · exact h.execFabricAck
  · exact h.execReplayTimeout
  · exact h.execSeqReset
  · exact h.execLinkDown
  · exact h.execRouteVersion
  · exact h.execSwitchTableInstall
  · exact h.execDeviceLost
  · exact h.execHostWrite
  · exact h.execObsRead
  · exact h.execQadd
  · exact h.execQdel
  · exact h.execQueueMap
  · exact h.execQueueUnmap
  · exact h.execWidx
  · exact h.execWres
  · exact h.execDbell
  · exact h.execQresume
  · exact h.execLabort
  · exact h.execPacketTake
  · exact h.execCommandAccept
  · exact h.execLaunch
  · exact h.execCopy
  · exact h.execCmdColl
  · exact h.execWait
  · exact h.execCmdJoin
  · exact h.execFreeze
  · exact h.execReclaim
  · exact h.execGraph
  · exact h.execCond
  · exact h.execCmdLoop
  · exact h.execMark
  · exact h.execFlush
  · exact h.execCommandComplete
  · exact h.execLaunchBind
  · exact h.execRemoteCoreReserve
  · exact h.execRootSyncRelease
  · exact h.execLaunchComplete
  · exact h.execPreempt
  · exact h.execResume
  · exact h.execSelfTestDone
  · exact h.execDupMismatch
  · exact h.execEccinj
  · exact h.execErrlog
  · exact h.execEvlog
  · exact h.execColdReset
  · exact h.execReset
  · exact h.execFwctlGo
  · exact h.execFwUpdateDone
  · exact h.execKeysel
  · exact h.execCseminc
  · exact h.execIslset
  · exact h.execFreqChangeDone
  · exact h.execPowerWindow
  · exact h.execThermalCeil
  · exact h.execThermalClear
  · exact h.execThermalTrip
  · exact h.execSupplyFault
  · exact h.execRegWrite
  · exact h.execSyswinWrite
  · exact h.execObsWrite
  · exact h.execTdispRequest
  · exact h.execSpdmRequest
  · exact h.execFlitCrcError
  · exact h.execLaneLockLoss
  · exact h.execLaneLockRegain
  exact h.execIslandSupplyReturn

end

/-! ### The step -/

section
variable {s : State}

theorem State.Canonical.step (h : s.Canonical) : Stepped.Canonical (step s) := by
  unfold Machine.step
  split
  · next u hu => exact (h.nextTurn (fun _ _ hs => hs.exec) u hu).advance.next
  · exact Stepped.canonical_fault
  · exact Stepped.canonical_refused

end

end Sys2Proof.Machine

open Sys2Proof.Machine in
/-- Settles O60: every part of a step keeps the canonical form of every memory, so the step does. -/
theorem stepKeepsMemoryCanonical : Obligations.StepKeepsMemoryCanonical := fun _ _ h hu => h.step _ hu

/-! # Launches: bound, started, completed, pre-empted, resumed (O52)

What an operation leaves of every device is stated by `State.Keeps`, for any part of a device; what holds of every core of the
machine by `State.EachCore`. No statement here supposes that the keys of a map are in order. -/

namespace Sys2Proof.Machine
open Sys2Proof

/-! ## Maps whose values are changed -/

theorem aget_map {α : Type} {g : Nat × α → Nat × α} (hg : ∀ p, (g p).1 = p.1) (m : AMap α) (a : Nat) :
    aget (m.map g) a = (aget m a).map (fun v => (g (a, v)).2) := by
  induction m with
  | nil => rfl
  | cons p t ih =>
    obtain ⟨k, v⟩ := p
    by_cases h : k = a
    · simp [aget, hg, h]
    · simp [aget, hg, h, ih]

theorem mem_of_aget {α : Type} {m : AMap α} {a : Nat} {v : α} (h : aget m a = some v) : (a, v) ∈ m := by
  induction m with
  | nil => simp [aget] at h
  | cons p t ih =>
    obtain ⟨k, w⟩ := p
    simp only [aget] at h
    split at h
    · next e => simp_all
    · exact List.mem_cons_of_mem _ (ih h)

theorem eq_or_mem_of_mem_aset {α : Type} {m : AMap α} {a : Nat} {v : α} {q : Nat × α} (h : q ∈ aset m a v) :
    q = (a, v) ∨ q ∈ m := by
  induction m with
  | nil => simpa [aset] using h
  | cons p t ih =>
    simp only [aset] at h
    split at h
    · simpa using h
    · split at h
      · simp only [List.mem_cons] at h ⊢
        tauto
      · simp only [List.mem_cons] at h ⊢
        rcases h with h | h
        · exact .inr (.inl h)
        · exact (ih h).imp_right .inr

/-! ## What an operation leaves of every device -/

/-- u has of every device what s has of it, as far as f shows. -/
structure State.Keeps {α : Type} (f : Device → α) (s u : State) : Prop where
  device : ∀ d, f (u.device d) = f (s.device d)

section
variable {α : Type} {f : Device → α} {s t u : State}

theorem State.Keeps.refl (s : State) : State.Keeps f s s := ⟨fun _ => rfl⟩

theorem State.Keeps.trans (h : State.Keeps f s t) (k : State.Keeps f t u) : State.Keeps f s u :=
  ⟨fun d => (k.device d).trans (h.device d)⟩

theorem State.Keeps.of_devs (h : u.devs = s.devs) : State.Keeps f s u :=
  ⟨fun d => by simp [State.device, h]⟩

theorem State.Keeps.withNet {n : List Msg} (h : State.Keeps f s t) : State.Keeps f s { t with net := n } :=
  h.trans (.of_devs rfl)

theorem State.keeps_modDev (s : State) (d : Nat) {g : Device → Device}
    (hg : ∀ x, f (g x) = f x := by exact fun _ => rfl) : State.Keeps f s (s.modDev d g) := by
  refine ⟨fun e => ?_⟩
  by_cases he : e = d
  · subst he
    cases hx : aget s.devs e with
    | none => simp [State.modDev, hx]
    | some x => rw [State.device_modDev hx, State.device_of hx, hg]
  · rw [State.device_modDev_ne s g he]

theorem State.aget_mapDevs (s : State) (g : Nat → Device → Device) (d : Nat) :
    aget (s.mapDevs g).devs d = (aget s.devs d).map (g d) :=
  aget_map (g := fun p => (p.1, g p.1 p.2)) (fun _ => rfl) s.devs d

theorem State.device_mapDevs {d : Nat} {x : Device} (h : aget s.devs d = some x) (g : Nat → Device → Device) :
    (s.mapDevs g).device d = g d x := State.device_of (by rw [State.aget_mapDevs, h]; rfl)

theorem State.keeps_mapDevs (s : State) {g : Nat → Device → Device}
    (hg : ∀ d x, f (g d x) = f x := by exact fun _ _ => rfl) : State.Keeps f s (s.mapDevs g) := by
  refine ⟨fun d => ?_⟩
  cases hx : aget s.devs d with
  | none => simp [State.device, State.aget_mapDevs, hx]
  | some x => rw [State.device_mapDevs hx, State.device_of hx, hg]

theorem State.keeps_foldl {β : Type} {g : State → β → State} (hg : ∀ s b, State.Keeps f s (g s b)) (l : List β)
    (s : State) : State.Keeps f s (l.foldl g s) :=
  List.foldlRecOn l g (motive := State.Keeps f s) (.refl s) fun _ h b _ => h.trans (hg _ b)

section
variable (hf : ∀ x m, f { x with cores := m } = f x)
include hf

theorem State.keeps_setCore (s : State) (d c : Nat) (k : Core) : State.Keeps f s (s.setCore d c k) :=
  s.keeps_modDev d fun _ => hf _ _

theorem State.keeps_modCore (s : State) (d c : Nat) (g : Core → Core) : State.Keeps f s (s.modCore d c g) := by
  unfold State.modCore State.modCore1
  split
  · split
    · exact (s.keeps_setCore hf ..).trans (State.keeps_setCore hf ..)
    · exact s.keeps_setCore hf ..
  · exact s.keeps_setCore hf ..

theorem State.keeps_reportRecov (s : State) (b : Binding) (v : Word) : State.Keeps f s (s.reportRecov b v) := by
  unfold State.reportRecov
  split
  · exact s.keeps_modCore hf ..
  · exact .refl s

end

end

/-! ## The launches of a device -/

section
variable {s : State} {x y : Device} {d a : Nat} {l : Launch}

@[simp] theorem Device.launches_journal (x : Device) (acc e v : Nat) : (x.journal acc e v).launches = x.launches := by
  unfold Device.journal; dsimp only; split <;> rfl

@[simp] theorem Device.cores_journal (x : Device) (acc e v : Nat) : (x.journal acc e v).cores = x.cores := by
  unfold Device.journal; dsimp only; split <;> rfl

@[simp] theorem Device.cores_modLaunch (x : Device) (acc : Nat) (f : Launch → Launch) : (x.modLaunch acc f).cores = x.cores := rfl

@[simp] theorem Device.cores_setStatus (x : Device) (acc code : Nat) : (x.setStatus acc code).cores = x.cores := by
  unfold Device.setStatus
  split
  · simp
  · rfl

@[simp] theorem Device.launches_noteSpill (x : Device) : x.noteSpill.launches = x.launches := by
  unfold Device.noteSpill Device.logEv Device.raise
  repeat' split
  all_goals rfl

theorem Device.launch?_congr (h : y.launches = x.launches) (a : Nat) : y.launch? a = x.launch? a := by
  simp [Device.launch?, h]

/-- The launches of a device after those of one accession number are changed, and their number is not. -/
theorem Device.launch?_modLaunch (x : Device) {f : Launch → Launch} (hf : ∀ m, (f m).acc = m.acc) (b a : Nat) :
    (x.modLaunch b f).launch? a = (x.launch? a).map (fun m => if m.acc == b then f m else m) := by
  have hp : ((fun m : Launch => m.acc == a) ∘ fun m => if m.acc == b then f m else m) = fun m => m.acc == a := by
    funext m
    simp only [Function.comp]
    split <;> simp [hf]
  simp only [Device.launch?, Device.modLaunch, List.find?_map, hp]

theorem Device.acc_of_launch? (h : x.launch? a = some l) : l.acc = a := by simpa using List.find?_some h

theorem Device.launch?_modLaunch_self {f : Launch → Launch} (h : x.launch? a = some l)
    (hf : ∀ m, (f m).acc = m.acc := by exact fun _ => rfl) : (x.modLaunch a f).launch? a = some (f l) := by
  simp [Device.launch?_modLaunch x hf, h, Device.acc_of_launch? h]

theorem Device.launch?_setStatus (h : x.launch? a = some l) (code : Nat) :
    (x.setStatus a code).launch? a = some { l with code := code } := by
  unfold Device.setStatus
  rw [h]
  dsimp only
  rw [Device.launch?_congr (Device.launches_journal ..)]
  exact Device.launch?_modLaunch_self h

/-- A launch lies on a device that exists. -/
theorem State.aget_of_launch? (h : (s.device d).launch? a = some l) : aget s.devs d = some (s.device d) := by
  cases hx : aget s.devs d with
  | none => simp [State.device, hx, Device.reset, Device.launch?] at h
  | some x => rw [State.device_of hx]

/-- A change of the device that holds a launch. -/
theorem State.device_modDev_of_launch? (h : (s.device d).launch? a = some l) (f : Device → Device) :
    (s.modDev d f).device d = f (s.device d) := State.device_modDev (State.aget_of_launch? h) f

/-- A change of a launch that raises its status. -/
theorem State.launch?_raise {f : Launch → Launch} (h : (s.device d).launch? a = some l) (code : Nat)
    (hf : ∀ m, (f m).acc = m.acc := by exact fun _ => rfl) :
    ((s.modDev d (fun x => (x.modLaunch a f).setStatus a code)).device d).launch? a = some { f l with code := code } := by
  rw [State.device_modDev_of_launch? h]
  exact Device.launch?_setStatus (Device.launch?_modLaunch_self h hf) code

theorem State.Keeps.launch? {u : State} (h : State.Keeps Device.launches s u) (d a : Nat) :
    (u.device d).launch? a = (s.device d).launch? a := Device.launch?_congr (h.device d) a

end

/-! ## Operations that leave every launch as it is -/

section
variable (s : State)

theorem State.keeps_launches_bindEntry (l : LaunchId) (st : Nat) (p : Nat × Nat) :
    State.Keeps Device.launches s (s.bindEntry l st p) := s.keeps_modDev _

theorem State.keeps_launches_noteWalk (here die asid : Nat) (va : Word) :
    State.Keeps Device.launches s (s.noteWalk here die asid va) := by
  unfold State.noteWalk
  split
  · exact .refl s
  split
  · split
    · exact .refl s
    · exact s.keeps_modDev _
  · split
    · exact s.keeps_modDev _
    · exact .refl s

theorem State.keeps_launches_fabAccept (src : Nat) (e : Sent) : State.Keeps Device.launches s (s.fabAccept src e) := by
  have h (o : Device → AMap Nat) (e : Sent) : State.Keeps Device.launches s
      (s.modDev src fun x => Device.noteSpill { x with seqOut := o x, store := x.store ++ [e] }) :=
    s.keeps_modDev src fun _ => Device.launches_noteSpill _
  unfold State.fabAccept
  dsimp only
  split
  · exact (h _ _).trans (.of_devs rfl)
  split
  · exact h _ _
  · exact (h _ _).trans (.of_devs rfl)

theorem State.keeps_launches_send (src dst : Nat) (weights : BitVec 24) (body : Body) :
    State.Keeps Device.launches s (s.send src dst weights body) := by
  unfold State.send State.fabSend
  split
  · exact .of_devs rfl
  dsimp only
  split
  · exact s.keeps_modDev _
  · exact s.keeps_launches_fabAccept ..

theorem State.keeps_launches_loadCores (d : Nat) (l : Launch) (x : Dispatch) (cs : List (List Nat × (Nat × Nat))) :
    State.Keeps Device.launches s (s.loadCores d l x cs) := by
  refine State.keeps_foldl (fun s c => ?_) _ s
  dsimp only
  split
  · exact (s.keeps_setCore (fun _ _ => rfl) ..).trans (State.keeps_setCore (fun _ _ => rfl) ..)
  · exact s.keeps_setCore (fun _ _ => rfl) ..

theorem State.keeps_launches_placeSaved (d : Nat) (l : Launch) (x : Dispatch) (cs : List (List Nat × (Nat × Nat))) :
    State.Keeps Device.launches s (s.placeSaved d l x cs) := by
  refine State.keeps_foldl (fun s q => ?_) _ s
  dsimp only
  split
  · exact .refl s
  · exact s.keeps_setCore (fun _ _ => rfl) ..

theorem State.keeps_launches_setCount (l : LaunchId) (b : Binding) (k node : Nat) :
    State.Keeps Device.launches s (s.setCount l b k node) := by
  unfold State.setCount
  dsimp only
  split
  · exact .refl s
  refine .trans (s.keeps_modDev _) (State.keeps_foldl (fun s e => State.keeps_foldl (fun s i => ?_) _ s) _ _)
  split
  · exact s.keeps_launches_send ..
  · exact .refl s

theorem State.keeps_launches_moveColls (l : LaunchId) (cs : List (Nat × Nat)) (tree : List TreeLevel) :
    State.Keeps Device.launches s (s.moveColls l cs tree) := by
  unfold State.moveColls
  exact s.keeps_mapDevs

theorem State.keeps_launches_setCounts (l : LaunchId) : State.Keeps Device.launches s (s.setCounts l) := by
  unfold State.setCounts
  split
  · exact .refl s
  refine State.keeps_foldl (fun s k => ?_) _ s
  split
  · split
    · exact State.keeps_foldl (fun s n => s.keeps_launches_setCount ..) _ s
    · exact .refl s
  · exact .refl s

end

/-! ## What holds of every core -/

/-- P holds of every core of the machine, with its device's number and its own. -/
def State.EachCore (P : Nat → Nat → Core → Prop) (s : State) : Prop := ∀ p ∈ s.devs, ∀ q ∈ p.2.cores, P p.1 q.1 q.2

section
variable {P : Nat → Nat → Core → Prop} {s : State}

theorem State.EachCore.core (h : s.EachCore P) {e c : Nat} (hr : P e c Core.reset) : P e c (s.core e c) := by
  unfold State.core State.device Device.core
  cases hx : aget s.devs e with
  | none => simpa [Device.reset, aget] using hr
  | some x =>
    cases hk : aget x.cores c with
    | none => simpa [hk] using hr
    | some k => simpa [hk] using h _ (mem_of_aget hx) _ (mem_of_aget hk)

theorem State.EachCore.modDev (h : s.EachCore P) (d : Nat) {f : Device → Device}
    (hf : ∀ x, (d, x) ∈ s.devs → ∀ q ∈ (f x).cores, P d q.1 q.2) : (s.modDev d f).EachCore P := by
  unfold State.modDev State.setDevice
  split
  · next x hx =>
    intro p hp
    rcases eq_or_mem_of_mem_aset hp with rfl | hp
    · exact hf x (mem_of_aget hx)
    · exact h p hp
  · exact h

/-- A change of a device that leaves its cores. -/
theorem State.EachCore.modDev_same (h : s.EachCore P) (d : Nat) {f : Device → Device}
    (hf : ∀ x, (f x).cores = x.cores := by exact fun _ => rfl) : (s.modDev d f).EachCore P :=
  h.modDev d fun x hx => by rw [hf]; exact h _ hx

theorem State.eachCore_mapDevs {f : Nat → Device → Device} (hf : ∀ p ∈ s.devs, ∀ q ∈ (f p.1 p.2).cores, P p.1 q.1 q.2) :
    (s.mapDevs f).EachCore P := by
  intro p hp
  obtain ⟨p', hp', rfl⟩ := List.mem_map.1 hp
  exact hf p' hp'

/-- A change of every device that leaves their cores. -/
theorem State.EachCore.mapDevs_same (h : s.EachCore P) {f : Nat → Device → Device}
    (hf : ∀ d x, (f d x).cores = x.cores := by exact fun _ _ => rfl) : (s.mapDevs f).EachCore P :=
  State.eachCore_mapDevs fun p hp => by rw [hf]; exact h p hp

/-- A change of every core by a function of its number and itself. -/
theorem State.EachCore.mapCores (h : s.EachCore P) {f : Nat → Device → Device}
    {g : Nat → Device → Nat × Core → Nat × Core} (hf : ∀ d x, (f d x).cores = x.cores.map (g d x))
    (hg : ∀ d x q, P d q.1 q.2 → P d (g d x q).1 (g d x q).2) : (s.mapDevs f).EachCore P :=
  State.eachCore_mapDevs fun p hp => by rw [hf]; exact List.forall_mem_map.2 fun q hq => hg _ _ _ (h p hp q hq)

theorem State.EachCore.setCore (h : s.EachCore P) {d c : Nat} {k : Core} (hk : P d c k) : (s.setCore d c k).EachCore P :=
  h.modDev d fun _ hx q hq => by
    rcases eq_or_mem_of_mem_aset hq with rfl | hq
    · exact hk
    · exact h _ hx q hq

theorem State.EachCore.modCore1 (h : s.EachCore P) {d c : Nat} {f : Core → Core} (hr : P d c Core.reset)
    (hf : ∀ k, P d c k → P d c (f k)) : (s.modCore1 d c f).EachCore P := h.setCore (hf _ (h.core hr))

theorem State.EachCore.modCore (h : s.EachCore P) {d c : Nat} {f : Core → Core} (hr : ∀ e n, P e n Core.reset)
    (hf : ∀ e n k, P e n k → P e n (f k)) : (s.modCore d c f).EachCore P := by
  unfold State.modCore
  split
  · split
    · exact (h.modCore1 (hr _ _) (hf _ _)).modCore1 (hr _ _) (hf _ _)
    · exact h.modCore1 (hr _ _) (hf _ _)
  · exact h.modCore1 (hr _ _) (hf _ _)

theorem State.EachCore.foldl {β : Type} {g : State → β → State} (h : s.EachCore P)
    (hg : ∀ s b, s.EachCore P → (g s b).EachCore P) (l : List β) : (l.foldl g s).EachCore P :=
  List.foldlRecOn l g (motive := State.EachCore P) h fun s hs b _ => hg s b hs

theorem State.mem_coresOf {l : LaunchId} {e c : Nat} {k : Core} :
    (e, c, k) ∈ s.coresOf l ↔ ∃ x, (e, x) ∈ s.devs ∧ (c, k) ∈ x.cores ∧ ∃ b, k.bound = some b ∧ b.launch = l := by
  simp only [State.coresOf, List.mem_flatMap, List.mem_filterMap, Prod.exists]
  constructor
  · rintro ⟨e', x, hx, c', k', hk, h⟩
    split at h
    · next b hb =>
      split at h
      · next hl =>
        simp only [Option.some.injEq, Prod.mk.injEq] at h
        obtain ⟨rfl, rfl, rfl⟩ := h
        exact ⟨x, hx, hk, b, hb, hl⟩
      · simp at h
    · simp at h
  · rintro ⟨x, hx, hk, b, hb, hl⟩
    exact ⟨e, x, hx, c, k, hk, by simp [hb, hl]⟩

end

/-! ## Binding (R15, R329 to R331) -/

/-- Firmware marks the last grant of launch l, which waits for cores and whose turn it is. -/
structure BindTurn (s : State) (d : Nat) (l : Launch) (gs : List (Nat × Nat)) : Prop where
  waits : (s.device d).waits l = true
  binds : s.reclaimed l.asid = false
  grants : s.grantsOk d l gs = true
  turn : s.itsTurn d l = true

section
variable {s : State} {d a : Nat} {l : Launch} {gs : List (Nat × Nat)}

/-- At its turn a launch becomes what dispatch says. -/
theorem exec_launchBind (hl : (s.device d).launch? a = some l) (hc : l.code = 1) (h : BindTurn s d l gs) :
    (∀ y cs, s.dispatch d l gs = .ok (some (y, cs)) → exec (.launchBind d a gs) s = .next (s.bindNow d l y cs gs))
    ∧ (s.dispatch d l gs = .ok none → exec (.launchBind d a gs) s = .next s)
    ∧ ∀ t, s.dispatch d l gs = .error t → exec (.launchBind d a gs) s = .next
      ((if t.aux == BitVec.ofNat 64 Cause.memUncorr then s.noteWalk d pd0 l.asid t.addr else s).ownFault
        d a 2 t.cause t.addr t.aux) := by
  have he : exec (.launchBind d a gs) s = execLaunchBind d a gs s := rfl
  obtain ⟨hw, hr, hg, ht⟩ := h
  refine ⟨fun y cs hd => ?_, fun hd => ?_, fun t hd => ?_⟩ <;>
    simp [he, execLaunchBind, hl, hc, hw, hr, hg, ht, hd]

/-- Before its turn a launch is not bound (R331). -/
theorem exec_launchBind_early (hl : (s.device d).launch? a = some l) (h : s.itsTurn d l = false) :
    exec (.launchBind d a gs) s = .next s := by
  show execLaunchBind d a gs s = .next s
  simp [execLaunchBind, hl, h]

/-- A launch that is bound: status 2, with its tree, its plan and its cores. -/
theorem State.launch?_bindNow (hl : (s.device d).launch? l.acc = some l) (x : Dispatch) (cs : List (List Nat × (Nat × Nat))) :
    ((s.bindNow d l x cs gs).device d).launch? l.acc = some { l with
      hdr := some x.hdr, tree := x.tree, plan := some x.plan, cores := cs.map (·.2), ndev := devsOfCores (cs.map (·.2))
      code := 2 } := by
  unfold State.bindNow
  extract_lets id t u v
  have hk : State.Keeps Device.launches s v :=
    .trans (.trans (State.keeps_foldl (fun s p => s.keeps_launches_bindEntry ..) gs s)
      (State.keeps_mapDevs t)) (u.keeps_launches_loadCores ..)
  have hv : (v.device d).launch? l.acc = some l := (hk.launch? d l.acc).trans hl
  rw [State.device_modDev_of_launch? hv]
  exact Device.launch?_setStatus (Device.launch?_modLaunch_self hv) 2

/-- A launch whose cores pass every check of dispatch is bound to them, at status 2. -/
theorem exec_launchBind_bound (hl : (s.device d).launch? l.acc = some l) (hc : l.code = 1) (h : BindTurn s d l gs) {x : Dispatch}
    {cs : List (List Nat × (Nat × Nat))} (hd : s.dispatch d l gs = .ok (some (x, cs))) :
    ∃ u, exec (.launchBind d l.acc gs) s = .next u ∧ ((u.device d).launch? l.acc).map (·.code) = some 2
      ∧ ((u.device d).launch? l.acc).map (·.cores) = some (cs.map (·.2)) := by
  have hu := State.launch?_bindNow (gs := gs) hl x cs
  exact ⟨_, (exec_launchBind hl hc h).1 x cs hd, congrArg (Option.map _) hu, congrArg (Option.map _) hu⟩

/-- A fault of a launch that has none yet, and has not ended, is noted with its cause, source and detail. -/
theorem State.noted_ownFault (hl : Runs s d l.acc l) (src cause : Nat) (taddr taux : Word) :
    ∃ f, Noted (s.ownFault d l.acc src cause taddr taux) d l f ∧ f.cause = cause ∧ f.src = src ∧ f.taddr = taddr
      ∧ f.taux = taux := by
  obtain ⟨hl, h14, h15, hf⟩ := hl
  let r := ((s.device d).launchRun l.acc).map (·.2) |>.filter (fun r => r.hdr != 0)
  refine ⟨{ launchCause src cause 0 ((r.map (·.hdr)).getD 0) taddr taux with tpc := BitVec.ofNat 64 ((r.map (·.idx)).getD 0) },
    ?_, rfl, rfl, rfl, rfl⟩
  unfold Noted State.ownFault State.launchFault
  simp only [hl, h14, h15, hf, beq_iff_eq, Bool.or_eq_true, or_self, if_false]
  rw [State.device_modDev_of_launch? hl]
  exact Device.launch?_modLaunch_self hl

/-- A check of dispatch that fails faults the launch (R330). -/
theorem exec_launchBind_fault (hl : Runs s d l.acc l) (hc : l.code = 1) (h : BindTurn s d l gs) {t : Trap}
    (hd : s.dispatch d l gs = .error t) :
    ∃ u f, exec (.launchBind d l.acc gs) s = .next u ∧ Noted u d l f ∧ f.cause = t.cause ∧ f.src = 2 ∧ f.taddr = t.addr
      ∧ f.taux = t.aux := by
  have hk {u : State} (hu : State.Keeps Device.launches s u) : Runs u d l.acc l := by
    unfold Runs
    rwa [hu.launch?]
  have hn : Runs (if t.aux == BitVec.ofNat 64 Cause.memUncorr then s.noteWalk d pd0 l.asid t.addr else s) d l.acc l := by
    split
    · exact hk (s.keeps_launches_noteWalk ..)
    · exact hl
  obtain ⟨f, hf⟩ := State.noted_ownFault hn 2 t.cause t.addr t.aux
  exact ⟨_, f, (exec_launchBind hl.1 hc h).2.2 t hd, hf⟩

/-- Another device reserves a free core for a launch that lives (R329). -/
theorem exec_remoteCoreReserve {e c : Nat} {y : Device} (he : aget s.devs e = some y) (hne : e ≠ d)
    (ha : s.alive ⟨d, a⟩ = true) (hf : y.coreFree c = true) (hb : aget y.bind c = none) :
    ∃ u, exec (.remoteCoreReserve e ⟨d, a⟩ [c]) s = .next u ∧ aget (u.device e).bind c = some ⟨a, 1, d⟩
      ∧ (u.device e).remote = y.remote ++ [(⟨d, a⟩, [c])] ∧ u.device d = s.device d := by
  have hx : exec (.remoteCoreReserve e ⟨d, a⟩ [c]) s = .next ((s.bindEntry ⟨d, a⟩ 1 (e, c)).modDev e (fun x =>
      { x with remote := x.remote ++ [(⟨d, a⟩, [c])] })) := by
    show execRemoteCoreReserve e ⟨d, a⟩ [c] s = _
    simp [execRemoteCoreReserve, State.device_of he, hne, ha, hf, hb, List.eraseDups_cons]
  refine ⟨_, hx, ?_⟩
  unfold State.bindEntry
  rw [State.modDev_modDev, State.device_modDev he, State.device_modDev_ne s _ hne.symm]
  simp

/-! ## The root SYNC and completion (R15 steps 6 and 7) -/

theorem State.core_mapCores {id : LaunchId} {e c : Nat} {b : Binding} (h : (s.core e c).bound = some b) (hb : b.launch = id)
    (f : Core → Core) : (s.mapCores id f).core e c = f (s.core e c) := by
  have he := State.aget_of_bound h
  have hg : aget (s.device e).cores c = some (s.core e c) := by
    unfold State.core Device.core at h ⊢
    cases hk : aget (s.device e).cores c with
    | none => simp [hk, Core.reset] at h
    | some k => rfl
  unfold State.mapCores
  rw [State.core, State.device_mapDevs he, Device.core, aget_map, hg]
  · simp [h, hb]
  · intro p
    split
    · split <;> rfl
    · rfl

theorem State.core_modDev_same (s : State) (d : Nat) {f : Device → Device} (hf : ∀ x, (f x).cores = x.cores) (e c : Nat) :
    (s.modDev d f).core e c = s.core e c := by
  have h := (s.keeps_modDev d hf).device e
  simp [State.core, Device.core, h]

/-- The release of the root SYNC raises a bound launch to status 3 and is seen at each of its cores. -/
theorem exec_rootSyncRelease (hl : (s.device d).launch? a = some l) (hf : l.fault = none) (hc : l.code = 2) :
    ∃ u, exec (.rootSyncRelease d a) s = .next u ∧ ((u.device d).launch? a).map (·.code) = some 3
      ∧ ∀ e c b, (s.core e c).bound = some b → b.launch = ⟨d, a⟩ → (u.core e c).rooted = true := by
  have hx : exec (.rootSyncRelease d a) s = .next ((s.mapCores ⟨d, a⟩ (fun c => { c with rooted := true })).modDev d
      (fun x => (x.modLaunch a (fun l => { l with rooted := true })).setStatus a 3)) := by
    show execRootSyncRelease d a s = _
    simp [execRootSyncRelease, hl, hc, hf]
  have hk : State.Keeps Device.launches s (s.mapCores ⟨d, a⟩ (fun c => { c with rooted := true })) :=
    s.keeps_mapDevs
  have hv := (hk.launch? d a).trans hl
  refine ⟨_, hx, ?_, fun e c b hb hbl => ?_⟩
  · exact congrArg (Option.map _) (State.launch?_raise hv 3)
  · rw [State.core_modDev_same _ _ (by simp), State.core_mapCores hb hbl]

/-- A core that holds no binding of a launch. -/
def Core.FreeOf (id : LaunchId) (k : Core) : Prop := ∀ b, k.bound = some b → b.launch ≠ id

theorem Core.freeOf_of_unbound {id : LaunchId} {k : Core} (h : k.bound = none) : k.FreeOf id := by
  unfold Core.FreeOf; simp [h]

theorem Device.freeOf_freeLaunch {id : LaunchId} (x : Device) : ∀ q ∈ (x.freeLaunch id).cores, q.2.FreeOf id := by
  unfold Device.freeLaunch
  refine List.forall_mem_map.2 fun q hq => ?_
  split
  · exact Core.freeOf_of_unbound rfl
  · next h =>
    intro b hb hbl
    refine h (List.contains_iff_mem.2 (List.mem_filterMap.2 ⟨q, hq, ?_⟩))
    simp [hb, hbl]

/-- A launch whose control contexts have ended and that has no collective left is complete, and its cores are free. -/
theorem exec_launchComplete (hl : (s.device d).launch? a = some l) (hf : l.fault = none) (hc : l.code = 3)
    (he : s.allEnded l = true) (hn : s.collsOf ⟨d, a⟩ = []) :
    ∃ u, exec (.launchComplete d a) s = .next u ∧ ((u.device d).launch? a).map (·.code) = some 14
      ∧ ∀ e c b, (u.core e c).bound = some b → b.launch ≠ ⟨d, a⟩ := by
  let v := (s.mapDevs (fun _ x => x.freeLaunch ⟨d, a⟩)).modDev d (fun x => ((x.journal a 7 x.clk).setStatus a 14).freeArea a)
  have hv : (v.device d).launch? a = some { l with code := 14 } := by
    have hk : State.Keeps Device.launches s (s.mapDevs (fun _ x => x.freeLaunch ⟨d, a⟩)) := s.keeps_mapDevs
    have hm := (hk.launch? d a).trans hl
    rw [State.device_modDev_of_launch? hm]
    exact Device.launch?_setStatus ((Device.launch?_congr (Device.launches_journal ..) a).trans hm) 14
  have hfree : v.EachCore (fun _ _ k => k.FreeOf ⟨d, a⟩) :=
    (State.eachCore_mapDevs fun p _ => p.2.freeOf_freeLaunch).modDev_same d fun x =>
      (Device.cores_setStatus ..).trans (Device.cores_journal ..)
  have hx : exec (.launchComplete d a) s = match (v.device d).launchRun a with
      | some (t, r) => .next (v.setRun d t { r with finished := true })
      | none => .next v := by
    show execLaunchComplete d a s = _
    simp only [execLaunchComplete, hl, hf, hc, he, hn]
    rfl
  cases hr : (v.device d).launchRun a with
  | none => exact ⟨v, by rw [hx, hr], by rw [hv]; rfl, fun e c => hfree.core (Core.freeOf_of_unbound rfl)⟩
  | some p =>
    obtain ⟨t, r⟩ := p
    have hk : State.Keeps Device.launches v (v.setRun d t { r with finished := true }) := v.keeps_modDev d
    refine ⟨v.setRun d t { r with finished := true }, by rw [hx, hr], by rw [hk.launch?, hv]; rfl, fun e c => ?_⟩
    exact (hfree.modDev_same d).core (Core.freeOf_of_unbound rfl)

end

/-! ## Pre-emption (R44, R45, R407) -/

/-- A core all of whose live contexts a pre-emption has stopped, with empty engine queues and no injected error. -/
structure Core.Halted (k : Core) : Prop where
  stopped : ∀ n, n < 11 → (k.ctx n).st.live = true → (k.ctx n).pre = .stopped
  mx : k.mx = []
  cx : k.cx = []
  eccS : k.eccS = []
  eccV : k.eccV = []

/-- A core of a launch that can be saved as it is: it is killed, or it has halted and its island's clock runs. -/
def Core.ReadyToSave (id : LaunchId) (clocked : Nat → Nat → Bool) (e c : Nat) (k : Core) : Prop :=
  (∃ b, k.bound = some b ∧ b.launch = id) → k.killed = true ∨ clocked e (islandOf c) = true ∧ k.Halted

section
variable {id : LaunchId} {clocked : Nat → Nat → Bool} {e c : Nat} {k : Core}

/-- A pre-emption leaves a context that it has stopped already, or that does not run. -/
theorem Core.preempt_of_stopped {n : Nat} (h : (k.ctx n).st.live = true → (k.ctx n).pre = .stopped) : k.preempt n = k := by
  unfold Core.preempt
  cases hl : (k.ctx n).st.live with
  | false => simp [hl]
  | true => simp [hl, h hl]

theorem Core.Halted.preempt (h : k.Halted) : (List.range 11).foldl Core.preempt k = k :=
  List.foldlRecOn (List.range 11) Core.preempt (motive := (· = k)) rfl fun _ hk n hn => by
    subst hk
    exact Core.preempt_of_stopped (h.stopped n (List.mem_range.1 hn))

theorem Core.Halted.saveable (h : k.Halted) : k.saveable = true := by
  simp only [Core.saveable, h.mx, h.cx, List.append_nil, List.all_nil, Bool.and_true, Bool.or_eq_true, List.all_eq_true]
  refine .inr fun x hx => ?_
  obtain ⟨n, hn, rfl⟩ := Vector.mem_iff_getElem.1 (Vector.mem_toList_iff.1 hx)
  have hs := h.stopped n hn
  simp only [Core.ctx, hn, dif_pos] at hs
  cases hl : k.ctxs[n].st.live with
  | false => simp
  | true => simp [hs hl]

theorem Core.Halted.eccSave (h : k.Halted) : k.eccSave = false := by
  simp [Core.eccSave, Core.eccLive, h.eccS, h.eccV]

theorem Core.readyToSave_of_killed (h : k.killed = true) : k.ReadyToSave id clocked e c := fun _ => .inl h

theorem Core.readyToSave_reset : Core.reset.ReadyToSave id clocked e c := by
  rintro ⟨b, hb, -⟩
  cases hb

/-- A change of a core that keeps its binding, its death and its halt. -/
theorem Core.ReadyToSave.of_same {k' : Core} (h : k.ReadyToSave id clocked e c) (hb : k'.bound = k.bound)
    (hk : k'.killed = k.killed) (hc : k'.ctxs = k.ctxs)
    (hq : k'.mx = k.mx ∧ k'.cx = k.cx ∧ k'.eccS = k.eccS ∧ k'.eccV = k.eccV) : k'.ReadyToSave id clocked e c := by
  intro hbd
  rw [hb] at hbd
  rw [hk]
  obtain ⟨h1, h2, h3, h4⟩ := hq
  refine (h hbd).imp_right (And.imp_right fun hh => ⟨?_, h1 ▸ hh.mx, h2 ▸ hh.cx, h3 ▸ hh.eccS, h4 ▸ hh.eccV⟩)
  have : k'.ctx = k.ctx := by funext n; simp [Core.ctx, hc]
  rw [this]
  exact hh.stopped

end

/-- What a pre-emption shows of a device: its islands, and whether it has a launch of an accession number. -/
def Device.standing (a : Nat) (x : Device) : AMap Island × Bool := (x.islands, (x.launch? a).isSome)

theorem Device.standing_modLaunch (x : Device) (a b : Nat) {f : Launch → Launch}
    (hf : ∀ m, (f m).acc = m.acc := by exact fun _ => rfl) : (x.modLaunch b f).standing a = x.standing a := by
  have h : ((x.modLaunch b f).launch? a).isSome = (x.launch? a).isSome := by
    rw [Device.launch?_modLaunch x hf, Option.isSome_map]
  exact Prod.ext rfl h

section
variable {s : State} {id : LaunchId} {clocked : Nat → Nat → Bool}

/-- A kill leaves every core of a launch ready to be saved: those that it stops are killed, and of the others it poisons
granules and reports to the supervisor alone. -/
theorem State.readyToSave_killNow (h : s.EachCore (Core.ReadyToSave id clocked)) (dev core : Nat) (pair egress : Bool) :
    (s.killNow dev core pair egress).EachCore (Core.ReadyToSave id clocked) := by
  have hr (e n : Nat) : Core.reset.ReadyToSave id clocked e n := Core.readyToSave_reset
  unfold State.killNow
  split
  · exact h.modCore1 (hr _ _) fun _ _ => Core.readyToSave_of_killed rfl
  split
  · exact h
  refine State.EachCore.modDev_same ?_ _
  have hk := (h.modCore (d := dev) (c := core) hr (f := fun c => c.kill egress) fun _ _ _ _ => Core.readyToSave_of_killed rfl)
  have hm (b : Binding) (u : State) (hu : u.EachCore (Core.ReadyToSave id clocked)) (v : Word) :
      (u.reportRecov b v).EachCore (Core.ReadyToSave id clocked) := by
    unfold State.reportRecov
    split
    · refine hu.modCore hr fun _ _ k hk => ?_
      unfold Core.pushRecov
      split
      · exact hk.of_same rfl rfl rfl ⟨rfl, rfl, rfl, rfl⟩
      · exact hk
    · exact hu
  refine hm _ _ ((hk.mapDevs_same).mapCores (fun _ _ => rfl) fun d x q hq => ?_) _
  split
  · split
    · exact hq.of_same rfl rfl rfl ⟨rfl, rfl, rfl, rfl⟩
    · exact hq
  · exact hq

theorem State.readyToSave_settleKill (h : s.EachCore (Core.ReadyToSave id clocked)) (dev core : Nat) :
    (s.settleKill dev core).EachCore (Core.ReadyToSave id clocked) := by
  unfold State.settleKill
  dsimp only
  split
  · split
    · exact h
    · exact State.readyToSave_killNow h _ _ _ _
  · exact h

/-- The request to stop finds every core of the launch stopped already. -/
theorem State.readyToSave_askStop (h : s.EachCore (Core.ReadyToSave id clocked)) :
    (s.askStop id).EachCore (Core.ReadyToSave id clocked) := by
  unfold State.askStop
  refine State.EachCore.foldl (h.mapCores (fun _ _ => rfl) fun d x q hq => ?_) (fun u p hu => ?_) _
  · split
    · next hc =>
      simp only [Bool.and_eq_true, Bool.not_eq_true', Option.any_eq_true, decide_eq_true_eq] at hc
      obtain ⟨⟨⟨b, hb, hbl⟩, hk⟩, -⟩ := hc
      rcases hq ⟨b, hb, hbl⟩ with hq' | ⟨-, hh⟩
      · simp [hk] at hq'
      · rwa [hh.preempt]
    · exact hq
  · refine (State.readyToSave_settleKill hu _ _).foldl (fun t n ht => ?_) _
    split
    · exact ht.mapDevs_same
    · exact ht

theorem State.keeps_standing_killNow (s : State) (a dev core : Nat) (pair egress : Bool) :
    State.Keeps (Device.standing a) s (s.killNow dev core pair egress) := by
  unfold State.killNow
  split
  · exact s.keeps_setCore (fun _ _ => rfl) ..
  split
  · exact .refl s
  refine .trans ?_ (State.keeps_modDev _ _ fun x => x.standing_modLaunch ..)
  refine .trans ?_ (State.keeps_reportRecov (fun _ _ => rfl) ..)
  exact .trans (.trans (s.keeps_modCore (fun _ _ => rfl) dev core _) (State.keeps_mapDevs _)) (State.keeps_mapDevs _)

theorem State.keeps_standing_askStop (s : State) (a : Nat) (id : LaunchId) :
    State.Keeps (Device.standing a) s (s.askStop id) := by
  refine .trans (s.keeps_mapDevs) (State.keeps_foldl (fun s p => .trans (t := s.settleKill p.1 p.2) ?_ ?_) _ _)
  · unfold State.settleKill
    dsimp only
    split
    · split
      · exact .refl s
      · exact s.keeps_standing_killNow ..
    · exact .refl s
  · refine State.keeps_foldl (fun s n => ?_) _ _
    split
    · unfold State.withdraw
      exact s.keeps_mapDevs
    · exact .refl s

theorem State.freeOf_unbindAll (s : State) (id : LaunchId) : (s.unbindAll id).EachCore (fun _ _ k => k.FreeOf id) := by
  unfold State.unbindAll
  extract_lets places t u
  change u.EachCore (fun _ _ k => k.FreeOf id)
  refine State.eachCore_mapDevs fun p _ => ?_
  refine List.forall_mem_map.2 fun q _ => ?_
  split
  · next b hb =>
    split
    · exact Core.freeOf_of_unbound rfl
    · next h =>
      intro b' hb' hl
      rw [hb] at hb'
      exact h (Option.some.inj hb' ▸ hl)
  · next hb => exact Core.freeOf_of_unbound hb

theorem State.keeps_launches_unbindAll (s : State) (id : LaunchId) : State.Keeps Device.launches s (s.unbindAll id) := by
  unfold State.unbindAll
  extract_lets places t u
  exact .withNet (.trans (State.keeps_foldl (fun s p => s.keeps_mapDevs) places s) t.keeps_mapDevs)

theorem State.coresOf_eq_nil (h : s.EachCore (fun _ _ k => k.FreeOf id)) : s.coresOf id = [] := by
  refine List.eq_nil_iff_forall_not_mem.2 fun ⟨e, c, k⟩ hp => ?_
  obtain ⟨x, hx, hk, b, hb, hl⟩ := State.mem_coresOf.1 hp
  exact h _ hx _ hk b hb hl

/-- A completed save: status 4, no longer under way, and no core left. -/
theorem State.saveAll_saved {d a : Nat} {l : Launch} (hl : (s.device d).launch? a = some l) :
    (((s.saveAll d a).device d).launch? a).map (·.code) = some 4
      ∧ (((s.saveAll d a).device d).launch? a).map (·.saving) = some false ∧ (s.saveAll d a).coresOf ⟨d, a⟩ = [] := by
  have hv := ((s.keeps_launches_unbindAll ⟨d, a⟩).launch? d a).trans hl
  have hr := State.launch?_raise (f := fun l => { l with saved := s.savedCores ⟨d, a⟩, saving := false }) hv 4
  exact ⟨congrArg (Option.map _) hr, congrArg (Option.map _) hr,
    State.coresOf_eq_nil ((s.freeOf_unbindAll ⟨d, a⟩).modDev_same d fun _ => Device.cores_setStatus ..)⟩

/-- Where every core of a launch is ready to be saved, nothing keeps the save back. -/
theorem State.saveable_of_ready (h : s.EachCore (Core.ReadyToSave id clocked))
    (hc : ∀ e i, (s.device e).clocked i = clocked e i) :
    (s.coresOf id).all (fun c => c.2.2.saveable && (c.2.2.killed || (s.device c.1).clocked (islandOf c.2.1))) = true
      ∧ (s.coresOf id).find? (fun c => c.2.2.eccSave) = none := by
  have hready (p : Nat × Nat × Core) (hp : p ∈ s.coresOf id) :
      p.2.2.killed = true ∨ clocked p.1 (islandOf p.2.1) = true ∧ p.2.2.Halted := by
    obtain ⟨x, hx, hq, b, hb, hbl⟩ := State.mem_coresOf.1 hp
    exact h _ hx _ hq ⟨b, hb, hbl⟩
  refine ⟨List.all_eq_true.2 fun p hp => ?_, List.find?_eq_none.2 fun p hp => ?_⟩
  · rcases hready p hp with hk | ⟨hclk, hh⟩
    · simp [Core.saveable, hk]
    · simp [hh.saveable, hc, hclk]
  · rcases hready p hp with hk | ⟨-, hh⟩
    · simp [Core.eccSave, hk]
    · simp [hh.eccSave]

/-- A launch that is being pre-empted, all of whose cores have halted with their clocks running, is saved. -/
theorem exec_preempt {d a : Nat} {l : Launch} (hl : (s.device d).launch? a = some l) (hf : l.fault = none)
    (hc : l.code = 2 ∨ l.code = 3) (he : s.allEnded l = false) (hs : l.saving = true)
    (hcores : ∀ p ∈ s.coresOf ⟨d, a⟩, (s.device p.1).clocked (islandOf p.2.1) = true ∧ p.2.2.Halted) :
    ∃ u, exec (.preempt d a) s = .next u ∧ ((u.device d).launch? a).map (·.code) = some 4
      ∧ ((u.device d).launch? a).map (·.saving) = some false ∧ u.coresOf ⟨d, a⟩ = [] := by
  have hr : s.EachCore (Core.ReadyToSave ⟨d, a⟩ fun e => (s.device e).clocked) := fun p hp q hq ⟨b, hb, hbl⟩ =>
    .inr (hcores (p.1, q.1, q.2) (State.mem_coresOf.2 ⟨p.2, hp, hq, b, hb, hbl⟩))
  obtain ⟨v, hdef⟩ : ∃ v, v = (s.modDev d (fun x => x.modLaunch a (fun l => { l with saving := true }))).askStop ⟨d, a⟩ :=
    ⟨_, rfl⟩
  have hk : State.Keeps (Device.standing a) s v := hdef ▸ .trans (t := s.modDev d _)
    (s.keeps_modDev d fun x => x.standing_modLaunch ..) (State.keeps_standing_askStop _ _ _)
  have hi (e : Nat) : (v.device e).islands = (s.device e).islands := congrArg Prod.fst (hk.device e)
  have hv : v.EachCore (Core.ReadyToSave ⟨d, a⟩ fun e => (s.device e).clocked) :=
    hdef ▸ State.readyToSave_askStop (hr.modDev_same d)
  obtain ⟨hall, hecc⟩ := State.saveable_of_ready hv fun e i => by simp only [Device.clocked, Device.island, hi]
  have hx : exec (.preempt d a) s = .next (v.saveAll d a) := by
    show execPreempt d a s = _
    have hcode : (l.code != 2 && l.code != 3) = false := by rcases hc with h | h <;> simp [h]
    simp only [execPreempt, hl, hf, hcode, he, hs, Option.isSome_none, Bool.or_self, Bool.true_or, Bool.not_true,
      Bool.false_eq_true, if_false, ← hdef, hall, hecc]
  obtain ⟨m, hm⟩ := Option.isSome_iff_exists.1 ((congrArg Prod.snd (hk.device d)).trans (congrArg Option.isSome hl))
  exact ⟨_, hx, State.saveAll_saved hm⟩

end

/-! ## Resumption (R46, R332) -/

section
variable {s : State} {d a : Nat} {l : Launch} {gs : List (Nat × Nat)}

/-- A pre-empted launch that grants satisfy is bound again: status 2, one more resumption, nothing saved. -/
theorem exec_resume {hdr : KHeader} {plan : PlanTable} {cs : List (List Nat × (Nat × Nat))} (hl : (s.device d).launch? a = some l)
    (hf : l.fault = none) (hc : l.code = 4) (hh : l.hdr = some hdr) (hp : l.plan = some plan) (hk : l.killed = [])
    (hb : bindTree (s.device d).peers (bit (field l.record 4 4) 1) hdr.helpers l.tree gs = some cs)
    (ho : (s.device d).outranked l = false) (hr : s.reclaimed l.asid = false) (hg : s.grantsOk d l gs = true)
    (hn : cs.length = l.cores.length) :
    ∃ u, exec (.resume d a gs) s = .next u ∧ ((u.device d).launch? a).map (·.code) = some 2
      ∧ ((u.device d).launch? a).map (·.rc) = some (l.rc + 1) ∧ ((u.device d).launch? a).map (·.saved) = some [] := by
  have hx : exec (.resume d a gs) s = execResume d a gs s := rfl
  have hs : sortBy Killed.rank [] = [] := rfl
  simp only [execResume, hl, hh, hp, hb, hc, hf, ho, hr, hg, hn, hk, hs, Option.map_some, Option.getD_some, List.filter_nil,
    List.foldl_nil, bne_self_eq_false, Option.isSome_none, Bool.not_true, Bool.or_self, Bool.false_eq_true, if_false] at hx
  refine ⟨_, hx, ?_⟩
  suffices h : ((_ : State).device d).launch? a = some { l with
      cores := cs.map (·.2), ndev := devsOfCores (cs.map (·.2)), saved := [], rc := l.rc + 1, code := 2 } from
    ⟨congrArg (Option.map _) h, congrArg (Option.map _) h, congrArg (Option.map _) h⟩
  rw [((State.keeps_launches_moveColls ..).trans (State.keeps_launches_setCounts ..)).launch?]
  refine State.launch?_raise ?_ 2
  rw [(State.keeps_launches_placeSaved ..).launch?, (State.keeps_mapDevs _).launch?,
    (State.keeps_foldl (fun s p => s.keeps_launches_bindEntry ..) gs s).launch?, hl]

end

end Sys2Proof.Machine

open Sys2Proof.Machine in
/-- Settles O52, one theorem for each event of a launch's life. -/
theorem launchesGoOn : Obligations.LaunchesGoOn := by
  unfold Obligations.LaunchesGoOn
  rintro s d _ x l hx ⟨hl, h14, h15, hf⟩ rfl
  obtain rfl : s.device d = x := State.device_of hx
  exact ⟨fun gs y cs hc hw hr hg ht hd => exec_launchBind_bound hl hc ⟨hw, hr, hg, ht⟩ hd,
    fun gs hc hw hr hg ht => ⟨(exec_launchBind hl hc ⟨hw, hr, hg, ht⟩).2.1,
      fun t hd => exec_launchBind_fault ⟨hl, h14, h15, hf⟩ hc ⟨hw, hr, hg, ht⟩ hd⟩,
    fun gs ht => exec_launchBind_early hl ht,
    fun e y c he hne ha hfree hb => exec_remoteCoreReserve he hne ha hfree hb,
    fun hc => exec_rootSyncRelease hl hf hc,
    fun hc he hn => exec_launchComplete hl hf hc he hn,
    fun hc he hs hcores => exec_preempt hl hf hc he hs fun p hp => by
      obtain ⟨hclk, -, -, hmx, hcx, hS, hV, hst⟩ := hcores p hp
      exact ⟨hclk, hst, hmx, hcx, hS, hV⟩,
    fun gs hdr plan cs hc hh hp hk hb ho hr hg hn => exec_resume hl hf hc hh hp hk hb ho hr hg hn⟩

/-! # A line that returns to bottom (O39)

The bottom of its kind is what the line reads afterwards where the memory is in canonical form, as every run from reset keeps it
(O60); O39 asks it of every memory. -/

namespace Sys2Proof.Machine
open Sys2Proof

theorem Device.wakeReads_of_unparked {x : Device} {n : Nat} (h : ∀ q ∈ x.park, q.line ≠ n) : x.wakeReads n = (x, []) := by
  have hf : (x.park.filter fun p => (if p.line == n then x.readNow n p.r else none).isNone) = x.park :=
    List.filter_eq_self.2 fun q hq => by simp [h q hq]
  have hm : (x.park.filterMap fun p => if p.line == n then x.readNow n p.r else none) = [] :=
    List.filterMap_eq_nil_iff.2 fun q hq => by simp [h q hq]
  simp only [Device.wakeReads, hf, hm, List.map_nil]

/-- Where nothing is parked on a line, nothing there goes on. -/
theorem Device.settle_of_unparked {x : Device} {n : Nat} (h : ∀ q ∈ x.park, q.line ≠ n) : x.settle n = (x, []) := by
  have hd : x.park.find? (x.joinDue n) = none := List.find?_eq_none.2 fun q hq => by simp [Device.joinDue, h q hq]
  unfold Device.settle Device.settleLine
  simp only [Device.wakeReads_of_unparked h, hd]

/-- Where a change of a device leaves nothing parked on a line, nothing there goes on. -/
theorem State.settleHome_modDev {s : State} {d n : Nat} {x : Device} (hx : aget s.devs d = some x) {f : Device → Device}
    (h : ∀ q ∈ (f x).park, q.line ≠ n) : (s.modDev d f).settleHome d n = s.modDev d f := by
  unfold State.settleHome
  rw [State.device_modDev hx, Device.settle_of_unparked h]
  dsimp only [State.sendAll, List.foldl_nil]
  rw [State.modDev_modDev, State.modDev_of hx, State.modDev_of hx]

/-- An answer inside a device is one more message of its mesh. -/
theorem State.sendAll_answer (s : State) (o : Origin) (a : Answer) :
    s.sendAll o.dev [.answer o a] = { s with net := s.net ++ [⟨o.dev, none, 0x010101, .answer o a⟩] } := by
  simp [State.sendAll, State.send, State.mesh, Body.mergeable]

/-- Line l of a device back at the bottom of a kind. -/
def Device.bottomed (x : Device) (l : Nat) (k : Kind) : Device :=
  ({ x with mem := cellsWrite x.mem (64 * l) (bottomLine k) } : Device).setLine l { Line.fresh with kind := some k }

theorem Device.mem_bottomed (x : Device) (l : Nat) (k : Kind) :
    (x.bottomed l k).mem = cellsWrite x.mem (64 * l) (bottomLine k) := by
  simp only [Device.bottomed, Device.setLine]

theorem Device.park_bottomed (x : Device) (l : Nat) (k : Kind) : (x.bottomed l k).park = x.park := by
  simp only [Device.bottomed, Device.setLine]

theorem Device.line_bottomed (x : Device) (l : Nat) (k : Kind) : (x.bottomed l k).line l = { Line.fresh with kind := some k } := by
  simp [Device.bottomed, Device.line, Device.setLine]

theorem Device.cellsRead_bottomed {x : Device} (h : Memory.wf x.mem = true) (l : Nat) (k : Kind) :
    cellsRead (x.bottomed l k).mem (64 * l) 64 = bottomLine k := by
  have hn : (bottomLine k).length = 64 := List.length_replicate
  have hr := cellsRead_cellsWrite_self h (64 * l) (bottomLine k)
  rwa [hn, ← Device.mem_bottomed] at hr

/-- A line that returns to bottom, and on which nothing is parked: the home writes it and answers. -/
theorem exec_rsuJoin_bottom {s : State} {n l : Nat} {x : Device} {wt : BitVec 24} {la : Option LaunchId} {k : Kind} {o : Origin}
    (hx : aget s.devs o.dev = some x) (hm : s.atHome n = some (o.dev, l, wt, la, .bottom o k))
    (hp : ∀ q ∈ x.park, q.line ≠ l) :
    ∃ u, exec (.rsuJoin n) s = .next u ∧ u.net = s.net.eraseIdx n ++ [⟨o.dev, none, 0x010101, .answer o .ok⟩]
      ∧ u.device o.dev = x.bottomed l k := by
  have hd : aget (s.dropMsg n).devs o.dev = some x := hx
  have hset : ((s.dropMsg n).modDev o.dev (fun y => y.bottomed l k)).settleHome o.dev l
      = (s.dropMsg n).modDev o.dev (fun y => y.bottomed l k) :=
    State.settleHome_modDev hd (by rwa [Device.park_bottomed])
  have he : exec (.rsuJoin n) s = .next (((s.dropMsg n).modDev o.dev (fun y => y.bottomed l k)).sendAll
      o.dev [.answer o .ok]) := by
    show execRsuJoin n s = _
    simp only [execRsuJoin, hm, State.homeSystem]
    exact congrArg (fun u : State => Host.Outcome.next (u.sendAll o.dev [.answer o .ok])) hset
  rw [State.sendAll_answer] at he
  exact ⟨_, he, by simp [State.dropMsg], State.device_modDev hd (fun y => y.bottomed l k)⟩

/-- At a memory in canonical form the line then holds the bottom of its kind and no metadata (R64). -/
theorem exec_rsuJoin_bottom_of_canonical {s : State} {n l : Nat} {x : Device} {wt : BitVec 24} {la : Option LaunchId} {k : Kind}
    {o : Origin} (hx : aget s.devs o.dev = some x) (hm : s.atHome n = some (o.dev, l, wt, la, .bottom o k))
    (hp : ∀ q ∈ x.park, q.line ≠ l) (hw : Memory.wf x.mem = true) :
    ∃ u, exec (.rsuJoin n) s = .next u ∧ u.net = s.net.eraseIdx n ++ [⟨o.dev, none, 0x010101, .answer o .ok⟩]
      ∧ cellsRead (u.device o.dev).mem (64 * l) 64 = bottomLine k
      ∧ (u.device o.dev).line l = { Line.fresh with kind := some k } := by
  obtain ⟨u, hu, hnet, hdev⟩ := exec_rsuJoin_bottom hx hm hp
  exact ⟨u, hu, hnet, by rw [hdev, Device.cellsRead_bottomed hw], by rw [hdev, Device.line_bottomed]⟩

/-- A device whose memory lists byte 0 twice, so that it is not in canonical form. -/
def doubledByte : Device := { Device.reset with mem := [(0, 1), (0, 1)] }

/-- A Curator's message that returns line 0 of such a device to the bottom of .max. -/
def bottomAtDoubledByte : State :=
  { State.reset with devs := [(0, doubledByte)], net := [⟨0, none, 0x010101, .req 0 none (.bottom (.cur 0 0 1) .max)⟩] }

theorem doubledByte_bottomed_reads : cellsRead (doubledByte.bottomed 0 .max).mem 0 64 ≠ bottomLine .max := by decide +kernel

end Sys2Proof.Machine

open Sys2Proof Sys2Proof.Machine in
/-- Refutes O39: where a memory lists a byte twice, writing the bottom of a kind takes the first entry away alone, and the line
still reads the second. The statement does not ask that the memory be in canonical form. -/
theorem not_homeJoin : ¬ Obligations.HomeJoin := by
  unfold Obligations.HomeJoin
  intro h
  have hx : aget bottomAtDoubledByte.devs 0 = some doubledByte := rfl
  have hm : bottomAtDoubledByte.atHome 0 = some (0, 0, 0x010101, none, .bottom (.cur 0 0 1) .max) := rfl
  have hp : ∀ q ∈ doubledByte.park, q.line ≠ 0 := List.forall_mem_nil _
  obtain ⟨-, -, hsystem⟩ := h bottomAtDoubledByte 0 0 0 doubledByte 0x010101 none ⟨.cur 0 0 0, none, 0, 0, .ver 0 0⟩ .max hx
  obtain ⟨-, -, hbottom⟩ := hsystem (.cur 0 0 1) rfl
  obtain ⟨u, hu, -, hread, -⟩ := hbottom hm hp
  obtain ⟨v, hv, -, hdev⟩ := exec_rsuJoin_bottom (o := .cur 0 0 1) hx hm hp
  have huv : u = v := Host.Outcome.next.inj (hu.symm.trans hv)
  rw [huv] at hread
  exact doubledByte_bottomed_reads ((congrArg (fun y : Device => cellsRead y.mem 0 64) hdev).symm.trans hread)

/-! # Commits of an instruction with nothing in its way

What the environment of the context whose turn it is reads, and the core that a commit leaves when nothing keeps it from being whole at
once (R39, R43): the region's commands counted, the context behind its instruction in the region that opens, its checkpoint written. -/

namespace Sys2Proof.Machine
open Sys2Proof

section
variable {s : State} {b : Binding} {i : Instr}

/-! ## The context whose turn it is -/

@[simp] theorem State.envHere_who : (s.envHere b).who = s.cur := rfl
-- Not by definition: simp carries it through decidability too.
@[simp] theorem State.envHere_b : (s.envHere b).b = b := (rfl)
@[simp] theorem State.envHere_ctx (c : Core) : (s.envHere b).ctx c = c.ctx s.cur.ctx := rfl
@[simp] theorem State.envHere_regs (c : Core) : (s.envHere b).regs c = (c.ctx s.cur.ctx).regs := rfl
@[simp] theorem State.envHere_pc (c : Core) : (s.envHere b).pc c = (c.ctx s.cur.ctx).pc := rfl
@[simp] theorem State.envHere_modCtx (c : Core) (f : Context → Context) :
    (s.envHere b).modCtx c f = c.setCtx s.cur.ctx (f (c.ctx s.cur.ctx)) := rfl
@[simp] theorem State.envHere_modRegs (c : Core) (f : Regs → Regs) :
    (s.envHere b).modRegs c f = c.setCtx s.cur.ctx { c.ctx s.cur.ctx with regs := f (c.ctx s.cur.ctx).regs } := rfl
@[simp] theorem State.here_ctx : s.here.ctx s.cur.ctx = s.ctxHere := rfl
@[simp] theorem State.ctxHere_regs : s.ctxHere.regs = s.regsHere := rfl
@[simp] theorem State.envHere_succ_here (i : Instr) : (s.envHere b).succ s.here i = s.succHere b i := rfl

theorem Quiet.bound (h : Quiet s b) : s.here.bound = some b := h.1
theorem Quiet.alone (h : Quiet s b) : Alone s s.cur.dev s.cur.core b := ⟨h.1, h.2.1⟩
theorem Quiet.unpaired (h : Quiet s b) : b.pair = false := h.2.2.1
theorem Quiet.live (h : Quiet s b) : s.ctxHere.st.live = true := h.2.2.2.1
theorem Quiet.unsigned (h : Quiet s b) : s.ctxHere.sig = none := h.2.2.2.2.1
theorem Quiet.eccRegs (h : Quiet s b) : s.here.eccS = [] ∧ s.here.eccV = [] := ⟨h.2.2.2.2.2.2.1, h.2.2.2.2.2.2.2.1⟩
theorem Quiet.eccG (h : Quiet s b) : s.here.eccG = [] := h.2.2.2.2.2.2.2.2.1
theorem Quiet.killWait (h : Quiet s b) : s.here.killWait = none := h.2.2.2.2.2.2.2.2.2

/-- An unpaired context has no partner to compare with. -/
theorem Quiet.peer (h : Quiet s b) : (s.envHere b).peer = none := by
  show b.peer.map _ = none
  rw [h.2.1]; rfl

/-- In an unpaired launch there is nothing to compare (R397). -/
theorem pairCheck_quiet (h : Quiet s b) (c : Core) (rest : Core → Res) : pairCheck (s.envHere b) c rest = rest c := by
  simp [pairCheck, h.peer]

theorem State.ctxHere_put (h : Quiet s b) (c : Core) : (s.put c).ctxHere = c.ctx s.cur.ctx := by
  rw [State.ctxHere, State.here_put h.bound, State.put_cur]

theorem State.regsHere_put (h : Quiet s b) (c : Core) : (s.put c).regsHere = (c.ctx s.cur.ctx).regs := by
  rw [State.regsHere, State.ctxHere_put h]

/-- A context may be put back as it is. -/
theorem Core.setCtx_self (c : Core) (n : Nat) : c.setCtx n (c.ctx n) = c := by
  unfold Core.setCtx Core.ctx
  split <;> simp

theorem Core.setCtx_comm (c : Core) {n m : Nat} (x y : Context) (h : n ≠ m) :
    (c.setCtx n x).setCtx m y = (c.setCtx m y).setCtx n x := by
  unfold Core.setCtx
  split <;> split <;> simp [Vector.set_comm _ _ h]

/-- An instruction whose own meaning stays in the core. -/
theorem issue_core (h : Clear s b i) {own : Env → Core → Res} {c : Core} (ho : own (s.envHere b) s.here = ⟨c, id⟩) :
    issue i own s = .next (s.put c) := by
  rw [issue_clear h, ho]; rfl

/-! ## What a commit leaves -/

@[simp] theorem countCommit_killWait (e : Env) (w : Word) (c : Core) : (countCommit e w c).killWait = c.killWait := by
  unfold countCommit; split <;> rfl
@[simp] theorem countCommit_slots (e : Env) (w : Word) (c : Core) : (countCommit e w c).slots = c.slots := by
  unfold countCommit; split <;> rfl
theorem countCommit_mx (e : Env) (w : Word) (c : Core) : (countCommit e w c).mx
    = c.mx.map (fun k => if k.ctx == e.who.ctx then { k with uncommitted := false } else k) := by
  unfold countCommit; split <;> rfl
theorem countCommit_commits {e : Env} (w : Word) (c : Core) (h : e.who.ctx = 0) : (countCommit e w c).commits = c.commits + 1 := by
  simp [countCommit, h]

/-- The core c whose context at turn has become x, with its checkpoint written. -/
def State.reopened (s : State) (c : Core) (x : Context) : Core := (c.setCtx s.cur.ctx x).checkpoint s.cur.ctx

section
variable (c : Core) (x : Context)

theorem State.reopened_ctx (hn : s.cur.ctx < 11) :
    (s.reopened c x).ctx s.cur.ctx = { x with ckpt := x.snapshot (c.setCtx s.cur.ctx x) } := by
  simp [State.reopened, Core.checkpoint_ctx _ hn, hn]
theorem State.reopened_ctx_ne {n : Nat} (h : n ≠ s.cur.ctx) : (s.reopened c x).ctx n = c.ctx n := by
  simp [State.reopened, Core.checkpoint_ctx_ne _ h, Core.ctx_setCtx_ne _ _ h]

@[simp] theorem State.reopened_ls : (s.reopened c x).ls = c.ls := by simp [State.reopened, Core.checkpoint, Core.modCtx]
@[simp] theorem State.reopened_arrivals : (s.reopened c x).arrivals = c.arrivals := by
  simp [State.reopened, Core.checkpoint, Core.modCtx]
@[simp] theorem State.reopened_plan : (s.reopened c x).plan = c.plan := by simp [State.reopened, Core.checkpoint, Core.modCtx]
@[simp] theorem State.reopened_sems : (s.reopened c x).sems = c.sems := by simp [State.reopened, Core.checkpoint, Core.modCtx]
@[simp] theorem State.reopened_slots : (s.reopened c x).slots = c.slots := by simp [State.reopened, Core.checkpoint, Core.modCtx]
@[simp] theorem State.reopened_commits : (s.reopened c x).commits = c.commits := by
  simp [State.reopened, Core.checkpoint, Core.modCtx]

end

/-- The core of a context that nothing disturbs, and that is the context at turn still. -/
structure State.Same (s : State) (c : Core) : Prop where
  noEcc : c.NoEcc
  killWait : c.killWait = none
  ctx : c.ctx s.cur.ctx = s.ctxHere

theorem Quiet.same (h : Quiet s b) : s.Same s.here := ⟨h.noEcc, h.killWait, rfl⟩

theorem State.Same.countCommit {c : Core} (h : s.Same c) (e : Env) (w : Word) : s.Same (countCommit e w c) :=
  ⟨countCommit_noEcc h.noEcc e w, by rw [countCommit_killWait, h.killWait], by rw [countCommit_ctx, h.ctx]⟩

/-- The retirement of an instruction from a core where nothing has touched its context. -/
theorem retire_same {c : Core} (hq : Quiet s b) (h : s.Same c) (i : Instr) :
    retire (s.envHere b) i c = c.setCtx s.cur.ctx (s.ctxHere.ran s.regsHere (s.succHere b i)) := by
  rw [retire_quiet hq h.noEcc (by rw [h.ctx, hq.unsigned]) (by rw [h.ctx]), h.ctx]; rfl

/-- Finishing a region that the context at turn has opened, with no injected error about and no kill waiting. -/
theorem finishRegion_setCtx {c : Core} (he : c.NoEcc) (hk : c.killWait = none) (x : Context) (post : State → State) :
    finishRegion (s.envHere b) (c.setCtx s.cur.ctx x) post = ⟨s.reopened c x, post⟩ := by
  have he' : (c.setCtx s.cur.ctx x).eccS = [] ∧ (c.setCtx s.cur.ctx x).eccV = [] := by simpa using he.2
  rw [finishRegion_quiet he' (by simpa using hk)]; rfl

/-- The instruction retires, and its context goes on in the region that f opens. -/
theorem finishRegion_retire {c : Core} (hq : Quiet s b) (h : s.Same c) (i : Instr) (f : Context → Context) (post : State → State) :
    finishRegion (s.envHere b) ((s.envHere b).modCtx (retire (s.envHere b) i c) f) post
      = ⟨s.reopened c (f (s.ctxHere.ran s.regsHere (s.succHere b i))), post⟩ := by
  rw [retire_same hq h, State.envHere_modCtx, Core.ctx_setCtx _ _ hq.lt, Core.setCtx_setCtx, finishRegion_setCtx h.noEcc h.killWait]

end

end Sys2Proof.Machine

/-! # REGION and END (O11) -/

namespace Sys2Proof.Machine
open Sys2Proof

section
variable {s : State} {b : Binding}

/-- Bit n + 1 of the live-in mask of a REGION is bit n of its field; s0 is never live in (R206). -/
theorem liveIn_succ (sm : BitVec 63) {n : Nat} (h : n < 63) : (sm.setWidth 64 <<< 1).getLsbD (n + 1) = sm.getLsbD n := by
  have h' : n + 1 < 64 := by omega
  simp [h']

theorem liveIn_zero (sm : BitVec 63) : (sm.setWidth 64 <<< 1).getLsbD 0 = false := by simp

/-- No live-in scalar register lies beyond the bounds. -/
theorem liveIn_find_none {sm : BitVec 63} {r : Nat} (h : ∀ n, n < 63 → sm.getLsbD n = true → n + 1 < r) :
    (List.range 64).find? (fun n => (sm.setWidth 64 <<< 1).getLsbD n && decide (r ≤ n)) = none := by
  rw [List.find?_range_eq_none]
  intro n hn
  cases n with
  | zero => simp
  | succ n =>
    rw [liveIn_succ sm (by omega)]
    cases hb : sm.getLsbD n
    · rfl
    · simpa using h n (by omega) hb

/-- The lowest live-in scalar register beyond the bounds. -/
theorem liveIn_find {sm : BitVec 63} {r n : Nat} (hn : n < 63) (hb : sm.getLsbD n = true) (hr : r ≤ n + 1)
    (hlow : ∀ j, j < n → sm.getLsbD j = true → j + 1 < r) :
    (List.range 64).find? (fun n => (sm.setWidth 64 <<< 1).getLsbD n && decide (r ≤ n)) = some (n + 1) := by
  rw [List.find?_range_eq_some]
  refine ⟨by rw [liveIn_succ sm hn]; simp [hb, hr], List.mem_range.2 (by omega), fun j hj => ?_⟩
  cases j with
  | zero => simp
  | succ j =>
    rw [liveIn_succ sm (by omega)]
    cases hbj : sm.getLsbD j
    · rfl
    · simpa using hlow j (by omega) hbj

theorem liveVec_find_none {vm : BitVec 32} {r : Nat} (h : ∀ n, n < 32 → vm.getLsbD n = true → n < r) :
    (List.range 32).find? (fun n => vm.getLsbD n && decide (r ≤ n)) = none := by
  rw [List.find?_range_eq_none]
  intro n hn
  cases hb : vm.getLsbD n
  · rfl
  · simpa using h n hn hb

theorem liveVec_find {vm : BitVec 32} {r n : Nat} (hn : n < 32) (hb : vm.getLsbD n = true) (hr : r ≤ n)
    (hlow : ∀ j, j < n → vm.getLsbD j = true → j < r) :
    (List.range 32).find? (fun n => vm.getLsbD n && decide (r ≤ n)) = some n := by
  rw [List.find?_range_eq_some]
  refine ⟨by simp [hb, hr], List.mem_range.2 hn, fun j hj => ?_⟩
  cases hbj : vm.getLsbD j
  · rfl
  · simpa using hlow j hj hbj

variable {dbit mbit : Bool} {vm : BitVec 32} {sm : BitVec 63}

/-- REGION with nothing in its way commits and opens its region behind it (R206). -/
theorem exec_region (h : Clear s b (.region dbit mbit vm sm)) (hc : CanCommit s.ctxHere)
    (hS : ∀ n, n < 63 → sm.getLsbD n = true → n + 1 < b.hdr.sregs) (hV : ∀ n, n < 32 → vm.getLsbD n = true → n < b.hdr.vregs) :
    let next := s.succHere b (.region dbit mbit vm sm)
    exec (.region dbit mbit vm sm) s = .next (s.put (s.reopened (countCommit (s.envHere b) next s.here)
      ((s.ctxHere.ran s.regsHere next).open_ next dbit mbit (sm.setWidth 64 <<< 1) vm))) := by
  show execRegion dbit mbit vm sm s = _
  unfold execRegion
  refine issue_core h ?_
  simp only [State.envHere_ctx, State.here_ctx, State.envHere_b, hc.1, liveIn_find_none hS, liveVec_find_none hV,
    commit_can h.quiet hc, Bool.false_eq_true, if_false]
  exact finishRegion_retire h.quiet (h.quiet.same.countCommit ..) _ _ _

theorem exec_region_scalar {n : Nat} (h : Clear s b (.region dbit mbit vm sm)) (hact : s.ctxHere.trap.act = false) (hn : n < 63)
    (hb : sm.getLsbD n = true) (hr : b.hdr.sregs ≤ n + 1) (hlow : ∀ j, j < n → sm.getLsbD j = true → j + 1 < b.hdr.sregs) :
    exec (.region dbit mbit vm sm) s = .next (s.trapHere b (.region dbit mbit vm sm) (resBounds 1 (n + 1))) := by
  show execRegion dbit mbit vm sm s = _
  unfold execRegion
  refine issue_trap h ?_
  simp only [State.envHere_ctx, State.here_ctx, State.envHere_b, hact, liveIn_find hn hb hr hlow, Bool.false_eq_true, if_false]

theorem exec_region_vector {n : Nat} (h : Clear s b (.region dbit mbit vm sm)) (hact : s.ctxHere.trap.act = false)
    (hS : ∀ j, j < 63 → sm.getLsbD j = true → j + 1 < b.hdr.sregs) (hn : n < 32) (hb : vm.getLsbD n = true)
    (hr : b.hdr.vregs ≤ n) (hlow : ∀ j, j < n → vm.getLsbD j = true → j < b.hdr.vregs) :
    exec (.region dbit mbit vm sm) s = .next (s.trapHere b (.region dbit mbit vm sm) (resBounds 1 n)) := by
  show execRegion dbit mbit vm sm s = _
  unfold execRegion
  refine issue_trap h ?_
  simp only [State.envHere_ctx, State.here_ctx, State.envHere_b, hact, liveIn_find_none hS, liveVec_find hn hb hr hlow,
    Bool.false_eq_true, if_false]

/-! ## The slots of a context that ends (R95, R97) -/

section
variable (c : Core) (o n : Nat)

/-- Releasing slots changes the slots alone. -/
theorem Core.setSlot_eq (x : Slot) : ∃ v, c.setSlot o x = { c with slots := v } := by
  unfold Core.setSlot
  split
  · exact ⟨_, rfl⟩
  · exact ⟨c.slots, rfl⟩

theorem Core.settle_eq : ∃ v, c.settle o = { c with slots := v } := by
  unfold Core.settle
  dsimp only
  split
  · exact ⟨c.slots, rfl⟩
  · split
    · split
      · exact ⟨c.slots, rfl⟩
      · exact Core.setSlot_eq ..
    · split
      · exact Core.setSlot_eq ..
      · split <;> exact Core.setSlot_eq ..

theorem Core.releaseSlot_eq : ∃ v, c.releaseSlot o = { c with slots := v } := by
  obtain ⟨u, hu⟩ := Core.setSlot_eq c o { c.slot o with release := true }
  obtain ⟨v, hv⟩ := Core.settle_eq (c.setSlot o { c.slot o with release := true }) o
  exact ⟨v, by rw [Core.releaseSlot, hv, hu]⟩

theorem Core.releaseOwned_eq : ∃ v, c.releaseOwned n = { c with slots := v } := by
  unfold Core.releaseOwned
  induction List.range 16 generalizing c with
  | nil => exact ⟨c.slots, rfl⟩
  | cons o os ih =>
    rw [List.foldl_cons]
    split
    · obtain ⟨u, hu⟩ := Core.releaseSlot_eq c o
      obtain ⟨v, hv⟩ := ih (c.releaseSlot o)
      exact ⟨v, by rw [hv, hu]⟩
    · exact ih c

@[simp] theorem Core.releaseSlot_mx : (c.releaseSlot o).mx = c.mx := by
  obtain ⟨v, hv⟩ := Core.releaseSlot_eq c o; rw [hv]

@[simp] theorem Core.releaseOwned_ctx (m : Nat) : (c.releaseOwned n).ctx m = c.ctx m := by
  obtain ⟨v, hv⟩ := Core.releaseOwned_eq c n; rw [hv]; rfl
@[simp] theorem Core.releaseOwned_ls : (c.releaseOwned n).ls = c.ls := by
  obtain ⟨v, hv⟩ := Core.releaseOwned_eq c n; rw [hv]
@[simp] theorem Core.releaseOwned_sems : (c.releaseOwned n).sems = c.sems := by
  obtain ⟨v, hv⟩ := Core.releaseOwned_eq c n; rw [hv]
@[simp] theorem Core.releaseOwned_killWait : (c.releaseOwned n).killWait = c.killWait := by
  obtain ⟨v, hv⟩ := Core.releaseOwned_eq c n; rw [hv]
theorem Core.NoEcc.releaseOwned {c : Core} (h : c.NoEcc) (n : Nat) : (c.releaseOwned n).NoEcc := by
  obtain ⟨v, hv⟩ := Core.releaseOwned_eq c n; rw [hv]; exact h

end

/-- With no command accepted, a release frees its slot at once. -/
theorem Core.slot_releaseSlot {c : Core} {o : Nat} (hmx : c.mx = []) (ho : o < 16) (hf : (c.slot o).isFree = false) :
    (c.releaseSlot o).slot o = Slot.free := by
  have hst : ((c.slot o).st == .free) = false := by
    simp only [Slot.isFree, Bool.or_eq_false_iff] at hf; exact hf.1
  have hmx' : (c.setSlot o { c.slot o with release := true }).mx = [] := by
    obtain ⟨v, hv⟩ := Core.setSlot_eq c o { c.slot o with release := true }
    rw [hv]; exact hmx
  unfold Core.releaseSlot Core.settle
  simp [Core.slot_setSlot _ _ ho, hst, hmx']

theorem Core.slot_settle_ne (c : Core) {o p : Nat} (h : p ≠ o) : (c.settle o).slot p = c.slot p := by
  unfold Core.settle
  dsimp only
  split
  · rfl
  · split
    · split
      · rfl
      · exact Core.slot_setSlot_ne c _ h
    · split
      · exact Core.slot_setSlot_ne c _ h
      · split <;> exact Core.slot_setSlot_ne c _ h

theorem Core.slot_releaseSlot_ne (c : Core) {o p : Nat} (h : p ≠ o) : (c.releaseSlot o).slot p = c.slot p := by
  rw [Core.releaseSlot, Core.slot_settle_ne _ h, Core.slot_setSlot_ne _ _ h]

/-- With no command accepted, every slot that a context owns is free once the context has ended (R97). -/
theorem Core.slot_releaseOwned {c : Core} {o n : Nat} (hmx : c.mx = []) (ho : o < 16) (hf : (c.slot o).isFree = false)
    (hown : (c.slot o).owner = n) : ((c.releaseOwned n).slot o).st = .free := by
  have key : ∀ (l : List Nat) (c : Core), c.mx = [] →
      (o ∈ l ∧ (c.slot o).isFree = false ∧ (c.slot o).owner = n ∨ c.slot o = Slot.free) →
      (l.foldl (fun c o => if !(c.slot o).isFree && (c.slot o).owner == n then c.releaseSlot o else c) c).slot o = Slot.free := by
    intro l
    induction l with
    | nil =>
      rintro c - (⟨hm, -⟩ | h)
      · simp at hm
      · exact h
    | cons p ps ih =>
      intro c hmx hc
      rw [List.foldl_cons]
      by_cases hp : o = p
      · subst hp
        rcases hc with ⟨-, hfree, ho'⟩ | hfree
        · rw [if_pos (by simp [hfree, ho'])]
          exact ih _ (by rw [Core.releaseSlot_mx, hmx]) (.inr (Core.slot_releaseSlot hmx ho hfree))
        · rw [if_neg (by simp [hfree, Slot.isFree, Slot.free])]
          exact ih _ hmx (.inr hfree)
      · have hrest : o ∈ ps ∧ (c.slot o).isFree = false ∧ (c.slot o).owner = n ∨ c.slot o = Slot.free := by
          simpa [hp] using hc
        split
        · refine ih _ (by rw [Core.releaseSlot_mx, hmx]) ?_
          rwa [Core.slot_releaseSlot_ne c hp]
        · exact ih _ hmx hrest
  rw [Core.releaseOwned, key _ c hmx (.inl ⟨List.mem_range.2 ho, hf, hown⟩)]
  rfl

/-! ## END (R21, R194) -/

/-- Nothing is recorded for END where no helper has exited and the control context has no record. -/
theorem endRecord_none {c : Core} (hst : ∀ n, 1 ≤ n → n ≤ 10 → (c.ctx n).st = .idle) (hd : (c.ctx 0).deferred = none) :
    endRecord c = none := by
  refine List.findSome?_eq_none_iff.2 fun n hn => ?_
  rw [List.mem_range] at hn
  by_cases h0 : n = 0
  · simp [h0, hd]
  · simp [h0, hst n (by omega) (by omega)]

theorem endDrained_true {c : Core} (hst : ∀ n, 1 ≤ n → n ≤ 10 → (c.ctx n).st = .idle) (ho : (c.ctx 0).out = [])
    (hmx : c.mx = []) (hcx : c.cx = []) (hp : c.port = []) : endDrained c = true := by
  have hall : ∀ n < 11, ((n != 0 && (c.ctx n).st != .exited) || (c.ctx n).out.isEmpty) = true := fun n hn => by
    by_cases h0 : n = 0
    · simp [h0, ho]
    · simp [h0, hst n (by omega) (by omega)]
  simp only [endDrained, hmx, hcx, hp, List.isEmpty_nil, List.all_nil, Bool.and_true, List.all_eq_true, List.mem_range]
  exact hall

/-- Every exited context of a core idle. -/
def Core.idleExited (c : Core) : Core :=
  { c with ctxs := c.ctxs.map (fun (x : Context) => if x.st == CtxSt.exited then { x with st := CtxSt.idle } else x) }

theorem Core.ctx_idleExited_regs (c : Core) {n : Nat} (hn : n < 11) : (c.idleExited.ctx n).regs = (c.ctx n).regs := by
  simp only [Core.idleExited, Core.ctx, hn, dite_true, Vector.getElem_map]
  split <;> rfl

/-- What END leaves as it retires: the context ended, the registers, the local store and the semaphores as they are. -/
theorem endCore_same (hq : Quiet s b) (h0 : s.cur.ctx = 0) :
    ((endCore (s.envHere b) s.here).ctx 0).st = .ended ∧ ((endCore (s.envHere b) s.here).ctx 0).regs = s.regsHere
      ∧ (endCore (s.envHere b) s.here).ls = s.here.ls ∧ (endCore (s.envHere b) s.here).sems = s.here.sems := by
  have he : endCore (s.envHere b) s.here
      = ((retire (s.envHere b) .endK s.here).releaseOwned 0).idleExited.modCtx 0 (fun x => { x with st := .ended, committed := false }) :=
    rfl
  have hctx : ((retire (s.envHere b) .endK s.here).releaseOwned 0).ctx 0 = s.ctxHere.ran s.regsHere (s.succHere b .endK) := by
    rw [Core.releaseOwned_ctx, retire_same hq hq.same, h0, Core.ctx_setCtx _ _ (by omega)]
  rw [he]
  refine ⟨?_, ?_, ?_, ?_⟩
  · rw [Core.modCtx, Core.ctx_setCtx _ _ (by omega)]
  · rw [Core.modCtx, Core.ctx_setCtx _ _ (by omega), Core.ctx_idleExited_regs _ (by omega), hctx]
    rfl
  · rw [Core.modCtx, Core.setCtx_ls, Core.idleExited, Core.releaseOwned_ls, retire_same hq hq.same, Core.setCtx_ls]
  · rw [Core.modCtx, Core.setCtx_sems, Core.idleExited, Core.releaseOwned_sems, retire_same hq hq.same, Core.setCtx_sems]

/-- Whether a helper of a core is live, as END asks it. -/
theorem helperLive_iff {c : Core} : (List.range 10).any (fun h => (c.ctx (h + 1)).st.live) = true
    ↔ ∃ n, 1 ≤ n ∧ n ≤ 10 ∧ (c.ctx n).st.live = true := by
  simp only [List.any_eq_true, List.mem_range]
  constructor
  · rintro ⟨h, hh, hl⟩
    exact ⟨h + 1, by omega, by omega, hl⟩
  · rintro ⟨n, h1, h10, hl⟩
    obtain ⟨h, rfl⟩ : ∃ h, n = h + 1 := ⟨n - 1, by omega⟩
    exact ⟨h, by omega, hl⟩

theorem exec_endK_waits (h : Clear s b .endK) (h0 : s.cur.ctx = 0) (hact : s.ctxHere.trap.act = false)
    (hl : ∃ n, 1 ≤ n ∧ n ≤ 10 ∧ (s.here.ctx n).st.live = true) :
    exec .endK s = .next (s.put (s.here.waitsAt 0 .endK 6 true true 0 0)) := by
  show execEndK s = _
  unfold execEndK
  rw [← h0]
  refine issue_wait h ?_
  simp only [State.envHere_ctx, State.here_ctx, hact, helperLive_iff.2 hl, Bool.false_eq_true, if_false, if_true]

/-- END past its commit, with nothing left to wait for or to deliver, ends the control context. -/
theorem exec_endK_ends (h : Clear s b .endK) (hact : s.ctxHere.trap.act = false) (h0 : s.cur.ctx = 0)
    (hcom : s.ctxHere.committed = true) (hst : ∀ n, 1 ≤ n → n ≤ 10 → (s.here.ctx n).st = .idle) (ho : s.ctxHere.out = [])
    (hd : s.ctxHere.deferred = none) (hmx : s.here.mx = []) (hcx : s.here.cx = []) (hp : s.here.port = []) :
    exec .endK s = .next (s.put (endCore (s.envHere b) s.here)) := by
  have hctl : s.here.ctx 0 = s.ctxHere := by rw [← State.here_ctx, h0]
  have hnone : (List.range 10).any (fun h => (s.here.ctx (h + 1)).st.live) = false := by
    rw [Bool.eq_false_iff, Ne, helperLive_iff]
    rintro ⟨n, h1, h10, hl⟩
    rw [hst n h1 h10] at hl
    simp [CtxSt.live] at hl
  show execEndK s = _
  unfold execEndK
  refine issue_core h ?_
  simp only [State.envHere_ctx, State.here_ctx, hact, hnone, hcom, Bool.false_eq_true, if_false, if_true, endWait,
    endRecord_none hst (hctl ▸ hd), endDrained_true hst (hctl ▸ ho) hmx hcx hp]

end

end Sys2Proof.Machine

open Sys2Proof Sys2Proof.Machine in
/-- Settles O11: REGION through the region that its commit opens, END through the core it leaves. -/
theorem regionsAndEnd : Obligations.RegionsAndEnd := by
  unfold Obligations.RegionsAndEnd
  refine ⟨fun s b dbit mbit vm sm h hact => ⟨fun hc hS hV => ⟨_, exec_region h hc hS hV, ?_⟩,
    fun n hn hb hr hlow => exec_region_scalar h hact hn hb hr hlow,
    fun n hS hn hb hr hlow => exec_region_vector h hact hS hn hb hr hlow⟩, ?_,
    fun s b h h0 hact hl => exec_endK_waits h h0 hact hl⟩
  · have hq := h.quiet
    simp only [State.ctxHere_put hq, State.regsHere_put hq, State.here_put hq.bound, State.reopened_ctx _ _ hq.lt,
      State.reopened_ls, countCommit_ls, State.put_net]
    exact ⟨rfl, rfl, rfl, rfl, trivial, trivial, rfl, rfl⟩
  · intro s b h h0 hact hcom hst ho hd hmx hcx hp
    have hq := h.quiet
    refine ⟨_, exec_endK_ends h hact h0 hcom hst ho hd hmx hcx hp, ?_⟩
    rw [State.ctxHere_put hq, State.regsHere_put hq, State.here_put hq.bound, State.put_net, h0]
    obtain ⟨hended, hregs, hls, hsems⟩ := endCore_same hq h0
    exact ⟨hended, hregs, rfl, hls, hsems⟩

/-! # ARRIVE (O9) -/

namespace Sys2Proof.Machine
open Sys2Proof

/-! ## What sending leaves -/

section
variable (s : State)

@[simp] theorem Device.cores_noteSpill (x : Device) : x.noteSpill.cores = x.cores := by
  unfold Device.noteSpill Device.logEv Device.raise
  split
  · split
    · rfl
    · split
      · split <;> rfl
      · rfl
  · rfl

theorem State.keeps_cores_fabAccept (src : Nat) (e : Sent) : State.Keeps Device.cores s (s.fabAccept src e) := by
  have h (o : Device → AMap Nat) (e : Sent) : State.Keeps Device.cores s
      (s.modDev src fun x => Device.noteSpill { x with seqOut := o x, store := x.store ++ [e] }) :=
    s.keeps_modDev src fun _ => Device.cores_noteSpill _
  unfold State.fabAccept
  dsimp only
  split
  · exact (h _ _).trans (.of_devs rfl)
  split
  · exact h _ _
  · exact (h _ _).trans (.of_devs rfl)

/-- Sending a message changes no core. -/
theorem State.keeps_cores_send (src dst : Nat) (weights : BitVec 24) (body : Body) :
    State.Keeps Device.cores s (s.send src dst weights body) := by
  unfold State.send State.fabSend
  split
  · exact .of_devs rfl
  dsimp only
  split
  · exact s.keeps_modDev _
  · exact s.keeps_cores_fabAccept ..

theorem State.Keeps.core {s u : State} (h : State.Keeps Device.cores s u) (d c : Nat) : u.core d c = s.core d c := by
  unfold State.core Device.core
  rw [h.device]

@[simp] theorem State.core_send (src dst : Nat) (weights : BitVec 24) (body : Body) (d c : Nat) :
    (s.send src dst weights body).core d c = s.core d c := (s.keeps_cores_send src dst weights body).core d c

@[simp] theorem State.cur_send (src dst : Nat) (weights : BitVec 24) (body : Body) :
    (s.send src dst weights body).cur = s.cur := by
  unfold State.send State.mesh State.fabSend State.fabAccept State.sendReset State.fabPut
  dsimp only
  repeat' split
  all_goals simp

/-- After an arrival either nothing is sent, or one message. -/
theorem postArrival_cases (e : Env) (c : Core) :
    postArrival e c s = s ∨ ∃ src dst body, postArrival e c s = s.send src dst 0x010101 body := by
  unfold postArrival noteCounted
  split
  · split
    · split
      · dsimp only
        split
        · exact .inr ⟨_, _, _, rfl⟩
        · exact .inl rfl
      · exact .inl rfl
    · exact .inl rfl
  · exact .inl rfl

theorem postArrival_core (e : Env) (c : Core) (d k : Nat) : (postArrival e c s).core d k = s.core d k := by
  obtain h | ⟨src, dst, body, h⟩ := postArrival_cases s e c
  · rw [h]
  · rw [h, State.core_send]

theorem postArrival_cur (e : Env) (c : Core) : (postArrival e c s).cur = s.cur := by
  obtain h | ⟨src, dst, body, h⟩ := postArrival_cases s e c
  · rw [h]
  · rw [h, State.cur_send]

theorem postArrival_here (e : Env) (c : Core) : (postArrival e c s).here = s.here := by
  unfold State.here
  rw [postArrival_cur, postArrival_core]

end

/-! ## Registering an arrival -/

section
variable {s : State} {b : Binding} {i : Instr}

theorem levelTrap_none {k : Nat} (h : barrierLevel b k = true) : levelTrap (s.envHere b) k = none := by simp [levelTrap, h]

theorem levelTrap_some {k : Nat} (h : barrierLevel b k = false) :
    levelTrap (s.envHere b) k = some ⟨Cause.levelRange, 0, BitVec.ofNat 64 k⟩ := by simp [levelTrap, h]

theorem State.Same.registerArrival {c : Core} (h : s.Same c) (e : Env) (k : Nat) (v : Option (VoteOp × Word)) (sel : Bool) :
    s.Same (registerArrival e k v sel c) := ⟨h.noEcc, h.killWait, h.ctx⟩

/-- The arrival that an instruction of the context at turn registers at level k. -/
def State.arrivalAt (s : State) (k : Nat) (v : Option (VoteOp × Word)) (sel : Bool) : Arrival :=
  ⟨k, acount s.here.gens k + 1, covered s.ctxHere k, (covered s.ctxHere k).isEmpty, false, v, sel, none, false⟩

theorem registerArrival_arrivals (k : Nat) (v : Option (VoteOp × Word)) (sel : Bool) :
    (registerArrival (s.envHere b) k v sel s.here).arrivals = s.here.arrivals ++ [s.arrivalAt k v sel] := rfl

theorem arrivalAt_counted (s : State) (k : Nat) (v : Option (VoteOp × Word)) (sel : Bool) :
    (s.arrivalAt k v sel).counted = decide (covered s.ctxHere k = []) := by
  show (covered s.ctxHere k).isEmpty = _
  cases covered s.ctxHere k <;> rfl

/-- An arrival without a wait part: the instruction commits, and its context goes on behind it in the implicit region. -/
theorem arriveCommit_goesOn (hq : Quiet s b) (hc : CanCommit s.ctxHere) (i : Instr) (k : Nat)
    (v : Core → Option (VoteOp × Word)) (sel : Bool) :
    let next := s.succHere b i
    let c := registerArrival (s.envHere b) k (v s.here) sel s.here
    arriveCommit (s.envHere b) i k v sel false s.here = ⟨s.reopened (countCommit (s.envHere b) next c)
      ((s.ctxHere.ran s.regsHere next).openImplicit b.hdr next), postArrival (s.envHere b) c⟩ := by
  unfold arriveCommit
  rw [commit_can hq hc]
  exact finishRegion_retire hq ((hq.same.registerArrival _ k (v s.here) sel).countCommit (s.envHere b) (s.succHere b i)) i
    (fun x => x.openImplicit b.hdr x.pc) _

/-- ARRIVE commits with its arrival registered, and goes on behind it in the implicit region (R203). -/
theorem exec_arrive {k : Level} (h : Clear s b (.arrive k)) (hc : CanCommit s.ctxHere) (hb : barrierLevel b k.toNat = true)
    (ha : s.here.arrivals.length < b.hdr.barriers) :
    let next := s.succHere b (.arrive k)
    let c := registerArrival (s.envHere b) k.toNat none false s.here
    exec (.arrive k) s = .next (postArrival (s.envHere b) c (s.put (s.reopened (countCommit (s.envHere b) next c)
      ((s.ctxHere.ran s.regsHere next).openImplicit b.hdr next)))) := by
  obtain ⟨hact, hcom, -⟩ := id hc
  have hat : arriveTrap (s.envHere b) k.toNat s.here = none := by simp [arriveTrap, ha]
  show execArrive k s = _
  unfold execArrive
  rw [issue_clear h]
  simp only [State.envHere_ctx, State.here_ctx, hact, hcom, levelTrap_none hb, hat, arriveCommit_goesOn h.quiet hc,
    Bool.false_eq_true, if_false]

theorem exec_arrive_level {k : Level} (h : Clear s b (.arrive k)) (hact : s.ctxHere.trap.act = false)
    (hb : barrierLevel b k.toNat = false) :
    exec (.arrive k) s = .next (s.trapHere b (.arrive k) ⟨Cause.levelRange, 0, BitVec.ofNat 64 k.toNat⟩) := by
  show execArrive k s = _
  unfold execArrive
  refine issue_trap h ?_
  simp only [State.envHere_ctx, State.here_ctx, hact, levelTrap_some hb, Bool.false_eq_true, if_false]

theorem exec_arrive_full {k : Level} (h : Clear s b (.arrive k)) (hact : s.ctxHere.trap.act = false)
    (hb : barrierLevel b k.toNat = true) (hcom : s.ctxHere.committing = false) (ha : b.hdr.barriers ≤ s.here.arrivals.length) :
    exec (.arrive k) s = .next (s.trapHere b (.arrive k) (resBounds 5 k.toNat)) := by
  have hat : arriveTrap (s.envHere b) k.toNat s.here = some (resBounds 5 k.toNat) := by simp [arriveTrap, ha]
  show execArrive k s = _
  unfold execArrive
  refine issue_trap h ?_
  simp only [State.envHere_ctx, State.here_ctx, hact, hcom, levelTrap_none hb, hat, Bool.false_eq_true, if_false]

end

end Sys2Proof.Machine

open Sys2Proof Sys2Proof.Machine in
/-- Settles O9, through the core that ARRIVE leaves; the count join it may send changes no core. -/
theorem barrierArrivals : Obligations.BarrierArrivals := by
  unfold Obligations.BarrierArrivals
  refine fun s b k h hact => ⟨fun hc hb ha => ⟨_, s.arrivalAt k.toNat none false, exec_arrive h hc hb ha, ?_⟩,
    fun hb => exec_arrive_level h hact hb, fun hb hcom ha => exec_arrive_full h hact hb hcom ha⟩
  have hq := h.quiet
  simp only [State.regsHere, State.ctxHere, postArrival_here, postArrival_cur, State.here_put hq.bound, State.put_cur,
    State.reopened_ctx _ _ hq.lt, State.reopened_ls, State.reopened_arrivals, countCommit_ls, countCommit_arrivals]
  exact ⟨registerArrival_arrivals .., rfl, rfl, rfl, rfl, arrivalAt_counted .., rfl, rfl, rfl, rfl, rfl⟩

/-! # HSTART, HEXIT, HWAIT (O8) -/

namespace Sys2Proof.Machine
open Sys2Proof

section
variable {s : State} {b : Binding}

/-! ## The registers of a helper that starts (R19) -/

section
variable (ctl old : Context) (h : KHeader) (pc : Word)

theorem startHelper_getS (r : SReg) :
    (startHelper ctl old h pc).regs.getS r = if 1 ≤ r.toNat ∧ r.toNat ≤ 7 then ctl.regs.getS r else 0 := by
  by_cases hr : r = 0
  · subst hr; simp [Regs.getS]
  · have hs : (startHelper ctl old h pc).regs.s
        = Vector.ofFn (fun (i : Fin 64) => if 1 ≤ i.val && i.val ≤ 7 then ctl.regs.s[i.val] else 0) := rfl
    simp only [Regs.getS, hr, if_false, hs, Vector.getElem_ofFn, Bool.and_eq_true, decide_eq_true_eq]

theorem startHelper_getV (r : VReg) : (startHelper ctl old h pc).regs.getV r = ⟨0, 0⟩ := by
  have hv : (startHelper ctl old h pc).regs.v = Vector.replicate 32 VR.zero := rfl
  simp [Regs.getV, hv, VR.zero]

theorem startHelper_getP (r : PReg) : (startHelper ctl old h pc).regs.getP r = decide (r = 0) := by
  have hp : (startHelper ctl old h pc).regs.p = Vector.replicate 8 false := rfl
  by_cases hr : r = 0
  · simp [Regs.getP, hr]
  · simp [Regs.getP, hp]

theorem startHelper_getM (r : MReg) : (startHelper ctl old h pc).regs.getM r = 0 := by
  have hm : (startHelper ctl old h pc).regs.m = Vector.replicate 8 0 := rfl
  simp [Regs.getM, hm]

theorem startHelper_rest :
    let y := startHelper ctl old h pc
    y.st = .ready ∧ y.pc = pc
      ∧ (∀ r : SReg, y.regs.getS r = if 1 ≤ r.toNat ∧ r.toNat ≤ 7 then ctl.regs.getS r else 0)
      ∧ (∀ r, y.regs.getV r = ⟨0, 0⟩) ∧ (∀ r, y.regs.getP r = decide (r = 0)) ∧ (∀ r, y.regs.getM r = 0) ∧ y.regs.flags = 0
      ∧ y.regs.topx = ctl.regs.topx ∧ y.regs.rngctr = old.rngSaved
      ∧ y.trap = ⟨ctl.trap.tvec, 0, 0, 0, 0, 0⟩ ∧ y.egress = [] ∧ y.out = [] ∧ y.deferred = none
      ∧ y.region = ⟨pc, true, true, allV h, allS h, 0, 0, false, false⟩ :=
  ⟨rfl, rfl, startHelper_getS _ _ _ _, startHelper_getV _ _ _ _, startHelper_getP _ _ _ _, startHelper_getM _ _ _ _, rfl,
    by simp only [startHelper, Context.openImplicit, Context.open_], rfl, rfl, rfl, rfl, rfl, rfl⟩

end


/-! ## HSTART -/

variable {p : Pred} {h : BitVec 4} {d : Disp}

/-- The context at turn after a HSTART: behind it, in the implicit region, its block signature disarmed (R402). -/
def State.behindStart (s : State) (b : Binding) (i : Instr) : Context :=
  { (s.ctxHere.ran s.regsHere (s.succHere b i)).openImplicit b.hdr (s.succHere b i) with sig := none }

theorem behindStart_rest (s : State) (b : Binding) (i : Instr) :
    (s.behindStart b i).st = .ready ∧ (s.behindStart b i).pc = s.succHere b i ∧ (s.behindStart b i).regs = s.regsHere
      ∧ (s.behindStart b i).region = ⟨s.succHere b i, true, true, allV b.hdr, allS b.hdr, 0, 0, false, false⟩ :=
  ⟨rfl, rfl, rfl, rfl⟩

/-- The core after a HSTART of helper n. -/
def State.started (s : State) (b : Binding) (i : Instr) (n : Nat) (target : Word) : Core :=
  let c := (countCommit (s.envHere b) (s.succHere b i) s.here).setCtx s.cur.ctx (s.behindStart b i)
  ((c.setCtx n (startHelper (s.behindStart b i) (s.here.ctx n) b.hdr target)).checkpoint n).checkpoint s.cur.ctx

/-- HSTART of an idle helper with nothing in its way commits, starts it, and goes on (R201). -/
theorem exec_hstart (hcl : Clear s b (.hstart p h d)) (h0 : s.cur.ctx = 0) (hc : CanCommit s.ctxHere)
    (hlo : 1 ≤ h.toNat) (hhi : h.toNat ≤ b.hdr.helpers) (hidle : (s.here.ctx h.toNat).st = .idle)
    (ht : targetInvalid (relTarget s.ctxHere.pc d) = false) :
    exec (.hstart p h d) s = .next (s.put (s.started b (.hstart p h d) h.toNat (relTarget s.ctxHere.pc d))) := by
  have hq := hcl.quiet
  have hne : h.toNat ≠ 0 := by omega
  have hle : ¬ b.hdr.helpers < h.toNat := by omega
  show execHstart p h d s = _
  unfold execHstart
  refine issue_core hcl ?_
  simp only [State.envHere_ctx, State.here_ctx, State.envHere_b, State.envHere_pc, hc.1, hne, hle, hidle, ht, commit_can hq hc _ _ startReads,
    State.envHere_succ_here, Bool.false_eq_true, if_false, decide_false, Bool.or_self, bne_self_eq_false]
  have hsame : s.Same (countCommit (s.envHere b) (s.succHere b (.hstart p h d)) s.here) := hq.same.countCommit ..
  rw [retire_same hq hsame, State.envHere_modCtx, Core.ctx_setCtx _ _ hq.lt, Core.setCtx_setCtx,
    Core.ctx_setCtx _ _ hq.lt, Core.ctx_setCtx_ne _ _ (by omega), countCommit_ctx,
    Core.eccWrites_noEcc (NoEcc.setCtx (NoEcc.setCtx hsame.noEcc _ _) _ _), finishRegion_quiet]
  · rfl
  · simpa [Core.checkpoint, Core.modCtx] using hsame.noEcc.2
  · simpa [Core.checkpoint, Core.modCtx] using hsame.killWait

/-- The helper that a HSTART started. -/
theorem started_helper {i : Instr} {n : Nat} {target : Word} (hn : n ≠ s.cur.ctx) (hn11 : n < 11) :
    ∃ k, (s.started b i n target).ctx n = { startHelper (s.behindStart b i) (s.here.ctx n) b.hdr target with ckpt := k } := by
  rw [State.started, Core.checkpoint_ctx_ne _ hn, Core.checkpoint_ctx _ hn11, Core.ctx_setCtx _ _ hn11]
  exact ⟨_, rfl⟩

/-- The context that started it. -/
theorem started_self {i : Instr} {n : Nat} {target : Word} (hn : n ≠ s.cur.ctx) (hc11 : s.cur.ctx < 11) :
    ∃ k, (s.started b i n target).ctx s.cur.ctx = { s.behindStart b i with ckpt := k } := by
  rw [State.started, Core.checkpoint_ctx _ hc11, Core.checkpoint_ctx_ne _ hn.symm, Core.ctx_setCtx_ne _ _ hn.symm,
    Core.ctx_setCtx _ _ hc11]
  exact ⟨_, rfl⟩

theorem started_other {i : Instr} {n m : Nat} {target : Word} (hm : m ≠ n) (hmc : m ≠ s.cur.ctx) :
    (s.started b i n target).ctx m = s.here.ctx m := by
  rw [State.started, Core.checkpoint_ctx_ne _ hmc, Core.checkpoint_ctx_ne _ hm, Core.ctx_setCtx_ne _ _ hm,
    Core.ctx_setCtx_ne _ _ hmc, countCommit_ctx]

theorem started_rest {i : Instr} {n : Nat} {target : Word} (h0 : s.cur.ctx = 0) :
    (s.started b i n target).commits = s.here.commits + 1 ∧ (s.started b i n target).ls = s.here.ls := by
  simp [State.started, Core.checkpoint, Core.modCtx, countCommit_commits, h0]

theorem exec_hstart_absent (hcl : Clear s b (.hstart p h d)) (hact : s.ctxHere.trap.act = false)
    (hn : ¬ (1 ≤ h.toNat ∧ h.toNat ≤ b.hdr.helpers)) :
    exec (.hstart p h d) s = .next (s.trapHere b (.hstart p h d) (resBounds 4 h.toNat)) := by
  have hout : (decide (h.toNat = 0) || decide (b.hdr.helpers < h.toNat)) = true := by simp; omega
  show execHstart p h d s = _
  unfold execHstart
  refine issue_trap hcl ?_
  simp only [State.envHere_ctx, State.here_ctx, State.envHere_b, hact, hout, Bool.false_eq_true, if_false, if_true]

section
variable (hcl : Clear s b (.hstart p h d)) (hact : s.ctxHere.trap.act = false) (hlo : 1 ≤ h.toNat)
  (hhi : h.toNat ≤ b.hdr.helpers)
include hcl hact hlo hhi

theorem exec_hstart_busy (hbusy : (s.here.ctx h.toNat).st ≠ .idle) :
    exec (.hstart p h d) s = .next (s.trapHere b (.hstart p h d) ⟨Cause.helperBusy, 0, BitVec.ofNat 64 h.toNat⟩) := by
  have hne : h.toNat ≠ 0 := by omega
  have hle : ¬ b.hdr.helpers < h.toNat := by omega
  show execHstart p h d s = _
  unfold execHstart
  refine issue_trap hcl ?_
  simp only [State.envHere_ctx, State.here_ctx, State.envHere_b, hact, hne, hle, bne_iff_ne.2 hbusy, Bool.false_eq_true,
    if_false, if_true, decide_false, Bool.or_self]
  rfl

theorem exec_hstart_misaligned (hidle : (s.here.ctx h.toNat).st = .idle)
    (ht : targetInvalid (relTarget s.ctxHere.pc d) = true) :
    exec (.hstart p h d) s = .next (s.trapHere b (.hstart p h d) ⟨Cause.misaligned, relTarget s.ctxHere.pc d, 0⟩) := by
  have hne : h.toNat ≠ 0 := by omega
  have hle : ¬ b.hdr.helpers < h.toNat := by omega
  show execHstart p h d s = _
  unfold execHstart
  refine issue_trap hcl ?_
  simp only [State.envHere_ctx, State.here_ctx, State.envHere_b, State.envHere_pc, hact, hne, hle, hidle, ht,
    Bool.false_eq_true, if_false, if_true, decide_false, Bool.or_self, bne_self_eq_false]
  rfl

end

/-! ## HEXIT -/

theorem Core.slot_congr {c k : Core} (h : c.slots = k.slots) (o : Nat) : c.slot o = k.slot o := by
  unfold Core.slot; rw [h]

/-- The core of a context that has retired a HEXIT, before its region is finished. -/
def State.exiting (s : State) (b : Binding) : Core :=
  ((countCommit (s.envHere b) (s.succHere b .hexit) s.here).setCtx s.cur.ctx
    (s.ctxHere.ran s.regsHere (s.succHere b .hexit))).releaseOwned s.cur.ctx

/-- HEXIT commits and leaves its context exited, its slots released (R202). -/
theorem exec_hexit (hcl : Clear s b .hexit) (hc : CanCommit s.ctxHere) :
    exec .hexit s = .next (s.put (s.reopened (s.exiting b)
      { (s.ctxHere.ran s.regsHere (s.succHere b .hexit)).openImplicit b.hdr (s.succHere b .hexit) with
        st := .exited, rngSaved := s.regsHere.rngctr })) := by
  have hq := hcl.quiet
  show execHexit s = _
  unfold execHexit
  refine issue_core hcl ?_
  have hsame : s.Same (countCommit (s.envHere b) (s.succHere b .hexit) s.here) := hq.same.countCommit ..
  simp only [commit_can hq hc, State.envHere_succ_here, State.envHere_who]
  rw [retire_same hq hsame]
  have hno : (s.exiting b).NoEcc := (NoEcc.setCtx hsame.noEcc _ _).releaseOwned _
  have hk : (s.exiting b).killWait = none := by simpa [State.exiting] using hsame.killWait
  have hx : (s.exiting b).ctx s.cur.ctx = s.ctxHere.ran s.regsHere (s.succHere b .hexit) := by
    rw [State.exiting, Core.releaseOwned_ctx, Core.ctx_setCtx _ _ hq.lt]
  show finishRegion (s.envHere b) ((s.envHere b).modCtx (s.exiting b) _) = _
  rw [State.envHere_modCtx, hx, finishRegion_setCtx hno hk]
  rfl

theorem exiting_ctx_ne {n : Nat} (hn : n ≠ s.cur.ctx) : (s.exiting b).ctx n = s.here.ctx n := by
  rw [State.exiting, Core.releaseOwned_ctx, Core.ctx_setCtx_ne _ _ hn, countCommit_ctx]

theorem exiting_ls : (s.exiting b).ls = s.here.ls := by simp [State.exiting]

/-- The slots of the context that exits are free (R97). -/
theorem exiting_slot {o : Nat} (ho : o < 16) (hf : (s.here.slot o).isFree = false) (hown : (s.here.slot o).owner = s.cur.ctx)
    (hmx : s.here.mx = []) : ((s.exiting b).slot o).st = .free := by
  have hslot : ((countCommit (s.envHere b) (s.succHere b .hexit) s.here).setCtx s.cur.ctx
      (s.ctxHere.ran s.regsHere (s.succHere b .hexit))).slot o = s.here.slot o := Core.slot_congr (by simp) o
  exact Core.slot_releaseOwned (by simp [countCommit_mx, hmx]) ho (by rw [hslot, hf]) (by rw [hslot, hown])

/-! ## HWAIT -/

/-- Taking a trap that can enter its handler (R196). -/
theorem takeTrap_enters {e : Env} {c : Core} (h : (c.ctx e.who.ctx).canEnter = true) (tpc word : Word) (t : Trap) :
    takeTrap e c tpc word t = ⟨(c.dropSwap e.who.ctx).setCtx e.who.ctx ((c.ctx e.who.ctx).enter tpc word t), id⟩ := by
  have hd : (c.dropSwap e.who.ctx).ctx e.who.ctx = c.ctx e.who.ctx := rfl
  simp only [takeTrap, hd, h, if_true]

/-- TCAUSE as a trap enters: act and the cause. -/
theorem tcauseOf_eq (cause : Nat) : tcauseOf cause = BitVec.ofNat 64 (2 ^ 63 + cause % 65536) := by
  have hlt : cause % 65536 < 65536 := Nat.mod_lt _ (by decide)
  unfold tcauseOf
  generalize cause % 65536 = r at hlt ⊢
  have hact : ((1 <<< 63 : Word)).toNat = 2 ^ 63 := by decide
  apply BitVec.eq_of_toNat_eq
  rw [BitVec.toNat_or, BitVec.toNat_ofNat, BitVec.toNat_ofNat, hact, Nat.mod_eq_of_lt (by omega), Nat.mod_eq_of_lt (by omega),
    Nat.or_comm]
  simpa using (Nat.two_pow_add_eq_or_of_lt (by omega : r < 2 ^ 63) 1).symm

/-- Delivering a deferred fault to the context at turn, which can enter its handler: its context there, every other one as
clearing the record leaves it. -/
theorem deliver_enters {i : Instr} {c : Core} {d : Deferred} {clear : Core → Core} (hn : s.cur.ctx < 11)
    (hcan : ((clear c).ctx s.cur.ctx).canEnter = true) :
    ∃ k, deliver (s.envHere b) i c d clear = ⟨k, id⟩
      ∧ k.ctx s.cur.ctx = { (clear c).ctx s.cur.ctx with delivered := some d.cmd }.enter ((clear c).ctx s.cur.ctx).pc i.word d.trap
      ∧ ∀ m, m ≠ s.cur.ctx → k.ctx m = (clear c).ctx m := by
  unfold deliver
  dsimp only
  generalize hm : ({ clear c with cx := _ } : Core) = c'
  have hc' : ∀ m, c'.ctx m = (clear c).ctx m := fun m => by rw [← hm]; rfl
  rw [State.envHere_modCtx, takeTrap_enters]
  · refine ⟨_, rfl, ?_, fun m hm => ?_⟩
    · rw [State.envHere_who, Core.ctx_setCtx _ _ hn, Core.ctx_setCtx _ _ hn, State.envHere_ctx, Core.ctx_setCtx _ _ hn, hc']
    · rw [State.envHere_who, Core.ctx_setCtx_ne _ _ hm, ← hc']
      exact Core.ctx_setCtx_ne _ _ hm
  · rw [State.envHere_who, Core.ctx_setCtx _ _ hn, hc']
    exact hcan

section
variable (hcl : Clear s b (.hwait p h))
include hcl

theorem exec_hwait_absent (hn : h.toNat = 0 ∨ b.hdr.helpers < h.toNat) :
    exec (.hwait p h) s = .next (s.trapHere b (.hwait p h) (resBounds 4 h.toNat)) := by
  have hout : (decide (h.toNat = 0) || decide (b.hdr.helpers < h.toNat)) = true := by simpa using hn
  show execHwait p h s = _
  unfold execHwait
  refine issue_trap hcl ?_
  simp only [State.envHere_b, hout, if_true]

variable (hlo : 1 ≤ h.toNat) (hhi : h.toNat ≤ b.hdr.helpers)
include hlo hhi

theorem exec_hwait_idle (hst : (s.here.ctx h.toNat).st = .idle) : exec (.hwait p h) s = .next (s.ran b (.hwait p h) s.regsHere) := by
  have hin : (decide (h.toNat = 0) || decide (b.hdr.helpers < h.toNat)) = false := by simp; omega
  show execHwait p h s = _
  unfold execHwait
  refine issue_same hcl ?_
  simp only [State.envHere_b, hin, hst, Bool.false_eq_true, if_false, beq_self_eq_true, if_true]

theorem exec_hwait_parks
    (hst : (s.here.ctx h.toNat).st.live = true ∨ (s.here.ctx h.toNat).st = .exited ∧ (s.here.ctx h.toNat).out ≠ []) :
    exec (.hwait p h) s = .next (s.put (s.here.waitsAt s.cur.ctx (.hwait p h) 5 true true 0 0)) := by
  have hin : (decide (h.toNat = 0) || decide (b.hdr.helpers < h.toNat)) = false := by simp; omega
  have hidle : ((s.here.ctx h.toNat).st == .idle) = false := by
    rcases hst with hst | ⟨hst, -⟩
    · cases hx : (s.here.ctx h.toNat).st <;> simp_all [CtxSt.live]
    · rw [hst]; rfl
  have hgone : ((s.here.ctx h.toNat).st == .exited && (s.here.ctx h.toNat).out.isEmpty) = false := by
    rcases hst with hst | ⟨-, hout⟩
    · cases hx : (s.here.ctx h.toNat).st <;> simp_all [CtxSt.live]
    · simp [hout]
  show execHwait p h s = _
  unfold execHwait
  refine issue_wait hcl ?_
  simp only [State.envHere_b, hin, hidle, hgone, Bool.false_eq_true, if_false]

variable (hst : (s.here.ctx h.toNat).st = .exited) (hout : (s.here.ctx h.toNat).out = [])
include hst hout

/-- HWAIT takes an exited helper's flags and makes it idle. -/
theorem exec_hwait_joins (h0 : s.cur.ctx = 0) (hd : (s.here.ctx h.toNat).deferred = none) :
    exec (.hwait p h) s = .next (s.ranIn b (.hwait p h) (s.here.setCtx h.toNat { s.here.ctx h.toNat with st := .idle })
      (s.regsHere.orFlags (s.here.ctx h.toNat).regs.flags)) := by
  have hq := hcl.quiet
  have hin : (decide (h.toNat = 0) || decide (b.hdr.helpers < h.toNat)) = false := by simp; omega
  have hne : s.cur.ctx ≠ h.toNat := by omega
  have hidle : ((s.here.ctx h.toNat).st == .idle) = false := by rw [hst]; rfl
  have hgone : ((s.here.ctx h.toNat).st == .exited && (s.here.ctx h.toNat).out.isEmpty) = true := by simp [hst, hout]
  let y : Context := { s.ctxHere with regs := s.regsHere.orFlags (s.here.ctx h.toNat).regs.flags }
  let c : Core := (s.here.setCtx h.toNat { s.here.ctx h.toNat with st := .idle }).setCtx s.cur.ctx y
  have hx : c.ctx s.cur.ctx = y := Core.ctx_setCtx _ _ hq.lt
  show execHwait p h s = _
  unfold execHwait
  rw [issue_done hcl (c := c) ?own ?ecc ?sig ?pc]
  case own =>
    simp only [State.envHere_b, hin, hidle, hgone, hd, Bool.false_eq_true, if_false, if_true]
    simp only [State.envHere_modRegs, State.here_ctx, State.ctxHere_regs, Core.modCtx, Core.ctx_setCtx_ne _ _ hne.symm,
      Core.setCtx_comm _ _ _ hne]
    rfl
  case ecc => exact NoEcc.setCtx (NoEcc.setCtx hq.noEcc _ _) _ _
  case sig => rw [hx]; exact hq.unsigned
  case pc => rw [hx]
  rw [State.ranIn, State.ranIn, hx, Core.setCtx_setCtx, Core.ctx_setCtx_ne _ _ hne]
  rfl

/-- HWAIT delivers an exited helper's deferred fault in the waiting context, the helper staying exited. -/
theorem exec_hwait_delivers (h0 : s.cur.ctx = 0) (h10 : h.toNat ≤ 10) {f : Deferred} (hd : (s.here.ctx h.toNat).deferred = some f)
    (hcan : s.ctxHere.canEnter = true) :
    ∃ u, exec (.hwait p h) s = .next u ∧ (u.here.ctx h.toNat).st = .exited ∧ (u.here.ctx h.toNat).deferred = none
      ∧ u.ctxHere.pc = s.ctxHere.trap.tvec ∧ u.ctxHere.trap.tpc = s.ctxHere.pc ∧ u.regsHere = s.regsHere
      ∧ u.ctxHere.trap.tcause = BitVec.ofNat 64 (2 ^ 63 + f.trap.cause % 65536) := by
  have hq := hcl.quiet
  have hin : (decide (h.toNat = 0) || decide (b.hdr.helpers < h.toNat)) = false := by simp; omega
  have hne : s.cur.ctx ≠ h.toNat := by omega
  have hidle : ((s.here.ctx h.toNat).st == .idle) = false := by rw [hst]; rfl
  have hgone : ((s.here.ctx h.toNat).st == .exited && (s.here.ctx h.toNat).out.isEmpty) = true := by simp [hst, hout]
  let c : Core := s.here.modCtx h.toNat (fun x => { x with deferred := none })
  have hctx : c.ctx s.cur.ctx = s.ctxHere := Core.ctx_setCtx_ne _ _ hne
  have hhelper : c.ctx h.toNat = { s.here.ctx h.toNat with deferred := none } := Core.ctx_setCtx _ _ (by omega)
  obtain ⟨k, hk, hself, hother⟩ := deliver_enters (s := s) (b := b) (i := .hwait p h) (d := f) (c := s.here)
    (clear := fun c => c.modCtx h.toNat (fun x => { x with deferred := none })) hq.lt (by rw [hctx, hcan])
  have he : exec (.hwait p h) s = .next (s.put k) := by
    show execHwait p h s = _
    unfold execHwait
    refine issue_core hcl ?_
    simp only [State.envHere_b, hin, hidle, hgone, hd, Bool.false_eq_true, if_false, if_true]
    exact hk
  refine ⟨_, he, ?_⟩
  rw [State.here_put hq.bound, State.ctxHere_put hq, State.regsHere_put hq, hself, hother _ hne.symm, hctx, hhelper]
  exact ⟨hst, rfl, rfl, rfl, rfl, tcauseOf_eq _⟩

end

end

end Sys2Proof.Machine

open Sys2Proof Sys2Proof.Machine in
/-- Settles O8, one theorem for each thing that HSTART, HEXIT or HWAIT may do. -/
theorem helpers : Obligations.Helpers := by
  unfold Obligations.Helpers
  refine ⟨fun s b p h t hcl h0 hact => ⟨fun hc hthere h10 hidle ht => ⟨_, exec_hstart hcl h0 hc hthere.1 hthere.2 hidle ht, ?_⟩,
      fun hn => exec_hstart_absent hcl hact hn,
      fun hthere hbusy => exec_hstart_busy hcl hact hthere.1 hthere.2 hbusy,
      fun hthere hidle ht => exec_hstart_misaligned hcl hact hthere.1 hthere.2 hidle ht⟩,
    fun s b hcl _ hc => ⟨_, exec_hexit hcl hc, ?_⟩,
    fun s b p h hcl => ⟨fun hn => exec_hwait_absent hcl hn, fun hlo hhi h10 => ⟨fun hst => exec_hwait_idle hcl hlo hhi hst,
      fun hst => exec_hwait_parks hcl hlo hhi hst,
      fun h0 hst hout hd => exec_hwait_joins hcl hlo hhi hst hout h0 hd,
      fun f h0 hst hout hd hcan => exec_hwait_delivers hcl hlo hhi hst hout h0 h10 hd hcan⟩⟩⟩
  · have hq := hcl.quiet
    have hne : h.toNat ≠ s.cur.ctx := by omega
    obtain ⟨k, hk⟩ := started_helper (s := s) (b := b) (i := .hstart p h t) (target := relTarget s.ctxHere.pc t) hne (by omega)
    obtain ⟨k', hk'⟩ := started_self (s := s) (b := b) (i := .hstart p h t) (target := relTarget s.ctxHere.pc t) hne hq.lt
    obtain ⟨hcommits, hls⟩ := started_rest (s := s) (b := b) (i := .hstart p h t) (n := h.toNat)
      (target := relTarget s.ctxHere.pc t) h0
    dsimp only
    rw [State.here_put hq.bound, State.ctxHere_put hq, State.regsHere_put hq, State.put_net, hls, hcommits]
    rw [hk, hk']
    obtain ⟨hst, hpc, hS, hV, hP, hM, hflags, htopx, hrng, htrap, hegress, hout, hdef, hregion⟩ :=
      startHelper_rest (s.behindStart b (.hstart p h t)) (s.here.ctx h.toNat) b.hdr (relTarget s.ctxHere.pc t)
    obtain ⟨hst', hpc', hregs', hregion'⟩ := behindStart_rest s b (.hstart p h t)
    rw [hregs'] at hS htopx
    exact ⟨hst, hpc, hS, hV, hP, hM, hflags, htopx, hrng, htrap, hegress, hout, hdef, hregion, hst', hpc', hregs', hregion',
      fun n h0' hn => started_other hn (by omega), rfl, rfl, rfl⟩
  · have hq := hcl.quiet
    rw [State.here_put hq.bound, State.ctxHere_put hq, State.regsHere_put hq, State.put_net, State.reopened_ctx _ _ hq.lt,
      State.reopened_ls, exiting_ls]
    exact ⟨rfl, rfl, rfl, rfl, rfl, fun n hn => by rw [State.reopened_ctx_ne _ _ hn, exiting_ctx_ne hn],
      fun o ho hf hown hmx => by
        rw [Core.slot_congr (State.reopened_slots _ _)]
        exact exiting_slot ho hf hown hmx⟩

/-! # A WAITB whose release a pre-emption found (O10)

O10 says that such a WAITB leaves the context letting itself run on to its commit. In the model it retires into the implicit region, and
opening a region stops a context that a pre-emption lets run (R44, R207; log 78): the context is stopped. -/

namespace Sys2Proof.Machine
open Sys2Proof

section
variable {s : State} {b : Binding} {k : Level} {a : Arrival}

/-- Retiring from a wait part: the context goes on behind the instruction in the implicit region (R43). -/
theorem leaveWait_quiet (hq : Quiet s b) {c : Core} (he : c.NoEcc) (hk : c.killWait = none)
    (hs : (c.ctx s.cur.ctx).sig = none) (hp : (c.ctx s.cur.ctx).pc = s.ctxHere.pc) (i : Instr) :
    ∃ c', leaveWait (s.envHere b) i c = ⟨s.reopened c'
      { ((c.ctx s.cur.ctx).ran (c.ctx s.cur.ctx).regs (s.succHere b i)).openImplicit b.hdr (s.succHere b i) with committed := false },
      id⟩ := by
  unfold leaveWait
  rw [retire_quiet hq he hs hp]
  dsimp only
  generalize hy : (c.ctx s.cur.ctx).ran (c.ctx s.cur.ctx).regs (s.succHere b i) = y
  have hpc : y.pc = s.succHere b i := by rw [← hy]; rfl
  generalize hr : (if (s.envHere b).who.ctx == 0 then { c.setCtx s.cur.ctx y with rentry := (s.envHere b).succ c i }
    else c.setCtx s.cur.ctx y) = r
  have hctx : r.ctx s.cur.ctx = y := by
    rw [← hr]; split <;> exact Core.ctx_setCtx _ _ hq.lt
  have hno : r.NoEcc := by rw [← hr]; split <;> exact NoEcc.setCtx he _ _
  have hkill : r.killWait = none := by rw [← hr]; split <;> simpa using hk
  refine ⟨r, ?_⟩
  rw [State.envHere_modCtx, hctx, hpc, finishRegion_setCtx hno hkill]
  rfl

/-- A WAITB whose release a pre-emption found retires and leaves its context stopped (R207). -/
theorem exec_waitb_leave (h : Clear s b (.waitb k)) (hb : barrierLevel b k.toNat = true) (ho : oldest s.here k.toNat = some a)
    (hr : a.released = true) (hbad : a.bad = false) (hpre : s.ctxHere.pre = .leave) :
    ∃ u, exec (.waitb k) s = .next u ∧ u.ctxHere.pre = .stopped := by
  have hq := h.quiet
  let c : Core := (dropArrival s.here a).setCtx s.cur.ctx { s.ctxHere with pre := .drain }
  have hx : c.ctx s.cur.ctx = { s.ctxHere with pre := .drain } := Core.ctx_setCtx _ _ hq.lt
  have hno : c.NoEcc := NoEcc.setCtx (c := dropArrival s.here a) hq.noEcc _ _
  have hk : c.killWait = none := (Core.setCtx_killWait ..).trans hq.killWait
  obtain ⟨c', hown⟩ := leaveWait_quiet hq hno hk (by rw [hx]; exact hq.unsigned) (by rw [hx]) (.waitb k)
  have he : exec (.waitb k) s = .next (s.put (leaveWait (s.envHere b) (.waitb k) c).core) := by
    show execWaitb k s = _
    unfold execWaitb
    refine issue_core h ?_
    simp only [levelTrap_none hb, ho, hr, hbad, hpre, State.envHere_ctx, State.here_ctx, Bool.not_true, Bool.false_eq_true, if_false,
      beq_self_eq_true, if_true]
    show leaveWait (s.envHere b) (.waitb k) c = _
    rw [hown]
  refine ⟨_, he, ?_⟩
  rw [State.ctxHere_put hq, hown, State.reopened_ctx _ _ hq.lt, hx]
  rfl

end

/-- A launch of one core, whose context, pre-empted at a WAITB of its released arrival, is to leave it. -/
def preemptedAtWaitb : State :=
  { State.reset with devs := [(0, { Device.reset with cores := [(0, { Core.reset with
      bound := some placedBinding, arrivals := [⟨0, 1, [], true, true, none, false, none, false⟩]
      ctxs := Core.reset.ctxs.set 0 { Context.reset .ready with pre := .leave } })] })] }

theorem preemptedAtWaitb_clear : Clear preemptedAtWaitb placedBinding (.waitb 0) := by decide +kernel

end Sys2Proof.Machine

open Sys2Proof Sys2Proof.Machine in
/-- Refutes O10: a WAITB that a pre-emption lets leave its released arrival ends stopped, and not draining. -/
theorem not_barrierWaitsAndVotes : ¬ Obligations.BarrierWaitsAndVotes := by
  unfold Obligations.BarrierWaitsAndVotes
  intro h
  have ho : oldest preemptedAtWaitb.here (0 : Level).toNat = some ⟨0, 1, [], true, true, none, false, none, false⟩ := rfl
  have hb : barrierLevel placedBinding (0 : Level).toNat = true := rfl
  obtain ⟨-, hwait, -⟩ := h
  obtain ⟨hwaitb, -⟩ := hwait preemptedAtWaitb placedBinding 0 _ ho
  obtain ⟨-, -, hleave, -⟩ := hwaitb preemptedAtWaitb_clear hb
  obtain ⟨u, hu, -, hdrain, -⟩ := hleave rfl rfl rfl
  obtain ⟨v, hv, hstopped⟩ := exec_waitb_leave preemptedAtWaitb_clear hb ho rfl rfl rfl
  have huv : u = v := Host.Outcome.next.inj (hu.symm.trans hv)
  rw [huv, hstopped] at hdrain
  cases hdrain

/-! # Full-empty accesses (O15) -/

namespace Sys2Proof.Machine
open Sys2Proof

section
variable {s : State} {b : Binding} {i : Instr}

/-! ## What an instruction that retires, reads or writes local store leaves -/

/-- The state left by an instruction that has changed its context to x before it retires. -/
theorem State.ranIn_setCtx (hn : s.cur.ctx < 11) (c : Core) (x : Context) (R : Regs) :
    s.ranIn b i (c.setCtx s.cur.ctx x) R = s.put (c.setCtx s.cur.ctx (x.ran R (s.succHere b i))) := by
  rw [State.ranIn, Core.ctx_setCtx _ _ hn, Core.setCtx_setCtx]

theorem Core.setCtx_withLs (c : Core) (n : Nat) (x : Context) (l : Store) :
    ({ c.setCtx n x with ls := l } : Core) = { c with ls := l }.setCtx n x := by
  unfold Core.setCtx; split <;> rfl

/-- With no injected error about, a granule holds none. -/
theorem Core.eccGran_none {c : Core} (h : c.eccG = []) (a n : Nat) : c.eccGran a n = false := by
  simp [Core.eccGran, h]

/-- A read of local store that meets neither an injected error nor a poison mark goes on. -/
theorem localRead_clean {e : Env} {c : Core} {a n : Nat} (h : c.eccG = []) (hp : c.ls.poisonAt a n = none) (k : Core → Res) :
    localRead e i c [(a, n)] k = k c := by
  simp [localRead, Core.eccGran_none h, hp]

/-- A write of local store with no injected error about. -/
theorem Core.lsWrite_quiet (h : Quiet s b) (full : Bool) (a : Nat) (bs : List Byte) :
    s.here.lsWrite full a bs = { s.here with ls := if full then s.here.ls.writeFull a bs else s.here.ls.write a bs } := by
  unfold Core.lsWrite
  simp only [h.noEcc.1, h.eccG, List.isEmpty_nil, if_true]

/-- The checks of a local access, one by one (R209). -/
theorem localTrap_none {e : Env} {c : Core} {maj : Nat} {a : LocalAcc} {w : WinAcc} {ea : Word} {n align : Nat}
    (h : localTrap e c maj a w ea n align = none) :
    inStore e.b ea n = true ∧ ea.toNat % align = 0 ∧ winTrap c w ea.toNat n ea = none ∧ detLocal e c a ea.toNat n = true := by
  unfold localTrap at h
  split at h
  · cases h
  split at h
  · cases h
  split at h
  · cases h
  split at h
  · simp_all
  · cases h

/-! ## LDF -/

variable {p : Pred} {clr : Bool} {f : LdfForm} {a : SReg} {o : Disp}

/-- What an LDF that passes its checks does at its granules. -/
def ldfOwn (e : Env) (i : Instr) (c : Core) (clr : Bool) (f : LdfForm) (ea : Word) : Res :=
  let n := LdfForm.bytes f
  let gs := granules ea.toNat n
  if !gs.all c.ls.isFull || (clr && c.ldfFirst e.who.ctx (some (((e.ctx c).wait.map (·.order)).getD c.nextId)) gs) then
    ldfPark e i c ea.toNat n
  else localRead e i c [(ea.toNat, n)] (fun c =>
    let bs := c.ls.read ea.toNat n
    let c := e.modRegs c (ldfRegs f bs)
    let c := if clr then
        e.modCtx { c with ls := c.ls.setEmpty gs } (fun x => { x with region := { x.region with ldfClr := true } })
      else c
    done e i c)

/-- The checks of an LDF pass (R209, R214). -/
def LdfPasses (s : State) (b : Binding) (clr : Bool) (f : LdfForm) (ea : Word) : Prop :=
  localTrap (s.envHere b) s.here 0x67 (if clr then .ldfClr else .ldfKeep) (if clr then .write else .keep) ea
    (LdfForm.bytes f) (LdfForm.bytes f) = none

/-- An LDF whose checks pass, and that does not empty granules in a D = 1 region, goes on at its granules. -/
theorem exec_ldf_passes (hp : LdfPasses s b clr f (effAddr s.regsHere a o)) (hd : clr = true → s.ctxHere.region.d = false) :
    ∃ own, exec (.ldf p clr f a o) s = issue (.ldf p clr f a o) own s
      ∧ own (s.envHere b) s.here = ldfOwn (s.envHere b) (.ldf p clr f a o) s.here clr f (effAddr s.regsHere a o) := by
  obtain ⟨hin, hal, hwin, hdet⟩ := localTrap_none hp
  refine ⟨_, rfl, ?_⟩
  have hreg : (clr && s.ctxHere.region.d) = false := by
    cases clr
    · rfl
    · simpa using hd rfl
  simp only [State.envHere_regs, State.here_ctx, State.ctxHere_regs, hin, hal, hwin, hdet, State.envHere_ctx, hreg, Bool.not_true,
    Bool.false_eq_true, if_false, bne_self_eq_false]
  rfl


section
variable (hcl : Clear s b (.ldf p clr f a o)) (hp : LdfPasses s b clr f (effAddr s.regsHere a o))
include hcl hp

theorem exec_ldf_keep (hk : clr = false) (hfull : (granules (effAddr s.regsHere a o).toNat (LdfForm.bytes f)).all s.here.ls.isFull = true)
    (hpoison : s.here.ls.poisonAt (effAddr s.regsHere a o).toNat (LdfForm.bytes f) = none) :
    exec (.ldf p clr f a o) s = .next (s.ran b (.ldf p clr f a o)
      (ldfRegs f (s.here.ls.read (effAddr s.regsHere a o).toNat (LdfForm.bytes f)) s.regsHere)) := by
  obtain ⟨own, he, hown⟩ := exec_ldf_passes (p := p) hp (by simp [hk])
  rw [he]
  refine issue_regs hcl (hown.trans ?_)
  simp only [ldfOwn, hfull, hk, Bool.not_true, Bool.false_and, Bool.or_self, Bool.false_eq_true, if_false,
    localRead_clean hcl.quiet.eccG hpoison]
  rfl

/-- The context after an LDF.clr has emptied granules in its region (R41). -/
def State.clearedHere (s : State) : Context := { s.ctxHere with region := { s.ctxHere.region with ldfClr := true } }

theorem exec_ldf_clr (hk : clr = true) (hd : s.ctxHere.region.d = false)
    (hfull : (granules (effAddr s.regsHere a o).toNat (LdfForm.bytes f)).all s.here.ls.isFull = true)
    (hpoison : s.here.ls.poisonAt (effAddr s.regsHere a o).toNat (LdfForm.bytes f) = none)
    (hfirst : s.here.ldfFirst s.cur.ctx (some ((s.ctxHere.wait.map (·.order)).getD s.here.nextId))
      (granules (effAddr s.regsHere a o).toNat (LdfForm.bytes f)) = false) :
    exec (.ldf p clr f a o) s = .next (s.ranIn b (.ldf p clr f a o)
      ({ s.here with ls := s.here.ls.setEmpty (granules (effAddr s.regsHere a o).toNat (LdfForm.bytes f)) }.setCtx s.cur.ctx s.clearedHere)
      (ldfRegs f (s.here.ls.read (effAddr s.regsHere a o).toNat (LdfForm.bytes f)) s.regsHere)) := by
  have hq := hcl.quiet
  obtain ⟨own, he, hown⟩ := exec_ldf_passes (p := p) hp (fun _ => hd)
  let R := ldfRegs f (s.here.ls.read (effAddr s.regsHere a o).toNat (LdfForm.bytes f)) s.regsHere
  let c : Core := { s.here with ls := s.here.ls.setEmpty (granules (effAddr s.regsHere a o).toNat (LdfForm.bytes f)) }
  let x : Context := { s.clearedHere with regs := R }
  have hx : (c.setCtx s.cur.ctx x).ctx s.cur.ctx = x := Core.ctx_setCtx _ _ hq.lt
  rw [he, issue_done hcl (c := c.setCtx s.cur.ctx x) ?own (NoEcc.setCtx (c := c) hq.noEcc _ _) (by rw [hx]; exact hq.unsigned)
    (by rw [hx]; rfl), hx, State.ranIn_setCtx hq.lt, State.ranIn_setCtx hq.lt]
  · rfl
  · rw [hown]
    simp only [ldfOwn, hfull, hk, State.envHere_who, State.envHere_ctx, State.here_ctx, hfirst, Bool.not_true, Bool.and_false,
      Bool.or_self, Bool.false_eq_true, if_false, if_true, localRead_clean hq.eccG hpoison, State.envHere_modRegs,
      State.envHere_modCtx, Core.setCtx_withLs, Core.setCtx_ls, Core.setCtx_setCtx, Core.ctx_setCtx _ _ hq.lt]
    rfl

theorem exec_ldf_parks (hd : clr = true → s.ctxHere.region.d = false)
    (hempty : (granules (effAddr s.regsHere a o).toNat (LdfForm.bytes f)).all s.here.ls.isFull = false) (hwin : s.here.windows = []) :
    exec (.ldf p clr f a o) s = .next (s.put (s.here.waitsAt s.cur.ctx (.ldf p clr f a o) 3 true true 0 0)) := by
  obtain ⟨own, he, hown⟩ := exec_ldf_passes (p := p) hp hd
  rw [he]
  refine issue_wait hcl (hown.trans ?_)
  simp only [ldfOwn, hempty, Bool.not_false, Bool.true_or, if_true, ldfPark, stashFill, hwin, List.findSome?_nil, Option.bind_none]

end

theorem exec_ldf_clr_trap (hcl : Clear s b (.ldf p true f a o)) (hin : (effAddr s.regsHere a o).toNat + LdfForm.bytes f ≤ b.hdr.lstore)
    (hal : (effAddr s.regsHere a o).toNat % LdfForm.bytes f = 0)
    (hwin : winTrap s.here .write (effAddr s.regsHere a o).toNat (LdfForm.bytes f) (effAddr s.regsHere a o) = none)
    (hd : s.ctxHere.region.d = true) :
    exec (.ldf p true f a o) s = .next (s.trapHere b (.ldf p true f a o) ⟨Cause.regionIllegal, 0, 0x67⟩) := by
  have hin' : inStore b (effAddr s.regsHere a o) (LdfForm.bytes f) = true := decide_eq_true hin
  show execLdf p true f a o s = _
  unfold execLdf
  refine issue_trap hcl ?_
  simp only [State.envHere_regs, State.here_ctx, State.ctxHere_regs, State.envHere_b, hin', hal, hwin, State.envHere_ctx, hd,
    Bool.not_true, Bool.false_eq_true, if_false, bne_self_eq_false, if_true, Bool.and_self]
  rfl

/-! ## STF, FEQ, FESET -/

/-- The bytes that an STF writes. -/
def stfBytes (r : Regs) : StfForm → List Byte
  | .s sz d => natBytes sz.bytes (r.getS d).toNat
  | .v d => vecBytes (r.getV d).bits

theorem natBytes_length (n v : Nat) : (natBytes n v).length = n := by
  induction n generalizing v with
  | zero => rfl
  | succ n ih => rw [natBytes, List.length_cons, ih]

theorem stfBytes_length (r : Regs) (f : StfForm) : (stfBytes r f).length = StfForm.bytes f := by
  cases f <;> exact natBytes_length _ _

theorem blindTrap_none {r : Regs} {d : VReg} (h : (r.getV d).tag ≠ 15) : blindTrap r d = none := by simpa [blindTrap] using h

theorem exec_stf {f : StfForm} (hcl : Clear s b (.stf p f a o)) (htag : ∀ d, f = .v d → (s.regsHere.getV d).tag ≠ 15)
    (hp : localTrap (s.envHere b) s.here 0x68 .stf .write (effAddr s.regsHere a o) (StfForm.bytes f) (StfForm.bytes f) = none) :
    exec (.stf p f a o) s = .next (s.ranIn b (.stf p f a o)
      { s.here with ls := s.here.ls.writeFull (effAddr s.regsHere a o).toNat (stfBytes s.regsHere f) } s.regsHere) := by
  have hq := hcl.quiet
  show execStf p f a o s = _
  unfold execStf
  refine issue_done hcl (c := { s.here with ls := s.here.ls.writeFull (effAddr s.regsHere a o).toNat (stfBytes s.regsHere f) })
    ?_ hq.noEcc hq.unsigned rfl
  cases f with
  | s sz d =>
    simp only [State.envHere_regs, State.here_ctx, State.ctxHere_regs, hp, Core.lsWrite_quiet hq, if_true]
    rfl
  | v d =>
    simp only [State.envHere_regs, State.here_ctx, State.ctxHere_regs, blindTrap_none (htag d rfl), hp, Core.lsWrite_quiet hq, if_true]
    rfl

theorem exec_feq {q : PReg} (hcl : Clear s b (.feq p q a o)) (hin : (effAddr s.regsHere a o).toNat + 1 ≤ b.hdr.lstore)
    (hdet : b.det = false) : exec (.feq p q a o) s
      = .next (s.ran b (.feq p q a o) (s.regsHere.setP q (s.here.ls.isFull ((effAddr s.regsHere a o).toNat / 16)))) := by
  have hin' : inStore b (effAddr s.regsHere a o) 1 = true := decide_eq_true hin
  show execFeq p q a o s = _
  unfold execFeq
  refine issue_regs hcl ?_
  simp only [State.envHere_regs, State.here_ctx, State.ctxHere_regs, State.envHere_b, hin', hdet, Bool.not_true, Bool.false_eq_true,
    if_false]
  rfl

theorem exec_feq_det {q : PReg} (hcl : Clear s b (.feq p q a o)) (hin : (effAddr s.regsHere a o).toNat + 1 ≤ b.hdr.lstore)
    (hdet : b.det = true) :
    exec (.feq p q a o) s = .next (s.trapHere b (.feq p q a o) ⟨Cause.nondet, effAddr s.regsHere a o, 0x69⟩) := by
  have hin' : inStore b (effAddr s.regsHere a o) 1 = true := decide_eq_true hin
  show execFeq p q a o s = _
  unfold execFeq
  refine issue_trap hcl ?_
  simp only [State.envHere_regs, State.here_ctx, State.ctxHere_regs, State.envHere_b, hin', hdet, Bool.not_true, Bool.false_eq_true,
    if_false, if_true]
  rfl

theorem exec_feset {full : Bool} {cnt : BitVec 7} (hcl : Clear s b (.feset p full cnt a o))
    (hp : localTrap (s.envHere b) s.here 0x6A .feset .write (effAddr s.regsHere a o) (16 * (cnt.toNat + 1)) 16 = none)
    (hfirst : full = false → s.here.ldfFirst s.cur.ctx none (granules (effAddr s.regsHere a o).toNat (16 * (cnt.toNat + 1))) = false) :
    exec (.feset p full cnt a o) s = .next (s.ranIn b (.feset p full cnt a o)
      { s.here with ls := if full then s.here.ls.setFull (granules (effAddr s.regsHere a o).toNat (16 * (cnt.toNat + 1)))
                          else s.here.ls.setEmpty (granules (effAddr s.regsHere a o).toNat (16 * (cnt.toNat + 1))) } s.regsHere) := by
  have hq := hcl.quiet
  have hnot : (!full && s.here.ldfFirst s.cur.ctx none
      (granules (effAddr s.regsHere a o).toNat (16 * (cnt.toNat + 1)))) = false := by
    cases full
    · simpa using hfirst rfl
    · rfl
  show execFeset p full cnt a o s = _
  unfold execFeset
  refine issue_done hcl ?_ ?_ ?_ ?_
  · simp only [State.envHere_regs, State.here_ctx, State.ctxHere_regs, hp, State.envHere_who, hnot, Bool.false_eq_true, if_false]
  · exact hq.noEcc
  · exact hq.unsigned
  · rfl

end

end Sys2Proof.Machine

open Sys2Proof Sys2Proof.Machine in
/-- Settles O15, one theorem for each thing that LDF, STF, FEQ or FESET may do. -/
theorem fullEmptyAccess : Obligations.FullEmptyAccess := by
  unfold Obligations.FullEmptyAccess
  refine ⟨fun s b p clr f a o hcl => ?_, fun s b p f a o hcl htag => ?_, fun s b p full q a o cnt => ⟨fun hcl hin =>
    ⟨fun hdet => exec_feq hcl hin hdet, fun hdet => exec_feq_det hcl hin hdet⟩, fun hcl hp hfirst => exec_feset hcl hp hfirst⟩⟩
  · refine ⟨fun hk hp hfull hpoison => ?_, fun hk hp hd hfull hpoison hfirst => ?_, fun hp hd hempty hwin => ?_,
      fun hk hin hal hwin hd => ?_⟩
    · cases f <;> exact exec_ldf_keep hcl hp hk hfull hpoison
    · cases f <;> exact exec_ldf_clr hcl hp hk hd hfull hpoison hfirst
    · cases f <;> exact exec_ldf_parks hcl hp hd hempty hwin
    · subst hk
      cases f <;> exact exec_ldf_clr_trap hcl hin hal hwin hd
  · intro hp
    cases f with
    | s sz d =>
      rw [natBytes_length] at hp
      exact exec_stf hcl htag hp
    | v d =>
      rw [natBytes_length] at hp
      exact exec_stf hcl htag hp

/-! # Withheld effects and engine commands (O16, O32) -/

namespace Sys2Proof.Machine
open Sys2Proof

section
variable {s : State} {b : Binding} {i : Instr}

/-! ## Withholding an effect (R40) -/

/-- An unpaired context feeds no fingerprint (R396). -/
theorem Context.feed_unpaired (hq : Quiet s b) (x : Context) (ds : List Word) : x.feed b ds = x := by
  simp [Context.feed, hq.unpaired]

/-- What an instruction leaves that has withheld the effect g and retired. -/
def State.withheld (s : State) (b : Binding) (i : Instr) (g : Egress) : State :=
  s.put (s.here.setCtx s.cur.ctx { s.ctxHere.ran s.regsHere (s.succHere b i) with egress := s.ctxHere.egress ++ [g] })

section
variable (h : Clear s b i) {own : Env → Core → Res} {g : Egress} {ds : List Word}
  (ho : own (s.envHere b) s.here = withhold (s.envHere b) i s.here g ds)
include h ho

theorem issue_withheld (hroom : s.ctxHere.egress.length < 32) : issue i own s = .next (s.withheld b i g) := by
  have hq := h.quiet
  let x : Context := { s.ctxHere with egress := s.ctxHere.egress ++ [g] }
  have hx : (s.here.setCtx s.cur.ctx x).ctx s.cur.ctx = x := Core.ctx_setCtx _ _ hq.lt
  rw [issue_done h (c := s.here.setCtx s.cur.ctx x) ?own (NoEcc.setCtx hq.noEcc _ _) (by rw [hx]; exact hq.unsigned) (by rw [hx]),
    State.ranIn_setCtx hq.lt, hx]
  · rfl
  · rw [ho, withhold]
    simp only [State.envHere_ctx, State.here_ctx, State.envHere_b, Nat.not_le.2 hroom, if_false, State.envHere_modCtx,
      Context.feed_unpaired hq]
    rfl

theorem issue_overflow (hfull : 32 ≤ s.ctxHere.egress.length) :
    issue i own s = .next (s.trapHere b i ⟨Cause.regionOverflow, 0, 32⟩) := by
  refine issue_trap h (ho.trans ?_)
  simp only [withhold, State.envHere_ctx, State.here_ctx, hfull, if_true]
  rfl

end

/-! ## PUSH (R216) -/

section
variable {p : Pred} {big : Bool} {d : VReg} {a c : SReg} {o : Disp}

theorem exec_push (htag : (s.regsHere.getV d).tag ≠ 15) (hal : (effAddr s.regsHere a o).toNat % (if big then 32 else 16) = 0) :
    ∃ own ds, exec (.push p big d a c o) s = issue (.push p big d a c o) own s
      ∧ own (s.envHere b) s.here = withhold (s.envHere b) (.push p big d a c o) s.here
          (.push (s.regsHere.getS c) (effAddr s.regsHere a o) ((vecBytes (s.regsHere.getV d).bits).take (if big then 32 else 16))
            (isTyped (s.regsHere.getV d).tag) (s.regsHere.topx.getLsbD 0)) ds := by
  refine ⟨_, [fpHdr 6 (b2n big), s.regsHere.getS c, effAddr s.regsHere a o]
    ++ (List.range ((if big then 32 else 16) / 8)).map (fun k => (s.regsHere.getV d).bits.extractLsb' (64 * k) 64), rfl, ?_⟩
  simp only [State.envHere_regs, State.here_ctx, State.ctxHere_regs, blindTrap_none htag, hal, bne_self_eq_false, Bool.false_eq_true,
    if_false]

end

/-! ## SEMS, SEND, COLL (R41, R275-R277) -/

section
variable {p : Pred} {q n : BitVec 8} {d a c v : SReg} {len : BitVec 14} {f : Tag} {y : Sync} {k : Level} {cop : BitVec 8} {lw : Option SReg}

theorem exec_sems (hd : s.ctxHere.region.d = false) :
    ∃ own, exec (.sems p q n) s = issue (.sems p q n) own s
      ∧ own (s.envHere b) s.here = withhold (s.envHere b) (.sems p q n) s.here (.sems q.toNat n.toNat) [] := by
  refine ⟨_, rfl, ?_⟩
  simp only [State.envHere_ctx, State.here_ctx, hd, Bool.false_eq_true, if_false]

theorem exec_sems_trap (h : Clear s b (.sems p q n)) (hd : s.ctxHere.region.d = true) :
    exec (.sems p q n) s = .next (s.trapHere b (.sems p q n) ⟨Cause.regionIllegal, 0, 0xCE⟩) := by
  show execSems p q n s = _
  unfold execSems
  refine issue_trap h ?_
  simp only [State.envHere_ctx, State.here_ctx, hd, if_true]
  rfl

theorem withholdCmd_of (hd : s.ctxHere.region.d = false) (maj : Nat) :
    withholdCmd (s.envHere b) i maj s.here = withhold (s.envHere b) i s.here (.cmd i) (cmdRecord s.regsHere i) := by
  simp only [withholdCmd, State.envHere_ctx, State.here_ctx, hd, Bool.false_eq_true, if_false, State.envHere_regs, State.ctxHere_regs]

theorem withholdCmd_trap (hd : s.ctxHere.region.d = true) (maj : Nat) :
    withholdCmd (s.envHere b) i maj s.here = trapI (s.envHere b) i s.here ⟨Cause.regionIllegal, 0, BitVec.ofNat 64 maj⟩ := by
  simp only [withholdCmd, State.envHere_ctx, State.here_ctx, hd, if_true]
  rfl

theorem exec_send_trap (h : Clear s b (.send p d a c len f y)) (hd : s.ctxHere.region.d = true) :
    exec (.send p d a c len f y) s = .next (s.trapHere b (.send p d a c len f y) ⟨Cause.regionIllegal, 0, 0xCB⟩) := by
  show execSend p d a c len f y s = _
  unfold execSend
  exact issue_trap h (withholdCmd_trap hd _)

theorem exec_coll_trap (h : Clear s b (.coll p k cop f d a c v lw y)) (hd : s.ctxHere.region.d = true)
    (hk : barrierLevel b k.toNat = true) :
    exec (.coll p k cop f d a c v lw y) s = .next (s.trapHere b (.coll p k cop f d a c v lw y) ⟨Cause.regionIllegal, 0, 0xCC⟩) := by
  show execColl p k cop f d a c v lw y s = _
  unfold execColl
  refine issue_trap h ?_
  simp only [levelTrap_none hk]
  exact withholdCmd_trap hd _

theorem exec_coll_level (h : Clear s b (.coll p k cop f d a c v lw y)) (hk : barrierLevel b k.toNat = false) :
    exec (.coll p k cop f d a c v lw y) s
      = .next (s.trapHere b (.coll p k cop f d a c v lw y) ⟨Cause.levelRange, 0, BitVec.ofNat 64 k.toNat⟩) := by
  show execColl p k cop f d a c v lw y s = _
  unfold execColl
  refine issue_trap h ?_
  simp only [levelTrap_some hk]

/-- A SEND or COLL outside a D = 1 region is withheld. -/
theorem exec_withheldCmd (hd : s.ctxHere.region.d = false)
    (hi : (∃ p d a c len tag y, i = .send p d a c len tag y)
      ∨ ∃ p k cop tag d a c v lw y, i = .coll p k cop tag d a c v lw y ∧ barrierLevel b k.toNat = true) :
    ∃ own, exec i s = issue i own s
      ∧ own (s.envHere b) s.here = withhold (s.envHere b) i s.here (.cmd i) (cmdRecord s.regsHere i) := by
  obtain ⟨p, d, a, c, len, tag, y, rfl⟩ | ⟨p, k, cop, tag, d, a, c, v, lw, y, rfl, hk⟩ := hi
  · exact ⟨_, rfl, withholdCmd_of hd _⟩
  · refine ⟨_, rfl, ?_⟩
    simp only [levelTrap_none hk]
    exact withholdCmd_of hd _

end

/-! ## Engine commands (R41, R100, R262) -/

/-- The check of R41 that an engine command's own meaning makes. -/
theorem regionBad_iff : regionBad (s.envHere b) s.here i = true ↔ s.ctxHere.region.d = true ∧ (cmdSync i).sig ≠ none := by
  rw [regionBad, Bool.and_eq_true, Option.isSome_iff_ne_none]
  rfl

/-- A full queue stalls the command (R100). -/
theorem accept_full {e : Env} {c : Core} {f : Core → Core} (h : queueCap (cmdQueue i) ≤ (c.queue (cmdQueue i)).length) :
    accept e i c f = waitI e i c 13 false true := by simp only [accept, h, if_true]

/-- What an engine command whose other checks pass does: it traps where its region forbids it, and else is accepted. -/
def EngineTurn (s : State) (b : Binding) (i : Instr) (r : Res) : Prop :=
  (regionForbids s i → r = trapI (s.envHere b) i s.here ⟨Cause.regionIllegal, 0, i.toFields.maj.setWidth 64⟩)
    ∧ (¬ regionForbids s i → 16 ≤ (s.here.queue (cmdQueue i)).length → r = waitI (s.envHere b) i s.here 13 false true)

/-- An engine command whose own test of its region, bad, is R41's. -/
theorem EngineTurn.of_iff {bad : Bool} {maj : Nat} {f : Core → Core} (hbad : bad = true ↔ regionForbids s i)
    (hmaj : i.toFields.maj.setWidth 64 = BitVec.ofNat 64 maj) (hcap : queueCap (cmdQueue i) = 16) :
    EngineTurn s b i (if bad then trapC (s.envHere b) i s.here Cause.regionIllegal maj else accept (s.envHere b) i s.here f) := by
  constructor
  · intro hf
    rw [if_pos (hbad.2 hf), hmaj]
    rfl
  · intro hf hlen
    rw [if_neg (fun hb => hf (hbad.1 hb)), accept_full (by rw [hcap]; exact hlen)]

/-- A command other than MMA is forbidden by its signal alone. -/
theorem EngineTurn.of_sig {maj : Nat} {f : Core → Core}
    (hforbids : regionForbids s i ↔ s.ctxHere.region.d = true ∧ (cmdSync i).sig ≠ none)
    (hmaj : i.toFields.maj.setWidth 64 = BitVec.ofNat 64 maj) (hcap : queueCap (cmdQueue i) = 16) :
    EngineTurn s b i (if regionBad (s.envHere b) s.here i then trapC (s.envHere b) i s.here Cause.regionIllegal maj
      else accept (s.envHere b) i s.here f) := .of_iff (regionBad_iff.trans hforbids.symm) hmaj hcap

/-- The range check of an engine command passes (R262). -/
theorem inStore_of {a : Word} {n : Nat} (h : a.toNat + n ≤ b.hdr.lstore) : inStore b a n = true := decide_eq_true h

/-- The slot check of an MLOAD passes (R265). -/
theorem ownsSlot_of {c : Core} {o : OReg} {n : Nat} (hfree : (c.slot o.toNat).isFree = false) (ho : (c.slot o.toNat).owner = n) :
    ownsSlot c n o = true := by simp [ownsSlot, hfree, ho]

/-- An engine command whose checks before R41's pass. -/
theorem exec_engine (hq : Quiet s b) (hc : EngineChecks s b i) :
    ∃ own, exec i s = issue i own s ∧ EngineTurn s b i (own (s.envHere b) s.here) := by
  unfold EngineChecks at hc
  dsimp only at hc
  split at hc
  case h_1 p mf o a off y =>
    obtain ⟨⟨hin, hal⟩, ⟨hfree, how⟩, hsrc, hqs⟩ := hc
    refine ⟨_, rfl, ?_⟩
    simp only [State.envHere_regs, State.ctxHere_regs, State.here_ctx, State.envHere_b, State.envHere_who, inStore_of hin, hal,
      ownsSlot_of hfree how, hsrc, hqs, Bool.not_true, Bool.and_self, bne_self_eq_false, Bool.false_eq_true, if_false]
    exact .of_sig (by simp [regionForbids]) rfl rfl
  case h_2 p mf ow acc o1 o2 y =>
    obtain ⟨htrap, hdet⟩ := hc
    refine ⟨_, rfl, ?_⟩
    simp only [htrap, hdet, Bool.not_true, Bool.false_eq_true, if_false]
    have hbad : (((s.envHere b).ctx s.here).region.d && !ow || regionBad (s.envHere b) s.here (.mma p mf ow acc o1 o2 y)) = true
        ↔ regionForbids s (.mma p mf ow acc o1 o2 y) := by
      rw [Bool.or_eq_true, regionBad_iff, Bool.and_eq_true, Bool.not_eq_true']
      simp only [regionForbids, State.envHere_ctx, State.here_ctx]
      tauto
    exact .of_iff hbad rfl rfl
  case h_3 p tag acc y =>
    refine ⟨_, rfl, ?_⟩
    simp only [hc, Bool.not_true, Bool.false_eq_true, if_false]
    exact .of_sig (by simp [regionForbids]) rfl rfl
  case h_4 p tag acc a off y =>
    obtain ⟨⟨hin, hal⟩, hsrc, hqs, hdet⟩ := hc
    refine ⟨_, rfl, ?_⟩
    simp only [State.envHere_regs, State.ctxHere_regs, State.here_ctx, State.envHere_b, inStore_of hin, hal, hsrc, hqs, hdet,
      Bool.not_true, Bool.and_self, bne_self_eq_false, Bool.false_eq_true, if_false]
    exact .of_sig (by simp [regionForbids]) rfl rfl
  case h_5 p tag acc rm a off y =>
    obtain ⟨⟨hin, hal⟩, htag, hwin, hdst, hqs, hdet⟩ := hc
    refine ⟨_, rfl, ?_⟩
    simp only [State.envHere_regs, State.ctxHere_regs, State.here_ctx, State.envHere_b, inStore_of hin, hal, htag, hwin, hdst, hqs, hdet,
      Bool.not_true, Bool.and_self, bne_self_eq_false, Bool.false_eq_true, if_false]
    exact .of_sig (by simp [regionForbids]) rfl rfl
  case h_6 p d a v vr y =>
    obtain ⟨⟨⟨hin, hal⟩, hglob, hlen, hpos, hmax, hcan⟩, hwin, hdst, hqs⟩ := hc
    refine ⟨_, rfl, ?_⟩
    simp only [State.envHere_regs, State.ctxHere_regs, State.here_ctx, State.envHere_b, inStore_of hin, hal, hglob, hlen, hcan, hwin, hdst,
      hqs, beq_false_of_ne hpos.ne', Nat.not_lt.2 hmax, decide_false, Bool.not_true, Bool.and_self, Bool.or_self, bne_self_eq_false,
      Bool.false_eq_true, if_false, pairCheck_quiet hq]
    have hsame : (if queueCap .cx ≤ s.here.cx.length then waitI (s.envHere b) (.cpyFetch p d a v vr y) s.here 13 false true
        else accept (s.envHere b) (.cpyFetch p d a v vr y) s.here) = accept (s.envHere b) (.cpyFetch p d a v vr y) s.here :=
      ite_eq_right_iff.2 (fun hfull => (accept_full (i := .cpyFetch p d a v vr y) hfull).symm)
    rw [hsame]
    exact .of_sig (by simp [regionForbids]) rfl rfl
  case h_7 p d a v vr st y =>
    obtain ⟨⟨⟨hin, hal⟩, hglob, hlen, hpos, hmax, hcan⟩, hsrc, hqs⟩ := hc
    refine ⟨_, rfl, ?_⟩
    simp only [State.envHere_regs, State.ctxHere_regs, State.here_ctx, State.envHere_b, inStore_of hin, hal, hglob, hlen, hcan, hsrc,
      hqs, beq_false_of_ne hpos.ne', Nat.not_lt.2 hmax, decide_false, Bool.not_true, Bool.and_self, Bool.or_self, bne_self_eq_false,
      Bool.false_eq_true, if_false]
    exact .of_sig (by simp [regionForbids]) rfl rfl
  case h_8 => exact hc.elim

end

/-- Settles O16: each withheld instruction by what withholding does with room and without, an engine command that its region forbids by
what its own checks leave. -/
theorem withheldUntilCommit : Obligations.WithheldUntilCommit := by
  unfold Obligations.WithheldUntilCommit
  refine ⟨fun s b p big d a c o q inc => ⟨?_, ?_, ?_, ?_⟩, fun s b p q n d a c v len f y k cop lw hd => ⟨?_, ?_, ?_⟩, ?_⟩
  · intro h htag hal hroom
    obtain ⟨own, ds, he, ho⟩ := exec_push (p := p) (c := c) htag hal
    rw [he, issue_withheld h ho hroom]
    rfl
  · intro h htag hal hfull
    obtain ⟨own, ds, he, ho⟩ := exec_push (p := p) (c := c) htag hal
    rw [he, issue_overflow h ho hfull]
  · intro h hd hroom
    obtain ⟨own, he, ho⟩ := exec_sems hd
    rw [he, issue_withheld h ho hroom]
    rfl
  · intro h hd hfull
    obtain ⟨own, he, ho⟩ := exec_sems hd
    rw [he, issue_overflow h ho hfull]
  · exact fun h => exec_sems_trap h hd
  · exact fun h => exec_send_trap h hd
  · exact fun h hk => exec_coll_trap h hd hk
  · intro s b i h hc hf
    obtain ⟨own, he, hturn⟩ := exec_engine h.quiet hc
    rw [he, issue_trap h (hturn.1 hf)]

/-- Settles O32: an engine command whose checks pass meets its queue, and SEND and COLL are withheld as every withheld instruction is. -/
theorem engineQueuesAndWithheldCommands : Obligations.EngineQueuesAndWithheldCommands := by
  unfold Obligations.EngineQueuesAndWithheldCommands
  refine ⟨?_, ?_, fun s b p tag y k cop d a c v lw => exec_coll_level⟩
  · intro s b i h hc hf hfull
    obtain ⟨own, he, hturn⟩ := exec_engine h.quiet hc
    rw [he, issue_wait h (hturn.2 hf hfull)]
  · intro s b i h hd hi
    obtain ⟨own, he, ho⟩ := exec_withheldCmd (b := b) hd hi
    exact ⟨fun hroom => by rw [he, issue_withheld h ho hroom]; rfl, fun hfull => by rw [he, issue_overflow h ho hfull]⟩

end Sys2Proof.Machine

/-! # Joins (O17) -/

namespace Sys2Proof.Machine
open Sys2Proof

section
variable {s : State} {b : Binding} {i : Instr}

/-- What a wait at the instruction leaves of the core. -/
theorem waitI_core (code : Nat) (parked poll : Bool) (no left : Nat) :
    (waitI (s.envHere b) i s.here code parked poll no left).core = s.here.waitsAt s.cur.ctx i code parked poll no left := by
  unfold waitI Core.waitsAt
  simp only [State.envHere_ctx, State.envHere_who]
  cases (s.here.ctx s.cur.ctx).wait <;> rfl

/-- The checks of R209 pass: the access goes on with its translation. -/
theorem flowCheck_ok {acc : Access} {ea : Word} {align n : Nat} {kind : Kind} {wd : Width} {t : Tlb}
    (h : Reaches s b acc ea align n kind wd t) : flowCheck s.here s.ctxHere b.asid acc ea align n kind wd = .ok t := by
  obtain ⟨hcan, hal, hline, hhit, hperm, hkind⟩ := h
  simp only [flowCheck, hcan, hal, Nat.not_lt.2 hline, hhit, hperm, hkind, Bool.not_true, bne_self_eq_false, Bool.false_eq_true, if_false]

/-! ## The course of a join (R219-R221) -/

/-- A fused fence at a level within the tree passes its check (R28). -/
theorem levelIn_depthTrap {lv : Option Level} (h : LevelIn b lv) :
    (match lv with | some k => depthTrap (s.envHere b) k.toNat | none => none) = none := by
  cases lv with
  | none => rfl
  | some k => exact if_pos (h k rfl)

section
variable {kind : Kind} {wd : Width} {lv : Option Level} {ea : Word} {align n : Nat} {data : JoinData} {es : List (Nat × Nat)}
  {rec_ : Regs → List Word} (hlv : LevelIn b lv)
include hlv

/-- A join whose element is posted already goes on as FENCE does (R221). -/
theorem joinOwn_fence (hf : inFence (s.envHere b) s.here = true) : joinOwn (s.envHere b) i s.here kind wd lv ea align n data es rec_
    = if fenceWaits (s.envHere b) s.here ((lv.map (·.toNat)).getD 0) then waitI (s.envHere b) i s.here 11 false true 1
      else done (s.envHere b) i s.here := by
  have hd := levelIn_depthTrap (s := s) hlv
  unfold joinOwn
  split
  · next t ht => cases hd.symm.trans ht
  · rw [if_pos hf]

/-- A join that passes its checks and meets no window sends its data, if it has any. -/
theorem joinOwn_send {t : Tlb} (hf : inFence (s.envHere b) s.here = false) (hr : Reaches s b .join ea align n kind wd t)
    (hw : globalWin s.here ea = none) : joinOwn (s.envHere b) i s.here kind wd lv ea align n data es rec_
    = if data.isNone && kind != .cnt then done (s.envHere b) i s.here
      else sendJoin (s.envHere b) i s.here (kind == .cnt) lv ⟨ea, t.phys ea / 64 * 64, data⟩ rec_ := by
  have hd := levelIn_depthTrap (s := s) hlv
  unfold joinOwn
  split
  · next u hu => cases hd.symm.trans hu
  · rw [if_neg (by rw [hf]; exact Bool.false_ne_true)]
    simp only [flowAccess, State.envHere_ctx, State.here_ctx, State.envHere_b, flowCheck_ok hr, hw]

end

/-! ## Sending it (R40, R65, R221) -/

section
variable (h : Clear s b i) {own : Env → Core → Res} {lv : Option Level} {j : JoinOut} {rec_ : Regs → List Word} {cnt : Bool}
include h

theorem issue_postNow (hcnt : cnt = false) (ho : own (s.envHere b) s.here = sendJoin (s.envHere b) i s.here cnt none j rec_)
    (hl : postLimit (s.envHere b) s.here j.line = false) : issue i own s = .next ((s.ran b i s.regsHere).postJoin s.cur b j) := by
  rw [issue_clear h, ho]
  simp only [sendJoin, hcnt, postNow, hl, State.envHere_b, h.quiet.unpaired, Bool.false_eq_true, if_false, retire_same h.quiet h.quiet.same]
  rfl

theorem issue_postThenWait (hcnt : cnt = false) (ho : own (s.envHere b) s.here = sendJoin (s.envHere b) i s.here cnt lv j rec_)
    (hsome : lv.isSome = true) (hl : postLimit (s.envHere b) s.here j.line = false) :
    issue i own s = .next ((s.put (s.here.waitsAt s.cur.ctx i 11 false true 1 0)).postJoin s.cur b j) := by
  obtain ⟨k, rfl⟩ := Option.isSome_iff_exists.1 hsome
  rw [issue_clear h, ho]
  simp only [sendJoin, hcnt, hl, State.envHere_b, h.quiet.unpaired, Bool.false_eq_true, if_false, waitI_core]
  rfl

theorem issue_postStalls (hcnt : cnt = false) (ho : own (s.envHere b) s.here = sendJoin (s.envHere b) i s.here cnt lv j rec_)
    (hl : postLimit (s.envHere b) s.here j.line = true) :
    issue i own s = .next (s.put (s.here.waitsAt s.cur.ctx i 12 false true 0 0)) := by
  refine issue_wait h (ho.trans ?_)
  simp only [sendJoin, hcnt, hl, Bool.false_eq_true, if_false, if_true]

end

/-- A .cnt join is withheld as the instruction. -/
theorem sendJoin_cnt {lv : Option Level} {j : JoinOut} {rec_ : Regs → List Word} {cnt : Bool} (hcnt : cnt = true) :
    sendJoin (s.envHere b) i s.here cnt lv j rec_ = withhold (s.envHere b) i s.here (.join i) (rec_ s.regsHere) := if_pos hcnt

/-! ## JOIN and JOINV -/

section
variable {p : Pred} {kind : Kind} {wd : Width} {lv : Option Level} {d a : SReg} {v : VReg} {o : Disp} {t : Tlb} {f : JoinvForm}

theorem exec_join_fence (h : Clear s b (.join p kind wd lv d a o)) (hlv : LevelIn b lv) (hf : inFence (s.envHere b) s.here = true)
    (k : Level) (hk : lv = some k) :
    exec (.join p kind wd lv d a o) s = .next (if fenceWaits (s.envHere b) s.here k.toNat
      then s.put (s.here.waitsAt s.cur.ctx (.join p kind wd lv d a o) 11 false true 1 0)
      else s.ran b (.join p kind wd lv d a o) s.regsHere) := by
  show execJoin p kind wd lv d a o s = _
  unfold execJoin
  subst hk
  cases hw : fenceWaits (s.envHere b) s.here k.toNat with
  | false => exact issue_same h ((joinOwn_fence hlv hf).trans (by simp [hw]))
  | true => exact issue_wait h ((joinOwn_fence hlv hf).trans (by simp [hw]))

/-- A JOIN that passes its checks sends its element. -/
theorem exec_join_send (hlv : LevelIn b lv) (hf : inFence (s.envHere b) s.here = false)
    (hr : Reaches s b .join (effAddr s.regsHere a o) (wd.bits / 8) (wd.bits / 8) kind wd t)
    (hw : globalWin s.here (effAddr s.regsHere a o) = none) :
    ∃ own rec_, exec (.join p kind wd lv d a o) s = issue (.join p kind wd lv d a o) own s
      ∧ own (s.envHere b) s.here = sendJoin (s.envHere b) (.join p kind wd lv d a o) s.here (kind == .cnt) lv
          ⟨effAddr s.regsHere a o, t.phys (effAddr s.regsHere a o) / 64 * 64,
            .elems kind wd [((effAddr s.regsHere a o).toNat % 64, datum kind wd.bits (s.regsHere.getS d))]⟩ rec_ :=
  ⟨_, _, rfl, (joinOwn_send hlv hf hr hw).trans (if_neg (by simp [JoinData.isNone, joinElem]))⟩

/-- A JOINV names no level. -/
theorem levelIn_none : LevelIn b none := fun _ h => nomatch h

section
variable (htag : joinvTrap s.regsHere f v = none) (hfence : inFence (s.envHere b) s.here = false)
  (hw : globalWin s.here (effAddr s.regsHere a o) = none)
include htag hfence hw

theorem exec_joinv_elems {mk : Option MReg} (hform : f = .elems kind wd mk)
    (hr : Reaches s b .join (effAddr s.regsHere a o) (wd.bits / 8) 32 kind wd t) :
    ∃ own rec_, exec (.joinv p f v a o) s = issue (.joinv p f v a o) own s
      ∧ own (s.envHere b) s.here =
        if (joinvElems s.regsHere wd mk v (effAddr s.regsHere a o)).isEmpty && kind != .cnt then done (s.envHere b) (.joinv p f v a o) s.here
        else sendJoin (s.envHere b) (.joinv p f v a o) s.here (kind == .cnt) none ⟨effAddr s.regsHere a o,
          t.phys (effAddr s.regsHere a o) / 64 * 64, .elems kind wd (joinvElems s.regsHere wd mk v (effAddr s.regsHere a o))⟩ rec_ := by
  subst hform
  refine ⟨_, fun r => joinRecord kind wd (effAddr r a o) (joinvPayload r wd mk v), rfl, ?_⟩
  simp only [State.envHere_regs, State.here_ctx, State.ctxHere_regs, htag]
  exact joinOwn_send levelIn_none hfence hr hw

theorem exec_joinv_fill {c : SReg} (hform : f = .fill c) (hr : Reaches s b .join (effAddr s.regsHere a o) 16 16 .fill .w8 t) :
    ∃ own rec_, exec (.joinv p f v a o) s = issue (.joinv p f v a o) own s
      ∧ own (s.envHere b) s.here = sendJoin (s.envHere b) (.joinv p f v a o) s.here false none ⟨effAddr s.regsHere a o,
          t.phys (effAddr s.regsHere a o) / 64 * 64, .fill ((effAddr s.regsHere a o).toNat % 64 / 16) ((s.regsHere.getS c).setWidth 32)
            ((s.regsHere.getV v).bits.setWidth 128)⟩ rec_ := by
  subst hform
  refine ⟨_, fun r => joinRecord .fill .w8 (effAddr r a o)
    [(r.getV v).bits.extractLsb' 0 64, (r.getV v).bits.extractLsb' 64 64, (r.getS c).setWidth 32 |>.setWidth 64], rfl, ?_⟩
  simp only [State.envHere_regs, State.here_ctx, State.ctxHere_regs, htag]
  exact joinOwn_send levelIn_none hfence hr hw

theorem exec_joinv_ver {c : SReg} (hform : f = .ver c) (hr : Reaches s b .join (effAddr s.regsHere a o) 64 64 .ver .w8 t) :
    ∃ own rec_, exec (.joinv p f v a o) s = issue (.joinv p f v a o) own s
      ∧ own (s.envHere b) s.here = sendJoin (s.envHere b) (.joinv p f v a o) s.here false none ⟨effAddr s.regsHere a o,
          t.phys (effAddr s.regsHere a o) / 64 * 64, .ver ((s.regsHere.getS c).setWidth 32) (pairData s.regsHere v)⟩ rec_ := by
  subst hform
  refine ⟨_, fun r => joinRecord .ver .w8 (effAddr r a o)
    ((List.range 8).map (fun k => (pairData r v).extractLsb' (64 * k) 64) ++ [(r.getS c).setWidth 32 |>.setWidth 64]), rfl, ?_⟩
  simp only [State.envHere_regs, State.here_ctx, State.ctxHere_regs, htag]
  exact joinOwn_send levelIn_none hfence hr hw

end
end
end

/-- Settles O17: a join past its checks sends its elements, and what sending does depends on its kind, its level and the posts
outstanding. -/
theorem joinsPosted : Obligations.JoinsPosted := by
  unfold Obligations.JoinsPosted
  refine ⟨?_, ?_⟩
  · intro s b p kind wd lv d a o t i ea j h hlv
    refine ⟨?_, ?_⟩
    · intro hf hr hw
      obtain ⟨own, rec_, he, ho⟩ := exec_join_send (p := p) (d := d) hlv hf hr hw
      refine ⟨?_, ?_, ?_, ?_⟩
      · intro hk hl
        exact ⟨fun hn => he.trans (by subst hn; exact issue_postNow h (beq_false_of_ne hk) ho hl),
          fun hs => he.trans (issue_postThenWait h (beq_false_of_ne hk) ho hs hl)⟩
      · intro hk hl
        exact he.trans (issue_postStalls h (beq_false_of_ne hk) ho hl)
      · intro hk hroom
        exact he.trans (issue_withheld h (ho.trans (sendJoin_cnt (by simp [hk]))) hroom)
      · intro hk hfull
        exact he.trans (issue_overflow h (ho.trans (sendJoin_cnt (by simp [hk]))) hfull)
    · intro k hk hf
      rw [exec_join_fence h hlv hf k hk]
      exact ⟨fun hw => by rw [hw]; rfl, fun hw => by rw [hw]; rfl⟩
  · intro s b p f d a o t i ea line stalls posts h ht hf hw
    refine ⟨?_, ?_, ?_⟩
    · intro kind wd mk hform hr es
      obtain ⟨own, rec_, he, ho⟩ := exec_joinv_elems (p := p) ht hf hw hform hr
      change own _ _ = if es.isEmpty && kind != .cnt then _ else _ at ho
      have send : es ≠ [] ∨ kind = .cnt → own (s.envHere b) s.here
          = sendJoin (s.envHere b) i s.here (kind == .cnt) none ⟨ea, line, .elems kind wd es⟩ rec_ := by
        intro hes
        refine ho.trans (if_neg ?_)
        rw [Bool.and_eq_true, List.isEmpty_iff, bne_iff_ne]
        tauto
      refine ⟨?_, ?_, ?_, ?_, ?_⟩
      · intro hes hk
        exact he.trans (issue_same h (ho.trans (if_pos (by simp [hes, hk]))))
      · intro hes hk hl
        exact he.trans (issue_postNow h (beq_false_of_ne hk) (send (.inl hes)) hl)
      · intro hes hk hl
        exact he.trans (issue_postStalls h (beq_false_of_ne hk) (send (.inl hes)) hl)
      · intro hk hroom
        exact he.trans (issue_withheld h ((send (.inr hk)).trans (sendJoin_cnt (by simp [hk]))) hroom)
      · intro hk hfull
        exact he.trans (issue_overflow h ((send (.inr hk)).trans (sendJoin_cnt (by simp [hk]))) hfull)
    · intro c hform hr
      obtain ⟨own, rec_, he, ho⟩ := exec_joinv_fill (p := p) ht hf hw hform hr
      exact ⟨fun hl => he.trans (issue_postStalls h rfl ho hl), fun hl => he.trans (issue_postNow h rfl ho hl)⟩
    · intro c hform hr
      obtain ⟨own, rec_, he, ho⟩ := exec_joinv_ver (p := p) ht hf hw hform hr
      exact ⟨fun hl => he.trans (issue_postStalls h rfl ho hl), fun hl => he.trans (issue_postNow h rfl ho hl)⟩

end Sys2Proof.Machine

/-! # The release of a barrier (O36) -/

namespace Sys2Proof.Machine
open Sys2Proof

/-! ## Votes (R37) -/

/-- The larger of two contributions; the earlier of two equal ones. -/
theorem voteMax_mem_ge (vs : List Word) (m : Word) :
    let r := vs.foldl (fun m x => if m.toNat < x.toNat then x else m) m
    (r = m ∨ r ∈ vs) ∧ m.toNat ≤ r.toNat ∧ ∀ v ∈ vs, v.toNat ≤ r.toNat := by
  induction vs generalizing m with
  | nil => exact ⟨.inl rfl, Nat.le_refl _, fun v hv => nomatch hv⟩
  | cons x vs ih =>
    obtain ⟨hmem, hle, hall⟩ := ih (if m.toNat < x.toNat then x else m)
    rw [List.foldl_cons]
    have hboth : m.toNat ≤ (if m.toNat < x.toNat then x else m).toNat ∧ x.toNat ≤ (if m.toNat < x.toNat then x else m).toNat := by
      split <;> omega
    refine ⟨?_, hboth.1.trans hle, ?_⟩
    · obtain heq | hin := hmem
      · rw [heq]
        split
        · exact .inr (List.mem_cons_self ..)
        · exact .inl rfl
      · exact .inr (List.mem_cons_of_mem _ hin)
    · intro v hv
      obtain rfl | hv := List.mem_cons.1 hv
      · exact hboth.2.trans hle
      · exact hall v hv

theorem voteAnd_getLsbD (vs : List Word) (m : Word) (n : Nat) :
    (vs.foldl (· &&& ·) m).getLsbD n = (m.getLsbD n && vs.all (·.getLsbD n)) := by
  induction vs generalizing m with
  | nil => simp
  | cons x vs ih => rw [List.foldl_cons, ih, BitVec.getLsbD_and, List.all_cons, Bool.and_assoc]

theorem voteOr_getLsbD (vs : List Word) (m : Word) (n : Nat) :
    (vs.foldl (· ||| ·) m).getLsbD n = (m.getLsbD n || vs.any (·.getLsbD n)) := by
  induction vs generalizing m with
  | nil => simp
  | cons x vs ih => rw [List.foldl_cons, ih, BitVec.getLsbD_or, List.any_cons, Bool.or_assoc]

/-- The votes of all combined under each operation. -/
theorem voteResult_spec {vs : List Word} (h : vs ≠ []) :
    (∀ n, (voteResult .and vs).getLsbD n = vs.all (·.getLsbD n)) ∧ (∀ n, (voteResult .or vs).getLsbD n = vs.any (·.getLsbD n))
      ∧ voteResult .max vs ∈ vs ∧ ∀ v ∈ vs, v.toNat ≤ (voteResult .max vs).toNat := by
  cases vs with
  | nil => exact absurd rfl h
  | cons x vs =>
    obtain ⟨hmem, hle, hall⟩ := voteMax_mem_ge vs x
    refine ⟨fun n => voteAnd_getLsbD vs x n, fun n => voteOr_getLsbD vs x n, List.mem_cons.2 hmem, fun v hv => ?_⟩
    obtain rfl | hv := List.mem_cons.1 hv
    · exact hle
    · exact hall v hv

/-- Every VOTE.p of a generation names a plan. -/
theorem badResult_none {np : Nat} {vs : List Word} {arr : List Arrival} : badResult np vs arr = none
    ↔ ∀ a ∈ arr, ∀ op w, a.vote = some (op, w) → a.sel = true → (voteResult op vs).toNat < np := by
  rw [badResult, List.findSome?_eq_none_iff]
  refine forall₂_congr fun a ha => ?_
  cases hv : a.vote with
  | none => simp
  | some v => simp [Prod.ext_iff]

/-- The result that names no plan is that of a VOTE.p. -/
theorem badResult_some {np : Nat} {vs : List Word} {arr : List Arrival} {v : Word} (h : badResult np vs arr = some v) :
    ∃ a ∈ arr, ∃ op w, a.vote = some (op, w) ∧ a.sel = true ∧ v = voteResult op vs := by
  obtain ⟨a, ha, hsome⟩ := List.exists_of_findSome?_eq_some h
  cases hv : a.vote with
  | none => simp [hv] at hsome
  | some p =>
    obtain ⟨hsel, hr⟩ : (a.sel = true ∧ np ≤ (voteResult p.1 vs).toNat) ∧ voteResult p.1 vs = v := by simpa [hv] using hsome
    exact ⟨a, ha, p.1, p.2, hv, hsel.1, hr.symm⟩

/-- What the release of its generation leaves of an arrival. -/
theorem Arrival.release_of {a : Arrival} {k g : Nat} (vs : List Word) (bad : Option Word) (hk : a.level = k) (hg : a.gen = g)
    (hr : a.released = false) : Arrival.release k g vs bad a
      = { a with released := true, result := (match a.vote with | some v => some (voteResult v.1 vs) | none => bad), bad := bad.isSome } :=
  if_pos (by simp [hk, hg, hr])

/-! ## The release (R29, R32) -/

section
variable {s : State} {l : LaunchId} {k node : Nat} {b : Binding}

/-- The places of the parties of a node of the binding's launch. -/
def Binding.parties (b : Binding) (k node : Nat) : List (Nat × Nat) := (nodeMembers b.tree k node).filterMap b.place

/-- The oldest arrival at a level of each of the places, where one is not released. -/
def State.arrivalsAt (s : State) (k : Nat) (ps : List (Nat × Nat)) : List (Option Arrival) :=
  ps.map (fun p => (s.core p.1 p.2).waitingArrival k)

/-- Whether the arrivals of a node all count for generation g. -/
def allCounted (g : Nat) (arr : List (Option Arrival)) : Bool :=
  arr.all (fun o => match o with | some x => x.gen == g && x.counted | none => false)

theorem allCounted_iff {g : Nat} {arr : List (Option Arrival)} :
    allCounted g arr = true ↔ ∀ o ∈ arr, ∃ a, o = some a ∧ a.gen = g ∧ a.counted = true := by
  rw [allCounted, List.all_eq_true]
  refine forall₂_congr fun o ho => ?_
  cases o <;> simp

/-- Whether a generation of a node is whole beyond its device (R32). -/
def State.nodeWhole (s : State) (l : LaunchId) (k node : Nat) (lv : TreeLevel) (ps : List (Nat × Nat)) (g : Nat) : Bool :=
  decide (lv.code < 7)
    || decide ((ps.map (·.1)).eraseDups.length * g ≤ s.barrierCount l ((ps.map (·.1)).eraseDups.foldl min (2 ^ 14)) k node)

/-- The release of a generation at all its places. -/
def State.released (s : State) (k g : Nat) (vs : List Word) (bad : Option Word) (ps : List (Nat × Nat)) : State :=
  ps.foldl (fun t p => t.modCore p.1 p.2 (fun c => c.releaseArrival k g vs bad)) s

/-- The votes among arrivals. -/
def votesOf (arr : List (Option Arrival)) : List Word := arr.filterMap (fun o => (o.bind (·.vote)).map (·.2))

theorem exec_barrierRelease {lv : TreeLevel} (hb : s.bindingOf l = some b) (hlv : b.level? k = some lv) :
    exec (.barrierRelease l k node) s = match s.arrivalsAt k (b.parties k node) with
      | some a :: _ =>
        if allCounted a.gen (s.arrivalsAt k (b.parties k node)) && s.nodeWhole l k node lv (b.parties k node) a.gen then
          .next (s.released k a.gen (votesOf (s.arrivalsAt k (b.parties k node))) (badResult b.plan.nph.length
            (votesOf (s.arrivalsAt k (b.parties k node))) ((s.arrivalsAt k (b.parties k node)).filterMap id)) (b.parties k node))
        else .next s
      | _ => .next s := by
  show execBarrierRelease l k node s = _
  simp only [execBarrierRelease, hb, hlv]
  rfl

/-- Every party arrived, and the node whole: the generation is released. -/
theorem exec_barrierRelease_of {lv : TreeLevel} {g : Nat} (hb : s.bindingOf l = some b) (hlv : b.level? k = some lv)
    (hne : b.parties k node ≠ []) (hall : allCounted g (s.arrivalsAt k (b.parties k node)) = true)
    (hwhole : s.nodeWhole l k node lv (b.parties k node) g = true) :
    exec (.barrierRelease l k node) s = .next (s.released k g (votesOf (s.arrivalsAt k (b.parties k node)))
      (badResult b.plan.nph.length (votesOf (s.arrivalsAt k (b.parties k node))) ((s.arrivalsAt k (b.parties k node)).filterMap id))
      (b.parties k node)) := by
  rw [exec_barrierRelease hb hlv]
  cases harr : s.arrivalsAt k (b.parties k node) with
  | nil => exact absurd (List.map_eq_nil_iff.1 harr) hne
  | cons o os =>
    obtain ⟨a, rfl, rfl, -⟩ := allCounted_iff.1 hall o (by rw [harr]; exact List.mem_cons_self ..)
    rw [harr] at hall
    exact if_pos (by rw [hall, hwhole]; rfl)

/-- Otherwise nothing happens: a first arrival whose generation is not there at every party, or not whole. -/
theorem exec_barrierRelease_not {lv : TreeLevel} (hb : s.bindingOf l = some b) (hlv : b.level? k = some lv)
    (h : ∀ a, some a ∈ s.arrivalsAt k (b.parties k node) → allCounted a.gen (s.arrivalsAt k (b.parties k node)) = true →
      s.nodeWhole l k node lv (b.parties k node) a.gen = false) :
    exec (.barrierRelease l k node) s = .next s := by
  rw [exec_barrierRelease hb hlv]
  cases harr : s.arrivalsAt k (b.parties k node) with
  | nil => rfl
  | cons o os =>
    cases o with
    | none => rfl
    | some a =>
      rw [harr] at h
      refine if_neg ?_
      rw [Bool.and_eq_true]
      exact fun ⟨hall, hw⟩ => Bool.false_ne_true ((h a (List.mem_cons_self ..) hall).symm.trans hw)

end

/-- Settles O36: the release goes by the first party's arrival, whose generation must be counted at every party and whole at the node. -/
theorem barrierRelease : Obligations.BarrierRelease := by
  unfold Obligations.BarrierRelease
  intro s l k node g b lv hb hlv places devs arrived parties votes whole hne
  have hwhole : s.nodeWhole l k node lv (b.parties k node) g = true ↔ whole := by
    rw [State.nodeWhole, Bool.or_eq_true, decide_eq_true_iff, decide_eq_true_iff]
    rfl
  refine ⟨?_, ?_, ?_, ?_, voteResult_spec⟩
  · intro hall hw
    exact ⟨_, exec_barrierRelease_of hb hlv hne (allCounted_iff.2 hall) (hwhole.2 hw), badResult_none, fun v => badResult_some⟩
  · intro ⟨o, ho, hnot⟩
    refine exec_barrierRelease_not hb hlv fun a _ hall => ?_
    obtain ⟨x, hx, -, hc⟩ := allCounted_iff.1 hall o ho
    exact absurd hc (by rw [hnot x hx]; exact Bool.false_ne_true)
  · intro hgen hw
    refine exec_barrierRelease_not hb hlv fun a ha _ => ?_
    obtain ⟨x, hx, hg⟩ := hgen _ ha
    obtain rfl := Option.some.inj hx
    rw [hg]
    exact Bool.eq_false_iff.2 fun h => hw (hwhole.1 h)
  · intro c a bad ha hk hg hr
    have hmem : Arrival.release k g votes bad a ∈ (c.releaseArrival k g votes bad).arrivals := List.mem_map_of_mem ha
    rw [Arrival.release_of votes bad hk hg hr] at hmem
    exact hmem

end Sys2Proof.Machine

/-! # Walks, fills, landings and exchanges at their core (O37) -/

namespace Sys2Proof.Machine
open Sys2Proof

/-! ## A core without a partner -/

section
variable {s : State} {d c : Nat} {b : Binding}

/-- A core that is set stays alone while it stays bound. -/
theorem Alone.setCore (h : Alone s d c b) {k : Core} (hk : k.bound = some b) : Alone (s.setCore d c k) d c b :=
  ⟨by rw [State.core_setCore (State.aget_of_bound h.1), hk], h.2⟩

theorem Alone.core_modCore (h : Alone s d c b) (f : Core → Core) : (s.modCore d c f).core d c = f (s.core d c) := by
  rw [State.modCore_alone h, State.core_setCore (State.aget_of_bound h.1)]

theorem Alone.net_modCore (h : Alone s d c b) (f : Core → Core) : (s.modCore d c f).net = s.net := by
  rw [State.modCore_alone h, State.setCore_net]

/-- A change that leaves the core bound. -/
theorem Alone.modCore (h : Alone s d c b) {f : Core → Core} (hf : (f (s.core d c)).bound = some b) : Alone (s.modCore d c f) d c b := by
  rw [State.modCore_alone h]
  exact h.setCore hf

/-- A state whose cores are those of s. -/
theorem Alone.congr {u : State} (h : Alone s d c b) (hu : u.core d c = s.core d c) : Alone u d c b := ⟨by rw [hu, h.1], h.2⟩

/-- A step of a context of a core without a partner. -/
theorem Alone.onCtx {k : Nat} (h : Alone s d c b) (f : Env → Core → Res) : s.onCtx ⟨d, c, k⟩ f
    = (f (s.env ⟨d, c, k⟩ b) (s.core d c)).post (s.setCore d c (f (s.env ⟨d, c, k⟩ b) (s.core d c)).core) := by
  simp only [State.onCtx, runCtx, h.1, h.2]

end

/-- A message that cannot be merged crosses the mesh of its device, unheld. -/
theorem State.net_send_self (s : State) (d : Nat) (w : BitVec 24) {m : Body} (h : m.mergeable = false) :
    (s.send d d w m).net = s.net ++ [⟨d, none, w, m⟩] := by simp [State.send, State.mesh, h]

/-- A write of local store changes the store and, with an injected error about, where it lies. -/
theorem Core.lsWrite_eq (c : Core) (full : Bool) (a : Nat) (bs : List Byte) : ∃ v w, c.lsWrite full a bs
    = { c with ls := if full then c.ls.writeFull a bs else c.ls.write a bs, eccArm := v, eccG := w } := by
  unfold Core.lsWrite
  dsimp only
  split
  · split
    · exact ⟨_, _, rfl⟩
    · exact ⟨_, _, rfl⟩
  · split
    · exact ⟨_, _, rfl⟩
    · exact ⟨_, _, rfl⟩

/-- A landing or an engine writes its bytes and sets their granules full (R90). -/
theorem Core.engineWrite_ls (c : Core) (a : Nat) (bs : List Byte) : (c.engineWrite a bs).ls = c.ls.writeFull a bs := by
  obtain ⟨v, w, h⟩ := c.lsWrite_eq true a bs
  rw [Core.engineWrite, h]
  rfl

theorem Core.engineWrite_held (c : Core) (a : Nat) (bs : List Byte) : (c.engineWrite a bs).held = c.held := by
  obtain ⟨v, w, h⟩ := c.lsWrite_eq true a bs
  rw [Core.engineWrite, h]

/-! ## Walks and fills (R79, R81) -/

section
variable {s : State} {d c n : Nat} {b : Binding}

/-- A walk that finds a translation gives it to its core. -/
theorem exec_walkComplete {x : Device} {k asid : Nat} {v : WalkFor} {t : Word} {y : Tlb} (hx : aget s.devs d = some x)
    (hw : x.walks[n]? = some ⟨k, v, asid, t⟩) (hv : v = .ctx c 0 ∨ v = .cmd c .cx) (hn : n < 96) (hy : walk s d k asid t = .ok y) :
    exec (.walkComplete d n) s = .next ((s.modDev d (fun x => { x with walks := x.walks.eraseIdx n })).modCore d c
      (fun c => { c with tlb := c.tlb ++ [y] })) := by
  have hfew : ¬ 96 ≤ ((x.walks.take n).filter (fun v => v.die == k)).length := by
    have h1 := List.length_filter_le (fun v : Walk => v.die == k) (x.walks.take n)
    have h2 := List.length_take_le n x.walks
    omega
  have hcore : (⟨k, v, asid, t⟩ : Walk).core = c := by obtain rfl | rfl := hv <;> rfl
  show execWalkComplete d n s = _
  simp only [execWalkComplete, State.device_of hx, hw, hfew, if_false, hy, hcore]

/-- The answer to a stash window's read, found at its window (R81, R63). -/
theorem exec_stashFill {dv l win id : Nat} {h : Option Nat} {wt : BitVec 24} {bs : List Byte} {k : Window}
    (hm : s.net[n]? = some ⟨dv, h, wt, .answer (.stash d c win id l) (.data bs)⟩) (hk : (s.core d c).window win = some k)
    (hid : k.id = id) : exec (.stashFill n) s = .next ((s.dropMsg n).modCore d c (fun c =>
      (c.setWindow win (some { k with busy := setDel k.busy l })).lsWrite true (16 * k.loc + 64 * l) bs)) := by
  have hk' : ((s.dropMsg n).core d c).window win = some k := hk
  show execStashFill n s = _
  simp only [execStashFill, hm, hk', hid, bne_self_eq_false, Bool.false_eq_true, if_false]

/-- A window that is mapped has a number below 8. -/
theorem Core.lt_of_window {k : Core} {w : Nat} {x : Window} (h : k.window w = some x) : w < 8 := by
  unfold Core.window at h
  split at h
  · assumption
  · cases h

/-- Mapping a window changes the windows alone. -/
theorem Core.setWindow_eq (k : Core) (w : Nat) (x : Option Window) : ∃ v, k.setWindow w x = { k with stash := v } := by
  unfold Core.setWindow
  split
  · exact ⟨_, rfl⟩
  · exact ⟨k.stash, rfl⟩

/-- A fill of a line of a window writes the line full and leaves the window as it was set. -/
theorem Core.fill_rest (k : Core) {w : Nat} (x : Option Window) (a : Nat) (bs : List Byte) (hw : w < 8) :
    ((k.setWindow w x).lsWrite true a bs).ls = k.ls.writeFull a bs ∧ ((k.setWindow w x).lsWrite true a bs).window w = x := by
  obtain ⟨v, u, h⟩ := (k.setWindow w x).lsWrite_eq true a bs
  obtain ⟨y, hy⟩ := k.setWindow_eq w x
  rw [h]
  refine ⟨?_, ?_⟩
  · show (k.setWindow w x).ls.writeFull a bs = _
    rw [hy]
  · exact k.window_setWindow x hw

/-! ## Landings (R36, R93, R130) -/

/-- A landing with none held before it, not onto a full granule of a deterministic launch, lands. -/
theorem Core.landsNow_lands {k : Core} {l : Landing}
    (h : b.det = true → (granules l.off.toNat l.data.length).all (fun g => !k.ls.isFull g) = true) :
    k.landsNow b [] l = .lands := by
  have hfull : (b.det && (granules l.off.toNat l.data.length).any k.ls.isFull) = false := by
    cases hd : b.det with
    | false => rfl
    | true => simpa using h hd
  simp only [Core.landsNow, List.any_nil, hfull, Bool.false_eq_true, if_false]

section
variable {k : Core} {ahead : List Landing} {l : Landing} (hs : k.sealed = false)
include hs

/-- A landing that has passed its checks is not compared again. -/
theorem Core.landing_passed (hp : l.passed = true) : k.landing b ahead l = k.landsNow b ahead l := by
  simp only [Core.landing, hs, hp, Bool.false_eq_true, if_false, if_true]

variable (hseq : l.seq = k.plan.seq)
include hseq

theorem Core.landing_admits (ha : b.admits k.plan l = true) (ht : l.typed = true → l.topx = (k.ctx 0).regs.topx.getLsbD 0) :
    k.landing b ahead l = k.landsNow b ahead l := by
  have htopx : (l.typed && l.topx != (k.ctx 0).regs.topx.getLsbD 0) = false := by
    cases hy : l.typed with
    | false => rfl
    | true => simp [ht hy]
  simp only [Core.landing, hs, hseq, ha, htopx, Bool.not_true, Bool.false_eq_true, if_false, if_true, ite_self]

variable (hp : l.passed = false)
include hp

theorem Core.landing_refused (ha : b.admits k.plan l = false) :
    k.landing b ahead l = .refused ⟨Cause.exchangeViolation, l.off, BitVec.ofNat 64 b.lcore⟩ := by
  simp only [Core.landing, hs, hp, hseq, ha, Bool.not_false, Bool.false_eq_true, if_false, if_true]

theorem Core.landing_topx (ha : b.admits k.plan l = true) (ht : l.typed = true) (hne : l.topx ≠ (k.ctx 0).regs.topx.getLsbD 0) :
    k.landing b ahead l = .topx := by
  simp only [Core.landing, hs, hp, hseq, ha, ht, bne_iff_ne.2 hne, Bool.and_self, Bool.not_true, Bool.false_eq_true, if_false, if_true]

end

/-- A landing at its receiver is decided there. -/
theorem exec_pushLanding {x : Device} {h : Option Nat} {wt : BitVec 24} {l : Landing} (hx : aget s.devs d = some x)
    (hm : s.net[n]? = some ⟨d, h, wt, .land l⟩) (hc : x.coreOf l.launch l.rcv = some (c, b)) :
    exec (.pushLanding n) s = .next ((s.dropMsg n).applyLanding d c b l ((s.core d c).landing b (s.core d c).held l)) := by
  show execPushLanding n s = _
  simp only [execPushLanding, hm, State.device_of hx, hc]
  rfl

/-- The only landing that a core holds, decided anew: it lands. -/
theorem exec_heldLandingRelease {l : Landing} (h : Alone s d c b) (hl : (s.core d c).held = [l])
    (hd : (s.core d c).landing b [] l = .lands) : exec (.heldLandingRelease d c 0) s
      = .next ((s.modCore d c (fun k => { k with held := k.held.eraseIdx 0 })).applyLanding d c b l .lands) := by
  show execHeldLandingRelease d c 0 s = _
  simp only [execHeldLandingRelease, h.1, hl, List.getElem?_cons_zero, List.take_zero, hd]

/-- Acknowledging a landing to a sender on the same device. -/
theorem State.net_ackLanding (u : State) {l : Landing} (hsrc : l.src.dev = d) (t : Option Trap) :
    (u.ackLanding d l t).net = u.net ++ [⟨d, none, 0x010101, .landAck l.src l.no l.cmd t⟩] := by
  rw [State.ackLanding, hsrc]
  exact u.net_send_self d _ rfl

theorem State.core_ackLanding (u : State) (dev : Nat) (l : Landing) (t : Option Trap) (e k : Nat) :
    (u.ackLanding dev l t).core e k = u.core e k := u.core_send ..

/-- What a landing that lands leaves of its receiver. -/
theorem Alone.core_applyLanding_lands (h : Alone s d c b) (l : Landing) :
    (s.applyLanding d c b l .lands).core d c = (s.core d c).engineWrite l.off.toNat l.data := by
  rw [State.applyLanding, State.core_ackLanding, h.core_modCore]

/-- A context that records a fault has one recorded. -/
theorem Context.defer_isSome (y : Context) (t : Trap) (hn : Option Nat) : (y.defer t hn).deferred.isSome = true := by
  unfold Context.defer
  split <;> rfl

/-! ## The exchange of an MSWAP (R99) -/

/-- Injected errors leave everything of a core but themselves. -/
theorem Core.eccWrites_eq (k : Core) (m : Nat) (u : RegUse) : ∃ x y z, k.eccWrites m u = { k with eccS := x, eccV := y, eccArm := z } := by
  unfold Core.eccWrites
  dsimp only
  split
  · exact ⟨_, _, _, rfl⟩
  · exact ⟨_, _, k.eccArm, rfl⟩

/-- The oldest issued MSWAP of an accumulator exchanges its banks, when nothing holds it. -/
theorem Core.exchange_of {k : Core} {m : Nat} {a : Bool} {ids : List Nat} {rest : List (Nat × List Nat)}
    (hswap : (k.acc a).swap = (m, ids) :: rest) (hmx : ∀ q ∈ k.mx, q.id ∉ ids) (hreads : ∀ r ∈ (k.acc a).reads, r.ahead ≠ 0) :
    k.exchange m a = some (k.setAcc a ⟨(k.acc a).vis, (k.acc a).work, rest,
      (k.acc a).reads.map (fun p => { p with ahead := p.ahead - 1 })⟩) := by
  have hall : (m == m && k.mx.all (fun q => !ids.contains q.id) && (k.acc a).reads.all (fun p => p.ahead != 0)) = true := by
    simpa using ⟨hmx, hreads⟩
  simp only [Core.exchange, hswap, hall, if_true]

/-- A core whose context m has been set keeps its accumulators. -/
theorem Core.setCtx_acc (k : Core) (m : Nat) (x : Context) (a : Bool) : (k.setCtx m x).acc a = k.acc a := by
  unfold Core.setCtx; split <;> rfl

theorem Core.setAcc_ctx (k : Core) (a : Bool) (x : Acc) (m : Nat) : (k.setAcc a x).ctx m = k.ctx m := by
  cases a <;> rfl

/-- A retirement, an injected error about or not, leaves the accumulators. -/
theorem retire_acc (e : Env) (i : Instr) (k : Core) (a : Bool) : (retire e i k).acc a = k.acc a := by
  obtain ⟨x, y, z, h⟩ := k.eccWrites_eq e.who.ctx i.use
  simp only [retire, retireAt, if_true, Core.setCtx_acc, h]
  rfl

/-- The context that has retired an instruction in an unpaired launch. -/
theorem retire_ctx {e : Env} (i : Instr) {k : Core} (hp : e.b.pair = false) (hn : e.who.ctx < 11) :
    let x := (retire e i k).ctx e.who.ctx
    x.wait = none ∧ x.st = .ready ∧ x.regs = (k.ctx e.who.ctx).regs := by
  simp only [retire, retireAt, if_true, Core.ctx_setCtx _ _ hn, Context.feed, hp]
  exact ⟨trivial, trivial, rfl⟩

/-- The exchange of an MSWAP that nothing holds is followed by its retirement. -/
theorem swapStep_of {e : Env} {k k' : Core} {v : Wait} {p : Pred} {a : Bool} (hw : (k.ctx e.who.ctx).wait = some v)
    (hi : v.instr = .mswap p a) (hx : k.exchange e.who.ctx a = some k') : swapStep e k = done e (.mswap p a) k' := by
  simp only [swapStep, Env.ctx, hw, hi, hx]

end

/-- Settles O37: each arrival by the one change that it makes at its core, which has no partner. -/
theorem arrivalsAtCores : Obligations.ArrivalsAtCores := by
  unfold Obligations.ArrivalsAtCores
  intro s d c n x b hx h
  refine ⟨?walk, ?fill, ?push, ?held, ?swap⟩
  case walk =>
    intro k v t hw hv hn y hy
    have h1 : Alone (s.modDev d (fun x => { x with walks := x.walks.eraseIdx n })) d c b :=
      h.congr (by rw [State.core, State.device_modDev hx, State.core, State.device_of hx]; rfl)
    refine ⟨_, exec_walkComplete hx hw hv hn hy, ?_, ?_⟩
    · rw [h1.core_modCore, State.core, State.device_modDev hx, State.core, State.device_of hx]
      rfl
    · rw [State.modCore_alone h1, State.setCore, State.modDev_modDev, State.device_modDev hx]
  case fill =>
    intro dv m wt win id l bs k hm hk hid
    have h1 : Alone (s.dropMsg n) d c b := h
    obtain ⟨hls, hwin⟩ := (s.core d c).fill_rest (some { k with busy := setDel k.busy l }) (16 * k.loc + 64 * l) bs (Core.lt_of_window hk)
    refine ⟨_, exec_stashFill hm hk hid, ?_, ?_, ?_⟩
    · rw [h1.net_modCore]; rfl
    · rw [h1.core_modCore]; exact hls
    · rw [h1.core_modCore]; exact hwin
  case push =>
    intro m wt l hm hc hseal hpass hseq hsrc
    have h1 : Alone (s.dropMsg n) d c b := h
    have he := exec_pushLanding hx hm hc
    refine ⟨?_, ?_, ?_⟩
    · intro ha ht hheld hroom
      rw [Core.landing_admits hseal hseq ha ht, hheld, Core.landsNow_lands hroom] at he
      refine ⟨_, he, ?_, ?_⟩
      · rw [h1.core_applyLanding_lands, Core.engineWrite_ls]; rfl
      · rw [State.applyLanding, State.net_ackLanding _ hsrc, h1.net_modCore]; rfl
    · intro ha
      rw [Core.landing_refused hseal hseq hpass ha] at he
      refine ⟨_, he, ?_, ?_⟩
      · rw [State.applyLanding, State.core_ackLanding]; rfl
      · rw [State.applyLanding, State.net_ackLanding _ hsrc]; rfl
    · intro ha ht hne
      rw [Core.landing_topx hseal hseq hpass ha ht hne] at he
      refine ⟨_, he, ?_, ?_, ?_⟩
      · rw [State.applyLanding, State.core_ackLanding, h1.core_modCore]
        exact Core.setCtx_ls ..
      · rw [State.applyLanding, State.core_ackLanding, h1.core_modCore, Core.modCtx, Core.ctx_setCtx _ _ (by omega)]
        exact Context.defer_isSome ..
      · rw [State.applyLanding, State.net_ackLanding _ hsrc, h1.net_modCore]; rfl
  case held =>
    intro l hheld hseal hok hroom
    have hland : (s.core d c).landing b [] l = .lands := by
      obtain hp | ⟨hseq, ha, ht⟩ := hok
      · rw [Core.landing_passed hseal hp, Core.landsNow_lands hroom]
      · rw [Core.landing_admits hseal hseq ha ht, Core.landsNow_lands hroom]
    have h1 : Alone (s.modCore d c (fun k => { k with held := k.held.eraseIdx 0 })) d c b := h.modCore h.1
    refine ⟨_, exec_heldLandingRelease h hheld hland, ?_, ?_⟩
    · rw [h1.core_applyLanding_lands, Core.engineWrite_held, h.core_modCore, hheld]; rfl
    · rw [h1.core_applyLanding_lands, Core.engineWrite_ls, h.core_modCore]
  case swap =>
    intro k v p acc ids rest hk hw hi hswap hmx hreads hpair
    have hex := Core.exchange_of hswap hmx hreads
    have he : exec (.mswapExchange ⟨d, c, k⟩) s = .next (s.onCtx ⟨d, c, k⟩ swapStep) := rfl
    rw [h.onCtx, swapStep_of (e := s.env ⟨d, c, k⟩ b) hw hi hex] at he
    obtain ⟨hwait, hst, hregs⟩ := retire_ctx (e := s.env ⟨d, c, k⟩ b) (k := (s.core d c).setAcc acc _) (.mswap p acc) hpair hk
    have hcore := fun j => State.core_setCore (State.aget_of_bound h.1) c j
    refine ⟨_, he, ?_, ?_, ?_, ?_⟩
    · refine (congrArg (·.acc acc) (hcore _)).trans ?_
      rw [done, retire_acc, Core.acc_setAcc]
    · exact (congrArg (fun j : Core => (j.ctx k).wait) (hcore _)).trans hwait
    · exact (congrArg (fun j : Core => (j.ctx k).st) (hcore _)).trans hst
    · refine (congrArg (fun j : Core => (j.ctx k).regs) (hcore _)).trans (hregs.trans ?_)
      rw [Core.setAcc_ctx]
      rfl

end Sys2Proof.Machine

/-! # Limits, and the release of egress entries (O35) -/

namespace Sys2Proof.Machine
open Sys2Proof

/-! ## A trap from outside (R42, R368, R399) -/

section
variable {s : State} {w : Who} {b : Binding}

/-- Withdrawing a context's requests changes no core. -/
theorem State.keeps_cores_withdraw (s : State) (w : Who) : State.Keeps Device.cores s (s.withdraw w) := by
  unfold State.withdraw
  exact s.keeps_mapDevs

/-- Taking a trap finds no injected error. -/
theorem takeTrap_eccHit (e : Env) (c : Core) (tpc word : Word) (t : Trap) : (takeTrap e c tpc word t).core.eccHit = c.eccHit := by
  have hset (k : Core) (n : Nat) (x : Context) : (k.setCtx n x).eccHit = k.eccHit := by unfold Core.setCtx; split <;> rfl
  unfold takeTrap
  dsimp only
  split
  · rw [hset]; rfl
  · rw [hset]; rfl

/-- Nothing in its way for a step of w's context: a partner is another core and has found no injected error. -/
def PartnerWell (s : State) (w : Who) (b : Binding) : Prop := ∀ p, b.peer = some p → p ≠ w.core ∧ (s.core w.dev p).eccHit = false

/-- The core of a context that another agent steps. -/
theorem State.core_onCtx {f : Env → Core → Res} (hb : (s.core w.dev w.core).bound = some b)
    (hpost : (f (s.env w b) (s.core w.dev w.core)).post = id) (hp : PartnerWell s w b)
    (hecc : ∀ e c, (f e c).core.eccHit = c.eccHit) :
    (s.onCtx w f).core w.dev w.core = (f (s.env w b) (s.core w.dev w.core)).core := by
  have hcore := fun k => State.core_setCore (State.aget_of_bound hb) w.core k
  unfold State.onCtx runCtx
  simp only [hb]
  cases hpeer : b.peer with
  | none => simp only [hpost, id, hcore]
  | some p =>
    obtain ⟨hne, herr⟩ := hp p hpeer
    cases hb2 : (s.core w.dev p).bound with
    | none => simp only [hb2, hpost, id, hcore]
    | some b2 =>
      simp only [hb2, hecc, herr, hpost, id, Bool.false_and, Bool.false_eq_true, if_false]
      rw [State.core_setCore_ne _ _ (.inr hne.symm), hcore]

/-- A trap that enters the handler of a context from outside. -/
theorem State.trapHead_enters (t : Context → Trap) (hn : w.ctx < 11) (hb : (s.core w.dev w.core).bound = some b)
    (hk : (s.core w.dev w.core).killWait = none) (hcan : (s.ctxAt w).canEnter = true) (hp : PartnerWell s w b) :
    ∃ pc word, (s.trapHead w t).ctxAt w = (s.ctxAt w).enter pc word (t (s.ctxAt w)) := by
  have hkeep := fun d c => (s.keeps_cores_withdraw w).core d c
  obtain ⟨⟨pc, h⟩, hh⟩ : ∃ q, s.headAt w b = q := ⟨_, rfl⟩
  let u := (s.withdraw w).onCtx w (fun e c => takeTrap e c pc h.word (t (e.ctx c)))
  have henter := takeTrap_enters (e := (s.withdraw w).env w b) (c := s.core w.dev w.core) hcan pc h.word (t (s.ctxAt w))
  have hu : u.core w.dev w.core = ((s.core w.dev w.core).dropSwap w.ctx).setCtx w.ctx ((s.ctxAt w).enter pc h.word (t (s.ctxAt w))) := by
    refine (State.core_onCtx (b := b) (by rw [hkeep, hb]) ?_ ?_ (fun _ _ => takeTrap_eccHit ..)).trans ?_
    · rw [hkeep]; exact congrArg Res.post henter
    · intro p hpeer
      rw [hkeep]
      exact hp p hpeer
    · rw [hkeep]; exact congrArg Res.core henter
  have hset : s.trapHead w t = u := by
    have hku : (u.core w.dev w.core).killWait = none := by rw [hu, Core.setCtx_killWait]; exact hk
    simp only [State.trapHead, hb, hh]
    show u.settleKill w.dev w.core = u
    simp only [State.settleKill, hku]
  exact ⟨pc, h.word, by rw [hset, State.ctxAt, hu, Core.ctx_setCtx _ _ hn]⟩

/-- What entering a handler leaves of a context (R196). -/
theorem Context.enter_rest (x : Context) (tpc word : Word) (t : Trap) (hcause : t.cause < 65536) :
    let y := x.enter tpc word t
    y.pc = x.trap.tvec ∧ y.wait = none ∧ y.st = .ready ∧ y.trap.tcause = BitVec.ofNat 64 (2 ^ 63 + t.cause) ∧ y.trap.taddr = t.addr
      ∧ y.trap.taux = t.aux ∧ y.regs = x.regs :=
  ⟨rfl, rfl, rfl, (tcauseOf_eq _).trans (by rw [Nat.mod_eq_of_lt hcause]), rfl, rfl, rfl⟩

theorem exec_regionTooLong (hlive : s.liveCtx w = true) (hd : (s.ctxAt w).region.d = false) (hc : 65536 ≤ (s.ctxAt w).region.cycles) :
    exec (.regionTooLong w) s = .next (s.trapHead w tooLong) :=
  if_pos (by rw [hlive]; simpa [Context.expired] using ⟨hd, hc⟩)

theorem exec_pairRegionLimit (hb : (s.core w.dev w.core).bound = some b) (hlive : s.liveCtx w = true) (hp : b.pair = true)
    (hr : 4096 ≤ (s.ctxAt w).region.retired) : exec (.pairRegionLimit w) s = .next (s.trapHead w tooLong) := by
  have hlim : (s.core w.dev w.core).pairLimit w.ctx = true := by
    simp only [Core.pairLimit, hb, hp, Bool.true_and]
    exact decide_eq_true hr
  exact if_pos (by rw [hlive, hlim]; rfl)

section
variable {v : Wait} (hlive : s.liveCtx w = true) (hv : (s.ctxAt w).wait = some v) (hcode : v.code ≠ 0)
  (ht : 2 ^ 32 ≤ (s.ctxAt w).watchdog)
include hlive hv hcode ht

/-- A wait of 2^32 cycles whose event has not come (R368). -/
theorem exec_parkTimeout (hnone : s.eventNow w v = none) : exec (.parkTimeout w) s = .next (s.trapHead w (fun x =>
    ⟨Cause.parkTimeout, waitAddr (s.core w.dev w.core) x.regs v.instr, BitVec.ofNat 64 v.code⟩)) := by
  have hv' : ((s.core w.dev w.core).ctx w.ctx).wait = some v := hv
  have ht' : 2 ^ 32 ≤ ((s.core w.dev w.core).ctx w.ctx).watchdog := ht
  show execParkTimeout w s = _
  simp only [execParkTimeout, hv', hlive, bne_iff_ne.2 hcode, decide_eq_true ht', Bool.and_self, if_true, hnone]

/-- One whose event has come by now (R376). -/
theorem exec_parkTimeout_event {u : State} (hsome : s.eventNow w v = some u) : exec (.parkTimeout w) s = .next u := by
  have hv' : ((s.core w.dev w.core).ctx w.ctx).wait = some v := hv
  have ht' : 2 ^ 32 ≤ ((s.core w.dev w.core).ctx w.ctx).watchdog := ht
  show execParkTimeout w s = _
  simp only [execParkTimeout, hv', hlive, bne_iff_ne.2 hcode, decide_eq_true ht', Bool.and_self, if_true, hsome]

end

end

/-! ## Changing one context of a core without a partner -/

section
variable {s : State} {w : Who} {b : Binding} {y : Context}

/-- The state s whose context w is y. -/
def State.withCtx (s : State) (w : Who) (y : Context) : State := s.setCore w.dev w.core ((s.core w.dev w.core).setCtx w.ctx y)

/-- A context with its first egress entry taken. -/
def Context.popped (x : Context) : Context := { x with egress := x.egress.drop 1, begun := true }

variable (h : Alone s w.dev w.core b)
include h

theorem Alone.modCtx (f : Context → Context) : s.modCtx w f = s.withCtx w (f (s.ctxAt w)) := State.modCore_alone h _

theorem Alone.core_withCtx : (s.withCtx w y).core w.dev w.core = (s.core w.dev w.core).setCtx w.ctx y :=
  State.core_setCore (State.aget_of_bound h.1) ..

theorem Alone.withCtx : Alone (s.withCtx w y) w.dev w.core b := h.setCore ((Core.setCtx_bound ..).trans h.1)

variable (hn : w.ctx < 11)
include hn

theorem Alone.ctxAt_withCtx : (s.withCtx w y).ctxAt w = y := by
  rw [State.ctxAt, h.core_withCtx, Core.ctx_setCtx _ _ hn]

theorem Alone.modCtx_withCtx (f : Context → Context) : (s.withCtx w y).modCtx w f = s.withCtx w (f y) := by
  rw [h.withCtx.modCtx, h.ctxAt_withCtx hn, State.withCtx, h.core_withCtx, Core.setCtx_setCtx]
  exact State.setCore_setCore ..


theorem Alone.popEgress_withCtx : (s.withCtx w y).popEgress w = s.withCtx w y.popped :=
  h.modCtx_withCtx hn _

theorem Alone.pauseEgress_withCtx (code : Nat) :
    (s.withCtx w y).pauseEgress w code = s.withCtx w { y with wait := y.wait.map (fun v => { v with code := code }) } :=
  h.modCtx_withCtx hn _

omit hn in
/-- A change of the core that keeps its context. -/
theorem Alone.ctxAt_modCore {f : Core → Core} (hf : ∀ c, (f c).ctx w.ctx = c.ctx w.ctx) :
    (s.modCore w.dev w.core f).ctxAt w = s.ctxAt w := by
  rw [State.ctxAt, h.core_modCore, hf]
  rfl

end

/-! ## The release of egress entries (R39, R40, R65, R109) -/

section
variable {s : State} {w : Who} {b : Binding}

/-- The context of a commit that goes on: its wait has code 0. -/
def Context.resumed (x : Context) : Context := { x with wait := x.wait.map (fun v => { v with code := 0 }) }

/-- The first entry of a commit is released from the context with its wait at code 0. -/
theorem exec_egressRelease (h : Alone s w.dev w.core b) (hcom : (s.ctxAt w).committing = true) (hch : b.checker = false)
    {g : Egress} {rest : List Egress} (hg : (s.ctxAt w).egress = g :: rest) :
    exec (.egressRelease w) s = .next ((s.withCtx w (s.ctxAt w).resumed).releaseEntry w b g) := by
  have hcom' : ((s.core w.dev w.core).ctx w.ctx).committing = true := hcom
  have hg' : ((s.core w.dev w.core).ctx w.ctx).egress = g :: rest := hg
  have hpause : s.pauseEgress w 0 = s.withCtx w (s.ctxAt w).resumed := h.modCtx _
  show execEgressRelease w s = _
  simp only [execEgressRelease, h.1, hcom', hch, hg', hpause, Bool.not_true, Bool.or_self, Bool.false_eq_true, if_false]

/-- What a command takes from its core is not of its contexts. -/
theorem newCmd_setCtx (c : Core) (n m : Nat) (x : Context) (r : Regs) (i : Instr) : newCmd (c.setCtx n x) m r i = newCmd c m r i := by
  unfold Core.setCtx
  split <;> rfl

/-- The translation that a withheld join needs depends on the translations of its core, and of its context on the registers and the
failed walk. -/
theorem egressFlow_join_congr {c c' : Core} {x x' : Context} (hc : c'.tlb = c.tlb) (hr : x'.regs = x.regs) (he : x'.walkErr = x.walkErr)
    (asid : Nat) (i : Instr) : egressFlow c' x' asid (.join i) = egressFlow c x asid (.join i) := by
  simp only [egressFlow, flowCheck, lookup, hc, hr, he]

/-- A post that stays on its device is put into its mesh. -/
theorem State.net_send_here (s : State) {d e : Nat} (wt : BitVec 24) (m : Body) (he : e = d) :
    ∃ h, (s.send d e wt m).net = s.net ++ [⟨d, h, wt, m⟩] := by
  subst he
  rw [State.send, if_pos rfl]
  exact ⟨_, rfl⟩

/-- Whether a post on its own device must wait. -/
theorem State.outFull_here (s : State) (w : Who) {d : Nat} (hd : d = w.dev) : s.outFull w d = decide (1024 ≤ (s.ctxAt w).out.length) := by
  simp only [State.outFull, hd, bne_self_eq_false, Bool.and_false, Bool.or_false]
  rfl

section
variable (h : Alone s w.dev w.core b) (hn : w.ctx < 11) {y : Context}
include h hn

/-- The number that a context gives its next post depends on it and on the step. -/
theorem Alone.postNo_withCtx (hno : y.issueNo = (s.ctxAt w).issueNo) : (s.withCtx w y).postNo w = s.postNo w := by
  show max ((s.withCtx w y).ctxAt w).issueNo _ = max (s.ctxAt w).issueNo _
  rw [h.ctxAt_withCtx hn, hno, State.withCtx, State.setCore_stepNo]

/-- A post from a context that has become y, to its own device: the context's, and the message of the mesh. -/
theorem Alone.post_withCtx (wt : BitVec 24) (m : Body) {d : Nat} (hd : d = w.dev) : ∃ hd,
    ((s.withCtx w y).send w.dev d wt m).ctxAt w = y ∧ ((s.withCtx w y).send w.dev d wt m).net = s.net ++ [⟨w.dev, hd, wt, m⟩] := by
  obtain ⟨hold, hnet⟩ := (s.withCtx w y).net_send_here wt m hd
  refine ⟨hold, ?_, ?_⟩
  · rw [State.ctxAt, State.core_send]
    exact h.ctxAt_withCtx hn
  · rw [hnet, State.withCtx, State.setCore_net]

omit hn in
theorem Alone.weights_withCtx : ((s.withCtx w y).core w.dev w.core).weights = (s.core w.dev w.core).weights := by
  rw [h.core_withCtx, Core.weights, Core.setCtx_arbw]
  rfl

variable (hno : y.issueNo = (s.ctxAt w).issueNo)
include hno

/-- Posting a join to a home on the same device (R65). -/
theorem Alone.postJoin_withCtx {j : JoinOut} (hj : gDev j.line = w.dev) : ∃ o hold,
    ((s.withCtx w y).postJoin w b j).ctxAt w = { y with issueNo := s.postNo w + 1, out := y.out ++ [o] }
    ∧ ((s.withCtx w y).postJoin w b j).net = s.net ++ [⟨w.dev, hold, (s.core w.dev w.core).weights,
        .req (gLocal j.line / 64) (some b.launch) (.join [⟨.ctx w (s.postNo w), some b.launch, b.asid, j.va, j.data⟩])⟩] := by
  unfold State.postJoin
  simp only [h.postNo_withCtx hn hno, h.modCtx_withCtx hn, h.weights_withCtx]
  obtain ⟨hold, hctx, hnet⟩ := h.post_withCtx hn (y := { y with issueNo := s.postNo w + 1, out := y.out ++ [_] }) _ _ hj
  exact ⟨_, hold, hctx, hnet⟩

/-- Posting a push to a receiver on the same device (R216). -/
theorem Alone.postPush_withCtx {rcv off : Word} {data : List Byte} {typed topx : Bool} {p : Nat}
    (hp : b.cores[rcv.toNat]? = some (w.dev, p)) : ∃ o hold,
    ((s.withCtx w y).postPush w b rcv off data typed topx).ctxAt w = { y with issueNo := s.postNo w + 1, out := y.out ++ [o] }
    ∧ ((s.withCtx w y).postPush w b rcv off data typed topx).net = s.net ++ [⟨w.dev, hold, (s.core w.dev w.core).weights,
        .land ⟨w, s.postNo w, none, b.lcore, rcv.toNat, off, data, (s.core w.dev w.core).plan.seq, topx, typed, b.launch, false⟩⟩] := by
  have hplan : ∀ z, ((s.withCtx w z).core w.dev w.core).plan = (s.core w.dev w.core).plan := fun z => by
    rw [h.core_withCtx, Core.setCtx_plan]
  unfold State.postPush
  simp only [hp, h.postNo_withCtx hn hno, h.modCtx_withCtx hn, h.weights_withCtx, hplan]
  obtain ⟨hold, hctx, hnet⟩ := h.post_withCtx hn (y := { y with issueNo := s.postNo w + 1, out := y.out ++ [_] }) _ _ rfl
  exact ⟨_, hold, hctx, hnet⟩

end

section
variable (h : Alone s w.dev w.core b) (hn : w.ctx < 11) {y : Context}
include h hn

/-- The release of a withheld semaphore increment applies it (R102). -/
theorem Alone.releaseEntry_sems (q inc : Nat) :
    let u := (s.withCtx w y).releaseEntry w b (.sems q inc)
    u.ctxAt w = y.popped
      ∧ (u.core w.dev w.core).sems = aset (s.core w.dev w.core).sems q ((acount (s.core w.dev w.core).sems q + inc) % 65536)
      ∧ u.net = s.net := by
  intro u
  have hu : u = (s.withCtx w y.popped).modCore w.dev w.core (fun c => c.addSem q inc) := by
    rw [← h.popEgress_withCtx hn]; rfl
  rw [hu]
  refine ⟨?_, ?_, ?_⟩
  · rw [h.withCtx.ctxAt_modCore (f := fun c => c.addSem q inc) fun _ => rfl, h.ctxAt_withCtx hn]
  · rw [h.withCtx.core_modCore, h.core_withCtx, Core.addSem, Core.setCtx_sems]
  · rw [h.withCtx.net_modCore, State.withCtx, State.setCore_net]

/-- The release of a SEND puts it into its queue (R275). -/
theorem Alone.releaseEntry_send {p : Pred} {d a o : SReg} {z : BitVec 14} {t : Tag} {k : Sync}
    (hroom : (s.core w.dev w.core).cx.length < 16) :
    let u := (s.withCtx w y).releaseEntry w b (.cmd (.send p d a o z t k))
    u.ctxAt w = y.popped ∧ u.net = s.net
      ∧ (u.core w.dev w.core).cx
        = (s.core w.dev w.core).cx ++ [{ newCmd (s.core w.dev w.core) w.ctx y.regs (.send p d a o z t k) with uncommitted := false }] := by
  intro u
  have hcx : ∀ x, ((s.withCtx w x).core w.dev w.core).cx = (s.core w.dev w.core).cx := fun x => by
    rw [h.core_withCtx, Core.setCtx_cx]
  have hu : u = (s.withCtx w y.popped).modCore w.dev w.core
      (fun c => c.acceptReleased w.ctx (.send p d a o z t k) id) := by
    rw [← h.popEgress_withCtx hn]
    refine if_neg ?_
    show ¬ 16 ≤ ((s.withCtx w y).core w.dev w.core).cx.length
    rw [hcx]
    omega
  rw [hu]
  refine ⟨?_, ?_, ?_⟩
  · rw [h.withCtx.ctxAt_modCore (f := fun c => c.acceptReleased w.ctx (.send p d a o z t k) id) fun _ => rfl, h.ctxAt_withCtx hn]
  · rw [h.withCtx.net_modCore, State.withCtx, State.setCore_net]
  · rw [h.withCtx.core_modCore]
    show ((s.withCtx w _).core w.dev w.core).cx ++ [_] = _
    rw [hcx, h.core_withCtx, Core.ctx_setCtx _ _ hn, newCmd_setCtx]
    rfl

/-- Whether a post to its own device must wait goes by the posts of the context outstanding. -/
theorem Alone.outFull_withCtx {d : Nat} (hd : d = w.dev) : (s.withCtx w y).outFull w d = decide (1024 ≤ y.out.length) := by
  rw [State.outFull_here _ _ hd, h.ctxAt_withCtx hn]

/-- The release of a withheld join that has its translation and an element (R109). -/
theorem Alone.releaseEntry_join {i : Instr} {va : Word} {t : Tlb} {j : JoinOut}
    (hf : egressFlow (s.core w.dev w.core) y b.asid (.join i) = some (va, .ok t)) (hj : cntJoin y.regs t i = some j)
    (hsome : j.data.isNone = false) (hd : gDev j.line = w.dev) : (s.withCtx w y).releaseEntry w b (.join i)
      = if 1024 ≤ y.out.length then s.withCtx w { y with wait := y.wait.map (fun v => { v with code := 12 }) }
        else (s.withCtx w y.popped).postJoin w b j := by
  have hctx : ((s.withCtx w y).core w.dev w.core).ctx w.ctx = y := h.ctxAt_withCtx hn
  have hflow : egressFlow ((s.withCtx w y).core w.dev w.core) y b.asid (.join i) = some (va, .ok t) := by
    rw [h.core_withCtx, egressFlow_join_congr (Core.setCtx_tlb ..) rfl rfl, hf]
  have hid : (s.withCtx w y.popped).modCore w.dev w.core id = s.withCtx w y.popped := by
    rw [State.modCore_alone h.withCtx, h.core_withCtx]
    exact State.setCore_setCore ..
  simp only [State.releaseEntry, hctx, hflow, hj, State.releaseJoin, hsome, h.outFull_withCtx hn hd, h.popEgress_withCtx hn,
    h.pauseEgress_withCtx hn, hid, decide_eq_true_iff, Bool.false_eq_true, if_false]

/-- The release of a push to a receiver on the same device. -/
theorem Alone.releaseEntry_push {rcv off : Word} {data : List Byte} {typed topx : Bool} {p : Nat}
    (hp : b.cores[rcv.toNat]? = some (w.dev, p)) (hroom : y.out.length < 1024) :
    (s.withCtx w y).releaseEntry w b (.push rcv off data typed topx) = (s.withCtx w y.popped).postPush w b rcv off data typed topx := by
  have hplace : ((b.place rcv.toNat).getD (w.dev, 0)).1 = w.dev := by rw [Binding.place, hp]; rfl
  have hfull : ¬ 1024 ≤ y.out.length := by omega
  rw [← h.popEgress_withCtx hn]
  refine if_neg ?_
  rw [h.outFull_withCtx hn hplace, decide_eq_true_iff]
  exact hfull

end

theorem Core.takeRecov_eq (c : Core) (v : Word) : c.takeRecov v = { c with recov := if v.getLsbD 0 then c.recov.drop 1 else c.recov } := by
  unfold Core.takeRecov
  split <;> rfl

/-- A write to RECOV by the control context of the supervisor core takes its first event. -/
theorem exec_recovTake (h : Alone s w.dev w.core b) (v : Word) (h0 : w.ctx = 0) (hsup : b.lcore = b.super) :
    exec (.recovTake w v) s = .next (s.setCore w.dev w.core ((s.core w.dev w.core).takeRecov v)) := by
  have hsees : seesRecov (s.env w b) = true := by simp [seesRecov, State.env, h0, hsup]
  have he : exec (.recovTake w v) s = .next (s.onCtx w (fun e c => Res.only (if seesRecov e then c.takeRecov v else c))) := rfl
  rw [he, h.onCtx (k := w.ctx)]
  simp only [hsees, if_true]
  rfl

end

/-- Settles O35: a limit enters the context's handler from outside, and the entry that a commit releases leaves its context alone changed. -/
theorem limitsAndEgress : Obligations.LimitsAndEgress := by
  unfold Obligations.LimitsAndEgress
  refine ⟨?_, ?_⟩
  · intro s w b hn hb hk hlive hcan x trapped entry
    have enters (i : Instr) (t : Context → Trap) (hp : PartnerWell s w b) (he : exec i s = .next (s.trapHead w t))
        {cause : Nat} (hcause : (t x).cause = cause) (hlt : cause < 65536) : trapped i cause (t x).addr (t x).aux := by
      subst hcause
      obtain ⟨pc, word, hctx⟩ := State.trapHead_enters t hn hb hk hcan hp
      refine ⟨_, he, ?_⟩
      rw [hctx]
      exact Context.enter_rest x pc word (t x) hlt
    have alone (hp : b.peer = none) : PartnerWell s w b := fun p hq => by rw [hp] at hq; cases hq
    refine ⟨?_, ?_, ?_⟩
    · intro hp hd hc
      exact enters _ tooLong (alone hp) (exec_regionTooLong hlive hd hc) rfl (by decide)
    · intro p hpair hp hne herr hr
      refine enters _ tooLong (fun q hq => ?_) (exec_pairRegionLimit hb hlive hpair hr) rfl (by decide)
      obtain rfl := Option.some.inj (hp.symm.trans hq)
      exact ⟨hne, herr⟩
    · intro v hp hv hcode ht
      refine ⟨fun hnone => ?_, fun u hsome => exec_parkTimeout_event hlive hv hcode ht hsome⟩
      exact enters _ (fun x => ⟨Cause.parkTimeout, waitAddr (s.core w.dev w.core) x.regs v.instr, BitVec.ofNat 64 v.code⟩) (alone hp)
        (exec_parkTimeout hlive hv hcode ht hnone) rfl (by decide)
  · intro s w b v q inc i j rest hn h c x
    refine ⟨fun h0 hsup => (exec_recovTake h v h0 hsup).trans (by rw [Core.takeRecov_eq]), fun hcom hch => ⟨?_, ?_, ?_, ?_⟩⟩
    · intro hg
      obtain ⟨hctx, hsems, hnet⟩ := h.releaseEntry_sems hn (y := x.resumed) q inc
      refine ⟨_, exec_egressRelease h hcom hch hg, ?_, hsems, hnet⟩
      rw [hctx]
      exact congrArg (List.drop 1) hg
    · intro va t hg hf hj hsome hd
      have he := exec_egressRelease h hcom hch hg
      rw [h.releaseEntry_join hn (y := x.resumed) hf hj hsome hd] at he
      refine ⟨?_, ?_⟩
      · intro hroom
        rw [if_neg (show ¬ 1024 ≤ x.resumed.out.length from Nat.not_le.2 hroom)] at he
        obtain ⟨o, hold, hctx, hnet⟩ := h.postJoin_withCtx hn (y := x.resumed.popped) rfl hd
        refine ⟨_, hold, he, ?_, ?_, hnet⟩
        · rw [hctx]
          exact congrArg (List.drop 1) hg
        · rw [hctx]
          exact List.length_append
      · intro hfull y hy
        rw [if_pos (show 1024 ≤ x.resumed.out.length from hfull)] at he
        refine ⟨_, he, ?_, ?_, ?_⟩
        · rw [h.ctxAt_withCtx hn]; rfl
        · rw [State.withCtx, State.setCore_net]
        · rw [h.ctxAt_withCtx hn, Context.resumed, hy]; rfl
    · intro rcv off data typed topx p hg hp hroom
      have he := exec_egressRelease h hcom hch hg
      rw [h.releaseEntry_push hn (y := x.resumed) hp hroom] at he
      obtain ⟨o, hold, hctx, hnet⟩ := h.postPush_withCtx hn (y := x.resumed.popped) rfl hp
      refine ⟨_, hold, he, ?_, ?_, hnet⟩
      · rw [hctx]
        exact congrArg (List.drop 1) hg
      · rw [hctx]
        exact List.length_append
    · intro p d a o z y k hg hroom
      obtain ⟨hctx, hnet, hcx⟩ := h.releaseEntry_send hn (y := x.resumed) hroom
      refine ⟨_, exec_egressRelease h hcom hch hg, ?_, hnet, hcx⟩
      rw [hctx]
      exact congrArg (List.drop 1) hg

end Sys2Proof.Machine

/-! # The step of an issue turn (O55) -/

namespace Sys2Proof.Machine
open Sys2Proof

/-! ## The length of a decoded word (R154) -/

/-- Trimming a word to its length keeps its length bits. -/
theorem trimWord_len (w : BitVec 128) : (trimWord w).extractLsb' 0 2 = w.extractLsb' 0 2 := by
  unfold trimWord
  split
  · ext k hk
    simp [BitVec.getElem_extractLsb', show k < 64 by omega, show k < 128 by omega]
  · ext k hk
    simp [BitVec.getElem_extractLsb', show k < 96 by omega, show k < 128 by omega]
  · rfl

/-- A word that decodes has the length of its instruction, which is not 0b00. -/
theorem decodeWord_len {w : BitVec 128} {i : Instr} (h : decodeWord w = .ok i) :
    (w.extractLsb' 0 2 == 0) = false ∧ lenBytes (w.extractLsb' 0 2) = i.bytes := by
  have hlen : (Fields.unpack (trimWord w)).len = w.extractLsb' 0 2 := trimWord_len w
  unfold decodeWord at h
  dsimp only at h
  split at h
  · cases h
  next h0 =>
  split at h
  · cases h
  next j _ =>
  split at h
  · cases h
  split at h
  next heq =>
    obtain rfl := Except.ok.inj h
    rw [hlen] at h0
    refine ⟨Bool.eq_false_iff.2 h0, ?_⟩
    rw [Instr.bytes, eq_of_beq heq, hlen]
  · cases h

/-- The head at an offset whose bytes decode to an instruction that ends within the fetch block (R155). -/
theorem headOf_ins {off : Nat} {w : BitVec 128} {i : Instr} (h : decodeWord w = .ok i) (hoff : off + i.bytes ≤ 28) :
    headOf off w = .ins i := by
  obtain ⟨h0, hlen⟩ := decodeWord_len h
  simp only [headOf, h0, hlen, h, decide_eq_false (Nat.not_lt.2 hoff), Bool.or_self, Bool.false_eq_true, if_false]

section
variable {s : State} {b : Binding}

/-- A fetch that passes its checks. -/
theorem fetch_ins {c : Core} {x : Context} {asid : Nat} {pc : Word} {t : Tlb} {i : Instr} (hcan : canonical pc = true)
    (hhit : lookup c x asid pc = .hit t) (hperm : permTrap t .fetch pc = none)
    (hbad : ((s.device (gDev (t.phys pc))).line (gLocal (t.phys pc) / 64)).bad = false) (hoff : pc.toNat % 32 + i.bytes ≤ 28)
    (hdec : decodeWord (bytesToWord (s.readG (t.phys pc) 16)) = .ok i) : s.fetch c x asid pc = .ins i := by
  simp only [State.fetch, hcan, hhit, hperm, hbad, headOf_ins hdec hoff, Bool.not_true, Bool.false_eq_true, if_false]

/-! ## The head of a context -/

/-- The head of a context that waits for nothing is fetched. -/
theorem headAt_ready {w : Who} (h : (s.ctxAt w).wait = none) : s.headAt w b
    = (s.headPc (s.core w.dev w.core) b.asid (s.ctxAt w).pc,
        s.fetch (s.core w.dev w.core) (s.ctxAt w) b.asid (s.headPc (s.core w.dev w.core) b.asid (s.ctxAt w).pc)) := by
  have h' : ((s.core w.dev w.core).ctx w.ctx).wait = none := h
  simp only [State.headAt, h']
  rfl

/-- An instruction that waits is its own head. -/
theorem headAt_waits {w : Who} {v : Wait} (h : (s.ctxAt w).wait = some v) (hcode : v.code ≠ 0) :
    s.headAt w b = ((s.ctxAt w).pc, .ins v.instr) := by
  have h' : ((s.core w.dev w.core).ctx w.ctx).wait = some v := h
  simp only [State.headAt, h', beq_false_of_ne hcode, Bool.false_and, Bool.false_eq_true, if_false]
  rfl

/-- The turn of a context within its limits whose head is an instruction runs it, with the pc at it. -/
theorem issueCtx_ins {w : Who} {pc : Word} {i : Instr} (hexp : (s.ctxAt w).expired = false)
    (hlim : (s.core w.dev w.core).pairLimit w.ctx = false) (hhead : s.headAt w b = (pc, .ins i)) :
    s.issueCtx w b = .run ({ s with cur := w }.modCtx w (fun x => x.atHead pc)) i := by
  have hexp' : ((s.core w.dev w.core).ctx w.ctx).expired = false := hexp
  have hhead' : ({ s with cur := w } : State).headAt w b = (pc, .ins i) := hhead
  simp only [State.issueCtx, hexp', hlim, hhead', Bool.false_eq_true, if_false]

/-! ## The turns of a core (R22) -/

/-- The first of the candidates that can issue is the next. -/
theorem nextCtx_of {ex : Meanings} {d c n : Nat} {before after : List Nat} (hc : (s.core d c).candidates = before ++ n :: after)
    (hbefore : ∀ m ∈ before, s.canIssue ex ⟨d, c, m⟩ b = false) (hn : s.canIssue ex ⟨d, c, n⟩ b = true) :
    s.nextCtx ex d c b = some n := by
  rw [State.nextCtx, hc, List.find?_append, List.find?_eq_none.2 (by simpa using hbefore)]
  exact List.find?_cons_of_pos (p := fun m => s.canIssue ex ⟨d, c, m⟩ b) hn

variable {d c n : Nat} {rest : List Turn} {ex : Meanings}

/-- The issue turn of a core attempts the context that issues next. -/
theorem next_issue (hag : s.agenda = .issue d c :: rest) (hb : s.issuer d c = some b)
    (hn : { s with agenda := rest }.nextCtx ex d c b = some n) : s.next ex = { s with agenda := rest }.attempt ex ⟨d, c, n⟩ b := by
  have hb' : ({ s with agenda := rest } : State).issuer d c = some b := hb
  simp only [State.next, State.turn, hag, List.drop_one, List.tail_cons, State.take, State.issueStage, hb', hn]

section
variable (hag : s.agenda = .poll d c n :: rest) (hb : s.issuer d c = some b) (hmem : n ∈ (s.core d c).candidates)
  (hready : ((s.core d c).ctx n).ready = false)
include hmem hready

/-- A context that waits and may issue has its turn. -/
theorem polls_turn : (!(({ s with agenda := rest } : State).core d c).candidates.contains n
    || ((({ s with agenda := rest } : State).core d c).ctx n).ready) = false := by
  rw [Bool.or_eq_false_iff, Bool.not_eq_false', List.contains_iff_mem]
  exact ⟨hmem, hready⟩

include hag hb

/-- The turn of a context that waits attempts its instruction, which goes on unless it would issue before its turn. -/
theorem next_poll (hgo : { s with agenda := rest }.nextCtx ex d c b = some n
      ∨ ∀ u, { s with agenda := rest }.attempt ex ⟨d, c, n⟩ b = .next u →
        { s with agenda := rest }.hasIssued u ⟨d, c, n⟩ = false) :
    s.next ex = { s with agenda := rest }.attempt ex ⟨d, c, n⟩ b := by
  have hb' : ({ s with agenda := rest } : State).issuer d c = some b := hb
  simp only [State.next, State.turn, hag, List.drop_one, List.tail_cons, State.take, State.pollStage, hb',
    polls_turn (rest := rest) hmem hready, Bool.false_eq_true, if_false]
  cases hu : ({ s with agenda := rest } : State).attempt ex ⟨d, c, n⟩ b with
  | next u =>
    refine if_neg ?_
    rw [Bool.and_eq_true, bne_iff_ne]
    rintro ⟨hiss, hne⟩
    obtain hn | hstay := hgo
    · exact hne hn
    · exact Bool.false_ne_true ((hstay u hu).symm.trans hiss)
  | fault f => rfl
  | refused r => rfl

/-- One that would issue before its turn does not. -/
theorem next_poll_early {u : State} (hne : { s with agenda := rest }.nextCtx ex d c b ≠ some n)
    (hu : { s with agenda := rest }.attempt ex ⟨d, c, n⟩ b = .next u)
    (hiss : { s with agenda := rest }.hasIssued u ⟨d, c, n⟩ = true) :
    s.next ex = .next { s with agenda := rest } := by
  have hb' : ({ s with agenda := rest } : State).issuer d c = some b := hb
  simp only [State.next, State.turn, hag, List.drop_one, List.tail_cons, State.take, State.pollStage, hb',
    polls_turn (rest := rest) hmem hready, Bool.false_eq_true, if_false, hu, hiss, bne_iff_ne.2 hne, Bool.and_self, if_true]

end

/-- A step whose turn comes to running an instruction. -/
theorem step_runs {now : State} {w : Who} {pc : Word} {i : Instr} (hnext : s.next exec = now.attempt exec w b)
    (hexp : (now.ctxAt w).expired = false) (hlim : (now.core w.dev w.core).pairLimit w.ctx = false)
    (hhead : now.headAt w b = (pc, .ins i)) :
    step s = match exec i ({ now with cur := w }.modCtx w (fun y => y.atHead pc)) with
      | .next u => .next (now.issued u w).advance
      | .fault f => .fault f
      | .refused r => .refused r := by
  rw [step, hnext, State.attempt, issueCtx_ins hexp hlim hhead, Next.runWith]
  cases exec i ({ now with cur := w }.modCtx w (fun y => y.atHead pc)) <;> rfl

end

/-- Settles O55: the turn comes to an attempt of the context, whose head is the instruction fetched or the one that waits. -/
theorem stepRunsTheDecodedInstruction : Obligations.StepRunsTheDecodedInstruction := by
  unfold Obligations.StepRunsTheDecodedInstruction
  intro s d c n b rest t i core x pc w now runs first hb hexp hlim
  have hexp' : (now.ctxAt ⟨d, c, n⟩).expired = false := hexp
  refine ⟨?_, ?_, ?_⟩
  · rintro hag ⟨before, after, hc, hbefore⟩ hready hcan hhit hperm hbad hoff hdec
    have hwait : (now.ctxAt ⟨d, c, n⟩).wait = none := by
      have hparts : (x.st == .ready) = true ∧ x.wait.isNone = true ∧ (x.pre != .stopped) = true := by
        simpa [Context.ready, and_assoc] using hready
      exact Option.isNone_iff_eq_none.1 hparts.2.1
    have hcanIssue : now.canIssue exec ⟨d, c, n⟩ b = true := by
      rw [State.canIssue, Bool.or_eq_true]
      exact .inl hready
    have hhead : now.headAt ⟨d, c, n⟩ b = (pc, .ins i) := by
      rw [headAt_ready hwait]
      exact congrArg (Prod.mk pc) (fetch_ins (s := now) hcan hhit hperm hbad hoff hdec)
    exact step_runs (next_issue hag hb (nextCtx_of hc hbefore hcanIssue)) hexp' hlim hhead
  · rintro v hag ⟨before, after, hc, hbefore⟩ hcanIssue hwait hcode
    exact step_runs (next_issue hag hb (nextCtx_of hc hbefore hcanIssue)) hexp' hlim (headAt_waits hwait hcode)
  · intro v hag hmem hready hwait hcode issues stays
    refine ⟨fun hgo => step_runs (next_poll hag hb hmem hready hgo) hexp' hlim (headAt_waits hwait hcode), ?_⟩
    rintro hne ⟨u, hu⟩ hiss
    rw [step, next_poll_early hag hb hmem hready hne hu (hiss u hu)]

end Sys2Proof.Machine

/-! # The join of an element (O38) -/

namespace Sys2Proof.Machine
open Sys2Proof

/-- A value of w bits lies at or below the top. -/
theorem value_le_top {w a : Nat} (h : a < 2 ^ w) : a ≤ top w := Nat.le_sub_one_of_lt h

theorem top_lt_two_pow (w : Nat) : top w < 2 ^ w := Nat.sub_one_lt (Nat.two_pow_pos w).ne'

theorem joinVal_comm (k : Kind) (w a b : Nat) : joinVal k w a b = joinVal k w b a := by
  cases k
  case min => exact Nat.min_comm ..
  case or => exact Nat.or_comm ..
  case cnt => exact congrArg (min · (top w)) (Nat.add_comm a b)
  all_goals exact Nat.max_comm ..

theorem joinVal_assoc (k : Kind) (w a b c : Nat) : joinVal k w (joinVal k w a b) c = joinVal k w a (joinVal k w b c) := by
  cases k
  case min => exact Nat.min_assoc ..
  case or => exact Nat.or_assoc ..
  case cnt => simp only [joinVal]; omega
  all_goals exact Nat.max_assoc ..

theorem joinVal_lt (k : Kind) {w a b : Nat} (ha : a < 2 ^ w) (hb : b < 2 ^ w) : joinVal k w a b < 2 ^ w := by
  cases k
  case min => exact Nat.lt_of_le_of_lt (Nat.min_le_left a b) ha
  case or => exact Nat.or_lt_two_pow ha hb
  case cnt => exact Nat.lt_of_le_of_lt (Nat.min_le_right ..) (top_lt_two_pow w)
  all_goals exact Nat.max_lt.2 ⟨ha, hb⟩

/-- Bottom is the unit of the join. -/
theorem joinVal_bottomOf (k : Kind) {w a : Nat} (ha : a < 2 ^ w) : joinVal k w a (bottomOf k w) = a := by
  cases k
  case min => exact Nat.min_eq_left (value_le_top ha)
  case or => exact Nat.or_zero a
  case cnt => exact Nat.min_eq_left (value_le_top ha)
  all_goals exact Nat.max_zero a

/-- A value joined again changes nothing; only counts add up. -/
theorem joinVal_joinVal_self {k : Kind} (hk : k ≠ .cnt) (w a b : Nat) : joinVal k w (joinVal k w a b) b = joinVal k w a b := by
  cases k
  case min => exact Nat.min_eq_left (Nat.min_le_right a b)
  case or => simp only [joinVal, Nat.or_assoc, Nat.or_self]
  case cnt => exact absurd rfl hk
  all_goals exact Nat.max_eq_left (Nat.le_max_right a b)

/-- A join keeps every bit that is set. -/
theorem or_and_of_and {a t : Nat} (b : Nat) (h : a &&& t = t) : (a ||| b) &&& t = t := by
  refine Nat.eq_of_testBit_eq fun i => ?_
  have hi : (a.testBit i && t.testBit i) = t.testBit i := by rw [← Nat.testBit_and, h]
  rw [Nat.testBit_and, Nat.testBit_or, Bool.and_or_distrib_right, hi]
  exact Bool.or_eq_left_iff_imp.2 fun hb => (Bool.and_eq_true_iff.1 hb).2

/-- A join passes every trigger that the value has passed. -/
theorem passed_joinVal {k : Kind} {w a t : Nat} (hf : k ≠ .fill) (ha : a < 2 ^ w) (b : Nat) (h : passed k a t = true) :
    passed k (joinVal k w a b) t = true := by
  cases k
  case min => exact decide_eq_true (Nat.le_trans (Nat.min_le_left a b) (of_decide_eq_true h))
  case or => exact beq_iff_eq.2 (or_and_of_and b (beq_iff_eq.1 h))
  case cnt =>
    have hta : t ≤ a := of_decide_eq_true h
    exact decide_eq_true (Nat.le_min.2 ⟨Nat.le_add_right_of_le hta, Nat.le_trans hta (value_le_top ha)⟩)
  case fill => exact absurd rfl hf
  all_goals exact decide_eq_true (Nat.le_trans (of_decide_eq_true h) (Nat.le_max_left a b))

/-- Settles O38, law by law. -/
theorem joinLaws : Obligations.JoinLaws := by
  unfold Obligations.JoinLaws
  exact fun k w a b c t ha hb _ => ⟨joinVal_comm k w a b, joinVal_assoc k w a b c, joinVal_lt k ha hb, joinVal_bottomOf k ha,
    fun hk => joinVal_joinVal_self hk w a b, fun hf _ h => passed_joinVal hf ha b h⟩

end Sys2Proof.Machine

/-! # The state after reset (O57) -/

namespace Sys2Proof.Machine
open Sys2Proof

/-- No device that reset leaves has a core with a state of its own. -/
theorem State.core_reset (d c : Nat) : State.reset.core d c = Core.reset := by
  have hd : State.reset.device d = Device.reset := by
    by_cases h : 0 = d
    · simp [State.device, State.reset, aget, h]
    · simp [State.device, State.reset, aget, h]
  rw [State.core, hd]
  rfl

theorem State.canonical_reset : State.reset.Canonical := by
  intro p hp
  obtain rfl : p = (0, Device.reset) := by simpa [State.reset] using hp
  exact Device.canonical_reset

/-- The helpers of a core at reset are idle. -/
theorem Core.ctx_reset_helper {n : Nat} (h1 : 1 ≤ n) (h2 : n ≤ 10) : (Core.reset.ctx n).st = .idle := by
  have hlt : n < 11 := by omega
  have h0 : ¬ 0 = n := by omega
  simp [Core.ctx, Core.reset, hlt, h0, Context.reset]

/-- Settles O57: the canonical form, the values of the one device there is, and those of any core. -/
theorem resetState : Obligations.ResetState := by
  unfold Obligations.ResetState
  refine ⟨State.canonical_reset, rfl, rfl, rfl, rfl, rfl, rfl, rfl, rfl, fun _ => rfl, rfl, fun d c => ?_⟩
  rw [State.core_reset]
  exact ⟨rfl, rfl, rfl, fun g => by simp [Core.reset], rfl, rfl, rfl, fun n => Core.ctx_reset_helper⟩

end Sys2Proof.Machine

/-! # Flowstone accesses: the checks in order, and the reads that pass them (O18, O19) -/

namespace Sys2Proof.Machine
open Sys2Proof

section
variable {s : State} {b : Binding} {i : Instr} {acc : Access} {ea : Word} {align n : Nat} {kind : Kind} {wd : Width}

/-! ## The checks of R209 -/

section
variable {x : Context} {c : Core} {asid : Nat}

theorem flowCheck_noncanon (h : canonical ea = false) :
    flowCheck c x asid acc ea align n kind wd = .trap ⟨Cause.addrNoncanon, ea, 0⟩ := by
  simp only [flowCheck, h, Bool.not_false, if_true]

theorem flowCheck_misaligned (h : canonical ea = true) (hal : ea.toNat % align ≠ 0) :
    flowCheck c x asid acc ea align n kind wd = .trap ⟨Cause.misaligned, ea, 0⟩ := by
  simp only [flowCheck, h, bne_iff_ne.2 hal, Bool.not_true, Bool.false_eq_true, if_false, if_true]

variable (hat : canonical ea = true ∧ ea.toNat % align = 0)
include hat

theorem flowCheck_lineCross (hline : 64 < ea.toNat % 64 + n) :
    flowCheck c x asid acc ea align n kind wd = .trap ⟨Cause.lineCross, ea, 0⟩ := by
  simp only [flowCheck, hat.1, hat.2, hline, Bool.not_true, bne_self_eq_false, Bool.false_eq_true, if_false, if_true]

variable (hline : ea.toNat % 64 + n ≤ 64)
include hline

theorem flowCheck_miss (hl : lookup c x asid ea = .miss) : flowCheck c x asid acc ea align n kind wd = .walk := by
  simp only [flowCheck, hat, Nat.not_lt.2 hline, hl, Bool.not_true, bne_self_eq_false, Bool.false_eq_true, if_false]

theorem flowCheck_bad {t : Trap} (hl : lookup c x asid ea = .bad t) : flowCheck c x asid acc ea align n kind wd = .trap t := by
  simp only [flowCheck, hat, Nat.not_lt.2 hline, hl, Bool.not_true, bne_self_eq_false, Bool.false_eq_true, if_false]

variable {t : Tlb} (hl : lookup c x asid ea = .hit t) {q : Trap}
include hl

theorem flowCheck_perm (hq : permTrap t acc ea = some q) : flowCheck c x asid acc ea align n kind wd = .trap q := by
  simp only [flowCheck, hat, Nat.not_lt.2 hline, hl, hq, Bool.not_true, bne_self_eq_false, Bool.false_eq_true, if_false]

theorem flowCheck_kind (hp : permTrap t acc ea = none) (hq : kindTrap t kind wd ea = some q) :
    flowCheck c x asid acc ea align n kind wd = .trap q := by
  simp only [flowCheck, hat, Nat.not_lt.2 hline, hl, hp, hq, Bool.not_true, bne_self_eq_false, Bool.false_eq_true, if_false]

end

/-- What an instruction does whose first step is a Flowstone access: it traps or stalls as the checks say. -/
structure Accesses (s : State) (b : Binding) (i : Instr) (acc : Access) (ea : Word) (align n : Nat) (kind : Kind) (wd : Width) : Prop where
  trap : ∀ t, flowCheck s.here s.ctxHere b.asid acc ea align n kind wd = .trap t → exec i s = .next (s.trapHere b i t)
  walk : flowCheck s.here s.ctxHere b.asid acc ea align n kind wd = .walk → exec i s = .next (s.walkHere b i ea)

/-- A wait for a walk leaves the context stalled, and asks its die for it (R79). -/
theorem issue_walk {own : Env → Core → Res} {va : Word} (h : Clear s b i)
    (ho : own (s.envHere b) s.here = walkI (s.envHere b) i s.here va) : issue i own s = .next (s.walkHere b i va) := by
  rw [issue_clear h, ho]
  simp only [walkI, waitI_core]
  rfl

theorem Accesses.of_flowAccess {own : Env → Core → Res} {k : Tlb → Res} (h : Clear s b i) (he : exec i s = issue i own s)
    (ho : own (s.envHere b) s.here = flowAccess (s.envHere b) i s.here acc ea align n kind wd k) :
    Accesses s b i acc ea align n kind wd where
  trap t ht := he.trans (issue_trap h (ho.trans (by
    simp only [flowAccess, State.envHere_ctx, State.here_ctx, State.envHere_b, ht])))
  walk hw := he.trans (issue_walk h (ho.trans (by
    simp only [flowAccess, State.envHere_ctx, State.here_ctx, State.envHere_b, hw])))

/-! ## The instructions that access Flowstone -/

section
variable {p : Pred} {d a : SReg} {v : VReg} {o : Disp} {nt : BitVec 2}

theorem accesses_join (h : Clear s b (.join p kind wd none d a o)) (hf : inFence (s.envHere b) s.here = false) :
    Accesses s b (.join p kind wd none d a o) .join (effAddr s.regsHere a o) (wd.bits / 8) (wd.bits / 8) kind wd :=
  .of_flowAccess h rfl (by simp only [joinOwn, hf, Bool.false_eq_true, if_false]; rfl)

theorem accesses_tread (h : Clear s b (.tread p kind wd none nt d a o)) :
    Accesses s b (.tread p kind wd none nt d a o) .tread (effAddr s.regsHere a o) (elemBytes kind wd) (elemBytes kind wd) kind wd :=
  .of_flowAccess h rfl rfl

theorem accesses_xread (h : Clear s b (.xread p kind wd d a o)) :
    Accesses s b (.xread p kind wd d a o) .xread (effAddr s.regsHere a o) (wd.bits / 8) (wd.bits / 8) kind wd :=
  .of_flowAccess h rfl rfl

theorem accesses_xreadv (h : Clear s b (.xreadv p (.elems kind wd) v a o)) :
    Accesses s b (.xreadv p (.elems kind wd) v a o) .xread (effAddr s.regsHere a o) (wd.bits / 8) 32 kind wd :=
  .of_flowAccess h rfl rfl

end
end

/-- Settles O18: each of the four instructions does what the first failing check says. -/
theorem flowstoneChecks : Obligations.FlowstoneChecks := by
  unfold Obligations.FlowstoneChecks
  intro s b i p kind wd nt d a v o acc align n hi ea at_ within h
  have hacc : Accesses s b i acc ea align n kind wd := by
    obtain ⟨rfl, rfl, rfl, rfl, hf⟩ | ⟨rfl, rfl, rfl, rfl⟩ | ⟨rfl, rfl, rfl, rfl⟩ | ⟨rfl, rfl, rfl, rfl⟩ := hi
    · exact accesses_join h hf
    · exact accesses_tread h
    · exact accesses_xread h
    · exact accesses_xreadv h
  exact ⟨fun hc => hacc.trap _ (flowCheck_noncanon hc), fun hc hal => hacc.trap _ (flowCheck_misaligned hc hal),
    fun hat hline => hacc.trap _ (flowCheck_lineCross hat hline), fun ⟨hat, hline⟩ hl => hacc.walk (flowCheck_miss hat hline hl),
    fun ⟨hat, hline⟩ t hl => hacc.trap t (flowCheck_bad hat hline hl),
    fun ⟨hat, hline⟩ t hl => ⟨fun q hq => hacc.trap q (flowCheck_perm hat hline hl hq),
      fun hp q hq => hacc.trap q (flowCheck_kind hat hline hl hp hq)⟩⟩

end Sys2Proof.Machine

/-! # Reads that park (O19) -/

namespace Sys2Proof.Machine
open Sys2Proof

section
variable {s : State} {b : Binding} {i : Instr}

/-- Waiting at the instruction, with any core. -/
theorem waitI_eq (c : Core) (code : Nat) (parked poll : Bool) (no left : Nat) (post : State → State) :
    waitI (s.envHere b) i c code parked poll no left post = ⟨c.waitsAt s.cur.ctx i code parked poll no left, post⟩ := by
  unfold waitI Core.waitsAt
  simp only [State.envHere_ctx, State.envHere_who]
  cases (c.ctx s.cur.ctx).wait <;> rfl

@[simp] theorem Core.waitsAt_arbw (c : Core) (n : Nat) (i : Instr) (code : Nat) (parked poll : Bool) (no left : Nat) :
    (c.waitsAt n i code parked poll no left).arbw = c.arbw := by
  unfold Core.waitsAt
  dsimp only
  split
  · exact Core.setCtx_arbw ..
  · exact Core.setCtx_arbw ..

/-- The core at turn, its context's requests numbered up to no. -/
def State.asked (s : State) (no : Nat) : Core := s.here.setCtx s.cur.ctx { s.ctxHere with reqNo := no }

/-- The weights of the core at turn, once it has asked and waits. -/
theorem State.weights_asked (h : Quiet s b) (no code : Nat) (parked poll : Bool) (k left : Nat) :
    ((s.put ((s.asked no).waitsAt s.cur.ctx i code parked poll k left)).core s.cur.dev s.cur.core).weights = s.here.weights := by
  rw [State.put, State.core_setCore (State.aget_of_bound h.bound), Core.weights, Core.waitsAt_arbw, State.asked, Core.setCtx_arbw]
  rfl

/-- An instruction that sends a read parks until its answer (R54, R57). -/
theorem issue_sendRead (h : Clear s b i) {own : Env → Core → Res} {code pa : Nat} {req : Origin → Req}
    (ho : own (s.envHere b) s.here = sendRead (s.envHere b) i s.here code pa req) :
    let no := s.ctxHere.reqNo + 2
    issue i own s = .next ((s.put ((s.asked no).waitsAt s.cur.ctx i code true false no 1)).send s.cur.dev (gDev pa) s.here.weights
      (.req (gLocal pa / 64) (some b.launch) (req (.ctx s.cur no)))) := by
  intro no
  rw [issue_clear h, ho]
  simp only [sendRead, pairCheck_quiet h.quiet, waitI_eq]
  exact congrArg (fun w => Host.Outcome.next (State.send _ s.cur.dev (gDev pa) w (.req _ _ (req (.ctx s.cur no)))))
    (State.weights_asked h.quiet no code true false no 1)

/-- An access that passes its checks goes on with its translation. -/
theorem flowAccess_ok {acc : Access} {ea : Word} {align n : Nat} {kind : Kind} {wd : Width} {t : Tlb}
    (hr : Reaches s b acc ea align n kind wd t) (k : Tlb → Res) :
    flowAccess (s.envHere b) i s.here acc ea align n kind wd k = k t := by
  simp only [flowAccess, State.envHere_ctx, State.here_ctx, State.envHere_b, flowCheck_ok hr]

section
variable {p : Pred} {kind : Kind} {wd : Width} {lv : Option Level} {nt : BitVec 2} {d a : SReg} {v : VReg} {o : Disp} {t : Tlb}

/-- What a TREAD does once its access has passed its checks (R56, R221). -/
theorem exec_tread (hq : Quiet s b) (hlv : LevelIn b lv) (hhold : s.ctxHere.hold = [])
    (hr : Reaches s b .tread (effAddr s.regsHere a o) (elemBytes kind wd) (elemBytes kind wd) kind wd t) :
    ∃ own, exec (.tread p kind wd lv nt d a o) s = issue (.tread p kind wd lv nt d a o) own s ∧ own (s.envHere b) s.here =
      if b.det && nt != 0 then trapC (s.envHere b) (.tread p kind wd lv nt d a o) s.here Cause.nondet 0x6F (effAddr s.regsHere a o)
      else if lv.any (fun k => fenceWaits (s.envHere b) s.here k.toNat) then
        waitI (s.envHere b) (.tread p kind wd lv nt d a o) s.here 11 false true
      else sendRead (s.envHere b) (.tread p kind wd lv nt d a o) s.here 1 (t.phys (effAddr s.regsHere a o))
        (fun w => .tread w (effAddr s.regsHere a o) kind wd ((effAddr s.regsHere a o).toNat % 64)
          ((List.range (nt.toNat + 1)).map (fun k => trigger kind wd.bits (s.regsHere.getS (d + BitVec.ofNat 6 k))))) := by
  refine ⟨_, rfl, ?_⟩
  have hd := levelIn_depthTrap (s := s) hlv
  have hheld : (!((s.envHere b).ctx s.here).hold.isEmpty) = false := by simp [hhold]
  dsimp only
  split
  · next u hu => cases hd.symm.trans hu
  · refine (flowAccess_ok hr _).trans ?_
    cases lv with
    | none => rfl
    | some k =>
      simp only [hheld, Bool.or_false, pairCheck_quiet hq, Option.any_some]
      rfl

theorem exec_xread (hr : Reaches s b .xread (effAddr s.regsHere a o) (wd.bits / 8) (wd.bits / 8) kind wd t) :
    ∃ own, exec (.xread p kind wd d a o) s = issue (.xread p kind wd d a o) own s ∧ own (s.envHere b) s.here =
      sendRead (s.envHere b) (.xread p kind wd d a o) s.here 2 (t.phys (effAddr s.regsHere a o))
        (fun w => .xread w (effAddr s.regsHere a o) kind wd ((effAddr s.regsHere a o).toNat % 64) (wd.bits / 8) 0) :=
  ⟨_, rfl, flowAccess_ok hr _⟩

theorem exec_xreadv_elems (hr : Reaches s b .xread (effAddr s.regsHere a o) (wd.bits / 8) 32 kind wd t) :
    ∃ own, exec (.xreadv p (.elems kind wd) v a o) s = issue (.xreadv p (.elems kind wd) v a o) own s ∧ own (s.envHere b) s.here =
      sendRead (s.envHere b) (.xreadv p (.elems kind wd) v a o) s.here 2 (t.phys (effAddr s.regsHere a o))
        (fun w => .xread w (effAddr s.regsHere a o) kind wd ((effAddr s.regsHere a o).toNat % 64) 32 0) :=
  ⟨_, rfl, flowAccess_ok hr _⟩

theorem exec_xreadv_fill (hr : Reaches s b .xread (effAddr s.regsHere a o) 16 16 .fill .w8 t) :
    ∃ own, exec (.xreadv p .fill v a o) s = issue (.xreadv p .fill v a o) own s ∧ own (s.envHere b) s.here =
      sendRead (s.envHere b) (.xreadv p .fill v a o) s.here 2 (t.phys (effAddr s.regsHere a o))
        (fun w => .xread w (effAddr s.regsHere a o) .fill .w8 ((effAddr s.regsHere a o).toNat % 64) 16 0) :=
  ⟨_, rfl, flowAccess_ok hr _⟩

theorem exec_xreadv_ver {c : SReg} (hr : Reaches s b .xread (effAddr s.regsHere a o) 64 64 .ver .w8 t) :
    ∃ own, exec (.xreadv p (.ver c) v a o) s = issue (.xreadv p (.ver c) v a o) own s ∧ own (s.envHere b) s.here =
      sendRead (s.envHere b) (.xreadv p (.ver c) v a o) s.here 2 (t.phys (effAddr s.regsHere a o))
        (fun w => .xread w (effAddr s.regsHere a o) .ver .w8 0 64 ((s.regsHere.getS c).setWidth 32)) :=
  ⟨_, rfl, flowAccess_ok hr _⟩

end
end

/-- Settles O19: each read sends its one request and parks; TREAD first looks at its triggers and its fence. -/
theorem readsPark : Obligations.ReadsPark := by
  unfold Obligations.ReadsPark
  intro s b p kind wd lv nt d a c v o t ea no pa me parked
  refine ⟨fun h hlv hr hhold => ?_, fun h hr => ?_, fun h hr => ?_, fun h hr => ?_, fun h hr => ?_⟩
  · obtain ⟨own, he, ho⟩ := exec_tread (p := p) (d := d) (nt := nt) h.quiet hlv hhold hr
    have one : (b.det = true → nt = 0) → (b.det && nt != 0) = false := fun hnt => by
      cases hdet : b.det
      · rfl
      · simp [hnt hdet]
    refine ⟨fun hdet hnt => ?_, fun hnt hfence => ?_, fun k hnt hk hfence => ?_⟩
    · rw [if_pos (by rw [hdet, Bool.true_and, bne_iff_ne]; exact hnt)] at ho
      exact he.trans (issue_trap h ho)
    · have hgo : lv.any (fun k => fenceWaits (s.envHere b) s.here k.toNat) = false := by
        rw [Option.any_eq_false]
        exact fun k hk => by simpa using hfence k hk
      rw [one hnt, hgo, if_neg Bool.false_ne_true, if_neg Bool.false_ne_true] at ho
      exact he.trans (issue_sendRead h ho)
    · rw [one hnt, hk, Option.any_some, hfence, if_neg Bool.false_ne_true, if_pos rfl] at ho
      subst hk
      exact he.trans (issue_wait h ho)
  · obtain ⟨own, he, ho⟩ := exec_xread (p := p) (d := d) hr
    exact he.trans (issue_sendRead h ho)
  · obtain ⟨own, he, ho⟩ := exec_xreadv_elems (p := p) (v := v) hr
    exact he.trans (issue_sendRead h ho)
  · obtain ⟨own, he, ho⟩ := exec_xreadv_fill (p := p) (v := v) hr
    exact he.trans (issue_sendRead h ho)
  · obtain ⟨own, he, ho⟩ := exec_xreadv_ver (p := p) (v := v) (c := c) hr
    exact he.trans (issue_sendRead h ho)

end Sys2Proof.Machine

/-! # Fences, freezes of a range, and the description of a page (O20) -/

namespace Sys2Proof.Machine
open Sys2Proof

section
variable {s : State} {b : Binding} {p : Pred}

/-! ## FENCE (R107, R217) -/

section
variable {k : Level}

theorem exec_fence_range (h : Clear s b (.fence p k)) (hk : b.tree.length ≤ k.toNat) :
    exec (.fence p k) s = .next (s.trapHere b (.fence p k) ⟨Cause.levelRange, 0, BitVec.ofNat 64 k.toNat⟩) := by
  show execFence p k s = _
  unfold execFence
  exact issue_trap h (by simp only [depthTrap, State.envHere_b, Nat.not_lt.2 hk, if_false])

/-- A fence within the tree waits for its counter, and for what a pair's comparison has still to release. -/
theorem exec_fence (hq : Quiet s b) (hk : k.toNat < b.tree.length) :
    ∃ own, exec (.fence p k) s = issue (.fence p k) own s ∧ own (s.envHere b) s.here =
      if fenceWaits (s.envHere b) s.here k.toNat || !s.ctxHere.hold.isEmpty then waitI (s.envHere b) (.fence p k) s.here 11 false true
      else done (s.envHere b) (.fence p k) s.here := by
  refine ⟨_, rfl, ?_⟩
  simp only [depthTrap, State.envHere_b, hk, if_true, pairCheck_quiet hq]
  rfl

end

/-! ## FRZ (R62, R224) -/

/-- Where every line of a range has a translation, the lines are those of the range, in order. -/
theorem rangeLines_map_fst {ts : List Tlb} {ea : Word} {n : Nat}
    (h : ∀ k, k < n → ∃ t ∈ ts, t.va / 2 ^ t.bits = (ea + BitVec.ofNat 64 (64 * k)).toNat / 2 ^ t.bits) :
    (rangeLines ts ea n).map (·.1) = (List.range n).map (fun k => ea + BitVec.ofNat 64 (64 * k)) := by
  rw [rangeLines, List.map_filterMap, ← List.filterMap_eq_map]
  refine List.filterMap_congr fun k hk => ?_
  obtain ⟨t, ht, hva⟩ := h k (List.mem_range.1 hk)
  have hsome : (ts.find? fun t => t.va / 2 ^ t.bits == (ea + BitVec.ofNat 64 (64 * k)).toNat / 2 ^ t.bits).isSome = true :=
    List.find?_isSome.2 ⟨t, ht, beq_iff_eq.2 hva⟩
  obtain ⟨u, hu⟩ := Option.isSome_iff_exists.1 hsome
  simp only [hu, Option.map_some, Function.comp_apply]

section
variable {a c : SReg} {o : Disp}

/-- The form of a range that a FRZ may name. -/
abbrev FreezeForm (ea : Word) (len : Nat) : Prop := canonical ea = true ∧ ea.toNat % 64 = 0 ∧ len % 64 = 0 ∧ len ≤ 2 ^ 36

theorem exec_frz_noncanon (h : Clear s b (.frz p a c o)) (hcan : canonical (effAddr s.regsHere a o) = false) :
    exec (.frz p a c o) s = .next (s.trapHere b (.frz p a c o) ⟨Cause.addrNoncanon, effAddr s.regsHere a o, 0⟩) := by
  show execFrz p a c o s = _
  unfold execFrz
  exact issue_trap h (by
    simp only [State.envHere_regs, State.here_ctx, State.ctxHere_regs, hcan, Bool.not_false, if_true]
    rfl)

theorem exec_frz_misaligned (h : Clear s b (.frz p a c o)) (hcan : canonical (effAddr s.regsHere a o) = true)
    (hform : ¬ FreezeForm (effAddr s.regsHere a o) (s.regsHere.getS c).toNat) :
    exec (.frz p a c o) s = .next (s.trapHere b (.frz p a c o) ⟨Cause.misaligned, effAddr s.regsHere a o, 0⟩) := by
  have hbad : ((effAddr s.regsHere a o).toNat % 64 != 0 || (s.regsHere.getS c).toNat % 64 != 0
      || decide (2 ^ 36 < (s.regsHere.getS c).toNat)) = true := by
    rw [Bool.or_eq_true, Bool.or_eq_true, bne_iff_ne, bne_iff_ne, decide_eq_true_iff]
    by_contra hno
    push Not at hno
    exact hform ⟨hcan, hno.1.1, hno.1.2, hno.2⟩
  have hcan' : ¬ (!canonical (effAddr s.regsHere a o)) = true := by simp [hcan]
  exact issue_trap h ((if_neg hcan').trans (if_pos hbad))

/-- The pages of a range, as a FRZ finds them. -/
abbrev State.freezePages (s : State) (b : Binding) (ea : Word) (len : Nat) : Except (Word × Option Trap) (List Tlb) :=
  lookupRange s.here s.ctxHere b.asid .freeze (len / 4096 + 2) ea len

/-- A sender keeps its weights while it sends one message after the other. -/
theorem State.foldl_send_weights {α : Type} (dst : α → Nat) (m : α → Body) (d c : Nat) (l : List α) (u : State) :
    l.foldl (fun u x => u.send d (dst x) (u.core d c).weights (m x)) u
      = l.foldl (fun v x => v.send d (dst x) (u.core d c).weights (m x)) u := by
  induction l generalizing u with
  | nil => rfl
  | cons x l ih => rw [List.foldl_cons, List.foldl_cons, ih, State.core_send]

/-- A freeze request to the home of each line, under one request number (R62). -/
def State.sendFreezes (s : State) (b : Binding) (no : Nat) (ls : List (Word × Nat × Tlb)) (u : State) : State :=
  ls.foldl (fun u l => u.send s.cur.dev (gDev l.2.1) (u.core s.cur.dev s.cur.core).weights
    (.req (gLocal l.2.1 / 64) (some b.launch) (.freeze (.ctx s.cur no) l.1 l.2.2.kind l.2.2.wd))) u

/-- A core keeps its weights while it sends, so all its requests go at those it began with. -/
theorem State.sendFreezes_eq (no : Nat) (ls : List (Word × Nat × Tlb)) {u : State} {w : BitVec 24}
    (hw : (u.core s.cur.dev s.cur.core).weights = w) :
    s.sendFreezes b no ls u = ls.foldl (fun u l => u.send s.cur.dev (gDev l.2.1) w
      (.req (gLocal l.2.1 / 64) (some b.launch) (.freeze (.ctx s.cur no) l.1 l.2.2.kind l.2.2.wd))) u := by
  subst hw
  exact State.foldl_send_weights (fun l : Word × Nat × Tlb => gDev l.2.1)
    (fun l => .req (gLocal l.2.1 / 64) (some b.launch) (.freeze (.ctx s.cur no) l.1 l.2.2.kind l.2.2.wd)) s.cur.dev s.cur.core ls u

/-- What a FRZ of a range in form does (R224): nothing of no bytes; else what it finds for the pages decides, and for pages that permit it
what of the context is outstanding. -/
theorem exec_frz (hq : Quiet s b) (hform : FreezeForm (effAddr s.regsHere a o) (s.regsHere.getS c).toNat) :
    let i : Instr := .frz p a c o
    let ea := effAddr s.regsHere a o
    let len := (s.regsHere.getS c).toNat
    ∃ own, exec i s = issue i own s
      ∧ (len = 0 → own (s.envHere b) s.here = done (s.envHere b) i s.here)
      ∧ (∀ va, 0 < len → s.freezePages b ea len = .error (va, none) → own (s.envHere b) s.here = walkI (s.envHere b) i s.here va)
      ∧ (∀ va t, 0 < len → s.freezePages b ea len = .error (va, some t) → own (s.envHere b) s.here = trapI (s.envHere b) i s.here t)
      ∧ (∀ ts, 0 < len → s.freezePages b ea len = .ok ts → s.ctxHere.hold = [] → s.ctxHere.out ≠ [] →
        own (s.envHere b) s.here = waitI (s.envHere b) i s.here 15 false true)
      ∧ (∀ ts, 0 < len → s.freezePages b ea len = .ok ts → s.ctxHere.hold = [] → s.ctxHere.out = [] →
        let no := s.ctxHere.reqNo + 2
        let lines := rangeLines ts ea (len / 64)
        own (s.envHere b) s.here = waitI (s.envHere b) i (s.asked no) 15 false false no lines.length (s.sendFreezes b no lines)) := by
  obtain ⟨hcan, hea, hlen, hmax⟩ := hform
  have hcan' : ¬ (!canonical (effAddr s.regsHere a o)) = true := by simp [hcan]
  have hgood : ¬ ((effAddr s.regsHere a o).toNat % 64 != 0 || (s.regsHere.getS c).toNat % 64 != 0
      || decide (2 ^ 36 < (s.regsHere.getS c).toNat)) = true := by
    rw [hea, hlen, decide_eq_false (Nat.not_lt.2 hmax)]
    exact Bool.false_ne_true
  intro i ea len
  refine ⟨_, rfl, fun h0 => (if_neg hcan').trans ((if_neg hgood).trans (if_pos h0)), fun va h0 hf => ?_, fun va t h0 hf => ?_,
    fun ts h0 hf hhold hout => ?_, fun ts h0 hf hhold hout => ?_⟩
  all_goals
    have hf' : lookupRange s.here ((s.envHere b).ctx s.here) (s.envHere b).b.asid .freeze (len / 4096 + 2) ea len = _ := hf
    refine (if_neg hcan').trans ((if_neg hgood).trans ((if_neg (Nat.ne_of_gt h0)).trans ?_))
    simp only [State.envHere_regs, State.here_ctx, State.ctxHere_regs, ea, len, i] at hf' ⊢
    simp only [hf']
  · have hno : (!(s.ctxHere.hold).isEmpty || !(s.ctxHere.out).isEmpty) = true := by simpa using Or.inr hout
    simp only [pairCheck_quiet hq]
    exact if_pos hno
  · have hgo : ¬ (!(s.ctxHere.hold).isEmpty || !(s.ctxHere.out).isEmpty) = true := by simp [hhold, hout]
    simp only [pairCheck_quiet hq]
    refine (if_neg hgo).trans ?_
    simp only [Env.modCtx, State.envHere_who, State.here_ctx, State.envHere_ctx]
    rfl

end

/-- A freeze sends its requests and stalls until they are all answered. -/
theorem issue_sendFreezes {i : Instr} {own : Env → Core → Res} {no left : Nat} {ls : List (Word × Nat × Tlb)} (h : Clear s b i)
    (ho : own (s.envHere b) s.here = waitI (s.envHere b) i (s.asked no) 15 false false no left (s.sendFreezes b no ls)) :
    issue i own s = .next (ls.foldl (fun u l => u.send s.cur.dev (gDev l.2.1) s.here.weights
        (.req (gLocal l.2.1 / 64) (some b.launch) (.freeze (.ctx s.cur no) l.1 l.2.2.kind l.2.2.wd)))
      (s.put ((s.asked no).waitsAt s.cur.ctx i 15 false false no left))) := by
  rw [issue_clear h, ho, waitI_eq]
  exact congrArg _ (State.sendFreezes_eq no ls (State.weights_asked h.quiet no 15 false false no left))

/-! ## LKIND (R225) -/

/-- The description of a page, as R225 lays it out. -/
theorem Tlb.desc_eq (t : Tlb) :
    t.desc = t.kind.code.toNat + 8 * t.wd.code.toNat + 32 * b2n t.j + 64 * b2n t.t + 128 * b2n t.x + 256 * b2n t.f + 512 * t.pageField := by
  unfold Tlb.desc Tlb.kindDesc
  ring

section
variable {d a : SReg} {o : BitVec 24}

theorem exec_lkind_noncanon (h : Clear s b (.lkind p d a o)) (hcan : canonical (effAddr s.regsHere a (.imm o)) = false) :
    exec (.lkind p d a o) s = .next (s.trapHere b (.lkind p d a o) ⟨Cause.addrNoncanon, effAddr s.regsHere a (.imm o), 0⟩) := by
  have hno : (!canonical (effAddr s.regsHere a (.imm o))) = true := by simp [hcan]
  exact issue_trap h (if_pos hno)

/-- What an LKIND of a canonical address does: what the lookup of its page says. -/
theorem exec_lkind (hcan : canonical (effAddr s.regsHere a (.imm o)) = true) :
    let i : Instr := .lkind p d a o
    let ea := effAddr s.regsHere a (.imm o)
    ∃ own, exec i s = issue i own s
      ∧ (lookup s.here s.ctxHere b.asid ea = .miss → own (s.envHere b) s.here = walkI (s.envHere b) i s.here ea)
      ∧ (∀ t, lookup s.here s.ctxHere b.asid ea = .bad t → own (s.envHere b) s.here = trapI (s.envHere b) i s.here t)
      ∧ (∀ t, lookup s.here s.ctxHere b.asid ea = .hit t → own (s.envHere b) s.here =
        done (s.envHere b) i ((s.envHere b).modRegs s.here (fun r => r.setS d (BitVec.ofNat 64 t.desc)))) := by
  have hcan' : ¬ (!canonical (effAddr s.regsHere a (.imm o))) = true := by simp [hcan]
  intro i ea
  refine ⟨_, rfl, fun hl => ?_, fun t hl => ?_, fun t hl => ?_⟩
  all_goals
    have hl' : lookup s.here ((s.envHere b).ctx s.here) (s.envHere b).b.asid ea = _ := hl
    refine (if_neg hcan').trans ?_
    simp only [State.envHere_regs, State.here_ctx, State.ctxHere_regs, ea, i] at hl' ⊢
    simp only [hl']

end
end

/-- Settles O20: FENCE by its counter, FRZ by the form and the pages of its range, LKIND by the lookup of its page. -/
theorem fencesFreezesPages : Obligations.FencesFreezesPages := by
  unfold Obligations.FencesFreezesPages
  refine ⟨fun s b p k h => ⟨exec_fence_range h, fun hk hhold hf => ?_, fun hk hf => ?_⟩, ?_, ?_⟩
  · obtain ⟨own, he, ho⟩ := exec_fence (p := p) h.quiet hk
    rw [hhold, hf] at ho
    exact he.trans (issue_same h ho)
  · obtain ⟨own, he, ho⟩ := exec_fence (p := p) h.quiet hk
    rw [hf, Bool.true_or, if_pos rfl] at ho
    exact he.trans (issue_wait h ho)
  · intro s b p a c o i ea len formed found h
    refine ⟨exec_frz_noncanon h, exec_frz_misaligned h, fun hform h0 => ?_, fun va hform h0 hf => ?_, fun va t hform h0 hf => ?_,
      fun ts hform h0 hf hhold hout => ?_, fun ts hform h0 hf hhold hout => ⟨?_, rangeLines_map_fst⟩⟩
    all_goals obtain ⟨own, he, hzero, hwalk, htrap, hstall, hsend⟩ := exec_frz (p := p) h.quiet hform
    · exact he.trans (issue_same h (hzero h0))
    · exact he.trans (issue_walk h (hwalk va h0 hf))
    · exact he.trans (issue_trap h (htrap va t h0 hf))
    · exact he.trans (issue_wait h (hstall ts h0 hf hhold hout))
    · exact he.trans (issue_sendFreezes h (hsend ts h0 hf hhold hout))
  · intro s b p d a o i ea h
    refine ⟨fun t hcan hl => ?_, fun hcan hl => ?_, fun t hcan hl => ?_, exec_lkind_noncanon h⟩
    all_goals obtain ⟨own, he, hmiss, hbad, hhit⟩ := exec_lkind (b := b) (p := p) (d := d) hcan
    · rw [← Tlb.desc_eq]
      exact he.trans (issue_regs h (hhit t hl))
    · exact he.trans (issue_walk h (hmiss hl))
    · exact he.trans (issue_trap h (hbad t hl))

end Sys2Proof.Machine

/-! # Reads and freezes at a home (O40) -/

namespace Sys2Proof.Machine
open Sys2Proof

/-! ## A request under the kind that its line has -/

@[simp] theorem Device.line_setLine (x : Device) (n : Nat) (l : Line) : (x.setLine n l).line n = l := by
  simp only [Device.line, Device.setLine, aget_aset_self, Option.getD_some]

@[simp] theorem Device.park_touch (x : Device) (n : Nat) (k : Kind) (w : Width) : (x.touch n k w).park = x.park := by
  unfold Device.touch
  dsimp only [Device.setLine]
  split <;> rfl

section
variable {x : Device} {n : Nat} {k : Kind} {w : Width}

/-- A request under the kind that a line has leaves all but the line's width. -/
theorem Device.touch_same (h : (x.line n).kind = some k) : x.touch n k w = x.setLine n { x.line n with kind := some k, wd := w } := by
  simp only [Device.touch, h, Option.getD_some, bne_self_eq_false, Bool.false_and, Bool.false_eq_true, if_false]

theorem Device.mem_touch (h : (x.line n).kind = some k) : (x.touch n k w).mem = x.mem := by
  rw [Device.touch_same h, Device.setLine]

theorem Device.line_touch (h : (x.line n).kind = some k) : (x.touch n k w).line n = { x.line n with kind := some k, wd := w } := by
  rw [Device.touch_same h, Device.line_setLine]

theorem Device.parkUsed_touch : (x.touch n k w).parkUsed n = x.parkUsed n := by
  simp only [Device.parkUsed, Device.park_touch]

theorem Device.treadNow_touch (h : (x.line n).kind = some k) (va : Word) (off : Nat) (t : List Word) :
    (x.touch n k w).treadNow n va k w off t = x.treadNow n va k w off t := by
  unfold Device.treadNow
  simp only [Device.mem_touch h, Device.line_touch h]

theorem Device.xreadNow_touch (h : (x.line n).kind = some k) (va : Word) (off len : Nat) (v : BitVec 32) :
    (x.touch n k w).xreadNow n va k w off len v = x.xreadNow n va k w off len v := by
  unfold Device.xreadNow Device.rangeFinal Device.lineBytes
  simp only [Device.mem_touch h, Device.line_touch h]

end

/-! ## A read answered or parked -/

section
variable {s : State} {l : Nat} {x : Device} {la : Option LaunchId} {o : Origin} {k : Kind} {wd : Width} {wt : BitVec 24} {r : Req}

/-- A read at its home, once it has touched its line. -/
def State.answerOrPark (s : State) (l : Nat) (wt : BitVec 24) (la : Option LaunchId) (o : Origin) (r : Req) : State :=
  match (s.device o.dev).readNow l r with
  | some (q, a) => s.sendAll o.dev [.answer q a]
  | none => s.parkReq o.dev l wt la o r

variable (hx : aget s.devs o.dev = some x) (hk : (x.line l).kind = some k)
include hx hk

theorem State.answerOrPark_answer {a : Answer} (hr : (x.touch l k wd).readNow l r = some (o, a)) :
    let u := (s.modDev o.dev (fun x => x.touch l k wd)).answerOrPark l wt la o r
    u.net = s.net ++ [⟨o.dev, none, 0x010101, .answer o a⟩] ∧ (u.device o.dev).mem = x.mem := by
  have hd := State.device_modDev hx (fun x => x.touch l k wd)
  have hu : (s.modDev o.dev (fun x => x.touch l k wd)).answerOrPark l wt la o r
      = (s.modDev o.dev (fun x => x.touch l k wd)).sendAll o.dev [.answer o a] := by
    simp only [State.answerOrPark, hd, hr]
  rw [hu, State.sendAll_answer]
  exact ⟨by rw [State.modDev_net], (congrArg Device.mem hd).trans (Device.mem_touch hk)⟩

theorem State.answerOrPark_park (hr : (x.touch l k wd).readNow l r = none) (hroom : x.parkUsed l < 8192) :
    let u := (s.modDev o.dev (fun x => x.touch l k wd)).answerOrPark l wt la o r
    u.net = s.net ∧ (u.device o.dev).mem = x.mem ∧ (u.device o.dev).park = x.park ++ [⟨l, la, r⟩] := by
  have hd := State.device_modDev hx (fun x => x.touch l k wd)
  have hroom' : (x.touch l k wd).parkUsed l < 8192 := by rwa [Device.parkUsed_touch]
  have hu : (s.modDev o.dev (fun x => x.touch l k wd)).answerOrPark l wt la o r
      = s.modDev o.dev (fun x => { x.touch l k wd with park := (x.touch l k wd).park ++ [⟨l, la, r⟩] }) := by
    simp only [State.answerOrPark, hd, hr, State.parkReq, if_pos hroom', State.modDev_modDev]
  dsimp only
  rw [hu, State.device_modDev hx, State.modDev_net]
  exact ⟨rfl, Device.mem_touch (w := wd) hk, congrArg (· ++ _) (x.park_touch l k wd)⟩

end

section
variable {s : State} {n l : Nat} {x : Device} {la : Option LaunchId} {o : Origin} {va : Word} {k : Kind} {wd : Width} {wt : BitVec 24}

theorem exec_rsuThresholdRead {off : Nat} {t : List Word} (hm : s.atHome n = some (o.dev, l, wt, la, .tread o va k wd off t)) :
    exec (.rsuThresholdRead n) s
      = .next (((s.dropMsg n).modDev o.dev (fun x => x.touch l k wd)).answerOrPark l wt la o (.tread o va k wd off t)) := by
  show execRsuThresholdRead n s = _
  simp only [execRsuThresholdRead, hm]
  rfl

theorem exec_rsuExactRead {off len : Nat} {v : BitVec 32} (hm : s.atHome n = some (o.dev, l, wt, la, .xread o va k wd off len v)) :
    exec (.rsuExactRead n) s
      = .next (((s.dropMsg n).modDev o.dev (fun x => x.touch l k wd)).answerOrPark l wt la o (.xread o va k wd off len v)) := by
  show execRsuExactRead n s = _
  simp only [execRsuExactRead, hm]
  rfl

/-- A freeze at a line that holds no error, and on which nothing is parked, sets the freeze bit and is answered. -/
theorem exec_rsuFreeze (hx : aget s.devs o.dev = some x) (hk : (x.line l).kind = some k)
    (hm : s.atHome n = some (o.dev, l, wt, la, .freeze o va k wd)) (hb : (x.line l).bad = false) (hp : ∀ q ∈ x.park, q.line ≠ l) :
    ∃ u, exec (.rsuFreeze n) s = .next u ∧ ((u.device o.dev).line l).frozen = true ∧ (u.device o.dev).mem = x.mem
      ∧ u.net = s.net.eraseIdx n ++ [⟨o.dev, none, 0x010101, .answer o .ok⟩] := by
  have hd : aget (s.dropMsg n).devs o.dev = some x := hx
  have hb' : (((s.dropMsg n).device o.dev).line l).bad = false := by rwa [State.device_of hd]
  have he : exec (.rsuFreeze n) s = .next (((s.dropMsg n).modDev o.dev (fun x =>
      (x.touch l k wd).setLine l { (x.touch l k wd).line l with frozen := true })).sendAll o.dev [.answer o .ok]) := by
    show execRsuFreeze n s = _
    simp only [execRsuFreeze, hm, State.homeFreeze, hb', Bool.false_eq_true, if_false]
    rw [State.settleHome_modDev hd (by rwa [Device.setLine, Device.park_touch])]
  rw [State.sendAll_answer] at he
  refine ⟨_, he, ?_, ?_, by rw [State.modDev_net]; rfl⟩
  all_goals
    have hdev := State.device_modDev hd fun x => (x.touch l k wd).setLine l { (x.touch l k wd).line l with frozen := true }
  · exact (congrArg (fun y => (y.line l).frozen) hdev).trans (by rw [Device.line_setLine])
  · exact (congrArg Device.mem hdev).trans (Device.mem_touch (w := wd) hk)

end

/-- Settles O40: a read that the line answers is answered, another parks, and a freeze sets the bit. -/
theorem homeReads : Obligations.HomeReads := by
  unfold Obligations.HomeReads
  rintro s n _ l x la o va k wd off len t v wt hx hk rfl gone
  have hd : aget (s.dropMsg n).devs o.dev = some x := hx
  refine ⟨fun hm => ⟨fun a ha => ?_, fun hnone hroom => ?_⟩, fun hm => ⟨fun a ha => ?_, fun hnone hroom => ?_⟩,
    fun hm hb hp => exec_rsuFreeze hx hk hm hb hp⟩
  · exact ⟨_, exec_rsuThresholdRead hm, State.answerOrPark_answer hd hk (by
      rw [Device.readNow, Device.treadNow_touch hk, ha, Option.map_some])⟩
  · exact ⟨_, exec_rsuThresholdRead hm, State.answerOrPark_park hd hk (by
      rw [Device.readNow, Device.treadNow_touch hk, hnone, Option.map_none]) hroom⟩
  · exact ⟨_, exec_rsuExactRead hm, State.answerOrPark_answer hd hk (by
      rw [Device.readNow, Device.xreadNow_touch hk, ha, Option.map_some])⟩
  · exact ⟨_, exec_rsuExactRead hm, State.answerOrPark_park hd hk (by
      rw [Device.readNow, Device.xreadNow_touch hk, hnone, Option.map_none]) hroom⟩

end Sys2Proof.Machine

/-! # Answers, acknowledgements and retries (O41) -/

namespace Sys2Proof.Machine
open Sys2Proof

/-! ## Answers at a context (R54, R57, R62) -/

section
variable {s : State} {w : Who} {b : Binding} {v : Wait}

/-- A retirement counts in its region (R23). -/
theorem retire_retired {e : Env} (i : Instr) {k : Core} (hp : e.b.pair = false) (hn : e.who.ctx < 11) :
    ((retire e i k).ctx e.who.ctx).region.retired = (k.ctx e.who.ctx).region.retired + 1 := by
  simp only [retire, retireAt, if_true, Core.ctx_setCtx _ _ hn, Context.feed, hp]
  rfl

/-- What a context whose wait has ended with a retirement is: ready, its registers R, one more instruction in its region. -/
structure Context.RetiredFrom (x y : Context) (R : Regs) : Prop where
  regs : y.regs = R
  st : y.st = .ready
  wait : y.wait = none
  retired : y.region.retired = x.region.retired + 1

/-- A step that retires the instruction of a context of a core without a partner, with the context's registers R. -/
theorem Alone.onCtx_done (h : Alone s w.dev w.core b) (hn : w.ctx < 11) (hp : b.pair = false) {f : Env → Core → Res} {i : Instr} {R : Regs}
    (hf : f (s.env w b) (s.core w.dev w.core) = done (s.env w b) i ((s.core w.dev w.core).setCtx w.ctx { s.ctxAt w with regs := R })) :
    (s.onCtx w f).net = s.net ∧ (s.ctxAt w).RetiredFrom ((s.onCtx w f).ctxAt w) R := by
  have he : s.onCtx w f = s.setCore w.dev w.core (retire (s.env w b) i ((s.core w.dev w.core).setCtx w.ctx { s.ctxAt w with regs := R })) := by
    rw [h.onCtx, hf]
    rfl
  have hx : ∀ k, (s.setCore w.dev w.core k).ctxAt w = k.ctx w.ctx := fun k => by
    rw [State.ctxAt, State.core_setCore (State.aget_of_bound h.1)]
  have hk : (((s.core w.dev w.core).setCtx w.ctx { s.ctxAt w with regs := R }).ctx w.ctx) = { s.ctxAt w with regs := R } :=
    Core.ctx_setCtx _ _ hn
  obtain ⟨hwait, hst, hregs⟩ := retire_ctx (e := s.env w b) (k := (s.core w.dev w.core).setCtx w.ctx { s.ctxAt w with regs := R }) i hp hn
  have hret := retire_retired (e := s.env w b) (k := (s.core w.dev w.core).setCtx w.ctx { s.ctxAt w with regs := R }) i hp hn
  rw [he, hx]
  exact ⟨State.setCore_net .., hregs.trans (congrArg Context.regs hk), hst, hwait, hret.trans (congrArg (·.region.retired + 1) hk)⟩

/-- An answer is for the wait that has its number. -/
theorem Context.waitFor_of {x : Context} {no : Nat} (hw : x.wait = some v) (hno : v.no = no) (hpoll : v.poll = false) :
    x.waitFor no = some v := by
  simp only [Context.waitFor, hw, hno, hpoll, beq_self_eq_true, Bool.not_false, Bool.and_self, if_true]

section
variable {n no dv : Nat} {hold : Option Nat} {wt : BitVec 24} {a : Answer}
variable (hw : (s.ctxAt w).wait = some v) (hm : s.net[n]? = some ⟨dv, hold, wt, .answer (.ctx w no) a⟩)
include hw hm

theorem exec_wake (hfrz : isFrz v.instr = false) : exec (.wake n) s = .next ((s.dropMsg n).onCtx w (wakeStep no a)) := by
  have hw' : ((s.core w.dev w.core).ctx w.ctx).wait = some v := hw
  show execWake n s = _
  simp only [execWake, hm, hw', hfrz, Bool.false_eq_true, if_false]

theorem exec_freezeAck (hfrz : isFrz v.instr = true) : exec (.freezeAck n) s = .next ((s.dropMsg n).onCtx w (freezeStep no a)) := by
  have hw' : ((s.core w.dev w.core).ctx w.ctx).wait = some v := hw
  show execFreezeAck n s = _
  simp only [execFreezeAck, hm, hw', hfrz, if_true]

variable (h : Alone s w.dev w.core b) (hn : w.ctx < 11) (hp : b.pair = false) (hno : v.no = no) (hpoll : v.poll = false)
include h hn hp hno hpoll

/-- The answer to a read, not a failure: the read retires, its register written. -/
theorem exec_wake_answer (hfrz : isFrz v.instr = false) (ha : ∀ t, a ≠ .trap t) :
    ∃ u, exec (.wake n) s = .next u ∧ u.net = s.net.eraseIdx n
      ∧ (s.ctxAt w).RetiredFrom (u.ctxAt w) (answerRegs v.instr a (s.ctxAt w).regs) := by
  have h1 : Alone (s.dropMsg n) w.dev w.core b := h
  have hwait : ((s.env w b).ctx (s.core w.dev w.core)).waitFor no = some v := Context.waitFor_of hw hno hpoll
  refine ⟨_, exec_wake hw hm hfrz, h1.onCtx_done hn hp (i := v.instr) ?_⟩
  show wakeStep no a (s.env w b) (s.core w.dev w.core) = _
  simp only [wakeStep, hwait]
  cases a with
  | trap t => exact absurd rfl (ha t)
  | _ => rfl

variable (hfrz : isFrz v.instr = true) (herr : v.err = none) (hok : a = .ok)
include hfrz herr hok

/-- The last line's freeze answer retires the FRZ. -/
theorem exec_freezeAck_last (hl : v.left = 1) :
    ∃ u, exec (.freezeAck n) s = .next u ∧ u.net = s.net.eraseIdx n ∧ (s.ctxAt w).RetiredFrom (u.ctxAt w) (s.ctxAt w).regs := by
  have h1 : Alone (s.dropMsg n) w.dev w.core b := h
  have hwait : ((s.env w b).ctx (s.core w.dev w.core)).waitFor no = some v := Context.waitFor_of hw hno hpoll
  refine ⟨_, exec_freezeAck hw hm hfrz, h1.onCtx_done hn hp (i := v.instr) ?_⟩
  show freezeStep no a (s.env w b) (s.core w.dev w.core) = _
  simp only [freezeStep, hwait, hfrz, hl, herr, hok, Bool.not_true, Bool.false_eq_true, lt_self_iff_false, if_false]
  exact congrArg (done _ _) (Core.setCtx_self _ _).symm

omit hp in
/-- An earlier one counts. -/
theorem exec_freezeAck_more (hl : 1 < v.left) :
    ∃ u, exec (.freezeAck n) s = .next u ∧ (u.ctxAt w).wait = some { v with left := v.left - 1 } := by
  have h1 : Alone (s.dropMsg n) w.dev w.core b := h
  have hwait : ((s.env w b).ctx (s.core w.dev w.core)).waitFor no = some v := Context.waitFor_of hw hno hpoll
  have hstep : freezeStep no a (s.env w b) (s.core w.dev w.core)
      = Res.only ((s.core w.dev w.core).modCtx w.ctx (fun x => { x with wait := some { v with left := v.left - 1 } })) := by
    simp only [freezeStep, hwait, hfrz, hl, herr, hok, Bool.not_true, Bool.false_eq_true, if_false, if_true]
    rw [← herr]
    rfl
  have he := exec_freezeAck hw hm hfrz
  rw [h1.onCtx] at he
  refine ⟨_, he, ?_⟩
  have hstep' : freezeStep no a ((s.dropMsg n).env w b) ((s.dropMsg n).core w.dev w.core) = _ := hstep
  rw [hstep']
  dsimp only [Res.only, id]
  rw [State.ctxAt, State.core_setCore (State.aget_of_bound h1.1), Core.modCtx, Core.ctx_setCtx _ _ hn]

end

/-! ## Acknowledgements (R65) -/

/-- An acknowledgement leaves the outstanding entries that do not have its number. -/
theorem Context.out_acked (x : Context) (no : Nat) (t : Option Trap) : (x.acked no t).out = x.out.filter (fun e => e.no != no) := by
  unfold Context.acked
  split
  · cases t with
    | none => rfl
    | some t =>
      dsimp only [Context.defer]
      split <;> rfl
  · next hnone =>
    rw [Bool.not_eq_true, List.any_eq_false] at hnone
    exact (List.filter_eq_self.2 fun e he => by simpa using hnone e he).symm

theorem Core.out_acked (c : Core) (no : Nat) (t : Option Trap) {n : Nat} (hn : n < 11) :
    ((c.acked no t).ctx n).out = (c.ctx n).out.filter (fun e => e.no != no) := by
  rw [← Context.out_acked _ no t, Core.ctx, dif_pos hn, Core.ctx, dif_pos hn, Core.acked, Vector.getElem_map]

theorem State.keeps_cores_noteCounted (w : Who) (b : Binding) (k g : Nat) (u : State) : State.Keeps Device.cores u (noteCounted w b k g u) := by
  unfold noteCounted
  split
  · split
    · dsimp only
      split
      · exact u.keeps_cores_send ..
      · exact .refl u
    · exact .refl u
  · exact .refl u

/-- A core that is bound is one of its device. -/
theorem State.aget_core_of_bound {d c : Nat} (h : (s.core d c).bound = some b) : aget (s.device d).cores c = some (s.core d c) := by
  cases hc : aget (s.device d).cores c with
  | none =>
    rw [State.core, Device.core, hc] at h
    cases h
  | some k => rw [State.core, Device.core, hc, Option.getD_some]

/-- An acknowledgement at a core that hears it. -/
theorem State.core_ackCtx {d c : Nat} (hb : (s.core d c).bound = some b) (hear : s.deaf (s.core d c) = false) (no : Nat) (t : Option Trap) :
    (s.ackCtx no t).core d c = (s.core d c).acked no t := by
  unfold State.ackCtx
  dsimp only
  rw [(State.keeps_foldl (fun u h => State.keeps_foldl (fun u g => State.keeps_cores_noteCounted ..) _ u) _ _).core, State.core, Device.core,
    State.device_mapDevs (x := s.device d) ((State.aget_of_bound hb).trans (by rw [State.device_of (State.aget_of_bound hb)]))]
  dsimp only
  rw [aget_map (fun p => by split <;> rfl), State.aget_core_of_bound hb, Option.map_some, Option.getD_some]
  simp only [hear, Bool.false_eq_true, if_false]

end

/-! ## A retry (R60) -/

section
variable {s : State}

theorem State.keeps_retry_clearRetry (r : Req) : State.Keeps Device.retry s (s.clearRetry r) := by
  unfold State.clearRetry
  split
  · exact s.keeps_modCore (fun _ _ => rfl) ..
  · exact .refl s

theorem State.net_modCore (d c : Nat) (f : Core → Core) : (s.modCore d c f).net = s.net := by
  unfold State.modCore State.modCore1
  split
  · split
    · rw [State.setCore_net, State.setCore_net]
    · rw [State.setCore_net]
  · rw [State.setCore_net]

/-- A message of the mesh that may be held comes after those that are there. -/
theorem State.net_mesh (d : Nat) (wt : BitVec 24) (m : Body) : ∃ q, (s.mesh d wt m).net = s.net ++ [⟨d, q, wt, m⟩] := ⟨_, rfl⟩

theorem State.net_clearRetry (r : Req) : (s.clearRetry r).net = s.net := by
  unfold State.clearRetry
  split
  · exact s.net_modCore ..
  · rfl

/-- The request that a machine of one device sends again. -/
theorem exec_parkRetry {n d g age : Nat} {x : Device} {wt : BitVec 24} {la : Option LaunchId} {r : Req} (hd : s.devs = [(d, x)])
    (hr : x.retry[n]? = some ⟨wt, .req g la r, age⟩) (hage : 256 ≤ age) (hg : g / 2 ^ 38 = d) :
    exec (.parkRetry n) s = .next (((s.modDev d (fun x => { x with retry := x.retry.eraseIdx n })).clearRetry r).mesh d wt (.req (g % 2 ^ 38) la r)) := by
  obtain ⟨hlt, -⟩ := List.getElem?_eq_some_iff.1 hr
  have hx : s.device d = x := State.device_of (by rw [hd]; simp [aget])
  have hall : (s.devs.flatMap (fun p => (List.range p.2.retry.length).map (fun i => (p.1, i))))[n]? = some (d, n) := by
    simp [hd, hlt]
  have hnow : ¬ age < 256 := Nat.not_lt.2 hage
  show execParkRetry n s = _
  simp only [execParkRetry, hall, hx, hr, hnow, if_false, hg, State.send, if_true]

end

/-- Settles O41: what each answer, acknowledgement and retry makes of the state, and of its context. -/
theorem answersArrive : Obligations.AnswersArrive := by
  unfold Obligations.AnswersArrive
  intro s n no w b dv hold wt v hn h hp hw hno hpoll regs retired
  have answer : ∀ {a}, s.net[n]? = some ⟨dv, hold, wt, .answer (.ctx w no) a⟩ → isFrz v.instr = false → (∀ t, a ≠ .trap t) →
      retired (.wake n) (answerRegs v.instr a regs) := fun hm hfrz ha => by
    obtain ⟨u, hu, hnet, hx⟩ := exec_wake_answer hw hm h hn hp hno hpoll hfrz ha
    exact ⟨u, hu, hnet, hx.regs, hx.st, hx.wait, hx.retired⟩
  refine ⟨fun p k wd lf nt d a o i hm hi => ?_, fun p k wd d a o bs hm hi => ?_, fun p d a o bs hm hi => ?_,
    fun p a c o hm hi herr => ?_, fun t hm hear => ?_, fun d x g la r age hd hr hage hg => ?_⟩
  · simpa [hi, answerRegs] using answer hm (by rw [hi]; rfl) (by simp)
  · simpa [hi, answerRegs] using answer hm (by rw [hi]; rfl) (by simp)
  · simpa [hi, answerRegs] using answer hm (by rw [hi]; rfl) (by simp)
  · have hfrz : isFrz v.instr = true := by rw [hi]; rfl
    refine ⟨fun hl => ?_, exec_freezeAck_more hw hm h hn hno hpoll hfrz herr rfl⟩
    obtain ⟨u, hu, hnet, hx⟩ := exec_freezeAck_last hw hm h hn hp hno hpoll hfrz herr rfl hl
    exact ⟨u, hu, hnet, hx.regs, hx.st, hx.wait, hx.retired⟩
  · have he : exec (.ackArrival n) s = .next ((s.dropMsg n).ackCtx no t) := by
      show execAckArrival n s = _
      simp only [execAckArrival, hm]
    refine ⟨_, he, ?_⟩
    rw [State.ctxAt, State.core_ackCtx (s := s.dropMsg n) h.1 hear, Core.out_acked _ _ _ hn]
    rfl
  · obtain ⟨q, hq⟩ := ((s.modDev d (fun x => { x with retry := x.retry.eraseIdx n })).clearRetry r).net_mesh d wt (.req (g % 2 ^ 38) la r)
    refine ⟨_, q, exec_parkRetry hd hr hage hg, ?_, ?_⟩
    · refine ((State.keeps_retry_clearRetry r).device d).trans ?_
      rw [State.device_modDev (x := x) (by rw [hd]; simp [aget])]
    · rw [hq, State.net_clearRetry, State.modDev_net]

end Sys2Proof.Machine

/-! # A packet that its switch's table sends to its destination (O42)

The switch performs the forwarding at the head of a collective packet's op list as it sends the packet on (R294): the packet that arrives
lacks that entry. O42 asks for the packet as it stood. -/

namespace Sys2Proof.Machine
open Sys2Proof

/-- A contribution of 0 bytes from device 1 to an exchange of launch 0 of device 0. -/
def forwardedContrib : Contrib := ⟨0, 0, 1, [], false, false, [], 0, 0, 0x010101, 0, 1, [], 0, 0, 1, false⟩

/-- It is under way to device 0, at a switch, with the entries ops left of its op list. -/
def collPacketAt (sw : Option Nat) (ops : List CollAct) : FabPkt :=
  ⟨0, 0, .coll, 0x010101, none, sw, none, false, .hop 1 (.coll ⟨⟨0, 0⟩, false, 0, 0, 0⟩ ops false forwardedContrib)⟩

/-- A switch whose table sends what goes to device 0 straight there. -/
def switchToZero : Switch := { Switch.fresh with table := [(0, 0)] }

/-- The packet stands there with a forwarding by port 5 before its deposit. -/
def forwardAtSwitch : State :=
  { State.reset with fab := [collPacketAt (some 7) [.forward 5, .deposit]], switches := [(7, switchToZero)] }

/-- What leaves the switch has its forwarding performed. -/
theorem exec_switchForward_forwardAtSwitch : ∃ u, exec (.switchForward 0) forwardAtSwitch = .next u
    ∧ u.fab = [collPacketAt none [.deposit]] := ⟨_, rfl, rfl⟩

end Sys2Proof.Machine

open Sys2Proof Sys2Proof.Machine in
/-- Refutes O42: a collective packet at its last switch, with a forwarding at the head of its op list, arrives without that entry. -/
theorem not_fabricPackets : ¬ Obligations.FabricPackets := by
  unfold Obligations.FabricPackets
  intro h
  obtain ⟨-, hports⟩ := h
  obtain ⟨hswitch, -⟩ := hports forwardAtSwitch 0
  obtain ⟨-, -, hdeliver⟩ := hswitch _ 7 switchToZero rfl rfl rfl rfl
  obtain ⟨u, hu, hfab, -⟩ := hdeliver rfl rfl rfl rfl rfl rfl rfl
  obtain ⟨v, hv, hfab'⟩ := exec_switchForward_forwardAtSwitch
  obtain rfl : u = v := Host.Outcome.next.inj (hu.symm.trans hv)
  rw [hfab] at hfab'
  exact absurd hfab' (by decide)

/-! # Host writes, the observation window and the registers (O46) -/

namespace Sys2Proof.Machine
open Sys2Proof

/-! ## The granule that a whole 16-byte write covers (R85) -/

theorem leNat_append (a b : List Byte) : leNat (a ++ b) = leNat a + 256 ^ a.length * leNat b := by
  induction a with
  | nil => simp [leNat]
  | cons x a ih =>
    rw [List.cons_append, leNat, leNat, ih, List.length_cons, pow_succ]
    ring

theorem leNat_lt (a : List Byte) : leNat a < 256 ^ a.length := by
  induction a with
  | nil => simp [leNat]
  | cons x a ih =>
    have hx : x.toNat < 256 := x.isLt
    rw [leNat, List.length_cons, pow_succ]
    omega

/-- Low bits beside bits shifted over them: both, with nothing lost. -/
theorem ofNat_or_shiftLeft {w k a : Nat} (ha : a < 2 ^ k) (b : Nat) :
    BitVec.ofNat w a ||| (BitVec.ofNat w b <<< k) = BitVec.ofNat w (a + 2 ^ k * b) := by
  have hs : BitVec.ofNat w b <<< k = BitVec.ofNat w (b <<< k) := by
    apply BitVec.eq_of_toNat_eq
    simp [Nat.shiftLeft_eq]
  rw [hs, ← BitVec.ofNat_or, Nat.or_comm, ← Nat.shiftLeft_add_eq_or_of_lt ha, Nat.shiftLeft_eq]
  congr 1
  ring

/-- A write's nibble mask and data of a granule, once its first n bytes are in. -/
theorem granuleOf_whole_upto {va : Word} {data : List Byte} {en : List Bool} {g : Nat} (hva : va.toNat = 16 * g) {n : Nat}
    (hn : n ≤ data.length) (hen : ∀ i, i < n → en[i]? = some true) :
    (List.range n).foldl (fun (r : BitVec 32 × BitVec 128) i =>
      let at_ := 16 * g + i
      if va.toNat ≤ at_ && (en[at_ - va.toNat]?).getD false then
        let b : Byte := (data[at_ - va.toNat]?).getD 0
        (r.1 ||| ((3 : BitVec 32) <<< (2 * i)), r.2 ||| (b.setWidth 128 <<< (8 * i)))
      else r) (0, 0) = (BitVec.ofNat 32 (4 ^ n - 1), BitVec.ofNat 128 (leNat (data.take n))) := by
  induction n with
  | zero => rfl
  | succ n ih =>
    have hlt : n < data.length := hn
    have hlen : (data.take n).length = n := List.length_take_of_le hlt.le
    have hin : (va.toNat ≤ 16 * g + n && (en[16 * g + n - va.toNat]?).getD false) = true := by
      rw [hva, Nat.add_sub_cancel_left, hen n (Nat.lt_succ_self n)]
      simp
    have hmask : BitVec.ofNat 32 (4 ^ n - 1) ||| (3 : BitVec 32) <<< (2 * n) = BitVec.ofNat 32 (4 ^ (n + 1) - 1) := by
      have h4 : 4 ^ n = 2 ^ (2 * n) := by norm_num [pow_mul]
      have hpos : 0 < 4 ^ n := by positivity
      refine (ofNat_or_shiftLeft (by omega) 3).trans (congrArg _ ?_)
      rw [← h4, pow_succ]
      omega
    have hdata : BitVec.ofNat 128 (leNat (data.take n)) ||| (data[n].setWidth 128 <<< (8 * n))
        = BitVec.ofNat 128 (leNat (data.take (n + 1))) := by
      have h256 : 256 ^ n = 2 ^ (8 * n) := by norm_num [pow_mul]
      have hle := leNat_lt (data.take n)
      rw [hlen, h256] at hle
      rw [← BitVec.ofNat_toNat 128 data[n], ofNat_or_shiftLeft hle, List.take_succ_eq_append_getElem hlt, leNat_append, hlen, h256]
      simp [leNat]
    rw [List.range_succ, List.foldl_append, ih hlt.le (fun i hi => hen i (hi.trans (Nat.lt_succ_self n))), List.foldl_cons, List.foldl_nil]
    dsimp only
    rw [if_pos hin, hva, Nat.add_sub_cancel_left, List.getElem?_eq_getElem hlt, Option.getD_some, hmask, hdata]

/-- A write of a whole granule gives all its nibbles. -/
theorem granuleOf_whole {va : Word} {data : List Byte} {g : Nat} (hva : va.toNat = 16 * g) (hd : data.length = 16) :
    granuleOf va data (List.replicate 16 true) g = (0xFFFFFFFF, BitVec.ofNat 128 (leNat data)) := by
  refine (granuleOf_whole_upto hva hd.ge fun i hi => ?_).trans ?_
  · rw [List.getElem?_replicate, if_pos hi]
  · rw [List.take_of_length_le hd.le]
    rfl

/-! ## Host writes (R85, R308, R375) -/

/-- Keeping a translation sends nothing. -/
@[simp] theorem State.net_noteWalk (s : State) (here die asid : Nat) (va : Word) : (s.noteWalk here die asid va).net = s.net := by
  unfold State.noteWalk
  split
  · rfl
  · split
    · split
      · rfl
      · exact State.modDev_net ..
    · split
      · exact State.modDev_net ..
      · rfl

section
variable {s : State} {d asid fn off : Nat} {a : Word} {t : Tlb} {np ide : Bool} {data : List Byte} {x : Device}

theorem State.portWalk_of (h : canonical a = true) : s.portWalk d asid a = (s.noteWalk d pd0 asid a, portTr s d pd0 asid a) := by
  simp only [State.portWalk, h, Bool.not_true, Bool.false_eq_true, if_false]

/-- A host write's join to a line of its own device. -/
theorem State.hostJoins_one (u : State) {o : Origin} {j : JoinData} {pa : Nat} (hd : gDev pa = d) : ∃ h,
    u.hostJoins d asid o [(a, pa, j)]
      = { u with net := u.net ++ [⟨d, h, 0x010101, .req (gLocal pa / 64) none (.join [⟨o, none, asid, a, j⟩])⟩] } := by
  simp only [State.hostJoins, List.foldl_cons, List.foldl_nil, State.send, hd, if_true, State.mesh]
  exact ⟨_, rfl⟩

/-! ### One whole granule -/

section
variable {g : Nat} (hg : a.toNat = 16 * g)
include hg

theorem ofNat_granule : BitVec.ofNat 64 (16 * g) = a := by rw [← hg, BitVec.ofNat_toNat, BitVec.setWidth_eq]

theorem State.hostFill_noncanon {en : List Bool} (hc : canonical a = false) :
    s.hostFill d asid a data en [g] = (s, .error Cause.addrNoncanon) := by
  simp only [State.hostFill, ofNat_granule hg, State.portWalk, hc, Bool.not_false, if_true]

variable (hc : canonical a = true)
include hc

theorem State.hostFill_error {en : List Bool} {e : Trap} (hp : portTr s d pd0 asid a = .error e) :
    s.hostFill d asid a data en [g] = (s.noteWalk d pd0 asid a, .error e.cause) := by
  simp only [State.hostFill, ofNat_granule hg, State.portWalk_of hc, hp]

variable (hp : portTr s d pd0 asid a = .ok t)
include hp

theorem State.hostFill_format {en : List Bool} (hk : t.kind = .ver) :
    s.hostFill d asid a data en [g] = (s.noteWalk d pd0 asid a, .error Cause.hostwFormat) := by
  simp only [State.hostFill, ofNat_granule hg, State.portWalk_of hc, hp, hk, beq_self_eq_true, if_true]

theorem State.hostFill_kind {en : List Bool} (hk : t.kind ≠ .fill) (hk' : t.kind ≠ .ver) :
    s.hostFill d asid a data en [g] = (s.noteWalk d pd0 asid a, .error Cause.hostwKind) := by
  simp only [State.hostFill, ofNat_granule hg, State.portWalk_of hc, hp, beq_eq_false_iff_ne.2 hk', bne_iff_ne.2 hk,
    Bool.false_eq_true, if_false, if_true]

variable (hk : t.kind = .fill)
include hk

theorem State.hostFill_perm {en : List Bool} {p : Trap} (hperm : permTrap t .join a = some p) :
    s.hostFill d asid a data en [g] = (s.noteWalk d pd0 asid a, .error p.cause) := by
  have hv : (Kind.fill == Kind.ver) = false := rfl
  simp only [State.hostFill, ofNat_granule hg, State.portWalk_of hc, hp, hk, hv, bne_self_eq_false, hperm, Bool.false_eq_true, if_false]

theorem State.hostFill_whole (hd : data.length = 16) (hperm : permTrap t .join a = none) :
    s.hostFill d asid a data (List.replicate 16 true) [g] = (s.noteWalk d pd0 asid a,
      .ok [(a, t.phys a, .fill (t.phys a / 16 % 4) 0xFFFFFFFF (BitVec.ofNat 128 (leNat data)))]) := by
  have hv : (Kind.fill == Kind.ver) = false := rfl
  have hm : ((0xFFFFFFFF : BitVec 32) == 0) = false := rfl
  simp only [State.hostFill, ofNat_granule hg, State.portWalk_of hc, hp, hk, hv, bne_self_eq_false, hperm, granuleOf_whole hg hd, hm,
    Bool.false_eq_true, if_false]
  rfl

end

/-- The join of a 128-byte write to a .ver page, or why it is dropped. -/
def verJoin (t : Tlb) (half : Word) (data : List Byte) : Except Nat (List (Word × Nat × JoinData)) :=
  if verFormat data then
    match permTrap t .join half with
    | some p => .error p.cause
    | none => .ok [(half, t.phys half, .ver (BitVec.ofNat 32 (leNat ((data.drop 64).take 4))) (BitVec.ofNat 512 (leNat (data.take 64))))]
  else .error Cause.hostwFormat

theorem verJoin_format {half : Word} (hf : ¬ verFormat data = true) : verJoin t half data = .error Cause.hostwFormat := if_neg hf

section
variable {half : Word} (hf : verFormat data = true)
include hf

theorem verJoin_refused {p : Trap} (hp : permTrap t .join half = some p) : verJoin t half data = .error p.cause := by
  simp only [verJoin, hf, if_true, hp]

theorem verJoin_ok (hp : permTrap t .join half = none) : verJoin t half data = .ok [(half, t.phys half,
    .ver (BitVec.ofNat 32 (leNat ((data.drop 64).take 4))) (BitVec.ofNat 512 (leNat (data.take 64))))] := by
  simp only [verJoin, hf, if_true, hp]

end

/-- What a host write comes to, once its granules are translated. -/
def State.hostDone (d fn off asid : Nat) (np : Bool) : State × Except Nat (List (Word × Nat × JoinData)) → State
  | (u, .error c) => u.dropHost d fn off c np
  | (u, .ok js) => u.hostJoins d asid (.host d fn off np) js

section
variable (hx : aget s.devs d = some x) (hs : x.servesIde fn ide = true)
include hx hs

/-- A 16-byte write of a whole granule. -/
theorem exec_hostWrite_granule {en : List Bool} (hd : data.length = 16) (hoff : off + 16 ≤ 2 ^ 36)
    (hal : ((x.fn fn).hwapb + BitVec.ofNat 64 off).toNat % 16 = 0) :
    let va := (x.fn fn).hwapb + BitVec.ofNat 64 off
    exec (.hostWrite d fn off data en np ide) s
      = .next (State.hostDone d fn off (x.fn fn).hwapa np (s.hostFill d (x.fn fn).hwapa va data en [va.toNat / 16])) := by
  intro va
  have hgo : (!x.servesIde fn ide || decide (2 ^ 36 < off + 16)) = false := by
    rw [hs, decide_eq_false (Nat.not_lt.2 hoff)]
    rfl
  have hgr : granules va.toNat 16 = [va.toNat / 16] := by
    have h1 : (va.toNat + 16 - 1) / 16 - va.toNat / 16 + 1 = 1 := by
      have hal' : va.toNat % 16 = 0 := hal
      omega
    rw [granules, if_neg (by decide), h1]
    rfl
  have h128 : ((16 : Nat) == 128 && off % 128 == 0) = false := rfl
  show execHostWrite d fn off data en np ide s = _
  unfold execHostWrite
  simp only [State.device_of hx, hd, hgo, h128, Bool.false_eq_true, if_false]
  rw [hgr]
  generalize State.hostFill .. = r
  obtain ⟨u, c | js⟩ := r <;> rfl

/-- A 128-byte write to a page of kind .ver. -/
theorem exec_hostWrite_ver {en : List Bool} (hd : data.length = 128) (hal : off % 128 = 0) (hoff : off + 128 ≤ 2 ^ 36) :
    let half := (x.fn fn).hwapb + BitVec.ofNat 64 (off / 2)
    canonical half = true → portTr s d pd0 (x.fn fn).hwapa half = .ok t → t.kind = .ver →
    exec (.hostWrite d fn off data en np ide) s
      = .next (State.hostDone d fn off (x.fn fn).hwapa np (s.noteWalk d pd0 (x.fn fn).hwapa half, verJoin t half data)) := by
  intro half hc hp hk
  have hgo : (!x.servesIde fn ide || decide (2 ^ 36 < off + 128)) = false := by
    rw [hs, decide_eq_false (Nat.not_lt.2 hoff)]
    rfl
  show execHostWrite d fn off data en np ide s = _
  unfold execHostWrite
  simp only [State.device_of hx, hd, hgo, hal, half, State.portWalk_of hc, hp, hk, beq_self_eq_true, Bool.and_self, Bool.false_eq_true,
    if_false, if_true, verJoin]
  cases verFormat data with
  | false => rfl
  | true =>
    cases permTrap t .join half with
    | none => rfl
    | some p => rfl

end

/-- Whether a .ver write's last 60 bytes are zero. -/
theorem verFormat_iff (hd : data.length = 128) : verFormat data = true ↔ data.drop 68 = List.replicate 60 0 := by
  have hlen : (data.drop 68).length = 60 := by rw [List.length_drop, hd]
  rw [verFormat, hd, beq_self_eq_true, Bool.true_and, List.all_eq_true, List.eq_replicate_iff]
  simp [hlen]

/-- A write to a function whose requests are not taken. -/
theorem exec_hostWrite_unserved {en : List Bool} (hx : aget s.devs d = some x) (hs : x.servesIde fn ide = false) :
    exec (.hostWrite d fn off data en np ide) s = .next (if np then { s with resp := some .unsupported } else s) := by
  show execHostWrite d fn off data en np ide s = _
  simp only [execHostWrite, State.device_of hx, hs, Bool.not_false, Bool.true_or, if_true]

/-! ## The observation window (R86, R308) -/

section
variable {len : Nat} (hx : aget s.devs d = some x)
include hx

theorem exec_obsRead_unserved (hs : x.serves fn = false) : exec (.obsRead d fn off len) s = .next { s with resp := none } := by
  show execObsRead d fn off len s = _
  simp only [execObsRead, State.device_of hx, hs, Bool.not_false, if_true]

variable (hs : x.serves fn = true) (hide : x.wantsIde fn = false)
include hs hide

theorem exec_obsRead_data (hoff : off < 2 ^ 33) (hlen : len ≤ 64) (hline : off % 64 + len ≤ 64)
    (hres : reservedG s d (d * 2 ^ 44 + 64 * (((x.fn fn).obsbase + off) / 64)) = false) :
    exec (.obsRead d fn off len) s = .next { s with resp := some (.value (cellsRead x.mem ((x.fn fn).obsbase + off) len)) } := by
  show execObsRead d fn off len s = _
  simp only [execObsRead, State.device_of hx, hs, hide, hoff, if_true, hres, hlen, hline, decide_true, Bool.and_self, Bool.not_true,
    Bool.false_and, Bool.or_self, Bool.false_eq_true, if_false]

theorem exec_obsRead_meta (hlo : 2 ^ 33 ≤ off) (hhi : off < 2 ^ 34) (hwhole : off % 32 + len ≤ 32)
    (hres : reservedG s d (d * 2 ^ 44 + 64 * ((x.fn fn).obsbase / 64 + (off - 2 ^ 33) / 32)) = false) :
    exec (.obsRead d fn off len) s = .next { s with
      resp := some (.value (((metaBytes (x.line ((x.fn fn).obsbase / 64 + (off - 2 ^ 33) / 32))).drop (off % 32)).take len)) } := by
  have hview : ¬ off < 2 ^ 33 := Nat.not_lt.2 hlo
  have hhi' : off < 2 * 2 ^ 33 := hhi
  show execObsRead d fn off len s = _
  simp only [execObsRead, State.device_of hx, hs, hide, hview, if_false, hres, hhi', hwhole, decide_true, Bool.and_self, Bool.not_true,
    Bool.false_and, Bool.or_self, Bool.false_eq_true]

end

/-! ## The system window and the registers (R313, R341, R342) -/

section
variable {v : Word} (hx : aget s.devs d = some x)
include hx

theorem exec_obsWrite : exec (.obsWrite d fn off) s
    = if x.serves fn then .next (s.modDev d (fun y => y.logErr Cause.obsWrite fn 2 off)) else .next s := by
  show execObsWrite d fn off s = _
  rw [execObsWrite, State.device_of hx]

theorem exec_syswinWrite (hs : x.serves fn = true) (hal : off % 8 = 0) (hoff : off < 2 ^ 24)
    (hres : reservedG s d ((x.fn fn).syswin + off) = false) :
    exec (.syswinWrite d fn off v) s = .next (s.writeDword ((x.fn fn).syswin + off) v) := by
  have hgo : ¬ 2 ^ 24 ≤ off := Nat.not_le.2 hoff
  show execSyswinWrite d fn off v s = _
  simp only [execSyswinWrite, State.device_of hx, hs, hal, hgo, hres, Bool.not_true, bne_self_eq_false, decide_false, Bool.or_self,
    Bool.false_eq_true, if_false]

theorem exec_syswinWrite_unserved (hs : x.serves fn = false) : exec (.syswinWrite d fn off v) s = .next s := by
  show execSyswinWrite d fn off v s = _
  simp only [execSyswinWrite, State.device_of hx, hs, Bool.not_false, Bool.true_or, if_true]

/-- An aligned dword that lies in a device is stored there, and nothing is sent. -/
theorem State.writeDword_stored {g : Nat} (hal : g % 8 = 0) (hg : gDev g = d) :
    (s.writeDword g v).net = s.net ∧ ((s.writeDword g v).device d).mem = cellsWrite x.mem (gLocal g) (natBytes 8 v.toNat) := by
  have hg8 : g / 8 * 8 = g := by omega
  unfold State.writeDword State.writeG
  rw [hg8, hg, State.modDev_modDev, State.device_modDev hx, State.modDev_net]
  exact ⟨rfl, rfl⟩

theorem exec_regWrite (hs : x.serves fn = true) (hal : off % 8 = 0) (hoff : off < 2 ^ 25) : exec (.regWrite d fn off v) s
    = .next (s.modDev d (fun y => (y.fnReg fn off v.toNat).getD (if fn = 0 then y.pfReg off v.toNat else y))) := by
  have hgo : ¬ 2 ^ 25 ≤ off := Nat.not_le.2 hoff
  show execRegWrite d fn off v s = _
  simp only [execRegWrite, State.device_of hx, hs, hal, hgo, Bool.not_true, bne_self_eq_false, decide_false, Bool.or_self, Bool.false_eq_true,
    if_false]
  refine congrArg (fun g => Host.Outcome.next (s.modDev d g)) (funext fun y => ?_)
  cases y.fnReg fn off v.toNat <;> rfl

theorem exec_regWrite_unserved (hs : x.serves fn = false) : exec (.regWrite d fn off v) s = .next s := by
  show execRegWrite d fn off v s = _
  simp only [execRegWrite, State.device_of hx, hs, Bool.not_false, Bool.or_true, if_true]

end

/-- PWRCAP takes a value in its range, and logs another. -/
theorem Device.pfReg_pwrcap (y : Device) (n : Nat) :
    y.pfReg 0x308 n = if 1600 ≤ n ∧ n ≤ 3200 then { y with bar0 := { y.bar0 with pwrcap := n } } else y.logErr Cause.regValue 0 3 0x308 := by
  simp only [Device.pfReg, Bool.and_eq_true, decide_eq_true_eq]
  rfl

end

/-- Settles O46: what becomes of a host write by its granule's translation or its version, and of each access to a window or a register. -/
theorem hostWindows : Obligations.HostWindows := by
  unfold Obligations.HostWindows
  intro s d fn off len x v np ide data t hx f all va half drop walked sent
  have sends : ∀ {a : Word} {j : JoinData}, gDev (t.phys a) = d →
      sent a j (.next (State.hostDone d fn off f.hwapa np (walked a, .ok [(a, t.phys a, j)]))) := fun hdev => by
    obtain ⟨h, hj⟩ := State.hostJoins_one (walked _) hdev
    exact ⟨h, by rw [State.hostDone, hj, State.net_noteWalk]⟩
  refine ⟨?granule, ?ver, ?unserved, ?observe, ?obsWrite, ?syswin, ?pwrcap, ?pwrcapOut, ?obsbase, ?unservedWindows⟩
  case granule =>
    intro hs hd hoff hal write
    have hg : va.toNat = 16 * (va.toNat / 16) := by omega
    have done : ∀ {r}, s.hostFill d f.hwapa va data (all 16) [va.toNat / 16] = r → write = .next (State.hostDone d fn off f.hwapa np r) :=
      fun hr => (exec_hostWrite_granule hx hs hd hoff hal).trans (congrArg (fun r => Host.Outcome.next (State.hostDone d fn off f.hwapa np r)) hr)
    refine ⟨fun hc hp => ⟨fun hk hperm hdev => ?_, fun p hk hperm => done (State.hostFill_perm hg hc hp hk hperm),
      fun hk => done (State.hostFill_format hg hc hp hk), fun hk hk' => done (State.hostFill_kind hg hc hp hk hk')⟩,
      fun e hc hp => done (State.hostFill_error hg hc hp), fun hc => done (State.hostFill_noncanon hg hc)⟩
    rw [done (State.hostFill_whole hg hc hp hk hd hperm)]
    exact sends hdev
  case ver =>
    intro hs hd hal hoff hc hp hk write
    have done : ∀ {r}, verJoin t half data = r → write = .next (State.hostDone d fn off f.hwapa np (walked half, r)) :=
      fun hr => (exec_hostWrite_ver hx hs hd hal hoff hc hp hk).trans
        (congrArg (fun r => Host.Outcome.next (State.hostDone d fn off f.hwapa np (walked half, r))) hr)
    refine ⟨fun hz hperm hdev => ?_, fun hz p hperm => done (verJoin_refused ((verFormat_iff hd).2 hz) hperm),
      fun hz => done (verJoin_format (mt (verFormat_iff hd).1 hz))⟩
    rw [done (verJoin_ok ((verFormat_iff hd).2 hz) hperm)]
    exact sends hdev
  case unserved => exact fun hs => ⟨exec_hostWrite_unserved hx hs, exec_hostWrite_unserved hx hs⟩
  case observe => exact fun hs hide => ⟨exec_obsRead_data hx hs hide, exec_obsRead_meta hx hs hide⟩
  case obsWrite => exact fun hs => (exec_obsWrite hx).trans (if_pos hs)
  case syswin =>
    intro hs hal hoff hbase hres hdev
    have hg : (f.syswin + off) % 8 = 0 := by omega
    exact ⟨_, exec_syswinWrite hx hs hal hoff hres, State.writeDword_stored hx hg hdev⟩
  case pwrcap =>
    intro hs hlo hhi
    refine (exec_regWrite hx hs rfl (by decide)).trans (congrArg (fun g => Host.Outcome.next (s.modDev d g)) (funext fun y => ?_))
    exact (y.pfReg_pwrcap _).trans (if_pos ⟨hlo, hhi⟩)
  case pwrcapOut =>
    intro hs hout
    refine (exec_regWrite hx hs rfl (by decide)).trans (congrArg (fun g => Host.Outcome.next (s.modDev d g)) (funext fun y => ?_))
    exact (y.pfReg_pwrcap _).trans (if_neg (by omega))
  case obsbase => exact fun hs => exec_regWrite hx hs rfl (by decide)
  case unservedWindows =>
    exact fun hs => ⟨(exec_obsWrite hx).trans (if_neg (by simp [hs])), exec_syswinWrite_unserved hx hs, exec_regWrite_unserved hx hs,
      exec_obsRead_unserved hx hs⟩

end Sys2Proof.Machine

/-! # What a Curator thread's command does next (O50) -/

namespace Sys2Proof.Machine
open Sys2Proof

/-! ## Devices stay -/

section
variable {s : State} {d : Nat}

/-- A device is there. -/
def State.Has (s : State) (d : Nat) : Prop := (aget s.devs d).isSome = true

theorem State.Has.aget (h : s.Has d) : aget s.devs d = some (s.device d) := by
  obtain ⟨x, hx⟩ := Option.isSome_iff_exists.1 h
  rw [State.device_of hx, hx]

theorem State.Has.device_modDev (h : s.Has d) (f : Device → Device) : (s.modDev d f).device d = f (s.device d) :=
  State.device_modDev h.aget f

theorem State.Has.modDev (h : s.Has d) (e : Nat) (f : Device → Device) : (s.modDev e f).Has d := by
  by_cases he : d = e
  · subst he
    exact congrArg Option.isSome (State.aget_modDev h.aget f)
  · exact (congrArg Option.isSome (State.aget_modDev_ne s f he)).trans h

theorem State.Has.noteWalk (h : s.Has d) (here die asid : Nat) (va : Word) : (s.noteWalk here die asid va).Has d := by
  unfold State.noteWalk
  split
  · exact h
  · split
    · split
      · exact h
      · exact h.modDev ..
    · split
      · exact h.modDev ..
      · exact h

theorem State.Has.noteSpan (h : s.Has d) (e asid : Nat) (va : Word) (n : Nat) : (s.noteSpan e asid va n).Has d :=
  List.foldlRecOn _ _ (motive := fun u : State => u.Has d) h fun _ hu _ _ => hu.noteWalk ..

theorem State.net_noteSpan (e asid : Nat) (va : Word) (n : Nat) : (s.noteSpan e asid va n).net = s.net :=
  List.foldlRecOn _ _ (motive := fun u : State => u.net = s.net) rfl fun _ hu _ _ => (State.net_noteWalk ..).trans hu

section
variable {α : Type} {f : Device → α} (hf : ∀ x p m, f { x with ptlb := p, pcache := m } = f x)
include hf

/-- What of a device does not show its port dies' translations and markers stays while walks are noted. -/
theorem State.keeps_noteWalk (s : State) (here die asid : Nat) (va : Word) : State.Keeps f s (s.noteWalk here die asid va) := by
  unfold State.noteWalk
  split
  · exact .refl s
  · split
    · split
      · exact .refl s
      · exact s.keeps_modDev _ fun x => hf x _ x.pcache
    · split
      · exact s.keeps_modDev _ fun x => hf x x.ptlb _
      · exact .refl s

theorem State.keeps_noteSpan (s : State) (e asid : Nat) (va : Word) (n : Nat) : State.Keeps f s (s.noteSpan e asid va n) :=
  State.keeps_foldl (fun u _ => u.keeps_noteWalk hf ..) _ s

end

end

/-! ## What a thread runs -/

@[simp] theorem QSlot.current_setCurrent (q : QSlot) (r : Running) : (q.setCurrent r).current = some r := by
  unfold QSlot.setCurrent QSlot.current
  cases q.graph <;> rfl

@[simp] theorem QSlot.waiting_setCurrent (q : QSlot) (r : Running) : (q.setCurrent r).waiting = q.waiting := by
  unfold QSlot.setCurrent
  split <;> rfl

theorem QSlot.current_withWaiting (q : QSlot) (w : Bool) : ({ q with waiting := w } : QSlot).current = q.current := rfl

/-- A thread of a device runs e, its waiting bit is w, and the mesh holds these messages. -/
structure State.Thread (u : State) (d slot : Nat) (e : Running) (w : Bool) (net : List Msg) : Prop where
  dev : u.Has d
  run : u.runOf d slot = some e
  waiting : ((u.device d).slot slot).waiting = w
  net : u.net = net

section
variable {s u : State} {d slot phase : Nat} {q : QSlot} {r e : Running} {w : Bool} {net : List Msg}

theorem State.Has.thread_setRun (h : s.Has d) (e : Running) (w : Bool) : (s.setRun d slot e w).Thread d slot e w s.net where
  dev := h.modDev ..
  run := by rw [State.runOf, State.setRun, h.device_modDev, Device.slot_modSlot, QSlot.current_withWaiting, QSlot.current_setCurrent]
  waiting := by rw [State.setRun, h.device_modDev, Device.slot_modSlot]
  net := State.modDev_net ..

/-- A change of the device that leaves its queues' threads. -/
theorem State.Thread.modDev (h : u.Thread d slot e w net) {f : Device → Device} (hf : ∀ x, (f x).qslots = x.qslots) :
    (u.modDev d f).Thread d slot e w net := by
  have hs : ((u.modDev d f).device d).slot slot = (u.device d).slot slot := by
    rw [h.dev.device_modDev, Device.slot, Device.slot, hf]
  exact ⟨h.dev.modDev .., (congrArg QSlot.current hs).trans h.run, (congrArg QSlot.waiting hs).trans h.waiting,
    (State.modDev_net ..).trans h.net⟩

/-! ### Starting, finishing, waiting, asking -/

theorem State.Has.startRun (h : s.Has d) : (s.startRun d slot q r).Has d := by
  unfold State.startRun
  split
  · exact h
  · exact (h.modDev _ _).modDev _ _

theorem State.net_startRun : (s.startRun d slot q r).net = s.net := by
  unfold State.startRun State.setRun
  split
  · rfl
  · rw [State.modDev_net, State.modDev_net]

/-- What of a device does not show its memory, its interrupts and its threads stays while a command starts. -/
theorem State.keeps_startRun {α : Type} {f : Device → α} (hj : ∀ x m, f { x with mem := m } = f x) (hq : ∀ x m, f { x with qslots := m } = f x) :
    State.Keeps f s (s.startRun d slot q r) := by
  unfold State.startRun
  split
  · exact .refl s
  · refine .trans (t := s.modDev d _) (s.keeps_modDev d fun x => ?_) (State.keeps_modDev _ d fun x => hq ..)
    split
    · rfl
    · unfold Device.noteStart Device.journal
      dsimp only
      split
      · exact hj ..
      · rfl

theorem State.Has.runOf_startRun (h : s.Has d) (hr : s.runOf d slot = some r) :
    (s.startRun d slot q r).runOf d slot = some { r with started := true } := by
  unfold State.startRun
  split
  · next hst => rw [hr, ← hst]
  · exact ((h.modDev _ _).thread_setRun _ _).run

theorem State.Has.thread_finishRun (h : s.Has d) :
    (s.finishRun d slot r).Thread d slot { r with started := true, finished := true } false s.net := h.thread_setRun _ _

theorem State.Has.thread_waitRun (h : s.Has d) :
    (s.waitRun d slot q r).Thread d slot { r with started := true } (r.op == 4) s.net := by
  have ht := (h.startRun (slot := slot) (q := q) (r := r)).thread_setRun (slot := slot) { r with started := true } (r.op == 4)
  rwa [State.net_startRun] at ht

theorem State.Has.thread_askRun (h : s.Has d) : (s.askRun d slot q r phase).Thread d slot (r.turn phase) (r.op == 4) s.net := by
  have ht := (h.startRun (slot := slot) (q := q) (r := r)).thread_setRun (slot := slot) (r.turn phase) (r.op == 4)
  rwa [State.net_startRun] at ht

/-! ### Sending a command's requests -/

/-- The number of a thread's next request. -/
def State.nextNo (u : State) (d : Nat) : Nat := max (u.device d).curNo (4096 * u.stepNo)

/-- A thread's request to a line of its own device: one more message, under the number that the command then awaits. -/
theorem State.Thread.curSend (h : u.Thread d slot e w net) {g : Nat} (hg : gDev g = d) (mk : Origin → Req) :
    (u.curSend d slot g mk).nextNo d = u.nextNo d + 1
      ∧ ∃ hold, (u.curSend d slot g mk).Thread d slot { e with await := e.await ++ [u.nextNo d] } w
        (net ++ [⟨d, hold, 0x010101, .req (gLocal g / 64) none (mk (.cur d slot (u.nextNo d)))⟩]) := by
  have hcur : ((u.device d).slot slot).current = some e := h.run
  unfold State.curSend
  dsimp only
  rw [show max (u.device d).curNo (4096 * u.stepNo) = u.nextNo d from rfl, hg, State.send, if_pos rfl]
  obtain ⟨hold, hnet⟩ := State.net_mesh (s := u.modDev d (fun x => { x.modCurrent slot (fun r => { r with await := r.await ++ [u.nextNo d] })
    with curNo := u.nextNo d + 1 })) d 0x010101 (.req (gLocal g / 64) none (mk (.cur d slot (u.nextNo d))))
  have hdev := h.dev.device_modDev (fun x => { x.modCurrent slot (fun r => { r with await := r.await ++ [u.nextNo d] })
    with curNo := u.nextNo d + 1 })
  have hslot : ((u.device d).modCurrent slot (fun r => { r with await := r.await ++ [u.nextNo d] })).slot slot
      = ((u.device d).slot slot).setCurrent { e with await := e.await ++ [u.nextNo d] } := by
    rw [Device.modCurrent, Device.slot_modSlot, hcur]
  refine ⟨?_, hold, h.dev.modDev _ _, ?_, ?_, ?_⟩
  · show max ((State.modDev u d _).device d).curNo (4096 * (State.modDev u d _).stepNo) = _
    rw [hdev, State.modDev_stepNo]
    have hle : 4096 * u.stepNo ≤ u.nextNo d := Nat.le_max_right ..
    dsimp only
    omega
  · show (((State.modDev u d _).device d).slot slot).current = _
    rw [hdev]
    exact (congrArg QSlot.current hslot).trans (QSlot.current_setCurrent ..)
  · show (((State.modDev u d _).device d).slot slot).waiting = _
    rw [hdev]
    exact (congrArg QSlot.waiting hslot).trans ((QSlot.waiting_setCurrent ..).trans h.waiting)
  · rw [hnet, State.modDev_net, h.net]

/-- A thread's requests, in order, under consecutive numbers. -/
theorem State.Thread.curSend_foldl {β : Type} (h : u.Thread d slot e w net) (g : β → Nat) (mk : β → Origin → Req) (l : List β)
    (hg : ∀ p ∈ l, gDev (g p) = d) : ∃ new,
      (l.foldl (fun u p => u.curSend d slot (g p) (mk p)) u).nextNo d = u.nextNo d + l.length
      ∧ (l.foldl (fun u p => u.curSend d slot (g p) (mk p)) u).Thread d slot
        { e with await := e.await ++ (List.range l.length).map (u.nextNo d + ·) } w (net ++ new)
      ∧ new.map (fun m => (m.dev, m.body))
        = l.zipIdx.map (fun p => (d, .req (gLocal (g p.1) / 64) none (mk p.1 (.cur d slot (u.nextNo d + p.2))))) := by
  induction l using List.reverseRecOn with
  | nil => exact ⟨[], rfl, by simpa using h, rfl⟩
  | append_singleton l p ih =>
    obtain ⟨new, hno, ht, hnew⟩ := ih fun p hp => hg p (List.mem_append_left _ hp)
    obtain ⟨hno', hold, ht'⟩ := ht.curSend (hg p (by simp)) (mk p)
    rw [hno] at hno' ht'
    refine ⟨new ++ [⟨d, hold, 0x010101, .req (gLocal (g p) / 64) none (mk p (.cur d slot (u.nextNo d + l.length)))⟩], ?_, ?_, ?_⟩
    · rw [List.foldl_append, List.foldl_cons, List.foldl_nil, hno', List.length_append, List.length_singleton, Nat.add_assoc]
    · rw [List.foldl_append, List.foldl_cons, List.foldl_nil, List.length_append, List.length_singleton, List.range_succ, List.map_append,
        ← List.append_assoc, ← List.append_assoc]
      exact ht'
    · rw [List.map_append, hnew, List.zipIdx_append, List.map_append]
      simp

end

end Sys2Proof.Machine

namespace Sys2Proof.Machine
open Sys2Proof

/-! ### Requests asked, and a fault -/

section
variable {s u : State} {d slot phase : Nat} {q : QSlot} {r e : Running} {w : Bool}

/-- In u a thread has asked for l and goes on with phase once the answers have come: what it runs is r's, and its requests have left s. -/
def State.AsksFor (s u : State) (d slot : Nat) (r : Running) (phase : Nat) (l : List (Nat × (Origin → Req))) : Prop :=
  ∃ e, u.runOf d slot = some e ∧ e.acc = r.acc ∧ e.finished = false ∧ e.phase = phase
    ∧ ∃ n0 new, e.await = (List.range l.length).map (n0 + ·) ∧ u.net = s.net ++ new
      ∧ new.map (fun m => (m.dev, m.body)) = l.zipIdx.map (fun p => (d, .req (gLocal p.1.1 / 64) none (p.1.2 (.cur d slot (n0 + p.2)))))

/-- Sending a thread's requests, in order. -/
def State.sendAsked (u : State) (d slot : Nat) (l : List (Nat × (Origin → Req))) : State := l.foldl (fun u p => u.curSend d slot p.1 p.2) u

theorem State.Thread.asksFor (h : u.Thread d slot e w s.net) (hacc : e.acc = r.acc) (hfin : e.finished = false) (hphase : e.phase = phase)
    (hawait : e.await = []) {l : List (Nat × (Origin → Req))} (hg : ∀ p ∈ l, gDev p.1 = d) : s.AsksFor (u.sendAsked d slot l) d slot r phase l := by
  obtain ⟨new, -, ht, hnew⟩ := h.curSend_foldl (·.1) (·.2) l hg
  exact ⟨_, ht.run, hacc, hfin, hphase, _, new, by rw [hawait]; rfl, ht.net, hnew⟩

/-- A command that asks goes on to its next piece of work, with the requests l. -/
theorem State.Has.asksFor_askRun (h : u.Has d) (hnet : u.net = s.net) (hfin : r.finished = false) {l : List (Nat × (Origin → Req))}
    (hg : ∀ p ∈ l, gDev p.1 = d) : s.AsksFor ((u.askRun d slot q r phase).sendAsked d slot l) d slot r phase l := by
  have ht := h.thread_askRun (slot := slot) (phase := phase) (q := q) (r := r)
  rw [hnet] at ht
  exact ht.asksFor rfl hfin rfl rfl hg

/-- A journal entry changes the device's memory alone. -/
theorem Device.journal_eq (x : Device) (acc i v : Nat) : ∃ m, x.journal acc i v = { x with mem := m } := by
  unfold Device.journal
  dsimp only
  split
  · exact ⟨_, rfl⟩
  · exact ⟨x.mem, rfl⟩

/-- An interrupt changes the device's interrupts alone. -/
theorem Device.raise_eq (x : Device) (fn vec : Nat) : ∃ m, x.raise fn vec = { x with msix := m } := by
  unfold Device.raise
  split
  · exact ⟨_, rfl⟩
  · exact ⟨x.msix, rfl⟩

/-- A thread's slot after a command fault (R388). -/
def QSlot.faulted (q : QSlot) : QSlot := { q with cmd := none, graph := none, taken := none, stop := true, waiting := false }

/-- A command fault changes the device's memory and interrupts, what its slot asks to reclaim, and the slot. -/
theorem Device.failCommand_eq (x : Device) (cause : Nat) (taddr aux : Word) : ∃ m v p, x.failCommand slot r cause taddr aux
    = { x.modSlot slot QSlot.faulted with mem := m, msix := v, reclaims := p } := by
  unfold Device.failCommand
  dsimp only
  generalize cellsWrite x.mem _ _ = m0
  obtain ⟨m1, h1⟩ := Device.journal_eq { x with mem := m0 } r.acc 5 (x.recordAt r.acc)
  rw [h1]
  obtain ⟨m2, h2⟩ := Device.journal_eq { x with mem := m1 } r.acc 7 x.clk
  rw [h2]
  obtain ⟨m3, h3⟩ := Device.journal_eq { x with mem := m2 } r.acc 1 (statusWord r.acc 0 15)
  rw [h3]
  split
  · obtain ⟨v, hv⟩ := Device.raise_eq { ({ x with mem := m3 } : Device).modSlot slot QSlot.faulted with
      reclaims := x.reclaims.filter (fun p => p.1 != slot) } (x.slot slot).fn (field r.blk 0x18 2)
    exact ⟨m3, v, _, hv⟩
  · exact ⟨m3, x.msix, _, rfl⟩

theorem Device.slot_failCommand (x : Device) (cause : Nat) (taddr aux : Word) :
    (x.failCommand slot r cause taddr aux).slot slot = (x.slot slot).faulted := by
  obtain ⟨m, v, p, h⟩ := x.failCommand_eq (slot := slot) (r := r) cause taddr aux
  rw [h]
  exact x.slot_modSlot slot QSlot.faulted

theorem Device.colls_failCommand (x : Device) (cause : Nat) (taddr aux : Word) :
    (x.failCommand slot r cause taddr aux).colls = x.colls := by
  obtain ⟨m, v, p, h⟩ := x.failCommand_eq (slot := slot) (r := r) cause taddr aux
  rw [h, Device.modSlot]

/-- A fault of what a thread runs stops its queue, with no command left. -/
theorem State.Has.failRun_stops (h : u.Has d) (hcmd : ((u.device d).slot slot).cmd.isSome = true) (cause : Nat) (a : Word) :
    (((u.failRun d slot cause a).device d).slot slot).stop = true ∧ (((u.failRun d slot cause a).device d).slot slot).cmd = none := by
  obtain ⟨c, hc⟩ := Option.isSome_iff_exists.1 hcmd
  have hw : ((if cause == Cause.memUncorr then u.noteWalk d pd0 ((u.device d).slot slot).asid a else u).withdrawSlot d slot).Has d := by
    have hn : (if cause == Cause.memUncorr then u.noteWalk d pd0 ((u.device d).slot slot).asid a else u).Has d := by
      split
      · exact h.noteWalk ..
      · exact h
    unfold State.Has State.withdrawSlot
    rw [State.aget_mapDevs, Option.isSome_map]
    exact hn
  unfold State.failRun
  simp only [hc]
  rw [hw.device_modDev]
  rw [Device.slot_failCommand]
  exact ⟨rfl, rfl⟩

/-- A command fault leaves the collectives of every device. -/
theorem State.keeps_colls_failRun (cause : Nat) (a : Word) : State.Keeps Device.colls u (u.failRun d slot cause a) := by
  have hw : State.Keeps Device.colls u
      ((if cause == Cause.memUncorr then u.noteWalk d pd0 ((u.device d).slot slot).asid a else u).withdrawSlot d slot) := by
    refine .trans ?_ (State.keeps_mapDevs _)
    split
    · exact u.keeps_noteWalk (fun _ _ _ => rfl) ..
    · exact .refl u
  unfold State.failRun
  dsimp only
  split
  · exact hw.trans (State.keeps_modDev _ d fun x => x.colls_failCommand ..)
  · exact hw

end

/-! ### A command's event -/

section
variable {s : State} {d slot op : Nat} {q : QSlot} {r : Running} {a : Trap → Word} {k : List Byte → Host.Outcome State Fault Refusal}

theorem State.running_of (h : RunsCommand s d slot op q r) : s.running d slot op = some (q, r) := by
  obtain ⟨hq, -, hstop, -, hr, hop, hfin⟩ := h
  unfold State.running
  simp only [hq, hstop, hr, hop, hfin, beq_self_eq_true, Bool.not_false, Bool.and_self, Bool.false_eq_true, if_false, if_true]

/-- What a command does by the answers to its requests: it waits for them, faults with the first failure, or goes on. -/
def Running.proceed (s : State) (d slot : Nat) (r : Running) (a : Trap → Word) (k : List Byte → Host.Outcome State Fault Refusal) :
    Host.Outcome State Fault Refusal :=
  match r.result with
  | .waits => .next s
  | .fails t => .next (s.failRun d slot t.cause (a t))
  | .answered bs => k bs

theorem Running.result_waits (h : r.await ≠ []) : r.result = .waits := by simp [Running.result, h]

theorem Running.result_fails {t : Trap} (h : r.await = []) (he : r.err = some t) : r.result = .fails t := by simp [Running.result, h, he]

theorem Running.result_idle (h : r.await = [] ∧ r.err = none) : r.result = .answered r.data := by simp [Running.result, h.1, h.2]

theorem Running.proceed_waits (h : r.await ≠ []) : r.proceed s d slot a k = .next s := by
  rw [Running.proceed, Running.result_waits h]

theorem Running.proceed_fails {t : Trap} (h : r.await = []) (he : r.err = some t) :
    r.proceed s d slot a k = .next (s.failRun d slot t.cause (a t)) := by
  rw [Running.proceed, Running.result_fails h he]

theorem Running.proceed_idle (h : r.await = [] ∧ r.err = none) : r.proceed s d slot a k = k r.data := by
  rw [Running.proceed, Running.result_idle h]

end

end Sys2Proof.Machine

namespace Sys2Proof.Machine
open Sys2Proof

/-! ## The commands' own steps -/

section
variable {s : State} {d slot : Nat} {q : QSlot} {r : Running}

/-! ### COPY (R319) -/

section
variable {src dst : Word} {t : Tlb} {bs : List Byte}

theorem exec_copy (h : RunsCommand s d slot 2 q r) : exec (.copy d slot) s = r.proceed s d slot (·.addr) fun bs =>
    let src : Word := BitVec.ofNat 64 (field r.blk 0x20 8) + BitVec.ofNat 64 r.off
    let dst : Word := BitVec.ofNat 64 (field r.blk 0x28 8) + BitVec.ofNat 64 r.off
    if r.phase = 2 then .next (s.setRun d slot (r.nextLine (field r.blk 0x30 8)))
    else if r.phase = 1 then .next (s.copyOut d slot q r dst bs)
    else if src.toNat % 64 ≠ 0 then .next (s.failRun d slot Cause.misaligned src)
    else if dst.toNat % 64 ≠ 0 then .next (s.failRun d slot Cause.misaligned dst)
    else if field r.blk 0x30 8 ≤ r.off then .next ((s.startRun d slot q r).finishRun d slot r)
    else .next (s.copyIn d slot q r src) := by
  show execCopy d slot s = _
  simp only [execCopy, State.running_of h, beq_iff_eq, bne_iff_ne, BitVec.ofNat_add]
  rfl

theorem State.copyIn_error {e : Trap} (hp : s.curPage d q true .xread src = .error e) :
    s.copyIn d slot q r src = (s.noteWalk d pd0 q.asid src).failRun d slot e.cause e.addr := by
  simp only [State.copyIn, hp]

theorem State.copyIn_system (hp : s.curPage d q true .xread src = .ok t) (hk : t.kind = .system) : s.copyIn d slot q r src
    = ((s.noteWalk d pd0 q.asid src).askRun d slot q r 1).sendAsked d slot [(t.phys src, fun o => .sread o src)] := by
  simp only [State.copyIn, hp, hk, beq_self_eq_true, if_true]
  rfl

theorem State.copyIn_xread (hp : s.curPage d q true .xread src = .ok t) (hk : t.kind ≠ .system) : s.copyIn d slot q r src
    = ((s.noteWalk d pd0 q.asid src).askRun d slot q r 1).sendAsked d slot
      [(t.phys src, fun o => .xread o src t.kind t.wd 0 64 (BitVec.ofNat 32 (field r.blk 0x38 4)))] := by
  simp only [State.copyIn, hp, beq_eq_false_iff_ne.2 hk, Bool.false_eq_true, if_false]
  rfl

theorem State.copyOut_error {e : Trap} (hp : s.curPage d q true .join dst = .error e) :
    s.copyOut d slot q r dst bs = (s.noteWalk d pd0 q.asid dst).failRun d slot e.cause e.addr := by
  simp only [State.copyOut, hp]

section
variable (hp : s.curPage d q true .join dst = .ok t)
include hp

theorem State.copyOut_system (hk : t.kind = .system) : s.copyOut d slot q r dst bs
    = ((s.noteWalk d pd0 q.asid dst).askRun d slot q r 2).sendAsked d slot [(t.phys dst, fun o => .swrite o bs)] := by
  simp only [State.copyOut, hp, hk]
  rfl

theorem State.copyOut_ver (hk : t.kind = .ver) : s.copyOut d slot q r dst bs
    = ((s.noteWalk d pd0 q.asid dst).askRun d slot q r 2).sendAsked d slot [(t.phys dst, fun o => .join [⟨o, none, q.asid, dst,
      .ver (BitVec.ofNat 32 (field r.blk 0x3C 4)) (BitVec.ofNat 512 (leNat bs))⟩])] := by
  simp only [State.copyOut, hp, hk]
  rfl

theorem State.copyOut_fill (hk : t.kind = .fill) : s.copyOut d slot q r dst bs
    = ((s.noteWalk d pd0 q.asid dst).askRun d slot q r 2).sendAsked d slot ((List.range 4).map (fun i => (t.phys dst, fun o =>
      .join [⟨o, none, q.asid, dst, .fill i 0xFFFFFFFF (BitVec.ofNat 128 (leNat ((bs.drop (16 * i)).take 16)))⟩]))) := by
  simp only [State.copyOut, hp, hk]
  rfl

theorem State.copyOut_kind (hk : t.kind ∉ [.ver, .fill, .system]) :
    s.copyOut d slot q r dst bs = (s.noteWalk d pd0 q.asid dst).failRun d slot Cause.kindMismatch dst := by
  simp only [List.mem_cons, List.not_mem_nil, or_false, not_or] at hk
  obtain ⟨hver, hfill, hsys⟩ := hk
  simp only [State.copyOut, hp]

end

end

/-! ### WAIT and JOIN (R319, R321) -/

/-- A command's access to the page of va, by its translation: it faults, or asks for l. -/
def State.askPage (s : State) (d slot : Nat) (q : QSlot) (r : Running) (va : Word) (k : Kind) (w : Width) (l : Tlb → List (Nat × (Origin → Req)))
    (tr : Except Trap Tlb) : Host.Outcome State Fault Refusal :=
  match tr with
  | .error t => .next ((s.noteWalk d pd0 q.asid va).failRun d slot t.cause t.addr)
  | .ok t => match kindTrap t k w va with
    | some p => .next ((s.noteWalk d pd0 q.asid va).failRun d slot p.cause va)
    | none => .next (((s.noteWalk d pd0 q.asid va).askRun d slot q r 1).sendAsked d slot (l t))

section
variable {va : Word} {k : Kind} {w : Width} {l : Tlb → List (Nat × (Origin → Req))} {t : Tlb}

theorem State.askPage_error {e : Trap} :
    s.askPage d slot q r va k w l (.error e) = .next ((s.noteWalk d pd0 q.asid va).failRun d slot e.cause e.addr) := rfl

theorem State.askPage_kind {p : Trap} (hk : kindTrap t k w va = some p) :
    s.askPage d slot q r va k w l (.ok t) = .next ((s.noteWalk d pd0 q.asid va).failRun d slot p.cause va) := by
  simp only [State.askPage, hk]

theorem State.askPage_ok (hk : kindTrap t k w va = none) :
    s.askPage d slot q r va k w l (.ok t) = .next (((s.noteWalk d pd0 q.asid va).askRun d slot q r 1).sendAsked d slot (l t)) := by
  simp only [State.askPage, hk]

end

/-- A semaphore has reached a value when the difference of the two, modulo 2^16, is below half of it (R102). -/
theorem semReached_iff (v t : Nat) : semReached v t = true ↔ ((v : Int) - (t : Int)) % 65536 < 32768 := by
  rw [semReached, decide_eq_true_eq]
  omega

theorem exec_wait_sem (h : RunsCommand s d slot 4 q r) (hb : bit (field r.blk 0x20 8) 0 = true) :
    exec (.wait d slot) s = if ((acount (s.device d).csems (bits (field r.blk 0x20 8) 13 8) : Int) - (field r.blk 0x30 8 : Int)) % 65536 < 32768
      then .next ((s.startRun d slot q r).finishRun d slot r) else .next (s.waitRun d slot q r) := by
  show execWait d slot s = _
  simp only [execWait, State.running_of h, hb, if_true, semReached_iff]

theorem exec_wait_read (h : RunsCommand s d slot 4 q r) (hb : bit (field r.blk 0x20 8) 0 = false) :
    let va : Word := BitVec.ofNat 64 (field r.blk 0x28 8)
    let k := Kind.ofCode (BitVec.ofNat 3 (bits (field r.blk 0x20 8) 3 1))
    let w := Width.ofCode (BitVec.ofNat 2 (bits (field r.blk 0x20 8) 5 4))
    exec (.wait d slot) s = r.proceed s d slot (fun _ => va) fun _ =>
      if r.phase = 1 then .next (s.finishRun d slot r)
      else if va.toNat % elemBytes k w ≠ 0 then .next (s.failRun d slot Cause.misaligned va)
      else s.askPage d slot q r va k w
        (fun t => [(t.phys va, fun o => .tread o va k w (va.toNat % 64) [trigger k w.bits (BitVec.ofNat 64 (field r.blk 0x30 8))])])
        (translateNow s d pd0 q.asid .tread va) := by
  show execWait d slot s = _
  simp only [execWait, State.running_of h, hb, Bool.false_eq_true, if_false, beq_iff_eq, bne_iff_ne]
  rfl

theorem exec_cmdJoin (h : RunsCommand s d slot 5 q r) :
    let va : Word := BitVec.ofNat 64 (field r.blk 0x20 8)
    let j := blockJoin r.blk
    exec (.cmdJoin d slot) s = r.proceed s d slot (·.addr) fun _ =>
      if r.phase = 1 then .next (s.finishRun d slot r)
      else s.askPage d slot q r va j.kw.1 j.kw.2 (fun t => [(t.phys va, fun o => .join [⟨o, none, q.asid, va, j⟩])])
        (translateNow s d pd0 q.asid .join va) := by
  show execCmdJoin d slot s = _
  simp only [execCmdJoin, State.running_of h, beq_iff_eq]
  rfl

/-! ### FREEZE and RECLAIM (R64, R224, R319) -/

/-- The range of a command, walked. -/
def State.noteRange (s : State) (d : Nat) (q : QSlot) (r : Running) : State :=
  s.noteSpan d q.asid (BitVec.ofNat 64 (field r.blk 0x20 8)) (field r.blk 0x28 8)

/-- A command's requests for the lines of a range, sent from u, or its fault where a page fails. -/
def State.askLines (s u : State) (d slot : Nat) (l : Word × Tlb → Nat × (Origin → Req)) (tr : Except Trap (List (Word × Tlb))) :
    Host.Outcome State Fault Refusal :=
  match tr with
  | .error t => .next (s.failRun d slot t.cause t.addr)
  | .ok ls => .next (u.sendAsked d slot (ls.map l))

theorem exec_freeze (h : RunsCommand s d slot 6 q r) : exec (.freeze d slot) s = r.proceed s d slot (·.addr) fun _ =>
    if r.phase = 1 then .next (s.finishRun d slot r)
    else s.askLines ((s.noteRange d q r).askRun d slot q r 1) d slot (fun l => (l.2.phys l.1, fun o => .freeze o l.1 l.2.kind l.2.wd))
      (s.linesOf d q.asid [.freeze] (field r.blk 0x20 8) (field r.blk 0x28 8 / 64)) := by
  show execFreeze d slot s = _
  simp only [execFreeze, State.running_of h, beq_iff_eq, State.askLines, State.sendAsked, List.foldl_map]
  rfl

/-- What a RECLAIM holds back: launches of its address space, for its slot. -/
def Device.holdReclaim (slot asid : Nat) (x : Device) : Device :=
  if x.reclaims.contains (slot, asid) then x else { x with reclaims := x.reclaims ++ [(slot, asid)] }

theorem exec_reclaim (h : RunsCommand s d slot 7 q r) : exec (.reclaim d slot) s = r.proceed s d slot (·.addr) fun _ =>
    if r.phase = 1 then
      .next ((s.modDev d (fun x => { x with reclaims := x.reclaims.filter (· != (slot, q.asid)) })).finishRun d slot r)
    else if s.asidBusy q.asid = true then .next ((s.waitRun d slot q r).modDev d (Device.holdReclaim slot q.asid))
    else s.askLines (((s.noteRange d q r).askRun d slot q r 1).modDev d (Device.holdReclaim slot q.asid)) d slot
      (fun l => (l.2.phys l.1, fun o => .bottom o l.2.kind)) (s.linesOf d q.asid [.join, .freeze] (field r.blk 0x20 8) (field r.blk 0x28 8 / 64)) := by
  show execReclaim d slot s = _
  simp only [execReclaim, State.running_of h, beq_iff_eq, State.askLines, State.sendAsked, List.foldl_map]
  rfl

end

end Sys2Proof.Machine

namespace Sys2Proof.Machine
open Sys2Proof

section
variable {s : State} {d slot : Nat} {q : QSlot} {r : Running}

/-! ### MARK and FLUSH (R319, R321, R374) -/

/-- The device once a MARK has added to its semaphore. -/
def Device.marked (v : Nat) (x y : Device) : Device :=
  { y with csems := aset x.csems (bits v 5 0) ((acount x.csems (bits v 5 0) + bits v 15 8) % 65536) }

theorem exec_mark (h : RunsCommand s d slot 11 q r) : exec (.mark d slot) s = .next (State.finishRun
    (if bit (field r.blk 0x20 8) 6 then (s.startRun d slot q r).modDev d (fun y => y.marked (field r.blk 0x20 8) y) else s.startRun d slot q r)
    d slot r) := by
  show execMark d slot s = _
  simp only [execMark, State.running_of h]
  rfl

/-- The address space, and the range of it, that a FLUSH empties. -/
def flushAsid (q : QSlot) (r : Running) : Nat := if q.sys then field r.blk 0x30 2 else q.asid
def flushLo (r : Running) : Nat := if field r.blk 0x28 8 = 0 then 0 else field r.blk 0x20 8
def flushHi (r : Running) : Nat := if field r.blk 0x28 8 = 0 then 2 ^ 64 else field r.blk 0x20 8 + field r.blk 0x28 8

/-- Whether a walk of a FLUSH's range is under way. -/
def Device.walksInRange (x : Device) (asid lo hi : Nat) : Bool := x.walks.any (fun w => w.asid == asid && lo ≤ w.va.toNat && w.va.toNat < hi)

/-- A core without the translations of a range. -/
def Core.flushTlb (asid lo hi : Nat) (k : Core) : Core := { k with tlb := k.tlb.filter (fun t => !t.inRange asid lo hi) }

/-- A device without the translations of a range, with these markers. -/
def Device.flushed (x : Device) (asid lo hi : Nat) (keep : List (Nat × Nat)) : Device :=
  { x with
    pcache := keep, ptlb := x.ptlb.filter (fun p => !p.2.inRange asid lo hi)
    cores := x.cores.map (fun c => (c.1, c.2.flushTlb asid lo hi)) }

theorem exec_flush (h : RunsCommand s d slot 12 q r) : exec (.flush d slot) s =
    if (s.device d).walksInRange (flushAsid q r) (flushLo r) (flushHi r) = true then .next (s.startRun d slot q r)
    else .next (((s.startRun d slot q r).modDev d (fun x => x.flushed (flushAsid q r) (flushLo r) (flushHi r)
      ((s.device d).pcache.filter (fun p => !markerIn s d (flushAsid q r) (flushLo r) (flushHi r) p.2)))).finishRun d slot r) := by
  have hlo : (if (field r.blk 0x28 8 == 0) = true then 0 else field r.blk 0x20 8) = flushLo r := by
    simp only [flushLo, beq_iff_eq]
  have hhi : (if (field r.blk 0x28 8 == 0) = true then 2 ^ 64 else flushLo r + field r.blk 0x28 8) = flushHi r := by
    simp only [flushHi, flushLo, beq_iff_eq]
    split <;> rfl
  show execFlush d slot s = _
  simp only [execFlush, State.running_of h, hlo, hhi]
  rfl

theorem Tlb.outside_of_inRange {t : Tlb} {asid lo hi : Nat} (h : (!t.inRange asid lo hi) = true) :
    t.asid ≠ asid ∨ hi ≤ t.va ∨ t.va + 2 ^ t.bits ≤ lo := by
  by_contra hno
  push Not at hno
  obtain ⟨ha, hhi, hlo⟩ := hno
  simp [Tlb.inRange, ha, hhi, hlo] at h

/-- A flushed device: no core holds a translation of the range. -/
theorem Device.tlb_flushed (x : Device) (asid lo hi : Nat) (keep : List (Nat × Nat)) (c : Nat) :
    ∀ t ∈ ((x.flushed asid lo hi keep).core c).tlb, t.asid ≠ asid ∨ hi ≤ t.va ∨ t.va + 2 ^ t.bits ≤ lo := by
  intro t ht
  have hcore : (x.flushed asid lo hi keep).core c = ((aget x.cores c).map (Core.flushTlb asid lo hi)).getD Core.reset :=
    congrArg (·.getD Core.reset) (aget_map (g := fun c => (c.1, c.2.flushTlb asid lo hi)) (fun _ => rfl) x.cores c)
  rw [hcore] at ht
  cases hc : aget x.cores c with
  | none =>
    rw [hc] at ht
    exact absurd ht (List.not_mem_nil)
  | some k =>
    rw [hc] at ht
    exact Tlb.outside_of_inRange (List.mem_filter.1 ht).2

/-! ### COLL (R319, R320) -/

section
variable {key : CollKey}

section
variable (h : RunsCommand s d slot 3 q r) (hk : r.coll = some key)
include h hk

/-- A COLL whose collective is known waits for it, or faults with it. -/
theorem exec_cmdColl_going {c : Coll} (hc : (s.device d).coll? key = some c) (hf : c.failed = none) : exec (.cmdColl d slot) s = .next s := by
  show execCmdColl d slot s = _
  simp only [execCmdColl, State.running_of h, hk, hc, hf]

theorem exec_cmdColl_failed {c : Coll} {cause : Nat} {a : Word} {b : Word} (hc : (s.device d).coll? key = some c)
    (hf : c.failed = some (cause, a, b)) :
    exec (.cmdColl d slot) s = .next ((s.modDev d (fun x => x.dropColl key)).failRun d slot cause a) := by
  show execCmdColl d slot s = _
  simp only [execCmdColl, State.running_of h, hk, hc, hf]

/-- What a COLL's block asks of its operands, and of the device (R319, R320). -/
structure CollFits (s : State) (d : Nat) (r : Running) (key : CollKey) (devs : List Nat) : Prop where
  src : field r.blk 0x30 8 % 64 = 0
  tile : field r.blk 0x40 8 % 64 = 0
  whole : field r.blk 0x28 1 / 16 = 4 → field r.blk 0x38 8 % (64 * devs.length) = 0
  pool : field r.blk 0x38 8 ≤ (s.device d).stagePool
  free : (s.device d).collHeld key ((devs.findIdx? (· == d)).getD 0) = false

variable (hc : (s.device d).coll? key = none)
include hc

theorem exec_cmdColl_landed (hoff : r.off = 1) : exec (.cmdColl d slot) s = .next (s.finishRun d slot r) := by
  show execCmdColl d slot s = _
  simp only [execCmdColl, State.running_of h, hk, hc, hoff, beq_self_eq_true, if_true]

variable (hoff : r.off ≠ 1)
include hoff

theorem exec_cmdColl_waits (hr : r.result = .waits) : exec (.cmdColl d slot) s = .next s := by
  show execCmdColl d slot s = _
  simp only [execCmdColl, State.running_of h, hk, hc, beq_eq_false_iff_ne.2 hoff, hr, Bool.false_eq_true, if_false]

theorem exec_cmdColl_fails {t : Trap} (hr : r.result = .fails t) :
    exec (.cmdColl d slot) s = .next (s.failRun d slot t.cause t.addr) := by
  show execCmdColl d slot s = _
  simp only [execCmdColl, State.running_of h, hk, hc, beq_eq_false_iff_ne.2 hoff, hr, Bool.false_eq_true, if_false]

theorem exec_cmdColl_answered {data desc : List Byte} {devs : List Nat} (hr : r.result = .answered data)
    (hg : s.group d q.asid (BitVec.ofNat 64 (field r.blk 0x20 8)) = some (devs, desc)) (hfit : CollFits s d r key devs) :
    exec (.cmdColl d slot) s = if data.length = field r.blk 0x38 8 then .next (s.groupContribute d slot q r key devs desc data)
      else .next (s.groupRead d slot q r (BitVec.ofNat 64 (field r.blk 0x30 8 + data.length))) := by
  have hwhole : (field r.blk 0x28 1 / 16 == 4 && field r.blk 0x38 8 % (64 * devs.length) != 0) = false := by
    by_contra hno
    rw [Bool.not_eq_false, Bool.and_eq_true, beq_iff_eq, bne_iff_ne] at hno
    exact hno.2 (hfit.whole hno.1)
  show execCmdColl d slot s = _
  simp only [execCmdColl, State.running_of h, hk, hc, beq_eq_false_iff_ne.2 hoff, hr, hg, hfit.src, hfit.tile, hwhole,
    Nat.not_lt.2 hfit.pool, hfit.free, bne_self_eq_false, Bool.false_eq_true, if_false, beq_iff_eq]

end

/-- The read of a COLL's next line. -/
theorem State.groupRead_ok {va : Word} {t : Tlb} (hp : translateNow s d pd0 q.asid .xread va = .ok t) :
    s.groupRead d slot q r va = (((s.noteWalk d pd0 q.asid va).startRun d slot q r).setRun d slot
      { r with started := true, phase := 1 }).sendAsked d slot
        [(t.phys va, fun o => .xread o va t.kind t.wd 0 64 (BitVec.ofNat 32 (field r.blk 0x48 4)))] := by
  simp only [State.groupRead, hp]
  rfl

section
variable {devs : List Nat} {desc data : List Byte}

theorem State.groupContribute_waits (hfull : (s.device d).stagePool < (s.device d).stageUsed + data.length) :
    s.groupContribute d slot q r key devs desc data = s.waitRun d slot q r := if_pos hfull

theorem State.groupContribute_room (hroom : (s.device d).stageUsed + data.length ≤ (s.device d).stagePool) :
    s.groupContribute d slot q r key devs desc data = ((s.startRun d slot q r).setRun d slot { r.turn 2 with off := 1 }).contribute d
      (groupColl d q.asid key r.blk devs desc data).1 (groupColl d q.asid key r.blk devs desc data).2 := if_neg (Nat.not_lt.2 hroom)

theorem State.key_adopt (base : Coll) : (s.adopt base).key = base.key := by
  unfold State.adopt
  split <;> rfl

theorem Device.coll?_append_new {x : Device} {c : Coll} (h : x.coll? key = none) (hk : c.key = key) :
    ({ x with colls := x.colls ++ [c] } : Device).coll? key = some c := by
  rw [Device.coll?] at h ⊢
  rw [List.find?_append, h, Option.none_or, List.find?_singleton, if_pos (by rw [hk, beq_self_eq_true])]

/-- A device's first contribution to a collective, of a rank above 0: the device knows the collective, with that contribution, and its threads
run what they ran. -/
theorem State.Thread.contribute_first {v : State} {e : Running} {w : Bool} {net : List Msg} (h : v.Thread d slot e w net) {base : Coll} {c : Contrib}
    (hkey : base.key = key) (hc : (v.device d).coll? key = none) (hrank : c.rank ≠ 0) :
    (v.contribute d base c).Thread d slot e w net ∧ ∃ k, ((v.contribute d base c).device d).coll? key = some k ∧ k.mine = [c] := by
  subst hkey
  have hv : v.contribute d base c
      = v.modDev d (fun x => { x with colls := x.colls ++ [{ v.adopt base with mine := [c], rver := x.rver }] }) := by
    simp only [State.contribute, hc, if_neg hrank]
  rw [hv]
  refine ⟨h.modDev fun _ => rfl, { v.adopt base with mine := [c], rver := (v.device d).rver }, ?_, rfl⟩
  rw [h.dev.device_modDev]
  exact Device.coll?_append_new hc (State.key_adopt base)

theorem Device.coll?_dropColl (x : Device) : (x.dropColl key).coll? key = none := by
  rw [Device.coll?, List.find?_eq_none]
  intro c hc
  simpa using (List.mem_filter.1 hc).2

end

end

/-- What of a device does not show its memory and its threads stays while a command's next piece of work is set. -/
theorem State.keeps_setRun {α : Type} {f : Device → α} (hq : ∀ x m, f { x with qslots := m } = f x) {e : Running} {w : Bool} :
    State.Keeps f s (s.setRun d slot e w) := s.keeps_modDev d fun x => hq x _

/-- A COLL's contribution, of a rank above 0 and with room for it: the device knows the collective with the contribution, and the command
waits for the collective to land. -/
theorem State.Has.groupContribute_first {key : CollKey} {devs : List Nat} {desc data : List Byte} (hd : s.Has d) (hfin : r.finished = false)
    (hc : (s.device d).coll? key = none) (hroom : (s.device d).stageUsed + data.length ≤ (s.device d).stagePool)
    (hrank : (devs.findIdx? (· == d)).getD 0 ≠ 0) :
    let u := s.groupContribute d slot q r key devs desc data
    ∃ e, u.runOf d slot = some e ∧ e.acc = r.acc ∧ e.off = 1 ∧ e.finished = false
      ∧ ∃ c m, (u.device d).coll? key = some c ∧ c.mine = [m] ∧ m.data = data ∧ m.tile = BitVec.ofNat 64 (field r.blk 0x40 8) := by
  have ht := (hd.startRun (slot := slot) (q := q) (r := r)).thread_setRun (slot := slot) { r.turn 2 with off := 1 } false
  have hcolls : State.Keeps Device.colls s ((s.startRun d slot q r).setRun d slot { r.turn 2 with off := 1 }) :=
    (s.keeps_startRun (fun _ _ => rfl) fun _ _ => rfl).trans (State.keeps_setRun fun _ _ => rfl)
  have hnone : (((s.startRun d slot q r).setRun d slot { r.turn 2 with off := 1 }).device d).coll? key = none := by
    rwa [Device.coll?, hcolls.device]
  intro u
  obtain ⟨hthread, k, hk, hmine⟩ := ht.contribute_first (base := (groupColl d q.asid key r.blk devs desc data).1)
    (c := (groupColl d q.asid key r.blk devs desc data).2) rfl hnone hrank
  rw [← State.groupContribute_room hroom] at hthread hk
  exact ⟨_, hthread.run, rfl, rfl, hfin, k, _, hk, hmine, rfl, rfl⟩

/-! ### What a RECLAIM holds back (R64) -/

theorem Device.mem_holdReclaim (x : Device) (asid : Nat) : (slot, asid) ∈ (x.holdReclaim slot asid).reclaims := by
  unfold Device.holdReclaim
  split
  · next h => exact List.contains_iff_mem.1 h
  · simp

theorem Device.qslots_holdReclaim (x : Device) (asid : Nat) : (x.holdReclaim slot asid).qslots = x.qslots := by
  unfold Device.holdReclaim
  split <;> rfl

theorem State.keeps_mesh {α : Type} {f : Device → α} (u : State) (e : Nat) (wt : BitVec 24) (m : Body) : State.Keeps f u (u.mesh e wt m) := .of_devs rfl

/-- Requests to lines of a thread's own device change no reclaim. -/
theorem State.reclaims_sendAsked (u : State) {l : List (Nat × (Origin → Req))} (hg : ∀ p ∈ l, gDev p.1 = d) :
    ((u.sendAsked d slot l).device d).reclaims = (u.device d).reclaims := by
  induction l generalizing u with
  | nil => rfl
  | cons p l ih =>
    have hp : State.Keeps Device.reclaims u (u.curSend d slot p.1 p.2) := by
      unfold State.curSend
      dsimp only
      rw [hg p List.mem_cons_self, State.send, if_pos rfl]
      refine .trans ?_ (State.keeps_mesh ..)
      exact u.keeps_modDev d fun _ => rfl
    exact (ih (u.curSend d slot p.1 p.2) fun q hq => hg q (List.mem_cons_of_mem _ hq)).trans (hp.device d)

/-! ### LAUNCH (R325, R326) -/

theorem exec_launch (h : RunsCommand s d slot 1 q r) (hst : r.started = false) :
    let record := r.blk.drop 0x20
    let sound := if bit (field record 4 4) 3 then s.sigOk d q.asid record else !((s.device d).bar0.sigreq).getLsbD (domainOf s d q.asid)
    exec (.launch d slot) s = if recordOk q record = false then .next ((s.setRun d slot { r with started := true }).ownFault d r.acc 2 Cause.launchInvalid)
      else if sound = false then .next ((s.setRun d slot { r with started := true }).ownFault d r.acc 2 Cause.launchSig)
      else .next (s.setRun d slot { r with started := true }) := by
  show execLaunch d slot s = _
  simp only [execLaunch, State.running_of h, hst, Bool.false_eq_true, if_false, Bool.not_eq_true']

/-- The record of a fault that a launch of a thread's own raises: its packet's ring index and header, where it has one (R388). -/
theorem State.noted_ownFault_packet {l : Launch} (hl : Runs s d l.acc l) (src cause : Nat) {e : Running} (hrun : (s.device d).launchRun l.acc = some (slot, e))
    (hhdr : e.hdr ≠ 0) : ∃ f, Noted (s.ownFault d l.acc src cause) d l f ∧ f.cause = cause ∧ f.src = src
      ∧ f.tpc = BitVec.ofNat 64 e.idx ∧ f.tword = e.hdr := by
  obtain ⟨hl, h14, h15, hf⟩ := hl
  have hr : (((s.device d).launchRun l.acc).map (·.2)).filter (fun r => r.hdr != 0) = some e := by
    rw [hrun, Option.map_some, Option.filter_some, if_pos (bne_iff_ne.2 hhdr)]
  refine ⟨{ launchCause src cause 0 e.hdr 0 0 with tpc := BitVec.ofNat 64 e.idx }, ?_, rfl, rfl, rfl, rfl⟩
  unfold Noted State.ownFault State.launchFault
  simp only [hl, h14, h15, hf, beq_iff_eq, Bool.or_eq_true, or_self, if_false, hr]
  rw [State.device_modDev_of_launch? hl]
  exact Device.launch?_modLaunch_self hl

/-- The LAUNCH of an accession number that thread t runs. -/
def Device.launchRunAt (x : Device) (n t : Nat) : Option (Nat × Running) :=
  if (x.slot t).stop then none
  else match (x.slot t).current with
    | some r => if r.acc == n && r.op == 1 && !r.finished then some (t, r) else none
    | none => none

/-- The thread that runs a launch is found, where no other runs a command of its accession number. -/
theorem Device.launchRun_of {x : Device} {e : Running} {n : Nat} (hslot : slot < 32) (hstop : (x.slot slot).stop = false) (hrun : (x.slot slot).current = some e)
    (hacc : e.acc = n) (hop : e.op = 1) (hfin : e.finished = false)
    (hone : ∀ t f, t ≠ slot → (x.slot t).current = some f → f.acc ≠ n) : x.launchRun n = some (slot, e) := by
  have hself : x.launchRunAt n slot = some (slot, e) := by simp [Device.launchRunAt, hstop, hrun, hacc, hop, hfin]
  have hother : ∀ t, t ≠ slot → x.launchRunAt n t = none := fun t ht => by
    cases hc : (x.slot t).current with
    | none => simp [Device.launchRunAt, hc]
    | some g => simp [Device.launchRunAt, hc, hone t g ht hc]
  show (List.range 32).findSome? (x.launchRunAt n) = _
  cases hr : (List.range 32).findSome? (x.launchRunAt n) with
  | none => exact absurd (hself.symm.trans (List.findSome?_eq_none_iff.1 hr slot (List.mem_range.2 hslot))) (by simp)
  | some v =>
    obtain ⟨t, -, ht⟩ := List.exists_of_findSome?_eq_some hr
    by_cases hts : t = slot
    · rw [← ht, hts, hself]
    · rw [hother t hts] at ht
      cases ht

/-- A LAUNCH's fault, noted; with the packet's ring index and header where the packet has one and no other thread runs its number. -/
theorem State.noted_launchFault {l : Launch} (h : RunsCommand s d slot 1 q r) (hl : Runs s d r.acc l) (hacc : l.acc = r.acc) (cause : Nat) :
    ∃ n, Noted ((s.setRun d slot { r with started := true }).ownFault d r.acc 2 cause) d l n ∧ n.cause = cause ∧ n.src = 2
      ∧ (slot < 32 → r.hdr ≠ 0 → (∀ t e, t ≠ slot → ((s.device d).slot t).current = some e → e.acc ≠ r.acc) →
        n.tpc = BitVec.ofNat 64 r.idx ∧ n.tword = r.hdr) := by
  obtain ⟨hq, hdev, hstop, -, -, hop, hfin⟩ := h
  have hk : State.Keeps Device.launches s (s.setRun d slot { r with started := true }) := s.keeps_modDev d
  have hl' : Runs (s.setRun d slot { r with started := true }) d l.acc l := by
    unfold Runs
    rw [hk.launch?, hacc]
    exact hl
  have hslot : ∀ t, ((s.setRun d slot { r with started := true }).device d).slot t
      = if t = slot then { q.setCurrent { r with started := true } with waiting := false } else (s.device d).slot t := fun t => by
    rw [State.setRun, State.Has.device_modDev hdev]
    split
    · next ht => rw [ht, Device.slot_modSlot, hq]
    · next ht => exact Device.slot_modSlot_ne _ _ ht
  by_cases hpacket : slot < 32 ∧ r.hdr ≠ 0 ∧ ∀ t e, t ≠ slot → ((s.device d).slot t).current = some e → e.acc ≠ r.acc
  · obtain ⟨hlt, hhdr, hone⟩ := hpacket
    have hrun : ((s.setRun d slot { r with started := true }).device d).launchRun l.acc = some (slot, { r with started := true }) := by
      refine Device.launchRun_of hlt ?_ ?_ hacc.symm hop hfin fun t f ht hf => ?_
      · rw [hslot, if_pos rfl, ← hstop]
        unfold QSlot.setCurrent
        split <;> rfl
      · rw [hslot, if_pos rfl, QSlot.current_withWaiting, QSlot.current_setCurrent]
      · rw [hslot, if_neg ht] at hf
        rw [hacc]
        exact hone t f ht hf
    obtain ⟨n, hn, hcause, hsrc, htpc, htword⟩ := State.noted_ownFault_packet hl' 2 cause hrun hhdr
    rw [hacc] at hn
    exact ⟨n, hn, hcause, hsrc, fun _ _ _ => ⟨htpc, htword⟩⟩
  · obtain ⟨n, hn, hcause, hsrc, -, -⟩ := State.noted_ownFault hl' 2 cause 0 0
    rw [hacc] at hn
    exact ⟨n, hn, hcause, hsrc, fun hlt hhdr hone => absurd ⟨hlt, hhdr, hone⟩ hpacket⟩

end

end Sys2Proof.Machine

open Sys2Proof Sys2Proof.Machine in
/-- Settles O50: each command's event, by what its requests have come to and by the branch of its own step that the clause names. -/
theorem curatorCommands : Obligations.CuratorCommands := by
  unfold Obligations.CuratorCommands
  intro s d slot op q r h x f addr walked failsIn fails goes ends waits asks idle awaits
  obtain ⟨hq, hdev, -, hcmd, hrun, hop, hfin⟩ := id h
  have hd : s.Has d := hdev
  have hcmd' : ((s.device d).slot slot).cmd.isSome = true := by rwa [hq]
  have hr : s.runOf d slot = some r := (congrArg QSlot.current hq).trans hrun
  have hasW : ∀ a, (walked a).Has d := fun a => hd.noteWalk ..
  have netW : ∀ a, (walked a).net = s.net := fun a => State.net_noteWalk ..
  have failS : ∀ {i cause a}, exec i s = .next (s.failRun d slot cause a) → fails i cause a :=
    fun he => ⟨he, hd.failRun_stops hcmd' _ _⟩
  have failW : ∀ {i cause a b}, exec i s = .next ((walked b).failRun d slot cause a) → failsIn (walked b) i cause a := fun {i cause a b} he => by
    have hslot : ((walked b).device d).qslots = (s.device d).qslots := (s.keeps_noteWalk (f := Device.qslots) (fun _ _ _ => rfl) ..).device d
    exact ⟨he, (hasW b).failRun_stops (by rwa [Device.slot, hslot]) _ _⟩
  have going : ∀ {i u e w} {p : State → Running → Prop}, exec i s = .next u → u.Thread d slot e w s.net → e.acc = r.acc → p u e → goes i p :=
    fun he ht hacc hp => ⟨_, _, he, ht.run, hacc, hp⟩
  have ending : ∀ {i u w}, exec i s = .next u → u.Thread d slot { r with started := true, finished := true } w s.net → ends i :=
    fun he ht => going he ht rfl ⟨rfl, ht.net⟩
  have waiting : ∀ {i u}, exec i s = .next u → u.Thread d slot { r with started := true } (r.op == 4) s.net → waits i (r.op == 4) :=
    fun he ht => going he ht rfl ⟨hfin, ht.waiting, ht.net⟩
  have asking : ∀ {i phase l u}, exec i s = .next u → ((∀ p ∈ l, gDev p.1 = d) → s.AsksFor u d slot r phase l) → asks i phase l :=
    fun he ha hg => let ⟨e, hrun, hacc, hrest⟩ := ha hg; ⟨_, e, he, hrun, hacc, hrest⟩
  have askingW : ∀ {i phase l a}, exec i s = .next (((walked a).askRun d slot q r phase).sendAsked d slot l) → asks i phase l :=
    fun he => asking he ((hasW _).asksFor_askRun (netW _) hfin)
  have awaiting : ∀ {i a k}, exec i s = r.proceed s d slot a k → awaits i a :=
    fun he => ⟨fun hw => he.trans (Running.proceed_waits hw), fun t hw ht => failS (he.trans (Running.proceed_fails hw ht))⟩
  have startEnds : ∀ {i}, exec i s = .next ((s.startRun d slot q r).finishRun d slot r) → ends i := fun he => by
    have ht := (hd.startRun (slot := slot) (q := q) (r := r)).thread_finishRun (slot := slot) (r := r)
    rw [State.net_startRun] at ht
    exact ending he ht
  refine ⟨?launch, ?copy, ?coll, ?wait, ?join, ?freeze, ?reclaim, ?mark, ?flush⟩
  case launch =>
    rintro rfl hst l hl hacc record signed sound faults
    have he := exec_launch h hst
    have fault : ∀ {cause}, exec (.launch d slot) s = .next ((s.setRun d slot { r with started := true }).ownFault d r.acc 2 cause) →
        faults cause := fun {cause} he => by
      obtain ⟨n, hn⟩ := State.noted_launchFault h hl hacc cause
      exact ⟨_, n, he, hn⟩
    refine ⟨fun hbad => fault (he.trans (if_pos hbad)), fun hok hbad => fault (he.trans ((if_neg ?_).trans (if_pos hbad))),
      fun hok hgood => he.trans ((if_neg ?_).trans (if_neg ?_))⟩
    · rw [hok]; exact Bool.true_eq_false_eq_False
    · rw [hok]; exact Bool.true_eq_false_eq_False
    · exact ne_false_of_eq_true hgood
  case copy =>
    rintro rfl src dst next
    have he := exec_copy h
    have step := fun hi : idle => he.trans (Running.proceed_idle hi)
    have phase0 := fun (hi : idle) (hp : r.phase = 0) => (step hi).trans ((if_neg (by omega)).trans (if_neg (by omega)))
    have phase1 := fun (hi : idle) (hp : r.phase = 1) => (step hi).trans ((if_neg (by omega)).trans (if_pos hp))
    have aligned := fun (hi : idle) (hp : r.phase = 0) (hs : src.toNat % 64 = 0) (hdst : dst.toNat % 64 = 0) =>
      (phase0 hi hp).trans ((if_neg (not_not.2 hs)).trans (if_neg (not_not.2 hdst)))
    have reading := fun (hi : idle) (hp : r.phase = 0) (hs : src.toNat % 64 = 0) (hdst : dst.toNat % 64 = 0) (hoff : r.off < f 0x30) =>
      (aligned hi hp hs hdst).trans (if_neg (Nat.not_le.2 hoff))
    refine ⟨awaiting he, fun hi hp hs => failS ((phase0 hi hp).trans (if_pos hs)),
      fun hi hp hs hdst => failS ((phase0 hi hp).trans ((if_neg (not_not.2 hs)).trans (if_pos hdst))),
      fun hi hp hs hdst hlen => startEnds ((aligned hi hp hs hdst).trans (if_pos hlen)),
      fun t hi hp hs hdst hoff hpage => ⟨fun hk => ?_, fun hk => ?_⟩,
      fun t hi hp hpage => ⟨fun hk => ?_, fun hk => ?_, fun hk => ?_, fun hk => ?_⟩, fun t hi hp hpage => ?_,
      fun t hi hp hs hdst hoff hpage => ?_, fun hi hp => ?_⟩
    · exact askingW ((reading hi hp hs hdst hoff).trans (congrArg _ (State.copyIn_xread hpage hk)))
    · exact askingW ((reading hi hp hs hdst hoff).trans (congrArg _ (State.copyIn_system hpage hk)))
    · exact askingW ((phase1 hi hp).trans (congrArg _ (State.copyOut_ver hpage hk)))
    · exact askingW ((phase1 hi hp).trans (congrArg _ (State.copyOut_fill hpage hk)))
    · exact askingW ((phase1 hi hp).trans (congrArg _ (State.copyOut_system hpage hk)))
    · exact failW ((phase1 hi hp).trans (congrArg _ (State.copyOut_kind hpage hk)))
    · exact failW ((phase1 hi hp).trans (congrArg _ (State.copyOut_error hpage)))
    · exact failW ((reading hi hp hs hdst hoff).trans (congrArg _ (State.copyIn_error hpage)))
    · have ht := hd.thread_setRun (slot := slot) (r.nextLine (f 0x30)) false
      exact going ((step hi).trans (if_pos hp)) ht rfl ⟨rfl, beq_iff_eq, ht.net, trivial⟩
  case coll =>
    rintro rfl key hk
    have notFour : (r.op == 4) = false := by rw [hop]; rfl
    refine ⟨fun hc hoff => ending (exec_cmdColl_landed h hk hc hoff) hd.thread_finishRun, fun c cause a b hc hf => ?_,
      fun c hc hf => exec_cmdColl_going h hk hc hf, fun hc hoff => ⟨⟨fun hw => ?_, fun t hw ht => ?_⟩, ?_⟩, ?_⟩
    · have he := exec_cmdColl_failed h hk hc hf
      have hslot : ((s.modDev d (fun x => x.dropColl key)).device d).slot slot = (s.device d).slot slot := by
        rw [hd.device_modDev]
        rfl
      obtain ⟨hstop, hnone⟩ := (hd.modDev d (fun x => x.dropColl key)).failRun_stops (by rwa [hslot]) cause a
      refine ⟨_, he, hstop, hnone, ?_⟩
      rw [Device.coll?, (State.keeps_colls_failRun ..).device, hd.device_modDev]
      exact Device.coll?_dropColl _
    · exact exec_cmdColl_waits h hk hc hoff (Running.result_waits hw)
    · exact failS (exec_cmdColl_fails h hk hc hoff (Running.result_fails hw ht))
    · intro devs desc t hi hg hsrc htile hwhole hpool hfree hlen va hp
      have he := exec_cmdColl_answered h hk hc hoff (Running.result_idle hi) hg ⟨hsrc, htile, hwhole, hpool, hfree⟩
      rw [if_neg hlen, State.groupRead_ok hp] at he
      refine asking he fun hdev => ?_
      have ht := ((hasW va).startRun (slot := slot) (q := q) (r := r)).thread_setRun (slot := slot) { r with started := true, phase := 1 } false
      rw [State.net_startRun, netW] at ht
      exact ht.asksFor rfl hfin rfl hi.1 hdev
    · intro hc hoff devs desc hi hg hsrc htile hwhole hpool hfree hlen
      have he := exec_cmdColl_answered h hk hc hoff (Running.result_idle hi) hg ⟨hsrc, htile, hwhole, hpool, hfree⟩
      rw [if_pos hlen] at he
      rw [← show r.data.length = f 0x38 from hlen]
      refine ⟨fun hfull => ?_, fun hroom hrank => ?_⟩
      · have hw := waiting (he.trans (congrArg _ (State.groupContribute_waits hfull))) hd.thread_waitRun
        rwa [notFour] at hw
      · obtain ⟨e, hrun, hacc, hoff, hfin, hcoll⟩ := hd.groupContribute_first (desc := desc) (q := q) hfin hc hroom hrank
        exact ⟨_, e, he, hrun, hacc, hoff, hfin, hcoll⟩
  case wait =>
    rintro rfl v
    have isFour : (r.op == 4) = true := by rw [hop]; rfl
    refine ⟨fun hb hreach => startEnds ((exec_wait_sem h hb).trans (if_pos hreach)), fun hb hfar => ?_, fun hb => ?_⟩
    · have hw := waiting ((exec_wait_sem h hb).trans (if_neg (Int.not_lt.2 hfar))) hd.thread_waitRun
      rwa [isFour] at hw
    · have he := exec_wait_read h hb
      have step := fun hi : idle => he.trans (Running.proceed_idle hi)
      refine ⟨awaiting he, fun hi hp => ending ((step hi).trans (if_pos hp)) hd.thread_finishRun, fun t hi hp => ?_⟩
      intro va k w
      refine ⟨fun hal => failS ((step hi).trans ((if_neg hp).trans (if_pos hal))), fun hal htr => ⟨fun hkind => ?_, fun p hkind => ?_⟩,
        fun e hal htr => ?_⟩
      all_goals
        have go := (step hi).trans ((if_neg hp).trans (if_neg (not_not.2 hal)))
        rw [htr] at go
      · exact askingW (go.trans (State.askPage_ok hkind))
      · exact failW (go.trans (State.askPage_kind hkind))
      · exact failW (go.trans State.askPage_error)
  case join =>
    rintro rfl va j
    have he := exec_cmdJoin h
    have step := fun hi : idle => he.trans (Running.proceed_idle hi)
    refine ⟨awaiting he, fun hi hp => ending ((step hi).trans (if_pos hp)) hd.thread_finishRun, fun t hi hp htr => ?_,
      fun t hi hp htr => ⟨fun hkind => ?_, fun p hkind => ?_⟩⟩
    all_goals
      have go := (step hi).trans (if_neg hp)
      rw [htr] at go
    · exact failW (go.trans State.askPage_error)
    · exact askingW (go.trans (State.askPage_ok hkind))
    · exact failW (go.trans (State.askPage_kind hkind))
  case freeze =>
    rintro rfl
    have he := exec_freeze h
    have step := fun hi : idle => he.trans (Running.proceed_idle hi)
    refine ⟨awaiting he, fun hi hp => ending ((step hi).trans (if_pos hp)) hd.thread_finishRun, fun t hi hp hls => ?_, fun ls hi hp hls => ?_⟩
    all_goals
      have go := (step hi).trans (if_neg hp)
      rw [hls] at go
    · exact failS go
    · exact asking go ((hd.noteSpan ..).asksFor_askRun (State.net_noteSpan ..) hfin)
  case reclaim =>
    rintro rfl
    have he := exec_reclaim h
    have step := fun hi : idle => he.trans (Running.proceed_idle hi)
    have notFour : (r.op == 4) = false := by rw [hop]; rfl
    refine ⟨awaiting he, fun hi hp => ?_, fun hi hp hbusy => ?_, fun hi hp hfree => ⟨fun t hls => ?_, fun ls hls => ?_⟩⟩
    · have go := (step hi).trans (if_pos hp)
      have ht := (hd.modDev d (fun x => { x with reclaims := x.reclaims.filter (· != (slot, q.asid)) })).thread_finishRun (slot := slot) (r := r)
      rw [State.modDev_net] at ht
      refine ⟨ending go ht, _, go, ?_⟩
      rw [State.finishRun, (State.keeps_setRun (f := Device.reclaims) fun _ _ => rfl).device, hd.device_modDev]
      simp
    · have go := (step hi).trans ((if_neg hp).trans (if_pos hbusy))
      have ht := (hd.thread_waitRun (slot := slot) (q := q) (r := r)).modDev (f := Device.holdReclaim slot q.asid)
        fun x => x.qslots_holdReclaim _
      have hw := waiting go ht
      rw [notFour] at hw
      refine ⟨hw, _, go, ?_⟩
      rw [(hd.thread_waitRun (slot := slot) (q := q) (r := r)).dev.device_modDev]
      exact Device.mem_holdReclaim ..
    all_goals
      have go := (step hi).trans ((if_neg hp).trans (if_neg (Bool.eq_false_iff.1 hfree)))
      rw [hls] at go
    · exact failS go
    · have ht := ((hd.noteSpan d q.asid (addr 0x20) (f 0x28)).thread_askRun (slot := slot) (phase := 1) (q := q) (r := r)).modDev
        (f := Device.holdReclaim slot q.asid) fun x => x.qslots_holdReclaim _
      rw [State.net_noteSpan] at ht
      refine ⟨asking go fun hg => ht.asksFor rfl hfin rfl rfl hg, fun hg => ⟨_, go, ?_⟩⟩
      rw [State.reclaims_sendAsked _ (List.forall_mem_map.2 hg), State.Has.device_modDev]
      · exact Device.mem_holdReclaim ..
      · exact ((hd.noteSpan ..).thread_askRun).dev
  case mark =>
    rintro rfl
    have he := exec_mark h
    have hstart : (s.startRun d slot q r).Has d := hd.startRun
    refine ⟨?_, fun hb => ?_⟩
    · have finish : ∀ {u : State}, u.Has d → u.net = s.net → exec (.mark d slot) s = .next (u.finishRun d slot r) → ends (.mark d slot) :=
        fun hu hnet he => ending he (hnet ▸ hu.thread_finishRun)
      split at he
      · exact finish (hstart.modDev ..) ((State.modDev_net ..).trans State.net_startRun) he
      · exact finish hstart State.net_startRun he
    · rw [if_pos hb] at he
      have hcsems : ((s.startRun d slot q r).device d).csems = x.csems := (s.keeps_startRun (f := Device.csems) (fun _ _ => rfl) fun _ _ => rfl).device d
      refine ⟨_, he, ?_⟩
      rw [State.finishRun, (State.keeps_setRun (f := Device.csems) fun _ _ => rfl).device, hstart.device_modDev, Device.marked, hcsems]
  case flush =>
    rintro rfl asid lo hi
    have he := exec_flush h
    have hstart : (s.startRun d slot q r).Has d := hd.startRun
    refine ⟨fun hquiet => ?_, fun w hw hasid hlo hhi => ?_⟩
    · have hno : x.walksInRange (flushAsid q r) (flushLo r) (flushHi r) = false := by
        rw [Device.walksInRange, List.any_eq_false]
        intro w hw hin
        simp only [Bool.and_eq_true, beq_iff_eq, decide_eq_true_eq] at hin
        obtain hne | hlt | hle := hquiet w hw
        · exact hne hin.1.1
        · exact Nat.not_lt.2 hin.1.2 hlt
        · exact Nat.not_lt.2 hle hin.2
      have hgo := he.trans (if_neg (Bool.eq_false_iff.1 hno))
      have ht := (hstart.modDev d (fun y => y.flushed (flushAsid q r) (flushLo r) (flushHi r)
        (x.pcache.filter (fun p => !markerIn s d (flushAsid q r) (flushLo r) (flushHi r) p.2)))).thread_finishRun (slot := slot) (r := r)
      rw [State.modDev_net, State.net_startRun] at ht
      refine ⟨ending hgo ht, _, hgo, fun c => ?_, ?_, ?_⟩
      · rw [State.finishRun, (State.keeps_setRun (f := Device.cores) fun _ _ => rfl).core, State.core, hstart.device_modDev]
        exact Device.tlb_flushed _ _ _ _ _ c
      · rw [State.finishRun, (State.keeps_setRun (f := Device.ptlb) fun _ _ => rfl).device, hstart.device_modDev]
        exact fun t ht => Tlb.outside_of_inRange (List.mem_filter.1 ht).2
      · rw [State.finishRun, (State.keeps_setRun (f := Device.pcache) fun _ _ => rfl).device, hstart.device_modDev]
        exact fun p hp => Bool.not_eq_true' _ ▸ (List.mem_filter.1 hp).2
    · have hyes : x.walksInRange (flushAsid q r) (flushLo r) (flushHi r) = true := by
        rw [Device.walksInRange, List.any_eq_true]
        refine ⟨w, hw, ?_⟩
        simp only [Bool.and_eq_true, beq_iff_eq, decide_eq_true_eq]
        exact ⟨⟨hasid, hlo⟩, hhi⟩
      exact ⟨_, _, he.trans (if_pos hyes), hd.runOf_startRun hr, rfl, hfin⟩

/-! # Stash windows (O21) -/

namespace Sys2Proof.Machine
open Sys2Proof

/-! ## What setting a window leaves -/

section
variable (c : Core) (w : Nat) (x : Option Window)

theorem Core.setWindow_ctx (n : Nat) : (c.setWindow w x).ctx n = c.ctx n := by
  obtain ⟨v, hv⟩ := c.setWindow_eq w x
  rw [hv]
  rfl

theorem Core.setWindow_ls : (c.setWindow w x).ls = c.ls := by
  obtain ⟨v, hv⟩ := c.setWindow_eq w x
  rw [hv]

theorem Core.NoEcc.setWindow {c : Core} (h : c.NoEcc) : (c.setWindow w x).NoEcc := by
  obtain ⟨v, hv⟩ := c.setWindow_eq w x
  rw [hv]
  exact h

theorem Core.setWindow_setCtx (n : Nat) (y : Context) : (c.setCtx n y).setWindow w x = (c.setWindow w x).setCtx n y := by
  unfold Core.setWindow Core.setCtx
  split <;> split <;> rfl

end

section
variable {s : State} {b : Binding} {p : Pred} {i : Instr}

/-- An instruction that retires with the store and the windows of c, and has left its context alone. -/
theorem issue_store (h : Clear s b i) {own : Env → Core → Res} {c : Core} {w : Nat} {x : Option Window}
    (ho : own (s.envHere b) s.here = done (s.envHere b) i (c.setWindow w x)) (he : c.NoEcc) (hc : c.ctx s.cur.ctx = s.ctxHere) :
    issue i own s = .next (s.ranIn b i (c.setWindow w x) s.regsHere) := by
  have hx : (c.setWindow w x).ctx s.cur.ctx = s.ctxHere := (c.setWindow_ctx w x _).trans hc
  rw [issue_done h ho (he.setWindow w x) (by rw [hx]; exact h.quiet.unsigned) (by rw [hx]), hx]
  rfl

/-! ## SMAP (R80, R226) -/

section
variable {win : BitVec 3} {acc : Bool} {d a c : SReg} {o : Disp}

/-- The form of a range that an SMAP may map. -/
abbrev WindowForm (ea off : Word) (len : Nat) : Prop :=
  ea.toNat % 64 = 0 ∧ off.toNat % 64 = 0 ∧ len % 64 = 0 ∧ 0 < len ∧ len ≤ 65536

/-- The pages of a range, as an SMAP finds them. -/
abbrev State.windowPages (s : State) (b : Binding) (acc : Bool) (ea : Word) (len : Nat) : Except (Word × Option Trap) (List Tlb) :=
  lookupRange s.here s.ctxHere b.asid (if acc then .join else .xread) 18 ea len

/-- The window that an SMAP maps. -/
abbrev Core.newWindow (c : Core) (acc : Bool) (off ea : Word) (len : Nat) (t : Tlb) : Window :=
  ⟨c.nextId, off.toNat / 16, ea, len / 64, acc, t.kind, t.wd, []⟩

/-- The local store once an SMAP has filled or emptied the window's granules (R81, R82). -/
def Store.mapped (l : Store) (acc : Bool) (off len : Nat) (kind : Kind) : Store :=
  if acc then l.writeFull off (List.replicate len (if kind = .min then 0xFF else 0)) else l.setEmpty (granules off len)

theorem Core.map_quiet (hq : Quiet s b) (w : Nat) (off ea : Word) (len : Nat) (t : Tlb) :
    s.here.map w acc off ea len t
      = { s.here with ls := s.here.ls.mapped acc off.toNat len t.kind, nextId := s.here.nextId + 1 }.setWindow w
          (some (s.here.newWindow acc off ea len t)) := by
  cases acc with
  | false => rfl
  | true =>
    simp only [Core.map, Core.lsWrite_quiet hq, if_true, Store.mapped, beq_iff_eq]

theorem exec_smap_unformed (h : Clear s b (.smap p win acc d a c o)) (hcan : canonical (effAddr s.regsHere a o) = true)
    (hform : ¬ WindowForm (effAddr s.regsHere a o) (s.regsHere.getS d) (s.regsHere.getS c).toNat) :
    exec (.smap p win acc d a c o) s = .next (s.trapHere b (.smap p win acc d a c o) ⟨Cause.stashInvalid,
      if (s.regsHere.getS d).toNat % 64 = 0 then effAddr s.regsHere a o else s.regsHere.getS d, 6⟩) := by
  have hcan' : ¬ (!canonical (effAddr s.regsHere a o)) = true := by simp [hcan]
  have hbad : ((effAddr s.regsHere a o).toNat % 64 != 0 || (s.regsHere.getS d).toNat % 64 != 0 || (s.regsHere.getS c).toNat % 64 != 0
      || decide ((s.regsHere.getS c).toNat = 0) || decide (65536 < (s.regsHere.getS c).toNat)) = true := by
    simp only [Bool.or_eq_true, bne_iff_ne, decide_eq_true_iff]
    by_contra hno
    push Not at hno
    obtain ⟨⟨⟨⟨hea, hoff⟩, hlen⟩, h0⟩, hmax⟩ := hno
    exact hform ⟨hea, hoff, hlen, Nat.pos_of_ne_zero h0, hmax⟩
  have haddr : (if (s.regsHere.getS d).toNat % 64 != 0 then s.regsHere.getS d else effAddr s.regsHere a o)
      = if (s.regsHere.getS d).toNat % 64 = 0 then effAddr s.regsHere a o else s.regsHere.getS d := by
    by_cases hoff : (s.regsHere.getS d).toNat % 64 = 0 <;> simp [hoff]
  rw [← haddr]
  exact issue_trap h ((if_neg hcan').trans (if_pos hbad))

/-- What an SMAP of a range in form does: what it finds for the pages decides, and then the first subcode that applies. -/
theorem exec_smap (hcan : canonical (effAddr s.regsHere a o) = true)
    (hform : WindowForm (effAddr s.regsHere a o) (s.regsHere.getS d) (s.regsHere.getS c).toNat) :
    let i : Instr := .smap p win acc d a c o
    let ea := effAddr s.regsHere a o
    let off := s.regsHere.getS d
    let len := (s.regsHere.getS c).toNat
    ∃ own, exec i s = issue i own s
      ∧ (∀ va t, s.windowPages b acc ea len = .error (va, some t) → own (s.envHere b) s.here = trapI (s.envHere b) i s.here t)
      ∧ (∀ ts n va, s.windowPages b acc ea len = .ok ts → smapBad (s.envHere b) s.here win.toNat acc off ea len ts = some (n, va) →
        own (s.envHere b) s.here = trapC (s.envHere b) i s.here Cause.stashInvalid n va)
      ∧ (∀ t ts, s.windowPages b acc ea len = .ok (t :: ts) → smapBad (s.envHere b) s.here win.toNat acc off ea len (t :: ts) = none →
        (b.det = true → (granules off.toNat len).all (inRange (b.part s.cur.ctx)) = true) →
        (acc = false → s.here.ldfFirst s.cur.ctx none (granules off.toNat len) = false) →
        own (s.envHere b) s.here = done (s.envHere b) i (s.here.map win.toNat acc off ea len t)) := by
  obtain ⟨hea, hoff, hlen, h0, hmax⟩ := hform
  have hcan' : ¬ (!canonical (effAddr s.regsHere a o)) = true := by simp [hcan]
  have hgood : ¬ ((effAddr s.regsHere a o).toNat % 64 != 0 || (s.regsHere.getS d).toNat % 64 != 0 || (s.regsHere.getS c).toNat % 64 != 0
      || decide ((s.regsHere.getS c).toNat = 0) || decide (65536 < (s.regsHere.getS c).toNat)) = true := by
    simp [hea, hoff, hlen, Nat.ne_of_gt h0, hmax]
  intro i ea off len
  refine ⟨_, rfl, fun va t hf => ?_, fun ts n va hf hbad => ?_, fun t ts hf hbad hdet hldf => ?_⟩
  all_goals
    have hf' : lookupRange s.here ((s.envHere b).ctx s.here) (s.envHere b).b.asid (if acc then .join else .xread) 18 ea len = _ := hf
    refine (if_neg hcan').trans ((if_neg hgood).trans ?_)
    simp only [State.envHere_regs, State.here_ctx, State.ctxHere_regs, ea, off, len, i] at hf' ⊢
    simp only [hf']
  · dsimp only [ea, off, len] at hbad
    simp only [hbad]
  · dsimp only [ea, off, len] at hbad hdet hldf
    have hin : (b.det && !(granules (s.regsHere.getS d).toNat (s.regsHere.getS c).toNat).all (inRange (b.part s.cur.ctx))) = false := by
      cases hb : b.det
      · rfl
      · simp only [hdet hb, Bool.not_true, Bool.and_false]
    have hgo : (!acc && s.here.ldfFirst s.cur.ctx none (granules (s.regsHere.getS d).toNat (s.regsHere.getS c).toNat)) = false := by
      cases hacc : acc
      · simp only [hldf hacc, Bool.and_false]
      · rfl
    simp only [hbad, State.envHere_b, State.envHere_who, hin, hgo, Bool.false_eq_true, if_false]

theorem exec_smap_maps (h : Clear s b (.smap p win acc d a c o)) {own : Env → Core → Res} {off ea : Word} {len : Nat} {t : Tlb}
    (ho : own (s.envHere b) s.here = done (s.envHere b) (.smap p win acc d a c o) (s.here.map win.toNat acc off ea len t)) :
    issue (.smap p win acc d a c o) own s = .next (s.ranIn b (.smap p win acc d a c o)
      ({ s.here with ls := s.here.ls.mapped acc off.toNat len t.kind, nextId := s.here.nextId + 1 }.setWindow win.toNat
        (some (s.here.newWindow acc off ea len t))) s.regsHere) := by
  rw [Core.map_quiet h.quiet] at ho
  exact issue_store h ho h.quiet.noEcc rfl

end
end

end Sys2Proof.Machine

/-! ## A JOIN into a window (R82, R83) -/

namespace Sys2Proof.Machine
open Sys2Proof

section
variable {s : State} {b : Binding} {i : Instr}

/-- A join that passes its checks and meets a window joins there, if it has data and the window accumulates. -/
theorem joinOwn_window {kind : Kind} {wd : Width} {lv : Option Level} {ea : Word} {align n : Nat} {data : JoinData}
    {es : List (Nat × Nat)} {rec_ : Regs → List Word} {t : Tlb} {w : Nat} {k : Window} (hlv : LevelIn b lv)
    (hf : inFence (s.envHere b) s.here = false) (hr : Reaches s b .join ea align n kind wd t) (hw : globalWin s.here ea = some (w, k)) :
    joinOwn (s.envHere b) i s.here kind wd lv ea align n data es rec_
      = if !k.acc then trapC (s.envHere b) i s.here Cause.stashInvalid 9 ea
        else if data.isNone then done (s.envHere b) i s.here
        else windowJoin (s.envHere b) i s.here w k ea lv es := by
  have hd := levelIn_depthTrap (s := s) hlv
  unfold joinOwn
  split
  · next u hu => cases hd.symm.trans hu
  · rw [if_neg (by rw [hf]; exact Bool.false_ne_true)]
    simp only [flowAccess_ok hr, hw]

/-- The context's own counts of a line of a window, as an egress entry holds them, with elements joined to them (R83). -/
def Egress.addCounts (w l : Nat) (wd : Width) (es : List (Nat × Nat)) (g : Egress) : Egress :=
  match g with
  | .cntLine v m bs => if v = w ∧ m = l then .cntLine v m (joinElemsInto .cnt wd bs es) else g
  | _ => g

theorem Context.addCounts_eq (x : Context) (w l : Nat) (wd : Width) (es : List (Nat × Nat)) :
    x.addCounts w l wd es = { x with egress := x.egress.map (Egress.addCounts w l wd es) } := by
  have hmap : (x.addCounts w l wd es).egress = x.egress.map (Egress.addCounts w l wd es) := by
    refine List.map_congr_left fun g _ => ?_
    cases g with
    | cntLine v m bs => simp only [Egress.addCounts, Bool.and_eq_true, beq_iff_eq]
    | _ => rfl
  rw [← hmap]
  rfl

/-- Withholding an effect in an egress buffer that has room, where the core has changed beside the context. -/
theorem withhold_room (hq : Quiet s b) {c : Core} {g : Egress} (hc : c.ctx s.cur.ctx = s.ctxHere) (hroom : s.ctxHere.egress.length < 32) :
    withhold (s.envHere b) i c g
      = done (s.envHere b) i (c.setCtx s.cur.ctx { s.ctxHere with egress := s.ctxHere.egress ++ [g] }) := by
  rw [withhold]
  simp only [State.envHere_ctx, hc, State.envHere_b, Nat.not_le.2 hroom, if_false, State.envHere_modCtx, Context.feed_unpaired hq]

/-- An instruction that retires from a core whose context has another egress buffer. -/
theorem issue_egress (h : Clear s b i) {own : Env → Core → Res} {c : Core} {y : List Egress}
    (ho : own (s.envHere b) s.here = done (s.envHere b) i (c.setCtx s.cur.ctx { s.ctxHere with egress := y })) (he : c.NoEcc) :
    issue i own s = .next (s.ranIn b i (c.setCtx s.cur.ctx { s.ctxHere with egress := y }) s.regsHere) := by
  have hx : (c.setCtx s.cur.ctx { s.ctxHere with egress := y }).ctx s.cur.ctx = { s.ctxHere with egress := y } :=
    Core.ctx_setCtx _ _ h.quiet.lt
  rw [issue_done h ho (NoEcc.setCtx he _ _) (by rw [hx]; exact h.quiet.unsigned) (by rw [hx]), hx]
  rfl

/-! ## One element into an accumulate window -/

section
variable (w : Nat) (k : Window) (ea : Word) (v : Nat)

/-- Where an element of a window lies in local store. -/
abbrev Window.at_ : Nat := 16 * k.loc + (ea.toNat - k.va.toNat)

/-- The core once an element has been joined to the local copy of a window, whose line is dirty then (R82). -/
def Core.joined (c : Core) : Core :=
  { c with ls := c.ls.write (k.at_ ea) (natBytes (k.wd.bits / 8)
      (joinVal k.kind k.wd.bits (leNat (c.ls.read (k.at_ ea) (k.wd.bits / 8))) v)) }.setWindow w
    (some { k with busy := setIns k.busy ((ea.toNat - k.va.toNat) / 64) })

variable {w k ea v}

/-- A window begins at a line, so the element's place in its line is its place in the window's line too. -/
theorem Window.line_add (hva : k.va.toNat % 64 = 0) (hle : k.va.toNat ≤ ea.toNat) :
    16 * k.loc + (ea.toNat / 64 * 64 - k.va.toNat) + ea.toNat % 64 = k.at_ ea := by
  unfold Window.at_
  omega

/-- The window that holds an address begins at it or below. -/
theorem globalWin_le {c : Core} (h : globalWin c ea = some (w, k)) : k.va.toNat ≤ ea.toNat := by
  have := List.find?_some h
  rw [Bool.and_eq_true, decide_eq_true_iff] at this
  exact this.1

theorem Core.joined_ctx (c : Core) (n : Nat) : (c.joined w k ea v).ctx n = c.ctx n := Core.setWindow_ctx ..

theorem Core.NoEcc.joined {c : Core} (h : c.NoEcc) : (c.joined w k ea v).NoEcc := Core.NoEcc.setWindow _ _ h

variable (hva : k.va.toNat % 64 = 0) (hle : k.va.toNat ≤ ea.toNat)
include hva hle

theorem Core.localJoin_one (hq : Quiet s b) : s.here.localJoin w k ea [(ea.toNat % 64, v)] = s.here.joined w k ea v := by
  simp only [Core.localJoin, List.foldl_cons, List.foldl_nil, Window.line_add hva hle, Core.lsWrite_quiet hq, Bool.false_eq_true, if_false]
  rfl

/-- What a join of one element into an accumulate window does (R82, R83, R93). -/
theorem windowJoin_one (hq : Quiet s b) :
    let l := (ea.toNat - k.va.toNat) / 64
    let es := [(ea.toNat % 64, v)]
    let own := windowJoin (s.envHere b) i s.here w k ea none es
    let mayJoin := detLocal (s.envHere b) s.here .stf (k.at_ ea) (k.wd.bits / 8) = true
    let left (y : List Egress) := done (s.envHere b) i ((s.here.joined w k ea v).setCtx s.cur.ctx { s.ctxHere with egress := y })
    (¬ mayJoin → own = trapC (s.envHere b) i s.here Cause.nondet i.toFields.maj.toNat ea)
    ∧ (mayJoin → k.kind ≠ .cnt → own = done (s.envHere b) i (s.here.joined w k ea v))
    ∧ (mayJoin → k.kind = .cnt → (s.ctxHere.counts w l).isSome = true →
      own = left (s.ctxHere.egress.map (Egress.addCounts w l k.wd es)))
    ∧ (mayJoin → k.kind = .cnt → s.ctxHere.counts w l = none → s.ctxHere.egress.length < 32 →
      own = left (s.ctxHere.egress ++ [.cntLine w l (joinElemsInto .cnt k.wd (List.replicate 64 0) es)]))
    ∧ (mayJoin → k.kind = .cnt → s.ctxHere.counts w l = none → 32 ≤ s.ctxHere.egress.length →
      own = trapC (s.envHere b) i s.here Cause.regionOverflow 32) := by
  intro l es own mayJoin left
  have hjoin : s.here.localJoin w k ea es = s.here.joined w k ea v := Core.localJoin_one hva hle hq
  have hctx : (s.here.joined w k ea v).ctx s.cur.ctx = s.ctxHere := Core.joined_ctx ..
  have hown : own = if !detLocal (s.envHere b) s.here .stf (k.at_ ea) (k.wd.bits / 8) then
      trapC (s.envHere b) i s.here Cause.nondet i.toFields.maj.toNat ea
    else if k.kind != .cnt then done (s.envHere b) i (s.here.joined w k ea v)
    else if (s.ctxHere.counts w l).isSome then left (s.ctxHere.egress.map (Egress.addCounts w l k.wd es))
    else withhold (s.envHere b) i (if s.ctxHere.egress.length < 32 then s.here.joined w k ea v else s.here)
      (.cntLine w l (joinElemsInto .cnt k.wd (List.replicate 64 0) es)) := by
    simp only [own, windowJoin, hjoin, thenFence, State.envHere_modCtx, hctx, Context.addCounts_eq, State.envHere_ctx, State.here_ctx]
    simp only [es, List.all_cons, List.all_nil, List.any_cons, List.any_nil, Bool.and_true, Bool.or_false, Window.line_add hva hle,
      Core.eccGran_none hq.eccG, Bool.false_eq_true, if_false]
    rfl
  refine ⟨fun hno => ?_, fun hmay hk => ?_, fun hmay hk hsome => ?_, fun hmay hk hnone hroom => ?_, fun hmay hk hnone hfull => ?_⟩
  · exact hown.trans (if_pos (by rw [Bool.eq_false_of_not_eq_true hno]; rfl))
  · exact hown.trans ((if_neg (by simpa using hmay)).trans (if_pos (by simpa using hk)))
  all_goals refine hown.trans ((if_neg (by simpa using hmay)).trans ((if_neg (by simp [hk])).trans ?_))
  · exact if_pos hsome
  · refine (if_neg (by simp [hnone])).trans ?_
    rw [if_pos hroom]
    exact withhold_room hq hctx hroom
  · refine (if_neg (by simp [hnone])).trans ?_
    rw [if_neg (Nat.not_lt.2 hfull)]
    exact if_pos hfull

end

/-- A JOIN that meets a window. -/
theorem exec_join_window {p : Pred} {kind : Kind} {wd : Width} {d a : SReg} {o : Disp} {t : Tlb} {w : Nat} {k : Window}
    (hf : inFence (s.envHere b) s.here = false)
    (hr : Reaches s b .join (effAddr s.regsHere a o) (wd.bits / 8) (wd.bits / 8) kind wd t)
    (hw : globalWin s.here (effAddr s.regsHere a o) = some (w, k)) :
    ∃ own, exec (.join p kind wd none d a o) s = issue (.join p kind wd none d a o) own s ∧ own (s.envHere b) s.here =
      if !k.acc then trapC (s.envHere b) (.join p kind wd none d a o) s.here Cause.stashInvalid 9 (effAddr s.regsHere a o)
      else windowJoin (s.envHere b) (.join p kind wd none d a o) s.here w k (effAddr s.regsHere a o) none
        [((effAddr s.regsHere a o).toNat % 64, datum kind wd.bits (s.regsHere.getS d))] :=
  ⟨_, rfl, (joinOwn_window levelIn_none hf hr hw).trans (congrArg (ite _ _) (if_neg Bool.false_ne_true))⟩

end

end Sys2Proof.Machine

/-! ## SFLUSH (R82, R228) -/

namespace Sys2Proof.Machine
open Sys2Proof

/-! ## Lines of local store -/

theorem bottomLine_length (k : Kind) : (bottomLine k).length = 64 := List.length_replicate ..

theorem Store.read_congr {l m : Store} {a n : Nat} (h : ∀ j, j < n → cellRead l.bytes (a + j) = cellRead m.bytes (a + j)) :
    l.read a n = m.read a n := List.map_congr_left fun j hj => h j (List.mem_range.1 hj)

theorem Core.window_withLs (c : Core) (l : Store) (m : Nat) : ({ c with ls := l } : Core).window m = c.window m := rfl

section
variable {l : Store} {a n : Nat} {bs : List Byte} (h : Memory.wf l.bytes = true) (hn : bs.length = n)
include h hn

/-- A write leaves the bytes outside it alone. -/
theorem Store.cellRead_write_outside {y : Nat} (hy : y < a ∨ a + n ≤ y) : cellRead (l.write a bs).bytes y = cellRead l.bytes y :=
  cellRead_cellsWrite_of_outside h (hn ▸ hy)

theorem Store.read_write_self : (l.write a bs).read a n = bs := by
  subst hn
  exact cellsRead_cellsWrite_self h a bs

end

/-- Where a line of a window lies in local store. -/
abbrev Window.line (k : Window) (l : Nat) : Nat := 16 * k.loc + 64 * l

/-- An address of local store lies in none of these lines of a window. -/
abbrev Window.OffLines (k : Window) (ls : List Nat) (y : Nat) : Prop := ∀ l ∈ ls, y < k.line l ∨ k.line l + 64 ≤ y

/-- Two lines of a window have no byte in common. -/
theorem Window.offLines_of_notMem {k : Window} {ls : List Nat} {l j : Nat} (h : l ∉ ls) (hj : j < 64) : k.OffLines ls (k.line l + j) := by
  intro m hm
  have hne : l ≠ m := fun heq => h (heq ▸ hm)
  unfold Window.line
  omega

section
variable {s : State} {b : Binding} {i : Instr} {w : Nat} {k : Window}

/-- A core that differs from the one at turn in its local store and its windows alone, as far as a flush looks at it. -/
structure State.Stashed (s : State) (c : Core) : Prop where
  tlb : c.tlb = s.here.tlb
  ctx : ∀ n, c.ctx n = s.here.ctx n
  noEcc : c.NoEcc
  eccG : c.eccG = []
  killWait : c.killWait = none

theorem Quiet.stashed (h : Quiet s b) : s.Stashed s.here := ⟨rfl, fun _ => rfl, h.noEcc, h.eccG, h.killWait⟩

section
variable {c : Core} (h : s.Stashed c)
include h

theorem State.Stashed.same : s.Same c := ⟨h.noEcc, h.killWait, h.ctx _⟩

theorem State.Stashed.envHere_ctx : (s.envHere b).ctx c = s.ctxHere := h.ctx _

theorem State.Stashed.withLs (l : Store) : s.Stashed { c with ls := l } := ⟨h.tlb, h.ctx, h.noEcc, h.eccG, h.killWait⟩

theorem State.Stashed.setWindow (m : Nat) (x : Option Window) : s.Stashed (c.setWindow m x) := by
  obtain ⟨v, hv⟩ := c.setWindow_eq m x
  rw [hv]
  exact ⟨h.tlb, h.ctx, h.noEcc, h.eccG, h.killWait⟩

/-- What a flush finds for a line is found in the translations, which it leaves alone. -/
theorem State.Stashed.flowCheck {acc : Access} {ea : Word} {align n : Nat} {kind : Kind} {wd : Width} {t : Tlb}
    (hr : Reaches s b acc ea align n kind wd t) : flowCheck c s.ctxHere b.asid acc ea align n kind wd = .ok t := by
  have hl : lookup c s.ctxHere b.asid ea = lookup s.here s.ctxHere b.asid ea := by simp only [lookup, h.tlb]
  rw [← flowCheck_ok hr, Machine.flowCheck, hl, Machine.flowCheck]

/-- R93 permits the context to write the granules of a line, whatever they hold. -/
theorem State.Stashed.detLocal (a n : Nat) : detLocal (s.envHere b) c .stf a n = detLocal (s.envHere b) s.here .stf a n := by
  have hgran : detGranule b c s.cur.ctx .stf = detGranule b s.here s.cur.ctx .stf := by
    funext g
    simp only [detGranule, Core.helpersIdle, h.ctx, beq_false_of_ne (show LocalAcc.stf ≠ .load by decide),
      beq_false_of_ne (show LocalAcc.stf ≠ .store by decide), Bool.false_and]
  simp only [Machine.detLocal, State.envHere_b, State.envHere_who, hgran]

/-- Cleaning a line writes bottom into it and takes it off the dirty ones. -/
theorem State.Stashed.cleanLine (hk : c.window w = some k) (l : Nat) : c.cleanLine w l
    = { c with ls := c.ls.write (k.line l) (bottomLine k.kind) }.setWindow w (some { k with busy := setDel k.busy l }) := by
  have hwrite : c.lsWrite false (k.line l) (bottomLine k.kind) = { c with ls := c.ls.write (k.line l) (bottomLine k.kind) } := by
    simp only [Core.lsWrite, h.noEcc.1, h.eccG, List.isEmpty_nil, if_true, Bool.false_eq_true, if_false]
  rw [← hwrite, Core.cleanLine, hk]

end

/-- The joins of some dirty lines of a window, with the values that a local store has in them. -/
def Window.lineJoins (k : Window) (ts : Nat → Tlb) (l0 : Store) (ls : List Nat) : List JoinOut :=
  ls.map (fun l => windowLine k l (ts l) (l0.read (k.line l) 64))

theorem Window.lineJoins_congr {ts : Nat → Tlb} {l0 l1 : Store} {ls : List Nat}
    (h : ∀ l ∈ ls, l0.read (k.line l) 64 = l1.read (k.line l) 64) : k.lineJoins ts l0 ls = k.lineJoins ts l1 ls :=
  List.map_congr_left fun l hl => by rw [h l hl]

/-- Posting joins, one after the other. -/
def State.postJoins (s : State) (b : Binding) (js : List JoinOut) (u : State) : State := js.foldl (fun u j => u.postJoin s.cur b j) u

/-- What lets a flush post the joins of these lines at once: their checks pass, and there is room for them (R65, R93). -/
structure Flushable (s : State) (b : Binding) (k : Window) (ts : Nat → Tlb) (ls : List Nat) (sent : Nat) : Prop where
  nodup : ls.Nodup
  reaches : ∀ l ∈ ls, Reaches s b .join (k.lineVa l) 64 64 k.kind k.wd (ts l)
  mayWrite : ∀ l ∈ ls, detLocal (s.envHere b) s.here .stf (k.line l) 64 = true
  room : s.ctxHere.out.length + s.ctxHere.hold.length + sent + ls.length ≤ 1024
  storeRoom : (s.envHere b).storeFull = false

theorem Flushable.tail {ts : Nat → Tlb} {l sent : Nat} {ls : List Nat} (h : Flushable s b k ts (l :: ls) sent) :
    Flushable s b k ts ls (sent + 1) where
  nodup := h.nodup.of_cons
  reaches m hm := h.reaches m (List.mem_cons_of_mem _ hm)
  mayWrite m hm := h.mayWrite m (List.mem_cons_of_mem _ hm)
  room := by have := h.room; rw [List.length_cons] at this; omega
  storeRoom := h.storeRoom

/-- A dirty line that can go is posted and cleaned, and the flush goes on. -/
theorem flushLines_cons (hq : Quiet s b) {ts : Nat → Tlb} {l n sent : Nat} {ls : List Nat} {c : Core} (hc : s.Stashed c)
    (h : Flushable s b k ts (l :: ls) sent) (hk : c.window w = some { k with busy := l :: ls }) :
    flushLines (s.envHere b) i w (n + 1) sent c
      = ⟨(flushLines (s.envHere b) i w n (sent + 1) (c.cleanLine w l)).core, fun u =>
          (flushLines (s.envHere b) i w n (sent + 1) (c.cleanLine w l)).post
            (u.postJoin s.cur b (windowLine k l (ts l) (c.ls.read (k.line l) 64)))⟩ := by
  have hflow : flowCheck c s.ctxHere b.asid .join (Window.lineVa { k with busy := l :: ls } l) 64 64 k.kind k.wd = .ok (ts l) :=
    hc.flowCheck (h.reaches l List.mem_cons_self)
  have hdet : detLocal (s.envHere b) c .stf (16 * k.loc + 64 * l) 64 = true :=
    (hc.detLocal _ _).trans (h.mayWrite l List.mem_cons_self)
  have hroom := h.room
  rw [List.length_cons] at hroom
  have hlimit (line : Nat) : postLimit (s.envHere b) c line sent = false := by
    have hfew : ¬ 1024 ≤ s.ctxHere.out.length + s.ctxHere.hold.length + sent := by omega
    simp only [postLimit, hc.envHere_ctx, h.storeRoom, Bool.false_and, Bool.or_false, decide_eq_false hfew]
  rw [flushLines]
  simp only [hk, hc.envHere_ctx, State.envHere_b, State.envHere_who, hflow, hdet, hq.unpaired, hlimit, Core.eccGran_none hc.eccG,
    Bool.not_true, Bool.false_eq_true, if_false]
  rfl

/-- What a flush of these lines leaves of the core (R82): they are clean and hold bottom, and the other windows and bytes are as they were. -/
structure Flushed (w : Nat) (k : Window) (ls : List Nat) (c C : Core) : Prop where
  window : C.window w = some { k with busy := [] }
  others : ∀ m, m ≠ w → C.window m = c.window m
  bytes : ∀ y, k.OffLines ls y → cellRead C.ls.bytes y = cellRead c.ls.bytes y
  lines : ∀ l ∈ ls, C.ls.read (k.line l) 64 = bottomLine k.kind

/-- Where bottom has been written into a line that is not among those of the flush. -/
theorem Flushed.cons {l : Nat} {ls : List Nat} {c c1 C : Core} (hwf : Memory.wf c.ls.bytes = true) (hnot : l ∉ ls)
    (hls : c1.ls = c.ls.write (k.line l) (bottomLine k.kind)) (hoth : ∀ m, m ≠ w → c1.window m = c.window m)
    (h : Flushed w k ls c1 C) : Flushed w k (l :: ls) c C where
  window := h.window
  others m hm := (h.others m hm).trans (hoth m hm)
  bytes y hy := by
    rw [h.bytes y (fun m hm => hy m (List.mem_cons_of_mem _ hm)), hls]
    exact Store.cellRead_write_outside hwf (bottomLine_length _) (hy l List.mem_cons_self)
  lines m hm := by
    rcases List.mem_cons.1 hm with rfl | hm
    · have hself : c1.ls.read (k.line m) 64 = bottomLine k.kind := by
        rw [hls, Store.read_write_self hwf (bottomLine_length _)]
      exact (Store.read_congr fun j hj => h.bytes _ (Window.offLines_of_notMem hnot hj)).trans hself
    · exact h.lines m hm

/-- The other lines read as before once bottom has been written into one. -/
theorem Window.lineJoins_write {ts : Nat → Tlb} {l : Nat} {ls : List Nat} {l0 : Store} (hwf : Memory.wf l0.bytes = true) (hnot : l ∉ ls) :
    k.lineJoins ts (l0.write (k.line l) (bottomLine k.kind)) ls = k.lineJoins ts l0 ls := by
  refine Window.lineJoins_congr fun m hm => Store.read_congr fun j hj => ?_
  have hne : m ∉ [l] := fun hml => hnot (List.mem_singleton.1 hml ▸ hm)
  exact Store.cellRead_write_outside hwf (bottomLine_length _) (Window.offLines_of_notMem hne hj l List.mem_cons_self)

theorem setDel_head {l : Nat} {ls : List Nat} (h : l ∉ ls) : setDel (l :: ls) l = ls := by
  have hkeep : ∀ m ∈ ls, (m != l) = true := fun m hm => bne_iff_ne.2 fun heq => h (heq ▸ hm)
  rw [setDel, List.filter_cons_of_neg (by simp), List.filter_eq_self.2 hkeep]

/-- The flush of a window's dirty lines posts their joins and leaves them clean (R82). -/
theorem flushLines_all (hq : Quiet s b) {ts : Nat → Tlb} {ls : List Nat} : ∀ {n sent : Nat} {c : Core}, s.Stashed c →
    Flushable s b k ts ls sent → c.window w = some { k with busy := ls } → Memory.wf c.ls.bytes = true → ls.length < n →
    ∃ C, flushLines (s.envHere b) i w n sent c = ⟨retire (s.envHere b) i C, s.postJoins b (k.lineJoins ts c.ls ls)⟩
      ∧ s.Stashed C ∧ Flushed w k ls c C := by
  induction ls with
  | nil =>
    intro n sent c hc _ hk _ hn
    obtain ⟨n, rfl⟩ := Nat.exists_eq_succ_of_ne_zero (Nat.ne_of_gt hn)
    refine ⟨c, ?_, hc, hk, fun _ _ => rfl, fun _ _ => rfl, fun _ hl => absurd hl List.not_mem_nil⟩
    rw [flushLines, hk]
    rfl
  | cons l ls ih =>
    intro n sent c hc h hk hwf hn
    obtain ⟨n, rfl⟩ := Nat.exists_eq_succ_of_ne_zero (Nat.ne_of_gt (Nat.lt_of_le_of_lt (Nat.zero_le _) hn))
    have hnot : l ∉ ls := (List.nodup_cons.1 h.nodup).1
    obtain ⟨c1, hc1⟩ : ∃ c1, c1 = c.cleanLine w l := ⟨_, rfl⟩
    have hclean := hc1.trans (hc.cleanLine hk l)
    have hst : s.Stashed c1 := by rw [hclean]; exact (hc.withLs _).setWindow _ _
    have hls : c1.ls = c.ls.write (k.line l) (bottomLine k.kind) := by rw [hclean]; exact Core.setWindow_ls ..
    have hwin : c1.window w = some { k with busy := ls } := by
      rw [hclean, Core.window_setWindow _ _ (Core.lt_of_window hk), setDel_head hnot]
    have hoth : ∀ m, m ≠ w → c1.window m = c.window m := fun m hm => by
      rw [hclean, Core.window_setWindow_ne _ _ hm, Core.window_withLs]
    obtain ⟨C, heq, hC, hfl⟩ := ih hst h.tail hwin (by rw [hls]; exact Store.write_wf hwf _ _) (Nat.lt_of_succ_lt_succ hn)
    refine ⟨C, ?_, hC, .cons hwf hnot hls hoth hfl⟩
    rw [flushLines_cons hq hc h hk, ← hc1, heq, hls, Window.lineJoins_write hwf hnot]
    rfl

/-! ## SFLUSH and SDROP at the window they name -/

variable {p : Pred} {win : BitVec 3}

theorem exec_sflush_none (h : Clear s b (.sflush p win)) (hk : s.here.window win.toNat = none) :
    exec (.sflush p win) s = .next (s.trapHere b (.sflush p win) ⟨Cause.stashInvalid, 0, 7⟩) := by
  show execSflush p win s = _
  unfold execSflush
  refine issue_trap h ?_
  simp only [hk]
  rfl

theorem exec_sflush_same (h : Clear s b (.sflush p win)) (hk : s.here.window win.toNat = some k) (hno : k.acc = false ∨ k.kind = .cnt) :
    exec (.sflush p win) s = .next (s.ran b (.sflush p win) s.regsHere) := by
  show execSflush p win s = _
  unfold execSflush
  refine issue_same h ?_
  simp only [hk]
  exact if_pos (by rcases hno with hno | hno <;> simp [hno])

theorem exec_sflush (h : Clear s b (.sflush p win)) {ts : Nat → Tlb} (hk : s.here.window win.toNat = some k) (hacc : k.acc = true)
    (hcnt : k.kind ≠ .cnt) (hwf : Memory.wf s.here.ls.bytes = true) (hf : Flushable s b k ts k.busy 0) :
    ∃ C, exec (.sflush p win) s
        = .next (s.postJoins b (k.lineJoins ts s.here.ls k.busy) (s.ranIn b (.sflush p win) C s.regsHere))
      ∧ s.Stashed C ∧ Flushed win.toNat k k.busy s.here C := by
  have hq := h.quiet
  obtain ⟨C, heq, hC, hfl⟩ := flushLines_all (i := .sflush p win) hq hq.stashed hf hk hwf (Nat.lt_succ_self _)
  refine ⟨C, ?_, hC, hfl⟩
  have hgo : ¬ (!k.acc || k.kind == .cnt) = true := by simp [hacc, hcnt]
  have hran : s.ranIn b (.sflush p win) C s.regsHere = s.put (retire (s.envHere b) (.sflush p win) C) := by
    rw [retire_same hq hC.same, State.ranIn, hC.ctx]
    rfl
  show execSflush p win s = _
  unfold execSflush
  rw [issue_clear h]
  simp only [hk, if_neg hgo, heq, hran]

end

end Sys2Proof.Machine

/-! ## SDROP (R84, R228) -/

namespace Sys2Proof.Machine
open Sys2Proof

/-- Whether an entry is none of the counts of a window. -/
def Egress.outside (w : Nat) (g : Egress) : Bool :=
  match g with
  | .cntLine v .. => v != w
  | _ => true

/-- A context without the counts that it holds of a window. -/
def Context.withoutCounts (x : Context) (w : Nat) : Context := { x with egress := x.egress.filter (Egress.outside w) }

/-- A core some of whose contexts have dropped their counts of a window. -/
def Core.forgetCounts (c : Core) (w : Nat) (ns : List Nat) : Core := ns.foldl (fun c n => c.modCtx n (·.withoutCounts w)) c

theorem Core.forgetCounts_cons (c : Core) (w n : Nat) (ns : List Nat) :
    c.forgetCounts w (n :: ns) = (c.setCtx n ((c.ctx n).withoutCounts w)).forgetCounts w ns := rfl

theorem Core.NoEcc.forgetCounts {w : Nat} {ns : List Nat} : ∀ {c : Core}, c.NoEcc → (c.forgetCounts w ns).NoEcc := by
  induction ns with
  | nil => exact id
  | cons n ns ih => exact fun h => ih (NoEcc.setCtx h n _)

theorem Core.forgetCounts_ls (w : Nat) (ns : List Nat) : ∀ c : Core, (c.forgetCounts w ns).ls = c.ls := by
  induction ns with
  | nil => exact fun _ => rfl
  | cons n ns ih => exact fun c => by rw [Core.forgetCounts_cons, ih, Core.setCtx_ls]

theorem Core.window_setCtx (c : Core) (n : Nat) (x : Context) (m : Nat) : (c.setCtx n x).window m = c.window m := by
  simp only [Core.window, Core.setCtx_stash]

theorem Core.forgetCounts_window (w : Nat) (ns : List Nat) (m : Nat) : ∀ c : Core, (c.forgetCounts w ns).window m = c.window m := by
  induction ns with
  | nil => exact fun _ => rfl
  | cons n ns ih => exact fun c => by rw [Core.forgetCounts_cons, ih, Core.window_setCtx]

theorem Core.forgetCounts_ctx_of_notMem {w : Nat} {ns : List Nat} {m : Nat} (hm : m ∉ ns) : ∀ c : Core, (c.forgetCounts w ns).ctx m = c.ctx m := by
  induction ns with
  | nil => exact fun _ => rfl
  | cons n ns ih =>
    rw [List.mem_cons, not_or] at hm
    exact fun c => by rw [Core.forgetCounts_cons, ih hm.2, Core.ctx_setCtx_ne _ _ hm.1]

theorem Core.forgetCounts_ctx {w : Nat} {ns : List Nat} {m : Nat} (hns : ns.Nodup) (hlt : m < 11) (hm : m ∈ ns) :
    ∀ c : Core, (c.forgetCounts w ns).ctx m = (c.ctx m).withoutCounts w := by
  induction ns with
  | nil => exact absurd hm List.not_mem_nil
  | cons n ns ih =>
    intro c
    obtain ⟨hn, hns⟩ := List.nodup_cons.1 hns
    rw [Core.forgetCounts_cons]
    rcases List.mem_cons.1 hm with rfl | hmem
    · rw [Core.forgetCounts_ctx_of_notMem hn, Core.ctx_setCtx _ _ hlt]
    · rw [ih hns hmem, Core.ctx_setCtx_ne _ _ fun h : m = n => hn (h ▸ hmem)]

section
variable {s : State} {b : Binding} {p : Pred} {win : BitVec 3} {k : Window}

theorem exec_sdrop_none (h : Clear s b (.sdrop p win)) (hk : s.here.window win.toNat = none) :
    exec (.sdrop p win) s = .next (s.trapHere b (.sdrop p win) ⟨Cause.stashInvalid, 0, 7⟩) := by
  show execSdrop p win s = _
  unfold execSdrop
  refine issue_trap h ?_
  simp only [hk]
  rfl

/-- The core at turn with a window unmapped and its counts dropped. -/
def State.unmapped (s : State) (w : Nat) : Core := (s.here.forgetCounts w (List.range 11)).setWindow w none

theorem State.unmapped_ctx {n : Nat} (hn : n < 11) (w : Nat) : (s.unmapped w).ctx n = (s.here.ctx n).withoutCounts w := by
  rw [State.unmapped, Core.setWindow_ctx, Core.forgetCounts_ctx List.nodup_range hn (List.mem_range.2 hn)]

/-- An entry is kept or not as the model's own test has it. -/
theorem Core.forgetCounts_eq (c : Core) (w : Nat) {keep : Egress → Bool} (hkeep : ∀ g, keep g = Egress.outside w g) (ns : List Nat) :
    ns.foldl (fun c n => c.modCtx n (fun x => { x with egress := x.egress.filter keep })) c = c.forgetCounts w ns := by
  rw [funext hkeep]
  rfl

theorem exec_sdrop (h : Clear s b (.sdrop p win)) (hk : s.here.window win.toNat = some k) :
    exec (.sdrop p win) s = .next (s.ranIn b (.sdrop p win) (s.unmapped win.toNat) s.regsHere) := by
  have hq := h.quiet
  have hctx : (s.unmapped win.toNat).ctx s.cur.ctx = s.ctxHere.withoutCounts win.toNat := State.unmapped_ctx hq.lt _
  have hown : exec (.sdrop p win) s = .next (s.ranIn b (.sdrop p win) (s.unmapped win.toNat)
      ((s.unmapped win.toNat).ctx s.cur.ctx).regs) := by
    show execSdrop p win s = _
    unfold execSdrop
    refine issue_done h ?_ (hq.noEcc.forgetCounts.setWindow _ _) (by rw [hctx]; exact hq.unsigned) (by rw [hctx]; rfl)
    simp only [hk]
    refine congrArg (fun c : Core => done (s.envHere b) (.sdrop p win) (c.setWindow win.toNat none)) (Core.forgetCounts_eq _ _ (fun g => ?_) _)
    cases g <;> rfl
  rw [hown, hctx]
  rfl

/-- The context of a number below 11 after the SDROP has retired: its egress buffer has lost the window's counts alone. -/
theorem State.egress_unmapped (hq : Quiet s b) (i : Instr) (w : Nat) {n : Nat} (hn : n < 11) :
    ((s.ranIn b i (s.unmapped w) s.regsHere).here.ctx n).egress = (s.here.ctx n).egress.filter (Egress.outside w) := by
  rw [State.ranIn, State.here_put hq.bound]
  by_cases hcur : n = s.cur.ctx
  · rw [hcur, Core.ctx_setCtx _ _ hq.lt, State.unmapped_ctx hq.lt]
    rfl
  · rw [Core.ctx_setCtx_ne _ _ hcur, State.unmapped_ctx hn]
    rfl

/-- What an SDROP leaves: the window is unmapped, and the other windows, the local store, the registers and the messages are as they were. -/
theorem State.ranIn_unmapped (hq : Quiet s b) (i : Instr) (hk : s.here.window win.toNat = some k) :
    let u := s.ranIn b i (s.unmapped win.toNat) s.regsHere
    u.here.window win.toNat = none ∧ u.here.ls = s.here.ls ∧ u.regsHere = s.regsHere
      ∧ (∀ w, w ≠ win.toNat → u.here.window w = s.here.window w) ∧ u.ctxHere.pc = s.succHere b i ∧ u.net = s.net := by
  intro u
  have hhere : u.here = (s.unmapped win.toNat).setCtx s.cur.ctx (((s.unmapped win.toNat).ctx s.cur.ctx).ran s.regsHere (s.succHere b i)) :=
    State.here_put hq.bound _
  have hctx : u.ctxHere = ((s.unmapped win.toNat).ctx s.cur.ctx).ran s.regsHere (s.succHere b i) :=
    (State.ctxHere_put hq _).trans (Core.ctx_setCtx _ _ hq.lt)
  refine ⟨?_, ?_, ?_, fun w hw => ?_, ?_, State.put_net ..⟩
  · rw [hhere, Core.window_setCtx]
    exact Core.window_setWindow _ _ (Core.lt_of_window hk)
  · rw [hhere, Core.setCtx_ls, State.unmapped, Core.setWindow_ls, Core.forgetCounts_ls]
  · rw [State.regsHere, hctx]
    rfl
  · rw [hhere, Core.window_setCtx, State.unmapped, Core.window_setWindow_ne _ _ hw, Core.forgetCounts_window]
  · rw [hctx]
    rfl

end

/-! ## Windows come and go -/

/-- Settles O21: SMAP by its form, its pages and the first subcode that applies; a JOIN by the window that holds its address; SFLUSH and SDROP
by the window they name. -/
theorem stashWindows : Obligations.StashWindows := by
  unfold Obligations.StashWindows
  refine ⟨?_, ?_, ?_, ?_⟩
  · intro s b p win acc d a c o i ea off len formed found h hcan
    refine ⟨fun t ts hform hf hbad hdet hldf => ?_, fun ts n va hform hf hbad => ?_, fun va t hform hf => ?_,
      fun hno => exec_smap_unformed h hcan hno⟩
    all_goals obtain ⟨own, he, htrap, hsub, hmap⟩ := exec_smap (b := b) (p := p) (win := win) (acc := acc) hcan hform
    · exact he.trans (exec_smap_maps h (hmap t ts hf hbad hdet hldf))
    · exact he.trans (issue_trap h (hsub ts n va hf hbad))
    · exact he.trans (issue_trap h (htrap va t hf))
  · intro s b p kind wd d a o t w k i ea at_ l n h hf hr hw
    obtain ⟨own, he, ho⟩ := exec_join_window (p := p) (d := d) hf hr hw
    refine ⟨fun hacc => ?_, fun hacc hkind hwd hva hwin => ?_⟩
    · exact he.trans (issue_trap h (ho.trans (if_pos (by rw [hacc]; rfl))))
    · subst hkind hwd
      have hown := ho.trans (if_neg (by rw [hacc]; exact Bool.false_ne_true))
      obtain ⟨hdet, hjoin, hadd, hnew, hfull⟩ := windowJoin_one (i := i) (w := w) (v := datum k.kind k.wd.bits (s.regsHere.getS d)) hva
        (globalWin_le hw) h.quiet
      have hecc : (s.here.joined w k ea (datum k.kind k.wd.bits (s.regsHere.getS d))).NoEcc := h.quiet.noEcc.joined
      refine ⟨fun hno => ?_, fun hmay hk => ?_, fun hmay hk hsome => ?_, fun hmay hk hnone hroom => ?_, fun hmay hk hnone hlen => ?_⟩
      · refine he.trans (issue_trap h ((hown.trans (hdet hno)).trans ?_))
        rw [← BitVec.ofNat_toNat]
        rfl
      · exact he.trans (issue_store h (hown.trans (hjoin hmay hk)) h.quiet.noEcc rfl)
      · exact he.trans (issue_egress h (hown.trans (hadd hmay hk hsome)) hecc)
      · exact he.trans (issue_egress h (hown.trans (hnew hmay hk hnone hroom)) hecc)
      · exact he.trans (issue_trap h (hown.trans (hfull hmay hk hnone hlen)))
  · intro s b p win k hk i
    refine ⟨fun h hno => exec_sflush_same h hk hno, fun ts h hacc hcnt hnodup hwf hlines hroom hstore => ?_⟩
    obtain ⟨C, he, hC, hfl⟩ := exec_sflush h hk hacc hcnt hwf ⟨hnodup, fun l hl => (hlines l hl).1, fun l hl => (hlines l hl).2, hroom, hstore⟩
    exact ⟨C, he, hC.ctx _, hfl.window, hfl.others, hfl.bytes, hfl.lines⟩
  · intro s b p win
    refine ⟨fun hk => ⟨fun h => exec_sflush_none h hk, fun h => exec_sdrop_none h hk⟩, fun k hk h => ?_⟩
    obtain ⟨hwin, hls, hregs, hoth, hpc, hnet⟩ := State.ranIn_unmapped h.quiet (.sdrop p win) hk
    refine ⟨_, exec_sdrop h hk, hwin, hls, hregs, hoth, hpc, hnet, fun n hn => ?_⟩
    rw [State.egress_unmapped h.quiet _ _ hn]
    refine List.filter_congr fun g _ => ?_
    cases g <;> rfl

end Sys2Proof.Machine

/-! # A write of local store (O13) -/

namespace Sys2Proof.Machine
open Sys2Proof

/-- Removing several numbers from a list keeps those of the list that are not among them. -/
theorem mem_foldl_setDel {gs l : List Nat} {g : Nat} : g ∈ gs.foldl setDel l ↔ g ∈ l ∧ g ∉ gs := by
  induction gs generalizing l with
  | nil => simp
  | cons x gs ih =>
    rw [List.foldl_cons, ih, List.mem_cons, not_or, setDel, List.mem_filter, bne_iff_ne, and_assoc]

/-- The granules that a range covers whole are those that lie inside it. -/
theorem mem_wholeGranules {a n g : Nat} : g ∈ wholeGranules a n ↔ a ≤ 16 * g ∧ 16 * g + 16 ≤ a + n := by
  unfold wholeGranules granules span
  rw [List.mem_filter, Bool.and_eq_true, decide_eq_true_eq, decide_eq_true_eq]
  refine and_iff_right_of_imp fun ⟨hlo, hhi⟩ => ?_
  rw [if_neg (by omega), List.mem_map]
  exact ⟨g - a / 16, List.mem_range.2 (by omega), by omega⟩

/-- A poison mark goes only from a granule that the write covers (R367). -/
theorem Store.isPoison_write {l : Store} {a g : Nat} {bs : List Byte} :
    (l.write a bs).isPoison g = true ↔ l.isPoison g = true ∧ ¬ (a ≤ 16 * g ∧ 16 * g + 16 ≤ a + bs.length) := by
  simp only [Store.isPoison, Store.write, List.contains_iff_mem, mem_foldl_setDel, mem_wholeGranules]

/-- Settles O13: the bytes as of any memory in canonical form, the poison marks by the granules that the write covers. -/
theorem localStoreWrite : Obligations.LocalStoreWrite := by
  unfold Obligations.LocalStoreWrite
  exact fun l a bs x g h => ⟨fun _ hk => cellRead_cellsWrite_of_inside h a hk, cellRead_cellsWrite_of_outside h, rfl, Store.isPoison_write⟩

end Sys2Proof.Machine

/-! # Operand slots and accumulators (O29) -/

namespace Sys2Proof.Machine
open Sys2Proof

section
variable {s : State} {b : Binding} {p : Pred} {o : OReg} {a : SReg} {acc : Bool}

/-! ## MCLAIM, MREL, MBAND (R96, R264, R266) -/

/-- A context's own slot is not free and names it as its owner (R96). -/
theorem ownsSlot_iff {c : Core} {n : Nat} : ownsSlot c n o = true ↔ (c.slot o.toNat).isFree = false ∧ (c.slot o.toNat).owner = n := by
  simp [ownsSlot]

theorem ownsSlot_eq_false {c : Core} {n : Nat} (h : ¬ ((c.slot o.toNat).isFree = false ∧ (c.slot o.toNat).owner = n)) :
    ownsSlot c n o = false := Bool.eq_false_iff.2 fun ho => h (ownsSlot_iff.1 ho)

theorem Core.setSlot_ctx (c : Core) (q : Nat) (x : Slot) (n : Nat) : (c.setSlot q x).ctx n = c.ctx n := by
  unfold Core.setSlot; split <;> rfl

theorem Core.setSlot_ls (c : Core) (q : Nat) (x : Slot) : (c.setSlot q x).ls = c.ls := by
  unfold Core.setSlot; split <;> rfl

theorem Core.NoEcc.setSlot {c : Core} (h : c.NoEcc) (q : Nat) (x : Slot) : (c.setSlot q x).NoEcc := by
  unfold Core.setSlot
  split
  · exact h
  · exact h

/-- The slot that an MCLAIM has claimed (R96). -/
def State.claimedSlot (s : State) (o : OReg) : Slot :=
  { s.here.slot o.toNat with
    st := .claimed, owner := s.cur.ctx, fmt := none, band := 0x3F80, release := false, gen := s.here.nextId + 1 }

/-- The core with that slot. -/
def State.claimed (s : State) (o : OReg) : Core := { s.here with nextId := s.here.nextId + 1 }.setSlot o.toNat (s.claimedSlot o)

theorem exec_mclaim_free (h : Clear s b (.mclaim p o)) (hfree : (s.here.slot o.toNat).isFree = true)
    (hy : claimYields (s.envHere b) s.here o = false) :
    exec (.mclaim p o) s = .next (s.ranIn b (.mclaim p o) (s.claimed o) s.regsHere) := by
  have hq := h.quiet
  have hown : ownsSlot s.here s.cur.ctx o = false := ownsSlot_eq_false (by simp [hfree])
  have hctx : (s.claimed o).ctx s.cur.ctx = s.ctxHere := Core.setSlot_ctx ..
  have hecc : (s.claimed o).NoEcc := Core.NoEcc.setSlot (c := { s.here with nextId := s.here.nextId + 1 }) hq.noEcc _ _
  show execMclaim p o s = _
  unfold execMclaim
  rw [issue_done h (c := s.claimed o) ?own hecc (by rw [hctx, hq.unsigned]) (by rw [hctx]), hctx]
  · rfl
  · simp only [State.envHere_who, hown, hfree, hy, Bool.not_false, Bool.and_self, Bool.false_eq_true, if_false, if_true]
    rfl

theorem exec_mclaim_own (h : Clear s b (.mclaim p o))
    (hown : (s.here.slot o.toNat).isFree = false ∧ (s.here.slot o.toNat).owner = s.cur.ctx) :
    exec (.mclaim p o) s = .next (s.ran b (.mclaim p o) s.regsHere) := by
  show execMclaim p o s = _
  unfold execMclaim
  refine issue_same h ?_
  simp only [State.envHere_who, ownsSlot_iff.2 hown, if_true]

theorem exec_mclaim_parks (h : Clear s b (.mclaim p o))
    (hown : ¬ ((s.here.slot o.toNat).isFree = false ∧ (s.here.slot o.toNat).owner = s.cur.ctx))
    (hy : (s.here.slot o.toNat).isFree = false ∨ claimYields (s.envHere b) s.here o = true) :
    exec (.mclaim p o) s = .next (s.put (s.here.waitsAt s.cur.ctx (.mclaim p o) 7 true true 0 0)) := by
  have hno : ((s.here.slot o.toNat).isFree && !claimYields (s.envHere b) s.here o) = false := by
    rcases hy with hy | hy <;> simp [hy]
  show execMclaim p o s = _
  unfold execMclaim
  refine issue_wait h ?_
  simp only [State.envHere_who, ownsSlot_eq_false hown, hno, Bool.false_eq_true, if_false]

/-- A claim leaves the other slots, the registers and local store, and the context goes on (R264). -/
theorem State.ranIn_claimed (hq : Quiet s b) (i : Instr) :
    let u := s.ranIn b i (s.claimed o) s.regsHere
    u.here.slot o.toNat = s.claimedSlot o ∧ (∀ q, q ≠ o.toNat → u.here.slot q = s.here.slot q) ∧ u.regsHere = s.regsHere
      ∧ u.here.ls = s.here.ls ∧ u.ctxHere.pc = s.succHere b i ∧ u.ctxHere.st = .ready := by
  intro u
  have hu : u.here = (s.claimed o).setCtx s.cur.ctx (((s.claimed o).ctx s.cur.ctx).ran s.regsHere (s.succHere b i)) :=
    State.here_put hq.bound _
  have hslot (q : Nat) : u.here.slot q = (s.claimed o).slot q := by
    rw [hu]
    exact Core.slot_congr (Core.setCtx_slots ..) q
  have hx : u.ctxHere = ((s.claimed o).ctx s.cur.ctx).ran s.regsHere (s.succHere b i) :=
    (State.ctxHere_put hq _).trans (Core.ctx_setCtx _ _ hq.lt)
  refine ⟨?_, fun q hne => ?_, ?_, ?_, ?_, ?_⟩
  · rw [hslot, State.claimed, Core.slot_setSlot _ _ o.isLt]
  · rw [hslot, State.claimed, Core.slot_setSlot_ne _ _ hne]
    rfl
  · rw [State.regsHere, hx]; rfl
  · rw [hu, Core.setCtx_ls, State.claimed, Core.setSlot_ls]
  · rw [hx]; rfl
  · rw [hx]; rfl

theorem exec_mrel_own (h : Clear s b (.mrel p o))
    (hown : (s.here.slot o.toNat).isFree = false ∧ (s.here.slot o.toNat).owner = s.cur.ctx) :
    exec (.mrel p o) s = .next (s.ranIn b (.mrel p o) (s.here.releaseSlot o.toNat) s.regsHere) := by
  have hq := h.quiet
  obtain ⟨v, hv⟩ := Core.releaseSlot_eq s.here o.toNat
  show execMrel p o s = _
  unfold execMrel
  rw [hv]
  refine issue_done h (c := { s.here with slots := v }) ?_ hq.noEcc hq.unsigned rfl
  simp only [State.envHere_who, ownsSlot_iff.2 hown, if_true, hv]

theorem exec_mrel_trap (h : Clear s b (.mrel p o))
    (hown : ¬ ((s.here.slot o.toNat).isFree = false ∧ (s.here.slot o.toNat).owner = s.cur.ctx)) :
    exec (.mrel p o) s = .next (s.trapHere b (.mrel p o) (slotTrap o)) := by
  show execMrel p o s = _
  unfold execMrel
  refine issue_trap h ?_
  simp only [State.envHere_who, ownsSlot_eq_false hown, Bool.false_eq_true, if_false]

theorem exec_mband_own (h : Clear s b (.mband p o a))
    (hown : (s.here.slot o.toNat).isFree = false ∧ (s.here.slot o.toNat).owner = s.cur.ctx) :
    exec (.mband p o a) s = .next (s.ranIn b (.mband p o a)
      (s.here.setSlot o.toNat { s.here.slot o.toNat with band := (s.regsHere.getS a).setWidth 16 }) s.regsHere) := by
  have hq := h.quiet
  obtain ⟨v, hv⟩ := Core.setSlot_eq s.here o.toNat { s.here.slot o.toNat with band := (s.regsHere.getS a).setWidth 16 }
  show execMband p o a s = _
  unfold execMband
  rw [hv]
  refine issue_done h (c := { s.here with slots := v }) ?_ hq.noEcc hq.unsigned rfl
  simp only [State.envHere_who, State.envHere_regs, State.here_ctx, State.ctxHere_regs, ownsSlot_iff.2 hown, Bool.not_true,
    Bool.false_eq_true, if_false, hv]

theorem exec_mband_trap (h : Clear s b (.mband p o a))
    (hown : ¬ ((s.here.slot o.toNat).isFree = false ∧ (s.here.slot o.toNat).owner = s.cur.ctx)) :
    exec (.mband p o a) s = .next (s.trapHere b (.mband p o a) (slotTrap o)) := by
  show execMband p o a s = _
  unfold execMband
  refine issue_trap h ?_
  simp only [State.envHere_who, ownsSlot_eq_false hown, Bool.not_false, if_true]

/-! ## MSWAP (R99, R270) -/

/-- The queued commands that an MSWAP of an accumulator issued now waits for (R99). -/
def Core.bankUsers (c : Core) (acc : Bool) : List Nat := (c.mx.filter (·.usesBank acc)).map (·.id)

/-- The core with that MSWAP issued. -/
def State.swapIssued (s : State) (acc : Bool) : Core :=
  s.here.setAcc acc { s.here.acc acc with swap := [(s.cur.ctx, s.here.bankUsers acc)] }

theorem Core.setAcc_setAcc (c : Core) (acc : Bool) (x y : Acc) : (c.setAcc acc x).setAcc acc y = c.setAcc acc y := by
  cases acc <;> rfl

theorem Core.setAcc_mx (c : Core) (acc : Bool) (x : Acc) : (c.setAcc acc x).mx = c.mx := by cases acc <;> rfl

theorem Core.NoEcc.setAcc {c : Core} (h : c.NoEcc) (acc : Bool) (x : Acc) : (c.setAcc acc x).NoEcc := by cases acc <;> exact h

theorem exec_mswap_trap (h : Clear s b (.mswap p acc)) (hdet : detAcc (s.envHere b) acc = false) :
    exec (.mswap p acc) s = .next (s.trapHere b (.mswap p acc) ⟨Cause.nondet, 0, 0xC6⟩) := by
  show execMswap p acc s = _
  unfold execMswap
  refine issue_trap h ?_
  simp only [hdet, Bool.not_false, if_true]
  rfl

/-- An MSWAP of an accumulator with no other issued is issued, then exchanges or parks. -/
theorem exec_mswap (hdet : detAcc (s.envHere b) acc = true) (hswap : (s.here.acc acc).swap = []) :
    ∃ own, exec (.mswap p acc) s = issue (.mswap p acc) own s ∧ own (s.envHere b) s.here =
      match (s.swapIssued acc).exchange s.cur.ctx acc with
      | some c => done (s.envHere b) (.mswap p acc) c
      | none => waitI (s.envHere b) (.mswap p acc) (s.swapIssued acc) 8 true false := by
  refine ⟨_, rfl, ?_⟩
  simp only [hdet, hswap, Bool.not_true, List.any_nil, List.nil_append, Bool.false_eq_true, if_false]
  rfl

theorem exec_mswap_exchanges (h : Clear s b (.mswap p acc)) (hdet : detAcc (s.envHere b) acc = true) (hswap : (s.here.acc acc).swap = [])
    (hreads : (s.here.acc acc).reads = []) (husers : s.here.bankUsers acc = []) :
    exec (.mswap p acc) s = .next (s.ranIn b (.mswap p acc)
      (s.here.setAcc acc ⟨(s.here.acc acc).vis, (s.here.acc acc).work, [], []⟩) s.regsHere) := by
  have hq := h.quiet
  have hx : (s.swapIssued acc).exchange s.cur.ctx acc
      = some (s.here.setAcc acc ⟨(s.here.acc acc).vis, (s.here.acc acc).work, [], []⟩) := by
    rw [Core.exchange_of (m := s.cur.ctx) (ids := []) (rest := [])]
    · simp only [State.swapIssued, Core.acc_setAcc, Core.setAcc_setAcc, hreads, List.map_nil]
    · rw [State.swapIssued, Core.acc_setAcc, husers]
    · simp
    · simp [State.swapIssued, hreads]
  obtain ⟨own, he, ho⟩ := exec_mswap (p := p) hdet hswap
  have hctx (x : Acc) : (s.here.setAcc acc x).ctx s.cur.ctx = s.ctxHere := Core.setAcc_ctx ..
  rw [hx] at ho
  rw [he, issue_done h ho (Core.NoEcc.setAcc hq.noEcc _ _) (by rw [hctx, hq.unsigned]) (by rw [hctx]), hctx]
  rfl

theorem exec_mswap_parks (h : Clear s b (.mswap p acc)) (hdet : detAcc (s.envHere b) acc = true) (hswap : (s.here.acc acc).swap = [])
    (husers : s.here.bankUsers acc ≠ []) :
    exec (.mswap p acc) s = .next (s.put ((s.swapIssued acc).waitsAt s.cur.ctx (.mswap p acc) 8 true false 0 0)) := by
  have hx : (s.swapIssued acc).exchange s.cur.ctx acc = none := by
    have hmx : (s.swapIssued acc).mx = s.here.mx := Core.setAcc_mx ..
    have hqueued : s.here.mx.all (fun k => !(s.here.bankUsers acc).contains k.id) = false := by
      obtain ⟨n, hn⟩ := List.exists_mem_of_ne_nil _ husers
      obtain ⟨k, hk, rfl⟩ := List.mem_map.1 hn
      rw [List.all_eq_false]
      exact ⟨k, (List.mem_filter.1 hk).1, by simpa using hn⟩
    have hacc : (s.swapIssued acc).acc acc = { s.here.acc acc with swap := [(s.cur.ctx, s.here.bankUsers acc)] } := Core.acc_setAcc ..
    simp only [Core.exchange, hmx, hacc, hqueued, Bool.and_false, Bool.false_and, Bool.false_eq_true, if_false]
  obtain ⟨own, he, ho⟩ := exec_mswap (p := p) hdet hswap
  rw [hx] at ho
  rw [he, issue_core h (ho.trans (waitI_eq ..))]

end

/-- Settles O29: each slot instruction by whether the slot is the context's own, MSWAP by what uses the accumulator. -/
theorem operandSlots : Obligations.OperandSlots := by
  unfold Obligations.OperandSlots
  intro s b p o a acc
  refine ⟨fun h => ⟨fun hfree hy => ?_, exec_mclaim_own h, exec_mclaim_parks h⟩,
    fun h => ⟨exec_mrel_own h, fun hown hmx => ?_, exec_mrel_trap h⟩, fun h => ⟨exec_mband_own h, exec_mband_trap h⟩,
    fun h => ⟨exec_mswap_trap h, exec_mswap_exchanges h, exec_mswap_parks h⟩⟩
  · obtain ⟨hslot, hother, hregs, hls, hpc, hst⟩ := State.ranIn_claimed (o := o) h.quiet (.mclaim p o)
    refine ⟨_, exec_mclaim_free h hfree hy, ?_⟩
    rw [hslot]
    exact ⟨rfl, rfl, rfl, rfl, rfl, rfl, hother, hregs, hls, hpc, hst⟩
  · rw [Core.slot_releaseSlot hmx o.isLt hown.1]
    rfl

end Sys2Proof.Machine

/-! # Semaphores, guards, engine waits (O33) -/

namespace Sys2Proof.Machine
open Sys2Proof

section
variable {s : State} {b : Binding} {p : Pred} {q : BitVec 8} {t : BitVec 16} {d : SReg} {g : BitVec 4} {k : PReg} {neg mx cx ce : Bool}

/-! ## Semaphores (R102) -/

/-- A wait passes once the count has passed its threshold, modulo 2^16. -/
theorem semPasses_iff {n : Nat} : semPasses n t = true ↔ ((n : Int) - t.toNat) % 65536 < 32768 := by
  have ht := t.isLt
  rw [semPasses, decide_eq_true_eq]
  omega

theorem exec_semw_passes (h : Clear s b (.semw p q t)) (hp : semPasses (acount s.here.sems q.toNat) t = true) :
    exec (.semw p q t) s = .next (s.ran b (.semw p q t) s.regsHere) := by
  show execSemw p q t s = _
  unfold execSemw
  exact issue_same h (if_pos hp)

theorem exec_semw_parks (h : Clear s b (.semw p q t)) (hp : semPasses (acount s.here.sems q.toNat) t ≠ true) :
    exec (.semw p q t) s = .next (s.put (s.here.waitsAt s.cur.ctx (.semw p q t) 9 true true 0 0)) := by
  show execSemw p q t s = _
  unfold execSemw
  exact issue_wait h (if_neg hp)

theorem exec_semr (h : Clear s b (.semr p d q)) (hdet : b.det = false) :
    exec (.semr p d q) s = .next (s.ran b (.semr p d q) (s.regsHere.setS d (BitVec.ofNat 64 (acount s.here.sems q.toNat)))) := by
  show execSemr p d q s = _
  unfold execSemr
  refine issue_regs h ?_
  simp only [State.envHere_b, hdet, Bool.false_eq_true, if_false]
  rfl

theorem exec_semr_trap (h : Clear s b (.semr p d q)) (hdet : b.det = true) :
    exec (.semr p d q) s = .next (s.trapHere b (.semr p d q) ⟨Cause.nondet, 0, 0xCF⟩) := by
  show execSemr p d q s = _
  unfold execSemr
  refine issue_trap h ?_
  simp only [State.envHere_b, hdet, if_true]
  rfl

/-! ## Guards (R103) -/

/-- The determinism of R93 allows a context to set a guard. -/
def State.mayGuard (s : State) (b : Binding) (g : BitVec 4) : Bool :=
  detGuard (s.envHere b) s.here g.toNat (fun k => cmdSync k.instr)

theorem exec_garm (h : Clear s b (.garm p g)) (hfree : s.mayGuard b g = true) :
    exec (.garm p g) s = .next (s.ranIn b (.garm p g) (s.here.setGuard g none) s.regsHere) := by
  have hq := h.quiet
  show execGarm p g s = _
  unfold execGarm
  refine issue_done h (c := s.here.setGuard g none) ?_ hq.noEcc hq.unsigned rfl
  show (if !s.mayGuard b g then _ else _) = _
  rw [hfree]
  rfl

theorem exec_garm_trap (h : Clear s b (.garm p g)) (hfree : s.mayGuard b g = false) :
    exec (.garm p g) s = .next (s.trapHere b (.garm p g) ⟨Cause.nondet, 0, 0xD0⟩) := by
  show execGarm p g s = _
  unfold execGarm
  refine issue_trap h ?_
  show (if !s.mayGuard b g then _ else _) = _
  rw [hfree]
  rfl

theorem exec_gres (h : Clear s b (.gres p g k neg)) (hfree : s.mayGuard b g = true) :
    exec (.gres p g k neg) s
      = .next (s.ranIn b (.gres p g k neg) (s.here.setGuard g (some (s.regsHere.getP k != neg))) s.regsHere) := by
  have hq := h.quiet
  show execGres p g k neg s = _
  unfold execGres
  refine issue_done h (c := s.here.setGuard g (some (s.regsHere.getP k != neg))) ?_ hq.noEcc hq.unsigned rfl
  show (if !s.mayGuard b g then _ else _) = _
  rw [hfree]
  rfl

theorem exec_gres_trap (h : Clear s b (.gres p g k neg)) (hfree : s.mayGuard b g = false) :
    exec (.gres p g k neg) s = .next (s.trapHere b (.gres p g k neg) ⟨Cause.nondet, 0, 0xD1⟩) := by
  show execGres p g k neg s = _
  unfold execGres
  refine issue_trap h ?_
  show (if !s.mayGuard b g then _ else _) = _
  rw [hfree]
  rfl

/-! ## EWAIT (R278, R370) -/

/-- A command of the context at turn that is not over. -/
def State.awaits (s : State) (j : Cmd) : Bool := j.ctx == s.cur.ctx && !j.done

/-- The queues named hold such a command. -/
def State.awaitsAny (s : State) (mx cx ce : Bool) : Bool :=
  (mx && s.here.mx.any s.awaits) || (cx && s.here.cx.any s.awaits) || (ce && s.here.port.any s.awaits)

/-- One of them is a copy that has halted, its fault not yet delivered. -/
def State.awaitsHalted (s : State) : Bool := s.here.cx.any (fun j => s.awaits j && j.halted.isSome && !j.recorded)

/-- What an EWAIT does. -/
theorem exec_ewait : ∃ own, exec (.ewait p mx cx ce) s = issue (.ewait p mx cx ce) own s ∧ own (s.envHere b) s.here =
    if !s.awaitsAny mx cx ce then done (s.envHere b) (.ewait p mx cx ce) s.here
    else match (if cx && !s.ctxHere.trap.act && s.awaitsHalted then s.ctxHere.deferred else none) with
      | some f => deliver (s.envHere b) (.ewait p mx cx ce) s.here f
          (fun c => (s.envHere b).modCtx c (fun x => { x with deferred := none }))
      | none => waitI (s.envHere b) (.ewait p mx cx ce) s.here 10 true true := ⟨_, rfl, rfl⟩

theorem exec_ewait_passes (h : Clear s b (.ewait p mx cx ce)) (hleft : s.awaitsAny mx cx ce = false) :
    exec (.ewait p mx cx ce) s = .next (s.ran b (.ewait p mx cx ce) s.regsHere) := by
  obtain ⟨own, he, ho⟩ := exec_ewait (s := s) (b := b) (p := p) (mx := mx) (cx := cx) (ce := ce)
  rw [he]
  refine issue_same h (ho.trans ?_)
  simp only [hleft, Bool.not_false, if_true]

theorem exec_ewait_parks (h : Clear s b (.ewait p mx cx ce)) (hleft : s.awaitsAny mx cx ce = true)
    (hno : (cx && s.awaitsHalted) = false ∨ s.ctxHere.deferred = none ∨ s.ctxHere.trap.act = true) :
    exec (.ewait p mx cx ce) s = .next (s.put (s.here.waitsAt s.cur.ctx (.ewait p mx cx ce) 10 true true 0 0)) := by
  have hnone : (if cx && !s.ctxHere.trap.act && s.awaitsHalted then s.ctxHere.deferred else none) = none := by
    rcases hno with hno | hno | hno
    · rw [Bool.and_right_comm, hno]; rfl
    · rw [hno, ite_self]
    · rw [hno]; simp
  obtain ⟨own, he, ho⟩ := exec_ewait (s := s) (b := b) (p := p) (mx := mx) (cx := cx) (ce := ce)
  rw [he]
  refine issue_wait h (ho.trans ?_)
  simp only [hleft, hnone, Bool.not_true, Bool.false_eq_true, if_false]

/-- EWAIT delivers the fault of a copy that has halted. -/
theorem exec_ewait_delivers (h : Clear s b (.ewait p mx cx ce)) (hhalt : (cx && s.awaitsHalted) = true) {f : Deferred}
    (hd : s.ctxHere.deferred = some f) (hcan : s.ctxHere.canEnter = true) :
    ∃ u, exec (.ewait p mx cx ce) s = .next u ∧ u.ctxHere.pc = s.ctxHere.trap.tvec ∧ u.ctxHere.trap.tpc = s.ctxHere.pc
      ∧ u.ctxHere.trap.tcause = BitVec.ofNat 64 (2 ^ 63 + f.trap.cause % 65536) ∧ u.ctxHere.deferred = none
      ∧ u.regsHere = s.regsHere := by
  have hq := h.quiet
  obtain ⟨hcx, hany⟩ := Bool.and_eq_true_iff.1 hhalt
  have hleft : s.awaitsAny mx cx ce = true := by
    obtain ⟨j, hj, hmine⟩ := List.any_eq_true.1 hany
    have : s.here.cx.any s.awaits = true := List.any_eq_true.2 ⟨j, hj, by simp_all⟩
    simp [State.awaitsAny, hcx, this]
  have hact : s.ctxHere.trap.act = false := by
    simp only [Context.canEnter, Bool.and_eq_true, Bool.not_eq_true'] at hcan
    exact hcan.1.1
  let cleared (c : Core) : Core := (s.envHere b).modCtx c (fun x => { x with deferred := none })
  have hctx : (cleared s.here).ctx s.cur.ctx = { s.ctxHere with deferred := none } := Core.ctx_setCtx _ _ hq.lt
  obtain ⟨c, hc, hself, -⟩ := deliver_enters (s := s) (b := b) (i := .ewait p mx cx ce) (d := f) (c := s.here) (clear := cleared) hq.lt
    (by rw [hctx]; exact hcan)
  obtain ⟨own, he, ho⟩ := exec_ewait (s := s) (b := b) (p := p) (mx := mx) (cx := cx) (ce := ce)
  have hown : own (s.envHere b) s.here = ⟨c, id⟩ := by
    rw [ho, if_neg (by simp [hleft]), if_pos (by simp [hcx, hact, hany]), hd]
    exact hc
  refine ⟨_, he.trans (issue_core h hown), ?_⟩
  rw [State.ctxHere_put hq, State.regsHere_put hq, hself, hctx]
  exact ⟨rfl, rfl, tcauseOf_eq _, rfl, rfl⟩

end

/-- Settles O33: SEMW by what its wait passes at, GARM and GRES by what R93 allows, EWAIT by what its queues still hold. -/
theorem semaphoresGuardsWaits : Obligations.SemaphoresGuardsWaits := by
  unfold Obligations.SemaphoresGuardsWaits
  intro s b p q t d g k neg mx cx ce
  refine ⟨fun h => ⟨fun hn => exec_semw_passes h (semPasses_iff.2 hn), fun hn => exec_semw_parks h fun hp => ?_⟩,
    fun h => ⟨exec_semr h, exec_semr_trap h⟩, fun h => ⟨exec_garm h, exec_garm_trap h⟩, fun h => ⟨fun hfree => ?_, exec_gres_trap h⟩,
    fun h => ⟨exec_ewait_passes h, exec_ewait_parks h, fun f hhalt => exec_ewait_delivers h hhalt⟩⟩
  · exact absurd (semPasses_iff.1 hp) (Int.not_lt.2 hn)
  · rw [exec_gres h hfree]
    rfl

end Sys2Proof.Machine

/-! # Engine commands that are accepted (O31) -/

namespace Sys2Proof.Machine
open Sys2Proof

section
variable {s : State} {b : Binding} {i : Instr}

/-! ## What acceptance makes of a core (R89, R95, R100) -/

/-- What acceptance changes beside the queue and the destination: an MLOAD's slot, the mode of the bank that a command overwrites
(R263, R267, R269). -/
def onAccept (i : Instr) (c : Core) : Core :=
  match i with
  | .mload _ _ o _ _ _ => c.settle o.toNat
  | .mma _ mf ow acc _ _ _ => if ow = true then c.acceptMode acc (decide (mf = .i8)) else c
  | .mzero _ tag acc _ | .mwrite _ tag acc _ _ _ => c.acceptMode acc (decide (tag = 5))
  | _ => c

/-- The command that the context at turn gives an engine. -/
def State.command (s : State) (i : Instr) : Cmd := newCmd s.here s.cur.ctx s.regsHere i

/-- The core at turn with that command accepted. -/
def State.accepted (s : State) (i : Instr) : Core := (s.here.enqueue (s.command i)).emptyDst (s.command i)

theorem Core.acceptMode_eq (c : Core) (acc isInt : Bool) : ∃ x y, c.acceptMode acc isInt = { c with acc0 := x, acc1 := y } := by
  cases acc
  · exact ⟨_, c.acc1, rfl⟩
  · exact ⟨c.acc0, _, rfl⟩

theorem onAccept_eq (i : Instr) (c : Core) : ∃ v x y, onAccept i c = { c with slots := v, acc0 := x, acc1 := y } := by
  have same : ∃ v x y, c = { c with slots := v, acc0 := x, acc1 := y } := ⟨c.slots, c.acc0, c.acc1, rfl⟩
  have mode (acc isInt : Bool) : ∃ v x y, c.acceptMode acc isInt = { c with slots := v, acc0 := x, acc1 := y } := by
    obtain ⟨x, y, h⟩ := c.acceptMode_eq acc isInt
    exact ⟨c.slots, x, y, h⟩
  unfold onAccept
  split
  · next o _ _ _ =>
    obtain ⟨v, h⟩ := c.settle_eq o.toNat
    exact ⟨v, c.acc0, c.acc1, h⟩
  · split
    · exact mode ..
    · exact same
  · exact mode ..
  · exact mode ..
  · exact same

theorem Core.enqueue_eq (c : Core) (k : Cmd) : ∃ x y z, c.enqueue k = { c with mx := x, cx := y, port := z, nextId := c.nextId + 1 } := by
  unfold Core.enqueue
  cases cmdQueue k.instr
  · exact ⟨_, c.cx, c.port, rfl⟩
  · exact ⟨c.mx, _, c.port, rfl⟩
  · exact ⟨c.mx, c.cx, _, rfl⟩

/-- Acceptance leaves the contexts and the injected errors. -/
theorem State.accepted_rest (s : State) (i : Instr) : (∀ n, (onAccept i (s.accepted i)).ctx n = s.here.ctx n)
    ∧ (s.here.NoEcc → (onAccept i (s.accepted i)).NoEcc) := by
  obtain ⟨x, y, z, hc⟩ := s.here.enqueue_eq (s.command i)
  obtain ⟨v, u, w, ho⟩ := onAccept_eq i (s.accepted i)
  rw [ho, State.accepted, Core.emptyDst, hc]
  exact ⟨fun _ => rfl, id⟩

/-! ## The command (R100, R159, R262) -/

theorem State.command_instr (s : State) (i : Instr) : (s.command i).instr = i := by
  unfold State.command newCmd
  split <;> rfl

/-- A command is new: its number is the core's next, it holds the modes of its context and core, and none of its steps is done. -/
theorem State.command_new (s : State) (i : Instr) : (s.command i).id = s.here.nextId ∧ (s.command i).ctx = s.cur.ctx
    ∧ (s.command i).topx = s.regsHere.topx.getLsbD 0 ∧ (s.command i).weights = s.here.weights ∧ (s.command i).started = false
    ∧ (s.command i).done = false ∧ (s.command i).step = .wait ∧ (s.command i).uncommitted = true := by
  unfold State.command newCmd
  split <;> exact ⟨rfl, rfl, rfl, rfl, rfl, rfl, rfl, rfl⟩

/-- The local destination of a command (R89). -/
theorem State.command_dst (s : State) (i : Instr) : (s.command i).dst = commandDst s.regsHere i := by
  unfold State.command newCmd Cmd.dst commandDst
  cases i <;> rfl

/-! ## Acceptance -/

/-- A queue with room accepts, where no parked LDF goes before (R91, R100). -/
theorem accept_room (hq : Quiet s b) {f : Core → Core} (hroom : (s.here.queue (cmdQueue i)).length < queueCap (cmdQueue i))
    (hfirst : s.here.ldfFirst s.cur.ctx none (granules (commandDst s.regsHere i).1 (commandDst s.regsHere i).2) = false) :
    accept (s.envHere b) i s.here f = done (s.envHere b) i (f (s.accepted i)) := by
  have hfeed : (s.envHere b).modCtx s.here (fun x => x.feed (s.envHere b).b (cmdRecord x.regs i)) = s.here := by
    rw [State.envHere_modCtx, State.envHere_b, Context.feed_unpaired hq, Core.setCtx_self]
  rw [← State.command_dst] at hfirst
  have hldf : s.here.ldfFirst (s.envHere b).who.ctx none (granules (s.command i).dst.1 (s.command i).dst.2) = false := hfirst
  unfold accept
  rw [if_neg (Nat.not_le.2 hroom)]
  dsimp only
  rw [hfeed]
  exact if_neg (Bool.eq_false_iff.1 hldf)

/-- R41's check passes for a command that its region does not forbid. -/
theorem regionBad_false (hf : ¬ regionForbids s i) : regionBad (s.envHere b) s.here i = false :=
  Bool.eq_false_iff.2 fun hbad => hf ⟨(regionBad_iff.1 hbad).1, .inl (regionBad_iff.1 hbad).2⟩

/-- An engine command whose checks pass is accepted as far as its queue allows. -/
theorem exec_engine_accepts (hq : Quiet s b) (hc : EngineChecks s b i) (hf : ¬ regionForbids s i)
    (hroom : (s.here.queue (cmdQueue i)).length < 16) :
    ∃ own, exec i s = issue i own s ∧ own (s.envHere b) s.here = accept (s.envHere b) i s.here (onAccept i) := by
  have hbad := regionBad_false (b := b) hf
  unfold EngineChecks at hc
  dsimp only at hc
  split at hc
  case h_1 p mf o a off y =>
    obtain ⟨⟨hin, hal⟩, ⟨hfree, how⟩, hsrc, hqs⟩ := hc
    refine ⟨_, rfl, ?_⟩
    simp [-BitVec.toNat_add, inStore_of hin, hal, ownsSlot_of hfree how, hsrc, hqs, hbad]
    rfl
  case h_2 p mf ow acc o1 o2 y =>
    obtain ⟨htrap, hdet⟩ := hc
    have hover : (s.ctxHere.region.d && !ow) = false := by
      refine Bool.eq_false_iff.2 fun hd => hf ?_
      rw [Bool.and_eq_true, Bool.not_eq_true'] at hd
      exact ⟨hd.1, .inr hd.2⟩
    refine ⟨_, rfl, ?_⟩
    simp only [htrap, hdet, hover, hbad, State.envHere_ctx, State.here_ctx, Bool.not_true, Bool.or_self, Bool.false_eq_true, if_false]
    rfl
  case h_3 p tag acc y =>
    refine ⟨_, rfl, ?_⟩
    simp [hc, hbad]
    rfl
  case h_4 p tag acc a off y =>
    obtain ⟨⟨hin, hal⟩, hsrc, hqs, hdet⟩ := hc
    refine ⟨_, rfl, ?_⟩
    simp [-BitVec.toNat_add, inStore_of hin, hal, hsrc, hqs, hdet, hbad]
    rfl
  case h_5 p tag acc rm a off y =>
    obtain ⟨⟨hin, hal⟩, htag, hwin, hdst, hqs, hdet⟩ := hc
    refine ⟨_, rfl, ?_⟩
    simp [-BitVec.toNat_add, inStore_of hin, hal, htag, hwin, hdst, hqs, hdet, hbad]
    rfl
  case h_6 p d a v vr y =>
    obtain ⟨⟨⟨hin, hal⟩, hglob, hlen, hpos, hmax, hcan⟩, hwin, hdst, hqs⟩ := hc
    have hfull : ¬ queueCap .cx ≤ s.here.cx.length := Nat.not_le.2 hroom
    refine ⟨_, rfl, ?_⟩
    simp [-BitVec.toNat_add, inStore_of hin, hal, hglob, hlen, hpos.ne', Nat.not_lt.2 hmax, hcan, hwin, hdst, hqs, hbad, hfull, pairCheck_quiet hq]
    rfl
  case h_7 p d a v vr st y =>
    obtain ⟨⟨⟨hin, hal⟩, hglob, hlen, hpos, hmax, hcan⟩, hsrc, hqs⟩ := hc
    refine ⟨_, rfl, ?_⟩
    simp [-BitVec.toNat_add, inStore_of hin, hal, hglob, hlen, hpos.ne', Nat.not_lt.2 hmax, hcan, hsrc, hqs, hbad]
    rfl
  case h_8 => exact hc.elim

/-- An engine command whose checks pass, and whose queue has room, is put behind the others of its queue. -/
theorem exec_engine_accepted (h : Clear s b i) (hc : EngineChecks s b i) (hf : ¬ regionForbids s i)
    (hroom : (s.here.queue (cmdQueue i)).length < 16) (hcap : queueCap (cmdQueue i) = 16)
    (hfirst : s.here.ldfFirst s.cur.ctx none (granules (commandDst s.regsHere i).1 (commandDst s.regsHere i).2) = false) :
    exec i s = .next (s.ranIn b i (onAccept i (s.accepted i)) s.regsHere) := by
  obtain ⟨own, he, ho⟩ := exec_engine_accepts h.quiet hc hf hroom
  obtain ⟨hctx, hecc⟩ := s.accepted_rest i
  rw [he, issue_done h (ho.trans (accept_room h.quiet (by rwa [hcap]) hfirst)) (hecc h.quiet.noEcc)
    (by rw [hctx]; exact h.quiet.unsigned) (by rw [hctx]; rfl), hctx]
  rfl

end

/-- Settles O31: the command that its queue takes, form by form. -/
theorem engineCommandsAccepted : Obligations.EngineCommandsAccepted := by
  unfold Obligations.EngineCommandsAccepted
  intro s b i h hc hf c r q gone hroom hfirst
  obtain ⟨hid, hctx, htopx, hweights, hstarted, hdone, hstep, hunc⟩ := s.command_new i
  have he := exec_engine_accepted h hc hf
  have hdst := hc
  unfold EngineChecks at hdst
  dsimp only at hdst
  split at hdst
  case h_8 => exact hdst.elim
  all_goals refine ⟨s.command _, (he hroom rfl hfirst).trans rfl, hid, s.command_instr _, hctx, htopx, hweights, hstarted, hdone, hstep, hunc, ?_⟩
  case h_1 => rfl
  case h_2 => exact ⟨rfl, rfl⟩
  case h_3 => trivial
  case h_4 => rfl
  case h_5 => exact ⟨rfl, rfl⟩
  case h_6 => exact ⟨rfl, rfl, rfl, rfl⟩
  case h_7 =>
    refine ⟨rfl, rfl, rfl, rfl, ?_⟩
    rintro e rfl
    exact ⟨rfl, rfl⟩

end Sys2Proof.Machine

/-! # The heads of the engine queues (O44) -/

namespace Sys2Proof.Machine
open Sys2Proof

/-! ## What the engines' operations leave of a core -/

section
variable (c : Core) (q : EngQ) (id : Nat) (f : Cmd → Cmd) (k : Cmd)

@[simp] theorem Core.queue_modCmd : (c.modCmd q id f).queue q = (c.queue q).map (fun j => if j.id == id then f j else j) := by
  cases q <;> rfl
@[simp] theorem Core.modCmd_bound : (c.modCmd q id f).bound = c.bound := by cases q <;> rfl
@[simp] theorem Core.modCmd_ls : (c.modCmd q id f).ls = c.ls := by cases q <;> rfl
@[simp] theorem Core.modCmd_sems : (c.modCmd q id f).sems = c.sems := by cases q <;> rfl
@[simp] theorem Core.modCmd_acc (a : Bool) : (c.modCmd q id f).acc a = c.acc a := by cases q <;> rfl
@[simp] theorem Core.modCmd_ctx (n : Nat) : (c.modCmd q id f).ctx n = c.ctx n := by cases q <;> rfl

/-- Two changes of one command, the first of which keeps its number, are one. -/
theorem Core.modCmd_modCmd (g : Cmd → Cmd) (hf : ∀ j, (f j).id = j.id) :
    (c.modCmd q id f).modCmd q id g = c.modCmd q id (fun j => g (f j)) := by
  have hmap : (fun j => if j.id == id then g j else j) ∘ (fun j => if j.id == id then f j else j)
      = fun j => if j.id == id then g (f j) else j := by
    funext j
    by_cases h : j.id = id <;> simp [hf, h]
  unfold Core.modCmd
  cases q <;> simp only [Core.setQueue, Core.queue, List.map_map, hmap]

/-- The head of a queue once the commands with its number have been changed. -/
theorem Core.queue_modCmd_head {c : Core} {q : EngQ} {k : Cmd} {rest : List Cmd} (hq : c.queue q = k :: rest) (f : Cmd → Cmd) :
    (c.modCmd q k.id f).queue q = f k :: rest.map (fun j => if j.id == k.id then f j else j) := by
  simp [hq]

/-- Changing commands, their numbers kept, changes no number. -/
theorem Core.modCmd_ids (hf : ∀ j, (f j).id = j.id) : ((c.modCmd q id f).queue q).map (·.id) = (c.queue q).map (·.id) := by
  rw [Core.queue_modCmd, List.map_map]
  refine List.map_congr_left fun j _ => ?_
  by_cases h : j.id = id <;> simp [hf, h]

/-- Every command of the number is changed. -/
theorem Core.mem_modCmd {c : Core} {q : EngQ} {id : Nat} {f : Cmd → Cmd} {P : Cmd → Prop}
    (hP : ∀ j, j.id = id → P (f j)) : ∀ j ∈ (c.modCmd q id f).queue q, j.id = id → P j := by
  intro j hj hid
  rw [Core.queue_modCmd] at hj
  obtain ⟨i, -, rfl⟩ := List.mem_map.1 hj
  by_cases h : i.id = id
  · simpa [h] using hP i h
  · simp [h] at hid

theorem Core.setCtx_eq (n : Nat) (x : Context) : ∃ w, c.setCtx n x = { c with ctxs := w } := by
  unfold Core.setCtx
  split
  · exact ⟨_, rfl⟩
  · exact ⟨c.ctxs, rfl⟩

/-- A deferred fault is recorded in a context alone (R366). -/
theorem Core.deferTo_eq (n : Nat) (t : Trap) (h : Option Nat) : ∃ w, c.deferTo n t h = { c with ctxs := w } := Core.setCtx_eq ..

theorem Core.setCtx_queue (n : Nat) (x : Context) : (c.setCtx n x).queue q = c.queue q := by
  cases q
  · exact Core.setCtx_mx ..
  · exact Core.setCtx_cx ..
  · exact Core.setCtx_port ..

theorem Core.deferTo_queue (n : Nat) (t : Trap) (h : Option Nat) : (c.deferTo n t h).queue q = c.queue q := Core.setCtx_queue ..

/-- A fault of a command of the control context is recorded there. -/
theorem Core.deferTo_isSome {n : Nat} (hn : n = 0) (t : Trap) (h : Option Nat) :
    ((c.deferTo n t h).ctx 0).deferred.isSome = true := by
  subst hn
  rw [Core.deferTo, ite_self, Core.modCtx, Core.ctx_setCtx _ _ (by omega)]
  exact Context.defer_isSome ..

theorem Core.settleAll_eq : ∃ v, c.settleAll = { c with slots := v } := by
  unfold Core.settleAll
  induction List.range 16 generalizing c with
  | nil => exact ⟨c.slots, rfl⟩
  | cons o os ih =>
    obtain ⟨u, hu⟩ := c.settle_eq o
    obtain ⟨v, hv⟩ := ih (c.settle o)
    exact ⟨v, by rw [List.foldl_cons, hv, hu]⟩

/-- The context that a command's flags go to (R135). -/
def Core.flagCtx (c : Core) (n : Nat) : Nat := if (c.ctx n).st == .idle || (c.ctx n).st == .exited then 0 else n

theorem Core.engineFlags_at (n : Nat) (w : Word) : c.engineFlags n w = { c.setCtx (c.flagCtx n)
    { c.ctx (c.flagCtx n) with regs := (c.ctx (c.flagCtx n)).regs.orFlags w } with wrote := c.wrote || w != 0 } := rfl

theorem Core.engineFlags_eq (n : Nat) (w : Word) : ∃ x y, c.engineFlags n w = { c with ctxs := x, wrote := y } := by
  obtain ⟨x, hx⟩ := c.setCtx_eq (c.flagCtx n) { c.ctx (c.flagCtx n) with regs := (c.ctx (c.flagCtx n)).regs.orFlags w }
  exact ⟨x, c.wrote || w != 0, by rw [Core.engineFlags_at, hx]⟩

/-- A command's flags leave every deferred fault. -/
theorem Core.engineFlags_deferred (n : Nat) (w : Word) (m : Nat) : ((c.engineFlags n w).ctx m).deferred = (c.ctx m).deferred := by
  rw [Core.engineFlags_at]
  show ((c.setCtx (c.flagCtx n) _).ctx m).deferred = _
  by_cases hm : m = c.flagCtx n
  · rw [← hm]
    by_cases hlt : m < 11
    · rw [Core.ctx_setCtx _ _ hlt]
    · rw [Core.setCtx, dif_neg hlt]
  · rw [Core.ctx_setCtx_ne _ _ hm]

/-- A signal changes its semaphore alone (R102). -/
theorem Core.signal_eq : ∃ m, c.signal k = { c with sems := m } := by
  unfold Core.signal
  split
  · exact ⟨_, rfl⟩
  · exact ⟨c.sems, rfl⟩

theorem Core.signal_sems : (c.signal k).sems = match (cmdSync k.instr).sig with
    | some (q, inc) => aset c.sems q.toNat ((acount c.sems q.toNat + inc.toNat) % 65536)
    | none => c.sems := by
  unfold Core.signal
  cases (cmdSync k.instr).sig <;> rfl

/-- The command k has left its queue and signalled, nothing else of the core being changed that others see (R101, R102). -/
structure Core.Finished (c u : Core) (q : EngQ) (k : Cmd) : Prop where
  queue : u.queue q = (c.queue q).filter (fun j => j.id != k.id)
  ls : u.ls = c.ls
  acc : ∀ a, u.acc a = c.acc a
  sems : u.sems = (c.signal k).sems
  deferred : ∀ m, (u.ctx m).deferred = (c.ctx m).deferred

/-- A core's own copy of the command at the head of its queue. -/
theorem Core.own_of_head {c : Core} {q : EngQ} {k j : Cmd} {rest : List Cmd} (hq : c.queue q = j :: rest) (hid : j.id = k.id) :
    c.own q k = j := by
  simp [Core.own, hq, hid]

theorem Core.setQueue_leaves (l : List Cmd) : (c.setQueue q l).queue q = l ∧ (c.setQueue q l).ls = c.ls
    ∧ (∀ a, (c.setQueue q l).acc a = c.acc a) ∧ ((c.setQueue q l).signal k).sems = (c.signal k).sems
    ∧ ∀ m, (c.setQueue q l).ctx m = c.ctx m := by
  have hsems : ((c.setQueue q l).signal k).sems = (c.signal k).sems := by
    unfold Core.signal
    cases q <;> split <;> rfl
  cases q <;> exact ⟨rfl, rfl, fun _ => rfl, hsems, fun _ => rfl⟩

/-- The head of a queue, finished. -/
theorem Core.finishCmd_finished {c : Core} {q : EngQ} {k j : Cmd} {rest : List Cmd} (hq : c.queue q = j :: rest) (hid : j.id = k.id)
    (hi : j.instr = k.instr) : c.Finished (c.finishCmd q k) q k := by
  obtain ⟨hqueue, hls, hacc, hsems, hctx⟩ := c.setQueue_leaves q k ((c.queue q).filter (fun i => i.id != k.id))
  have hfin : c.finishCmd q k
      = (((c.setQueue q ((c.queue q).filter (fun i => i.id != k.id))).signal k).engineFlags j.ctx j.flags).settleAll := by
    unfold Core.finishCmd
    rw [Core.own_of_head hq hid]
    dsimp only
    rw [hid, Core.signal, Core.signal, hi]
  rw [hfin]
  generalize c.setQueue q ((c.queue q).filter (fun i => i.id != k.id)) = c1 at hqueue hls hacc hsems hctx ⊢
  obtain ⟨z, hz⟩ := c1.signal_eq k
  obtain ⟨x, y, hx⟩ := (c1.signal k).engineFlags_eq j.ctx j.flags
  obtain ⟨v, hv⟩ := ((c1.signal k).engineFlags j.ctx j.flags).settleAll_eq
  have hdef (m : Nat) : (((c1.signal k).engineFlags j.ctx j.flags).ctx m).deferred = (c.ctx m).deferred := by
    rw [Core.engineFlags_deferred, ← hctx, hz]
    rfl
  rw [hv]
  refine ⟨?_, ?_, fun a => ?_, ?_, hdef⟩
  · rw [← hqueue, hx, hz]
    cases q <;> rfl
  · rw [← hls, hx, hz]
  · rw [← hacc, hx, hz]
    rfl
  · rw [← hsems, hx]

end

/-! ## Steps 1 to 3 of a head (R101, R103) -/

section
variable {c : Core} {k : Cmd}

/-- The head's wait does not pass. -/
def Core.waitsSem (c : Core) (k : Cmd) : Prop :=
  ∃ q t, (cmdSync k.instr).wait = some (q, t) ∧ semPasses (acount c.sems q.toNat) t = false

/-- The head has come to its guard. -/
def Core.atGuard (c : Core) (k : Cmd) : Prop := k.step = .guard ∨ k.step = .wait ∧ ¬ c.waitsSem k

/-- Whether a head has all its steps behind it, still waits for its semaphore, or has come to its guard. -/
theorem Core.headDec_cases : k.step = .run ∧ c.headDec k = .runs
    ∨ (k.step = .wait ∧ c.waitsSem k) ∧ c.headDec k = .waits .wait ∨ c.atGuard k ∧ c.headDec k = c.guardDec k := by
  unfold Core.headDec Core.atGuard
  cases hs : k.step with
  | run => exact .inl ⟨rfl, rfl⟩
  | guard => exact .inr (.inr ⟨.inl rfl, rfl⟩)
  | wait =>
    cases hw : (cmdSync k.instr).wait with
    | none => exact .inr (.inr ⟨.inr ⟨rfl, by simp [Core.waitsSem, hw]⟩, rfl⟩)
    | some w =>
      obtain ⟨q, t⟩ := w
      cases hp : semPasses (acount c.sems q.toNat) t with
      | false => exact .inr (.inl ⟨⟨rfl, q, t, hw, hp⟩, by simp [hp]⟩)
      | true => exact .inr (.inr ⟨.inr ⟨rfl, by simp [Core.waitsSem, hw, hp]⟩, by simp [hp]⟩)

theorem Core.not_atGuard_of_run (h : k.step = .run) : ¬ c.atGuard k := by simp [Core.atGuard, h]

theorem Core.not_atGuard_of_waits (h : k.step = .wait ∧ c.waitsSem k) : ¬ c.atGuard k := by simp [Core.atGuard, h.1, h.2]

/-- What the guard says: nothing names none, and an armed one is not yet set. -/
theorem Core.guardDec_eq : c.guardDec k ≠ .waits .wait
    ∧ (c.guardDec k = .waits .guard ↔ ∃ g, (cmdSync k.instr).grd = some g ∧ c.guards[g.toNat]'(g.isLt) = none)
    ∧ (c.guardDec k = .discards ↔ ∃ g, (cmdSync k.instr).grd = some g ∧ c.guards[g.toNat]'(g.isLt) = some false) := by
  unfold Core.guardDec
  cases (cmdSync k.instr).grd with
  | none => simp
  | some g => rcases hg : c.guards[g.toNat]'(g.isLt) with - | - | - <;> simp [hg]

theorem Core.headDec_waits_wait : c.headDec k = .waits .wait ↔ k.step = .wait ∧ c.waitsSem k := by
  rcases Core.headDec_cases (c := c) (k := k) with ⟨hs, hd⟩ | ⟨hw, hd⟩ | ⟨hg, hd⟩
  · simp [hd, hs]
  · simp [hd, hw]
  · rw [hd]
    exact iff_of_false Core.guardDec_eq.1 fun hw => Core.not_atGuard_of_waits hw hg

/-- A head comes to a decision of its guard only when it stands there. -/
theorem Core.headDec_guard {D : HeadDec} {P : Prop} (hrun : D ≠ .runs) (hwait : D ≠ .waits .wait) (hdec : c.guardDec k = D ↔ P) :
    c.headDec k = D ↔ c.atGuard k ∧ P := by
  rcases Core.headDec_cases (c := c) (k := k) with ⟨hs, hd⟩ | ⟨hw, hd⟩ | ⟨hg, hd⟩
  · exact iff_of_false (by rw [hd]; exact hrun.symm) fun h => Core.not_atGuard_of_run hs h.1
  · exact iff_of_false (by rw [hd]; exact hwait.symm) fun h => Core.not_atGuard_of_waits hw h.1
  · rw [hd, hdec, and_iff_right hg]

end

/-! ## The head event (R101) -/

section
variable {s : State} {d c : Nat} {b : Binding} {q : EngQ} {k : Cmd} {rest : List Cmd}

theorem Alone.core_setCore (h : Alone s d c b) (x : Core) : (s.setCore d c x).core d c = x :=
  State.core_setCore (State.aget_of_bound h.1) c x

/-- A change of a core alone after another is one change. -/
theorem Alone.modCore_setCore (h : Alone s d c b) {x : Core} (hx : x.bound = some b) (f : Core → Core) :
    (s.setCore d c x).modCore d c f = s.setCore d c (f x) := by
  rw [State.modCore_alone (h.setCore hx), h.core_setCore, State.setCore_setCore]

/-- A command that has passed steps 1 to 3. -/
def Cmd.running (k : Cmd) : Cmd := { k with step := .run }

/-- The core whose head has passed steps 1 to 3. -/
def Core.passed (c : Core) (q : EngQ) (k : Cmd) : Core := (c.readGuard k).modCmd q k.id (fun j => { j with step := .run })

@[simp] theorem Core.readGuard_queue (c : Core) (k : Cmd) (q : EngQ) : (c.readGuard k).queue q = c.queue q := by cases q <;> rfl

section
variable (h : Alone s d c b) (hch : b.checker = false) (hq : (s.core d c).queue q = k :: rest) (hhalt : k.halted = none)
  (hdone : k.done = false)
include h hch hq hhalt hdone

/-- A head that has started goes on. -/
theorem exec_engineCmdHead_started (hs : k.started = true) :
    exec (.engineCmdHead d c q) s = .next (s.continueHead d c b k) := by
  show execEngineCmdHead d c q s = _
  simp only [execEngineCmdHead, State.headOf, h.1, h.2, hch, hq, hhalt, hdone, hs, Option.isSome_none, Bool.or_self, Bool.false_eq_true,
    if_false, if_true]

variable (hs : k.started = false) (hfrozen : (s.core d c).frozen = false)
include hs hfrozen

theorem exec_engineCmdHead_waits {n : HeadStep} (hd : (s.core d c).headDec k = .waits n) : exec (.engineCmdHead d c q) s
    = .next (s.setCore d c (((s.core d c).readGuard k).modCmd q k.id (fun j => { j with step := n }))) := by
  show execEngineCmdHead d c q s = _
  simp only [execEngineCmdHead, State.headOf, h.1, h.2, hch, hq, hhalt, hdone, hs, hfrozen, hd, Option.isSome_none, Bool.or_self,
    Bool.false_eq_true, if_false]
  rfl

theorem exec_engineCmdHead_discards (hport : q ≠ .port) (hd : (s.core d c).headDec k = .discards) :
    exec (.engineCmdHead d c q) s = .next (s.setCore d c (((s.core d c).readGuard k).discardCmd q k)) := by
  have hport' : (q == .port) = false := beq_false_of_ne hport
  show execEngineCmdHead d c q s = _
  simp only [execEngineCmdHead, State.headOf, h.1, h.2, hch, hq, hhalt, hdone, hs, hfrozen, hd, hport', Option.isSome_none, Bool.or_self,
    Bool.false_eq_true, if_false]
  rfl

theorem exec_engineCmdHead_runs (hd : (s.core d c).headDec k = .runs) : exec (.engineCmdHead d c q) s
    = .next ((s.setCore d c ((s.core d c).passed q k)).runHead d c b q k.running) := by
  show execEngineCmdHead d c q s = _
  simp only [execEngineCmdHead, State.headOf, h.1, h.2, hch, hq, hhalt, hdone, hs, hfrozen, hd, State.peerReady, Cmd.running, Option.isSome_none,
    Bool.or_self, Bool.false_and, Bool.or_true, Bool.not_true, Bool.false_eq_true, if_false]
  rfl

end

/-- A discarded head has left its queue and signalled, its destination set full (R89, R101). -/
theorem Core.discardCmd_leaves {x : Core} (hq : x.queue q = k :: rest) : let u := (x.readGuard k).discardCmd q k
    u.queue q = (x.queue q).filter (fun j => j.id != k.id) ∧ (∀ a, u.acc a = x.acc a)
      ∧ u.ls = x.ls.setFull (granules k.dst.1 k.dst.2) ∧ u.sems = (x.signal k).sems := by
  let y : Core := { x.readGuard k with ls := x.ls.setFull (granules k.dst.1 k.dst.2) }
  have hy : y.queue q = x.queue q := by cases q <;> rfl
  have hfin : y.Finished ((x.readGuard k).discardCmd q k) q k := Core.finishCmd_finished (hy.trans hq) rfl rfl
  refine ⟨hfin.queue.trans (congrArg _ hy), hfin.acc, hfin.ls, ?_⟩
  rw [hfin.sems, Core.signal_sems, Core.signal_sems]
  rfl

end

end Sys2Proof.Machine

/-! # The matrix queue at its head (O44) -/

namespace Sys2Proof.Machine
open Sys2Proof

/-! ## What the effects of a matrix command leave -/

section
variable (c : Core) (k : Cmd)

theorem Core.deferTo_mx (n : Nat) (t : Trap) (h : Option Nat) : (c.deferTo n t h).mx = c.mx := c.deferTo_queue .mx n t h

theorem Core.deferTo_acc (n : Nat) (t : Trap) (h : Option Nat) (a : Bool) : (c.deferTo n t h).acc a = c.acc a := by
  obtain ⟨w, hw⟩ := c.deferTo_eq n t h
  rw [hw]
  rfl

theorem Core.setSlot_mx (o : Nat) (x : Slot) : (c.setSlot o x).mx = c.mx := by
  obtain ⟨v, hv⟩ := c.setSlot_eq o x
  rw [hv]

theorem Core.loadSlot_mx (mf : Mf) (o : Nat) : (c.loadSlot k mf o).mx = c.mx := by
  unfold Core.loadSlot
  dsimp only
  split
  · exact (Core.deferTo_mx ..).trans (Core.setSlot_mx ..)
  · exact Core.setSlot_mx ..

theorem Core.writeBank_mx (acc isInt : Bool) : (c.writeBank k acc isInt).mx = c.mx := by
  unfold Core.writeBank
  dsimp only
  split
  · exact (Core.deferTo_mx ..).trans (Core.setAcc_mx ..)
  · exact Core.setAcc_mx ..

theorem Core.engineWrite_mx (a : Nat) (bs : List Byte) : (c.engineWrite a bs).mx = c.mx := by
  obtain ⟨v, w, h⟩ := c.lsWrite_eq true a bs
  rw [Core.engineWrite, h]

/-- A matrix command's effects mark it as started, and change no other command. -/
theorem Core.mxRun_mx : ∃ w, (c.mxRun k).mx = (c.startCmd .mx k w).mx := by
  have start {c' : Core} (h : c'.mx = c.mx) (w : Word) : (c'.startCmd .mx k w).mx = (c.startCmd .mx k w).mx := by
    simp only [Core.startCmd, Core.modCmd, Core.setQueue, Core.queue, h]
  unfold Core.mxRun
  split
  · exact ⟨_, start (Core.loadSlot_mx ..) _⟩
  · split
    · exact ⟨_, start (Core.deferTo_mx ..) _⟩
    · exact ⟨_, start (Core.setAcc_mx ..) _⟩
  · exact ⟨_, start (Core.engineWrite_mx ..) _⟩
  · exact ⟨_, start (Core.writeBank_mx ..) _⟩
  · exact ⟨_, start (Core.setAcc_mx ..) _⟩
  · exact ⟨_, rfl⟩

variable {c k} {p : Pred} {tag : Tag} {acc ow : Bool} {y : Sync} {mf : Mf} {o o2 : OReg} {rm : Rm} {a : SReg} {off : BitVec 24}

/-- The core whose matrix head has passed steps 1 to 3 and has run. -/
def Core.headRun (c : Core) (k : Cmd) : Core := (c.passed .mx k).mxRun k.running

/-- MZERO clears the working bank, with factor 1 (R269). -/
theorem Core.headRun_mzero (hi : k.instr = .mzero p tag acc y) : (c.headRun k).acc acc = { c.acc acc with
    work := { (c.acc acc).work with el := [], isInt := tag == 5, bandA := 0x3F80, bandB := 0x3F80 } } := by
  have hi' : k.running.instr = .mzero p tag acc y := hi
  simp only [Core.headRun, Core.mxRun, hi', Core.startCmd, Core.modCmd_acc, Core.acc_setAcc]
  rfl

/-- The bank that an MWRITE of clean bytes leaves (R269). -/
def Core.writtenBank (c : Core) (k : Cmd) (acc isInt : Bool) : Bank :=
  { (c.acc acc).work with
    el := (List.range 4096).map (fun n =>
      if 4 * n < 16384 then BitVec.ofNat 32 (leNat (c.ls.read (k.a.toNat + 4 * n) 4)) else (c.acc acc).work.get n)
    isInt := isInt, bandA := 0x3F80, bandB := 0x3F80 }

theorem Core.headRun_mwrite (hi : k.instr = .mwrite p tag acc a off y) (hp : c.ls.poisonAt k.a.toNat 16384 = none) :
    (c.headRun k).acc acc = { c.acc acc with work := c.writtenBank k acc (tag == 5) } := by
  have hi' : k.running.instr = .mwrite p tag acc a off y := hi
  have hp' : (c.passed .mx k).ls.poisonAt k.running.a.toNat 16384 = none := hp
  simp only [Core.headRun, Core.mxRun, hi', Core.startCmd, Core.modCmd_acc, Core.writeBank, hp', Core.acc_setAcc]
  rfl

theorem Bank.get_range {x : Bank} {m n : Nat} {g : Nat → BitVec 32} (hx : x.el = (List.range m).map g) (hn : n < m) : x.get n = g n := by
  simp [Bank.get, hx, List.getElem?_range hn]

theorem Core.writtenBank_get {isInt : Bool} {n : Nat} (hn : n < 4096) : (c.writtenBank k acc isInt).get n
    = BitVec.ofNat 32 (leNat (c.ls.read (k.a.toNat + 4 * n) 4)) := by
  rw [Bank.get_range (m := 4096) (x := c.writtenBank k acc isInt) (by rw [Core.writtenBank]) hn, if_pos (by omega)]

/-- A byte of a list laid over another is that of the first, where it has one. -/
theorem byteAt_overlay {new old : List Byte} {len n : Nat} (hn : n < len) (hnew : n < new.length) :
    byteAt (overlay new old len) n = byteAt new n := by
  simp [byteAt, overlay, List.getElem?_range hn, List.getElem?_eq_getElem hnew]

theorem Store.read_length (l : Store) (x n : Nat) : (l.read x n).length = n := by simp [Store.read, cellsRead]

theorem byteAt_take {l : List Byte} {m n : Nat} (h : n < m) : byteAt (l.take m) n = byteAt l n := by
  simp [byteAt, h]

theorem byteAt_drop (l : List Byte) (m n : Nat) : byteAt (l.drop m) n = byteAt l (m + n) := by
  simp [byteAt, List.getElem?_drop]

/-- The slot that an MLOAD of clean bytes leaves (R263, R265). -/
def Core.loadedSlot (c : Core) (k : Cmd) (mf : Mf) (o : Nat) : Slot :=
  let bs := c.ls.read k.a.toNat (mloadBytes mf)
  { c.slot o with
    data := overlay (bs.take 4096) (c.slot o).data 4096
    scales := if mf == .fp4 then overlay (bs.drop 4096) (c.slot o).scales 1024 else (c.slot o).scales
    poison := false, dataGen := k.e0.toNat, dataFmt := some mf }

theorem Core.headRun_mload (hi : k.instr = .mload p mf o a off y) (hp : c.ls.poisonAt k.a.toNat (mloadBytes mf) = none) :
    (c.headRun k).slot o.toNat = c.loadedSlot k mf o.toNat := by
  have hi' : k.running.instr = .mload p mf o a off y := hi
  have hp' : (c.passed .mx k).ls.poisonAt k.running.a.toNat (mloadBytes mf) = none := hp
  have hslot : (c.headRun k).slot o.toNat = ((c.passed .mx k).setSlot o.toNat (c.loadedSlot k mf o.toNat)).slot o.toNat := by
    simp only [Core.headRun, Core.mxRun, hi', Core.loadSlot, hp']
    rfl
  rw [hslot, Core.slot_setSlot _ _ o.isLt]

theorem Core.loadedSlot_data {n : Nat} (hn : n < 4096) :
    byteAt (c.loadedSlot k mf o.toNat).data n = byteAt (c.ls.read k.a.toNat (mloadBytes mf)) n := by
  have hlen : 4096 ≤ mloadBytes mf := by cases mf <;> decide
  have hbytes : 4096 ≤ (c.ls.read k.a.toNat (mloadBytes mf)).length := by rwa [Store.read_length]
  rw [Core.loadedSlot]
  dsimp only
  rw [byteAt_overlay hn (by rw [List.length_take]; omega), byteAt_take hn]

theorem Core.loadedSlot_scales {n : Nat} (hmf : mf = .fp4) (hn : n < 1024) :
    byteAt (c.loadedSlot k mf o.toNat).scales n = byteAt (c.ls.read k.a.toNat (mloadBytes mf)) (4096 + n) := by
  have hbytes : (c.ls.read k.a.toNat (mloadBytes mf)).length = 5120 := by rw [Store.read_length, hmf, mloadBytes]
  have hfp4 : (mf == .fp4) = true := beq_iff_eq.2 hmf
  rw [Core.loadedSlot]
  dsimp only
  rw [if_pos hfp4, byteAt_overlay hn (by rw [List.length_drop]; omega), byteAt_drop]

/-- An MMA that does not serve changes no accumulator, and defers its fault (R95, R149, R366). -/
theorem Core.headRun_mma_trap {t : Trap} (hi : k.instr = .mma p mf ow acc o o2 y) (ht : mmaHeadTrap c k mf ow acc o o2 = some t) :
    (c.headRun k).acc acc = c.acc acc ∧ (k.ctx = 0 → ((c.headRun k).ctx 0).deferred.isSome = true) := by
  have hi' : k.running.instr = .mma p mf ow acc o o2 y := hi
  have ht' : mmaHeadTrap (c.passed .mx k) k.running mf ow acc o o2 = some t := ht
  have hrun : c.headRun k = ((c.passed .mx k).deferTo k.ctx t).startCmd .mx k.running := by
    simp only [Core.headRun, Core.mxRun, hi', ht']
    rfl
  rw [hrun, Core.startCmd, Core.modCmd_acc, Core.modCmd_ctx, Core.deferTo_acc]
  exact ⟨rfl, fun hk => Core.deferTo_isSome _ hk ..⟩

theorem Core.headRun_mma (hi : k.instr = .mma p mf ow acc o o2 y) (ht : mmaHeadTrap c k mf ow acc o o2 = none) :
    (c.headRun k).acc acc = { c.acc acc with
      work := (mmaBank mf ow k.topx (c.slot o.toNat) (c.slot o2.toNat) k.bandA k.bandB (c.acc acc).work).1 } := by
  have hi' : k.running.instr = .mma p mf ow acc o o2 y := hi
  have ht' : mmaHeadTrap (c.passed .mx k) k.running mf ow acc o o2 = none := ht
  simp only [Core.headRun, Core.mxRun, hi', ht', Core.startCmd, Core.modCmd_acc, Core.acc_setAcc]
  rfl

/-- Element n of the bank that an MMA leaves, with its flags. -/
def mmaElement (mf : Mf) (ow topx : Bool) (A B : Slot) (w : Bank) (n : Nat) : Nat × Word :=
  if mf == .i8 then (mmaInt A B (n / 64) (n % 64) (if ow then 0 else (w.get n).toNat), 0)
  else mmaFloat mf topx A B (n / 64) (n % 64) (if ow then 0 else (w.get n).toNat)

theorem mmaBank_el (topx : Bool) (A B : Slot) (bandA bandB : BitVec 16) (w : Bank) : (mmaBank mf ow topx A B bandA bandB w).1.el
    = (List.range 4096).map (fun n => BitVec.ofNat 32 (mmaElement mf ow topx A B w n).1) := by
  simp only [mmaBank, List.map_map]
  exact List.map_congr_left fun n _ => rfl

/-- Element (i, j) of the bank that an MMA leaves (R147, R148). -/
theorem mmaBank_get {topx : Bool} {A B : Slot} {bandA bandB : BitVec 16} {w : Bank} {i j : Nat} (hi : i < 64) (hj : j < 64) :
    (mmaBank mf ow topx A B bandA bandB w).1.get (64 * i + j) = BitVec.ofNat 32
      (if mf = .i8 then mmaInt A B i j (if ow = true then 0 else (w.get (64 * i + j)).toNat)
       else (mmaFloat mf topx A B i j (if ow = true then 0 else (w.get (64 * i + j)).toNat)).1) := by
  rw [Bank.get_range (mmaBank_el ..) (by omega)]
  have hrow : (64 * i + j) / 64 = i := by omega
  have hcol : (64 * i + j) % 64 = j := by omega
  simp only [mmaElement, hrow, hcol, beq_iff_eq]
  split <;> rfl

/-- MSTORE writes the converted elements, their granules full (R272). -/
theorem Core.headRun_mstore (hi : k.instr = .mstore p tag acc rm a off y) : (c.headRun k).ls = c.ls.writeFull k.a.toNat
    ((List.range 4096).flatMap (fun n => natBytes (tagBytes tag) (bankValue (k.e0 == 1) (c.acc acc).vis tag k.topx rm 0
      ((c.acc acc).vis.get n)).1)) := by
  have hi' : k.running.instr = .mstore p tag acc rm a off y := hi
  simp only [Core.headRun, Core.mxRun, hi', Core.startCmd, Core.modCmd_ls, Core.engineWrite_ls, List.flatMap_map]
  rfl

end

/-! ## The matrix head event -/

section
variable {s : State} {d c : Nat} {b : Binding} {k : Cmd} {rest : List Cmd}

/-- The matrix head that runs is started, and no command comes or goes. -/
theorem Core.headRun_mx (x : Core) (k : Cmd) : (x.headRun k).mx.map (·.id) = x.mx.map (·.id)
    ∧ ∀ j ∈ (x.headRun k).mx, j.id = k.id → j.started = true := by
  obtain ⟨w, hw⟩ := Core.mxRun_mx (x.passed .mx k) k.running
  rw [Core.headRun, hw]
  have hpassed := (x.readGuard k).modCmd_ids .mx k.id (fun j => { j with step := .run }) fun _ => rfl
  have hstarted := (x.passed .mx k).modCmd_ids .mx k.id (fun j => { j with started := true, flags := w }) fun _ => rfl
  exact ⟨hstarted.trans hpassed, Core.mem_modCmd (q := .mx) fun _ _ => rfl⟩

theorem State.runHead_mx (hk : cmdQueue k.instr = .mx) : s.runHead d c b .mx k = s.runMatrix d c k := by
  unfold State.runHead
  split
  case h_5 => rfl
  all_goals next hi => rw [hi] at hk; cases hk

variable (h : Alone s d c b) (hch : b.checker = false) (hq : (s.core d c).mx = k :: rest) (hk : cmdQueue k.instr = .mx)
  (hhalt : k.halted = none) (hdone : k.done = false) (hs : k.started = false) (hfrozen : (s.core d c).frozen = false)
  (hd : (s.core d c).headDec k = .runs) (hecc : (s.core d c).eccG = [])
include h hch hq hk hhalt hdone hs hfrozen hd hecc

/-- A matrix head that passes steps 1 to 3 runs, unless an exchange stands before it (R99). -/
theorem exec_matrixHead : exec (.engineCmdHead d c .mx) s = .next (s.setCore d c
    (if (s.core d c).swapPending k then (s.core d c).passed .mx k else (s.core d c).headRun k)) := by
  rw [exec_engineCmdHead_runs (q := .mx) h hch hq hhalt hdone hs hfrozen hd, State.runHead_mx (k := k.running) hk, State.runMatrix, h.core_setCore,
    Core.eccGran_none (c := (s.core d c).passed .mx k) hecc, if_neg Bool.false_ne_true]
  by_cases hp : (s.core d c).swapPending k = true
  · have hp' : ((s.core d c).passed .mx k).swapPending k.running = true := hp
    rw [if_pos hp, if_pos hp']
  · have hp' : ¬ ((s.core d c).passed .mx k).swapPending k.running = true := hp
    rw [if_neg hp, if_neg hp', State.modCore1, h.core_setCore, State.setCore_setCore, Core.headRun]

end

end Sys2Proof.Machine

/-! # The copy queue at its head (O44) -/

namespace Sys2Proof.Machine
open Sys2Proof

section
variable {s : State} {d c : Nat} {b : Binding} {k : Cmd} {rest : List Cmd}

/-! ## What a command sends to its own device -/

/-- The messages bodies have been sent to the command's own device, and its core has its number's commands changed by f (R273, R275). -/
def State.SentFrom (s u : State) (d c : Nat) (k : Cmd) (f : Cmd → Cmd) (bodies : List Body) : Prop :=
  ∃ ms, u.net = s.net ++ ms ∧ ms.map (fun m => (m.dev, m.weights, m.body)) = bodies.map (fun m => (d, k.weights, m))
    ∧ (u.core d c).cx = (s.core d c).cx.map (fun j => if j.id == k.id then f j else j) ∧ (u.core d c).ls = (s.core d c).ls

/-- Sending several messages of one device inside it. -/
def State.sendHere (s : State) (d : Nat) (w : BitVec 24) (bodies : List Body) : State := bodies.foldl (fun u m => u.send d d w m) s

theorem State.net_sendHere (s : State) (d : Nat) (w : BitVec 24) (bodies : List Body) : ∃ ms, (s.sendHere d w bodies).net = s.net ++ ms
    ∧ ms.map (fun m => (m.dev, m.weights, m.body)) = bodies.map (fun m => (d, w, m)) := by
  induction bodies generalizing s with
  | nil => exact ⟨[], (List.append_nil _).symm, rfl⟩
  | cons m bodies ih =>
    obtain ⟨hold, hnet⟩ := s.net_send_here w m (rfl : d = d)
    obtain ⟨ms, hms, hmap⟩ := ih (s.send d d w m)
    refine ⟨⟨d, hold, w, m⟩ :: ms, ?_, by rw [List.map_cons, hmap, List.map_cons]⟩
    rw [State.sendHere, List.foldl_cons, ← State.sendHere, hms, hnet, List.append_assoc, List.singleton_append]

theorem State.core_sendHere (s : State) (e : Nat) (w : BitVec 24) (bodies : List Body) (d c : Nat) :
    (s.sendHere e w bodies).core d c = s.core d c :=
  (State.keeps_foldl (fun u m => u.keeps_cores_send e e w m) bodies s).core d c

/-- Sending messages and changing the command, in a core y whose copy queue and store are those of the command's core. -/
theorem Alone.sentFrom (h : Alone s d c b) (y : Core) (hcx : y.cx = (s.core d c).cx) (hls : y.ls = (s.core d c).ls) (f : Cmd → Cmd)
    (bodies : List Body) : s.SentFrom ((s.setCore d c (y.modCmd .cx k.id f)).sendHere d k.weights bodies) d c k f bodies := by
  obtain ⟨ms, hnet, hmap⟩ := (s.setCore d c (y.modCmd .cx k.id f)).net_sendHere d k.weights bodies
  refine ⟨ms, by rw [hnet, State.setCore_net], hmap, ?_, ?_⟩
  · rw [State.core_sendHere, h.core_setCore, ← hcx]
    rfl
  · rw [State.core_sendHere, h.core_setCore, Core.modCmd_ls, hls]

/-! ## A head that starts (R273) -/

/-- A command that has started. -/
def Cmd.begun (k : Cmd) : Cmd := { k with step := .run, started := true, flags := 0 }

/-- Starting a head that has passed steps 1 to 3. -/
theorem Core.startCmd_passed (x : Core) (q : EngQ) (k : Cmd) :
    (x.passed q k).startCmd q k.running = (x.readGuard k).modCmd q k.id Cmd.begun := Core.modCmd_modCmd _ _ _ _ _ fun _ => rfl

theorem State.runHead_copy {p : Pred} {x y z w : SReg} {yy : Sync}
    (hi : k.instr = .cpyFetch p x y z w yy ∨ ∃ st, k.instr = .cpyPutj p x y z w st yy) (q : EngQ) :
    s.runHead d c b q k = s.modCore d c (fun x => x.startCmd .cx k) := by
  rcases hi with hi | ⟨st, hi⟩ <;> simp only [State.runHead, hi]

/-! ## The lines of a copy (R79, R273, R281) -/

theorem State.continueHead_fetch {p : Pred} {x y z w : SReg} {yy : Sync} (hi : k.instr = .cpyFetch p x y z w yy)
    (hsent : k.sentAll = false) : s.continueHead d c b k = s.copyLine d c b k false := by
  simp only [State.continueHead, hi, hsent, Bool.false_eq_true, if_false]

theorem State.continueHead_put {p : Pred} {x y z w : SReg} {st : Option SReg} {yy : Sync} (hi : k.instr = .cpyPutj p x y z w st yy)
    (hsent : k.sentAll = false) : s.continueHead d c b k = s.copyLine d c b k true := by
  simp only [State.continueHead, hi, hsent, Bool.not_false, if_true]

/-- The address of a command's next line. -/
def Cmd.lineVa (k : Cmd) : Word := k.a + BitVec.ofNat 64 k.off

theorem State.copyLine_miss {put : Bool} (ht : engineTr (s.core d c) k b.asid k.lineVa = .miss) :
    s.copyLine d c b k put = s.askWalk d ⟨dieOf c, .cmd c .cx, b.asid, k.lineVa⟩ := by
  unfold Cmd.lineVa at *
  simp only [State.copyLine, ht]
  rfl

/-- A line that may not be copied halts its command there. -/
theorem State.copyLine_halts {put : Bool} {f : Trap} (h : Alone s d c b) (ht : engineTr (s.core d c) k b.asid k.lineVa = .bad f
      ∨ ∃ t, engineTr (s.core d c) k b.asid k.lineVa = .hit t ∧ copyTrap put t k.lineVa = some f) :
    s.copyLine d c b k put = s.setCore d c ((s.core d c).haltCmd k k.off f) := by
  unfold Cmd.lineVa at *
  rw [← State.modCore_alone h (fun x => x.haltCmd k k.off f)]
  rcases ht with ht | ⟨t, ht, hf⟩
  · simp only [State.copyLine, ht]
  · simp only [State.copyLine, ht, hf]

/-- The first halt of a command. -/
theorem Core.haltCmd_head {x : Core} (hq : x.cx = k :: rest) (hhalt : k.halted = none) (off : Nat) (t : Trap) :
    x.haltCmd k off t = (x.modCmd .cx k.id (fun j => { j with
      halted := some t, recorded := false, off := off, await := j.await.filter (· < off), walkErr := none })).deferTo k.ctx
        ⟨t.cause, t.addr, BitVec.ofNat 64 off⟩ (some k.id) := by
  have hown : x.own .cx k = k := Core.own_of_head hq rfl
  simp only [Core.haltCmd, hown, hhalt, Option.isSome_none, Bool.false_eq_true, if_false]

/-- The exact read of a FETCH's line (R273). -/
def fetchBody (d c : Nat) (b : Binding) (k : Cmd) (t : Tlb) : Body :=
  .req (gLocal (t.phys k.lineVa) / 64) (some b.launch)
    (.xread (.cmd d c .cx k.id k.off) k.lineVa t.kind t.wd 0 64 (k.ver.setWidth 32))

theorem State.copyLine_fetch {t : Tlb} (h : Alone s d c b) (ht : engineTr (s.core d c) k b.asid k.lineVa = .hit t)
    (hf : copyTrap false t k.lineVa = none) (hd : gDev (t.phys k.lineVa) = d) : s.copyLine d c b k false
      = (s.setCore d c ((s.core d c).modCmd .cx k.id (fun j => { j with await := j.await ++ [k.off], off := k.off + 64 }))).sendHere d
        k.weights [fetchBody d c b k t] := by
  unfold fetchBody Cmd.lineVa at *
  simp only [State.copyLine, ht, hf, hd, State.fetchLine, State.modCore_alone h, bne_self_eq_false, Bool.false_and, Bool.false_eq_true,
    if_false, Bool.not_false, if_true]
  rfl

/-- A line of home memory lies on the device of each of its bytes. -/
theorem gDev_line (g : Nat) : gDev (g / 64 * 64) = gDev g := by
  unfold gDev
  omega

/-- Engines of a core without a partner and without injected errors read what it holds. -/
theorem Alone.eccRange (h : Alone s d c b) (hecc : (s.core d c).eccG = []) (a n : Nat) : s.eccRange d c a n = false := by
  simp [State.eccRange, Core.eccGran_none hecc, h.1, h.2]

theorem Alone.pairDiffers (h : Alone s d c b) (a n : Nat) : s.pairDiffers d c a n = false := by
  simp [State.pairDiffers, h.1, h.2]

/-- A join of a PUTJ's line (R273). -/
def putBody (d c : Nat) (b : Binding) (k : Cmd) (t : Tlb) (tok : Nat) (data : JoinData) : Body :=
  .req (gLocal (t.phys k.lineVa / 64 * 64) / 64) (some b.launch)
    (.join [⟨.cmd d c .cx k.id tok, some b.launch, b.asid, k.lineVa, data⟩])

/-- A PUTJ's line of which no granule is poisoned is sent whole. -/
theorem State.copyLine_put {t : Tlb} {gs : List Nat} {data : Nat → JoinData} (h : Alone s d c b) (hecc : (s.core d c).eccG = [])
    (ht : engineTr (s.core d c) k b.asid k.lineVa = .hit t) (hf : copyTrap true t k.lineVa = none) (hd : gDev (t.phys k.lineVa) = d)
    (hclean : ∀ i, i < 4 → (s.core d c).ls.isPoison ((k.d.toNat + k.off) / 16 + i) = false)
    (hgs : gs = if t.kind == .ver then [0] else List.range 4)
    (hdata : data = fun i => if t.kind == .ver then
        .ver (k.ver.setWidth 32) (BitVec.ofNat 512 (leNat ((s.core d c).ls.read (k.d.toNat + k.off) 64)))
      else .fill i 0xFFFFFFFF (BitVec.ofNat 128 (leNat ((s.core d c).ls.read (k.d.toNat + k.off + 16 * i) 16)))) :
    s.copyLine d c b k true = (s.setCore d c ((s.core d c).modCmd .cx k.id (fun j => { j with
      await := j.await ++ gs.map (fun i => k.off + 16 * i), off := k.off + 64 }))).sendHere d k.weights
        (gs.map (fun i => putBody d c b k t (k.off + 16 * i) (data i))) := by
  subst hgs hdata
  have hbad : (List.range 4).find? (fun i => (s.core d c).ls.isPoison ((k.d.toNat + k.off) / 16 + i)) = none :=
    List.find?_eq_none.2 fun i hi => by simp [hclean i (List.mem_range.1 hi)]
  unfold putBody Cmd.lineVa at *
  simp only [State.copyLine, ht, hf, hd, State.putLine, State.modCore_alone h, h.eccRange hecc, h.pairDiffers, hbad, bne_self_eq_false,
    Bool.false_and, Bool.false_eq_true, if_false, Bool.not_true, Option.isSome_none, Option.getD_none, Bool.or_false, State.sendHere,
    List.foldl_map, State.copyJoin, gDev_line]

/-! ## SEND (R275) -/

/-- A SEND that has left. -/
def Cmd.left (k : Cmd) : Cmd := { k with step := .run, started := true, flags := 0, await := [0] }

/-- Marking a SEND that has passed steps 1 to 3. -/
theorem Core.left_passed (x : Core) (k : Cmd) : ((x.passed .cx k).startCmd .cx k.running).modCmd .cx k.id (fun j => { j with await := [0] })
    = (x.readGuard k).modCmd .cx k.id Cmd.left := by
  rw [Core.startCmd_passed]
  exact Core.modCmd_modCmd _ _ _ _ _ fun _ => rfl

/-- The landing that a SEND leaves as. -/
def sendBody (d c : Nat) (b : Binding) (k : Cmd) (fmt : Tag) (bs : List Byte) : Body := .land
  { src := ⟨d, c, k.ctx⟩, no := k.id, cmd := some k.id, from_ := b.lcore, rcv := k.a.toNat, off := k.b, data := bs
    seq := k.seq, topx := k.topx, typed := isTyped fmt, launch := b.launch, passed := false }

theorem State.runHead_send {p : Pred} {x y z : SReg} {len : BitVec 14} {fmt : Tag} {yy : Sync} (hi : k.instr = .send p x y z len fmt yy)
    (q : EngQ) : s.runHead d c b q k = s.runSend d c b k fmt := by
  simp only [State.runHead, hi]

theorem Cmd.src_send {p : Pred} {x y z : SReg} {len : BitVec 14} {fmt : Tag} {yy : Sync} (hi : k.instr = .send p x y z len fmt yy) :
    k.src = (k.d.toNat, 16 * (len.toNat + 1)) := by
  simp only [Cmd.src, hi]

section
variable (h : Alone s d c b) {x : Core} (hb : x.bound = some b) (hecc : x.eccG = []) {fmt : Tag} {a n : Nat} (hsrc : k.src = (a, n))
  (hp : x.ls.poisonAt a n = none)
include h hb hecc hsrc hp

theorem State.runSend_lands {r : Nat} (hto : b.place k.a.toNat = some (d, r)) : (s.setCore d c x).runSend d c b k fmt
      = (s.setCore d c ((x.startCmd .cx k).modCmd .cx k.id (fun j => { j with await := [0] }))).sendHere d k.weights
        [sendBody d c b k fmt (x.ls.read a n)] := by
  have h1 := h.setCore hb
  have hx := h.core_setCore x
  simp only [State.runSend, hsrc, h1.eccRange (by rw [hx]; exact hecc), hx, hp, h1.pairDiffers, hto, State.modCore_alone h1,
    State.setCore_setCore, bne_self_eq_false, Bool.false_and, Bool.false_eq_true, if_false]
  rfl

/-- A SEND to no bound core is abandoned, its fault deferred. -/
theorem State.runSend_abandons (hto : b.place k.a.toNat = none) : (s.setCore d c x).runSend d c b k fmt
      = s.setCore d c ((x.deferTo k.ctx ⟨Cause.exchangeViolation, k.b, k.a⟩).finishCmd .cx k) := by
  have h1 := h.setCore hb
  have hx := h.core_setCore x
  simp only [State.runSend, hsrc, h1.eccRange (by rw [hx]; exact hecc), hx, hp, h1.pairDiffers, hto, State.modCore_alone h1,
    State.setCore_setCore, Bool.false_eq_true, if_false]

end

/-! ## The copy head event -/

section
variable (h : Alone s d c b) (hch : b.checker = false) (hq : (s.core d c).cx = k :: rest) (hhalt : k.halted = none)
  (hdone : k.done = false) {p : Pred} {x y z w : SReg} {yy : Sync}
include h hch hq hhalt hdone

section
variable (hs : k.started = false) (hf : (s.core d c).frozen = false) (hd : (s.core d c).headDec k = .runs)
include hs hf hd

/-- A copy starts (R273). -/
theorem exec_copyHead_starts (hi : k.instr = .cpyFetch p x y z w yy ∨ ∃ st, k.instr = .cpyPutj p x y z w st yy) :
    exec (.engineCmdHead d c .cx) s = .next (s.setCore d c (((s.core d c).readGuard k).modCmd .cx k.id Cmd.begun)) := by
  have hb : ((s.core d c).passed .cx k).bound = some b := h.1
  rw [exec_engineCmdHead_runs (q := .cx) h hch hq hhalt hdone hs hf hd, State.runHead_copy (k := k.running) hi, h.modCore_setCore hb,
    Core.startCmd_passed]

variable {len : BitVec 14} {fmt : Tag} (hi : k.instr = .send p x y z len fmt yy) (hecc : (s.core d c).eccG = [])
  (hclean : (s.core d c).ls.poisonAt k.d.toNat (16 * (len.toNat + 1)) = none)
include hi hecc hclean

/-- A SEND leaves as one landing (R275). -/
theorem exec_sendHead_leaves {r : Nat} (hto : b.place k.a.toNat = some (d, r)) : exec (.engineCmdHead d c .cx) s
    = .next ((s.setCore d c (((s.core d c).readGuard k).modCmd .cx k.id Cmd.left)).sendHere d k.weights
      [sendBody d c b k fmt ((s.core d c).ls.read k.d.toNat (16 * (len.toNat + 1)))]) := by
  have hb : ((s.core d c).passed .cx k).bound = some b := h.1
  have hland := State.runSend_lands (k := k.running) (x := (s.core d c).passed .cx k) (fmt := fmt) h hb hecc (Cmd.src_send hi) hclean hto
  rw [exec_engineCmdHead_runs (q := .cx) h hch hq hhalt hdone hs hf hd, State.runHead_send (k := k.running) hi, hland]
  exact congrArg (fun X => Host.Outcome.next ((s.setCore d c X).sendHere d k.weights _)) ((s.core d c).left_passed k)

/-- A SEND to no bound core is abandoned. -/
theorem exec_sendHead_abandons (hto : b.place k.a.toNat = none) : exec (.engineCmdHead d c .cx) s
    = .next (s.setCore d c ((((s.core d c).passed .cx k).deferTo k.ctx ⟨Cause.exchangeViolation, k.b, k.a⟩).finishCmd .cx k.running)) := by
  have hb : ((s.core d c).passed .cx k).bound = some b := h.1
  have hgone := State.runSend_abandons (k := k.running) (x := (s.core d c).passed .cx k) (fmt := fmt) h hb hecc (Cmd.src_send hi) hclean hto
  rw [exec_engineCmdHead_runs (q := .cx) h hch hq hhalt hdone hs hf hd, State.runHead_send (k := k.running) hi, hgone]
  rfl

end

variable (hs : k.started = true) (hsent : k.sentAll = false)
include hs hsent

section
variable (hi : k.instr = .cpyFetch p x y z w yy)
include hi

theorem exec_fetchHead : exec (.engineCmdHead d c .cx) s = .next (s.copyLine d c b k false) := by
  rw [exec_engineCmdHead_started (q := .cx) h hch hq hhalt hdone hs, State.continueHead_fetch hi hsent]

/-- A FETCH halts at a line that may not be copied (R281), its fault deferred. -/
theorem exec_fetchHead_halts {f : Trap} (hf : engineTr (s.core d c) k b.asid k.lineVa = .bad f
      ∨ ∃ t, engineTr (s.core d c) k b.asid k.lineVa = .hit t ∧ copyTrap false t k.lineVa = some f) :
    ∃ u, exec (.engineCmdHead d c .cx) s = .next u ∧ u.net = s.net ∧ (k.ctx = 0 → ((u.core d c).ctx 0).deferred.isSome = true)
      ∧ ∀ j ∈ (u.core d c).cx, j.id = k.id → j.halted = some f ∧ j.off = k.off := by
  refine ⟨_, (exec_fetchHead h hch hq hhalt hdone hs hsent hi).trans (congrArg _ (State.copyLine_halts h hf)), State.setCore_net .., ?_⟩
  rw [h.core_setCore, Core.haltCmd_head hq hhalt]
  refine ⟨fun hk => Core.deferTo_isSome _ hk .., ?_⟩
  have hmem := Core.mem_modCmd (c := s.core d c) (q := .cx) (id := k.id) (P := fun j => j.halted = some f ∧ j.off = k.off)
    (f := fun j => { j with
      halted := some f, recorded := false, off := k.off, await := j.await.filter (· < k.off), walkErr := none }) fun _ _ => ⟨rfl, rfl⟩
  rw [← Core.deferTo_queue] at hmem
  exact hmem

end

variable {st : Option SReg} (hi : k.instr = .cpyPutj p x y z w st yy) (hecc : (s.core d c).eccG = []) {t : Tlb}
  (ht : engineTr (s.core d c) k b.asid k.lineVa = .hit t) (hf : copyTrap true t k.lineVa = none) (hd : gDev (t.phys k.lineVa) = d)
  (hclean : ∀ i, i < 4 → (s.core d c).ls.isPoison ((k.d.toNat + k.off) / 16 + i) = false)
include hi hecc ht hf hd hclean

/-- A PUTJ's line of .ver granules goes as one join (R273). -/
theorem exec_putHead_ver (hk : t.kind = .ver) : exec (.engineCmdHead d c .cx) s = .next ((s.setCore d c ((s.core d c).modCmd .cx k.id
    (fun j => { j with await := j.await ++ [k.off], off := k.off + 64 }))).sendHere d k.weights [putBody d c b k t k.off
      (.ver (k.ver.setWidth 32) (BitVec.ofNat 512 (leNat ((s.core d c).ls.read (k.d.toNat + k.off) 64))))]) := by
  rw [exec_engineCmdHead_started (q := .cx) h hch hq hhalt hdone hs, State.continueHead_put hi hsent,
    State.copyLine_put h hecc ht hf hd hclean rfl rfl]
  simp only [hk, beq_self_eq_true, if_true, List.map_cons, List.map_nil, Nat.mul_zero, Nat.add_zero]

/-- A PUTJ's line of .fill granules goes as four joins (R273). -/
theorem exec_putHead_fill (hk : t.kind = .fill) : exec (.engineCmdHead d c .cx) s = .next ((s.setCore d c ((s.core d c).modCmd .cx k.id
    (fun j => { j with await := j.await ++ [k.off, k.off + 16, k.off + 32, k.off + 48], off := k.off + 64 }))).sendHere d k.weights
      ((List.range 4).map (fun i => putBody d c b k t (k.off + 16 * i)
        (.fill i 0xFFFFFFFF (BitVec.ofNat 128 (leNat ((s.core d c).ls.read (k.d.toNat + k.off + 16 * i) 16))))))) := by
  have hver : (t.kind == .ver) = false := by rw [hk]; rfl
  have hoffs : (List.range 4).map (fun i => k.off + 16 * i) = [k.off, k.off + 16, k.off + 32, k.off + 48] := rfl
  rw [exec_engineCmdHead_started (q := .cx) h hch hq hhalt hdone hs, State.continueHead_put hi hsent,
    State.copyLine_put h hecc ht hf hd hclean rfl rfl]
  simp only [hver, Bool.false_eq_true, if_false, hoffs]

end

end

end Sys2Proof.Machine

/-! # Completions, answers and source copies (O44) -/

namespace Sys2Proof.Machine
open Sys2Proof

section
variable {s : State} {d c : Nat} {b : Binding} {k : Cmd} {q : EngQ} {rest : List Cmd}

/-! ## Completion (R101, R102, R273) -/

/-- A command that has finished with its fault deferred. -/
theorem Core.Finished.of_deferTo {x u : Core} {n : Nat} {t : Trap} (h : (x.deferTo n t).Finished u q k) :
    u.queue q = (x.queue q).filter (fun j => j.id != k.id) ∧ u.ls = x.ls ∧ u.sems = (x.signal k).sems
      ∧ (n = 0 → (u.ctx 0).deferred.isSome = true) := by
  obtain ⟨w, hw⟩ := x.deferTo_eq n t none
  refine ⟨?_, ?_, ?_, fun hn => ?_⟩
  · rw [h.queue, Core.deferTo_queue]
  · rw [h.ls, hw]
  · rw [h.sems, Core.signal_sems, Core.signal_sems, hw]
  · rw [h.deferred]
    exact Core.deferTo_isSome _ hn ..

/-- The head of a queue that completes. -/
theorem Core.completeCmd_leaves {x : Core} (hq : x.queue q = k :: rest) :
    (x.completeCmd q k).queue q = (x.queue q).filter (fun j => j.id != k.id) ∧ (x.completeCmd q k).ls = x.ls
      ∧ (x.completeCmd q k).sems = (x.signal k).sems
      ∧ ∀ f, k.failAt = some f → k.ctx = 0 → (((x.completeCmd q k)).ctx 0).deferred.isSome = true := by
  unfold Core.completeCmd
  cases hf : k.failAt with
  | none =>
    have hfin := Core.finishCmd_finished (k := k) hq rfl rfl
    exact ⟨hfin.queue, hfin.ls, hfin.sems, nofun⟩
  | some f =>
    have hfin := Core.finishCmd_finished (c := x.deferTo k.ctx f.2) (k := k) ((Core.deferTo_queue ..).trans hq) rfl rfl
    obtain ⟨hqueue, hls, hsems, hdef⟩ := hfin.of_deferTo
    exact ⟨hqueue, hls, hsems, fun _ _ => hdef⟩

theorem exec_engineCmdComplete (h : Alone s d c b) (hq : (s.core d c).queue q = k :: rest) (hk : k.complete = true) :
    exec (.engineCmdComplete d c q) s = .next (s.setCore d c ((s.core d c).completeCmd q k)) := by
  show execEngineCmdComplete d c q s = _
  rw [execEngineCmdComplete, State.modCore_alone h, Core.completeHead, hq]
  dsimp only
  rw [if_pos hk]

/-- A queue without the command of a number does not show how that command was changed. -/
theorem Core.filter_modCmd (x : Core) (q : EngQ) (id : Nat) {f : Cmd → Cmd} (hf : ∀ j, (f j).id = j.id) :
    ((x.modCmd q id f).queue q).filter (fun j => j.id != id) = (x.queue q).filter (fun j => j.id != id) := by
  rw [Core.queue_modCmd]
  induction x.queue q with
  | nil => rfl
  | cons j l ih => by_cases h : j.id = id <;> simpa [h, hf] using ih

/-- A SEND that has passed steps 1 to 3, abandoned. -/
theorem Core.abandon_passed {x : Core} (hq : x.cx = k :: rest) (t : Trap) :
    let u := ((x.passed .cx k).deferTo k.ctx t).finishCmd .cx k.running
    u.cx = x.cx.filter (fun j => j.id != k.id) ∧ u.sems = (x.signal k).sems ∧ (k.ctx = 0 → (u.ctx 0).deferred.isSome = true) := by
  have hhead := Core.queue_modCmd_head (c := x.readGuard k) (q := .cx) hq (fun j => { j with step := .run })
  have hfin := Core.finishCmd_finished (c := (x.passed .cx k).deferTo k.ctx t) (k := k.running) ((Core.deferTo_queue ..).trans hhead) rfl rfl
  obtain ⟨hqueue, -, hsems, hdef⟩ := hfin.of_deferTo
  refine ⟨hqueue.trans ?_, ?_, hdef⟩
  · exact (x.readGuard k).filter_modCmd .cx k.id fun _ => rfl
  · rw [hsems, Core.signal_sems, Core.signal_sems]
    rfl

/-! ## Answers (R273, R276) -/

/-- The command that waits for an answer has the number that the answer names. -/
theorem Core.waiting_id {x : Core} {id tok : Nat} {j : Cmd} (h : x.waiting q id tok = some j) : j.id = id := by
  have := List.find?_some h
  simp only [Bool.and_eq_true, beq_iff_eq] at this
  exact this.1

section
variable (h : Alone s d c b) {n dv : Nat} {hd : Option Nat} {wt : BitVec 24} {id off : Nat}
include h

theorem exec_cpyFetchLine_data {j : Cmd} {bs : List Byte} (hm : s.net[n]? = some ⟨dv, hd, wt, .answer (.cmd d c .cx id off) (.data bs)⟩)
    (hw : (s.core d c).waiting .cx id off = some j) :
    exec (.cpyFetchLine n) s = .next ((s.dropMsg n).setCore d c ((s.core d c).fetched j off bs)) := by
  have h1 : Alone (s.dropMsg n) d c b := h
  have hw1 : ((s.dropMsg n).core d c).waiting .cx id off = some j := hw
  show execCpyFetchLine n s = _
  simp only [execCpyFetchLine, hm, hw1, State.modCore_alone h1]
  rfl

theorem exec_cpyFetchLine_trap {j : Cmd} {t : Trap} (hm : s.net[n]? = some ⟨dv, hd, wt, .answer (.cmd d c .cx id off) (.trap t)⟩)
    (hw : (s.core d c).waiting .cx id off = some j) (ht : t.cause ≠ Cause.memUncorr) : exec (.cpyFetchLine n) s
      = .next (((s.dropMsg n).setCore d c ((s.core d c).fetchFailed j off t)).withdrawLines d c id off) := by
  have h1 : Alone (s.dropMsg n) d c b := h
  have hw1 : ((s.dropMsg n).core d c).waiting .cx id off = some j := hw
  show execCpyFetchLine n s = _
  simp only [execCpyFetchLine, hm, hw1, State.modCore_alone h1, beq_false_of_ne ht, Bool.false_eq_true, if_false]
  rfl

theorem exec_collLatticeWait_answer {i : Nat} (hm : s.net[n]? = some ⟨dv, hd, wt, .answer (.lattice d c id) (.index i)⟩)
    (hw : ((s.core d c).waiting .port id 0).isSome = true) : exec (.collLatticeWait n) s
      = .next ((s.dropMsg n).setCore d c ((s.core d c).modCmd .port id (fun j => { j with await := [] }))) := by
  obtain ⟨j, hj⟩ := Option.isSome_iff_exists.1 hw
  have h1 : Alone (s.dropMsg n) d c b := h
  have hj1 : ((s.dropMsg n).core d c).waiting .port id 0 = some j := hj
  show execCollLatticeWait n s = _
  simp only [execCollLatticeWait, hm, hj1, h1.1, State.modCore_alone h1]
  rfl

end

/-- Withdrawing a FETCH's reads leaves its core. -/
theorem State.core_withdrawLines (s : State) (e n id off d c : Nat) : (s.withdrawLines e n id off).core d c = s.core d c :=
  ((s.keeps_mapDevs (f := Device.cores)).withNet).core d c

/-- A FETCH whose line failed waits for the lines before it alone (R273). -/
theorem Core.fetchFailed_cx {x : Core} {id off : Nat} {j : Cmd} (hj : x.waiting .cx id off = some j) (t : Trap) :
    ∀ i ∈ (x.fetchFailed j off t).cx, i.id = id → i.failAt = some (off, t) ∧ ∀ l ∈ i.await, l < off := by
  intro i hi hid
  refine Core.mem_modCmd (q := .cx) (P := fun i => i.failAt = some (off, t) ∧ ∀ l ∈ i.await, l < off) (fun i _ => ⟨rfl, fun l hl => ?_⟩)
    i hi (hid.trans (Core.waiting_id hj).symm)
  simpa using (List.mem_filter.1 hl).2

/-! ## The source copy of a collective (R276) -/

/-- What noting a spill leaves of a device. -/
theorem Device.noteSpill_colls (x : Device) : x.noteSpill.colls = x.colls := by
  unfold Device.noteSpill Device.logEv Device.raise
  dsimp only
  repeat' split
  all_goals rfl

theorem State.keeps_colls_send (s : State) (src dst : Nat) (w : BitVec 24) (m : Body) : State.Keeps Device.colls s (s.send src dst w m) := by
  have hstore (o : Device → AMap Nat) (e : Sent) : State.Keeps Device.colls s
      (s.modDev src fun x => Device.noteSpill { x with seqOut := o x, store := x.store ++ [e] }) :=
    s.keeps_modDev src fun _ => Device.noteSpill_colls _
  unfold State.send State.fabSend State.fabAccept
  dsimp only
  split
  · exact .of_devs rfl
  split
  · exact s.keeps_modDev _
  split
  · exact (hstore _ _).trans (.of_devs rfl)
  split
  · exact hstore _ _
  · exact (hstore _ _).trans (.of_devs rfl)

/-- Starting a reservation leaves every core, and of every collective its key and contributions (R297). -/
theorem State.reserveFrom_leaves (s : State) (d : Nat) (base : Coll) : State.Keeps Device.cores s (s.reserveFrom d base)
    ∧ ∀ x, aget s.devs d = some x → ∀ q ∈ x.colls, ∃ r ∈ ((s.reserveFrom d base).device d).colls, r.key = q.key ∧ r.mine = q.mine := by
  unfold State.reserveFrom
  dsimp only
  generalize hu : s.modDev d _ = u
  have hcores : State.Keeps Device.cores s u := hu ▸ s.keeps_modDev d
  have hcolls : ∀ x, aget s.devs d = some x → ∀ q ∈ x.colls, ∃ r ∈ (u.device d).colls, r.key = q.key ∧ r.mine = q.mine := by
    intro x hx q hq
    subst hu
    rw [State.device_modDev hx]
    refine ⟨_, List.mem_map_of_mem hq, ?_⟩
    split <;> exact ⟨rfl, rfl⟩
  split
  · next hop _ _ =>
    refine ⟨hcores.trans (u.keeps_cores_send ..), fun x hx q hq => ?_⟩
    rw [(u.keeps_colls_send ..).device]
    exact hcolls x hx q hq
  · exact ⟨hcores, hcolls⟩

/-- A device's first contribution to a collective is recorded, no core being changed (R286, R384). -/
theorem State.contribute_new (s : State) {x : Device} {base : Coll} (m : Contrib) (hx : aget s.devs d = some x)
    (hnew : x.coll? base.key = none) : State.Keeps Device.cores s (s.contribute d base m)
      ∧ ∃ q ∈ ((s.contribute d base m).device d).colls, q.key = base.key ∧ q.mine = [m] := by
  have hnew' : (s.device d).coll? base.key = none := by rwa [State.device_of hx]
  simp only [State.contribute, hnew']
  generalize hu : s.modDev d _ = u
  have hcores : State.Keeps Device.cores s u := hu ▸ s.keeps_modDev d
  have hdev : aget u.devs d = some { x with colls := x.colls ++ [{ s.adopt base with mine := [m], rver := x.rver }] } :=
    hu ▸ State.aget_modDev hx _
  have hmem : { s.adopt base with mine := [m], rver := x.rver } ∈ x.colls ++ [{ s.adopt base with mine := [m], rver := x.rver }] :=
    List.mem_append_right _ (List.mem_singleton_self _)
  split
  · obtain ⟨hkeep, hcolls⟩ := u.reserveFrom_leaves d (s.adopt base)
    obtain ⟨q, hq, hkey, hmine⟩ := hcolls _ hdev _ hmem
    exact ⟨hcores.trans hkeep, q, hq, hkey.trans (State.key_adopt base), hmine⟩
  · refine ⟨hcores, { s.adopt base with mine := [m], rver := x.rver }, ?_, State.key_adopt base, rfl⟩
    rw [State.device_of hdev]
    exact hmem

/-- The head of a collective port whose copy fits is copied into the engine (R276). -/
theorem exec_collSourceCopy_copies (h : Alone s d c b) (hch : b.checker = false) (hq : (s.core d c).port = k :: rest)
    (hs : k.started = true) (ha : k.await = []) (hdone : k.done = false) (hecc : (s.core d c).eccG = [])
    (hfits : (s.device d).stageUsed + k.b.toNat ≤ (s.device d).stagePool) (hp : (s.core d c).ls.poisonAt k.src.1 k.src.2 = none) :
    exec (.collSourceCopy d c) s = .next ((s.setCore d c ((s.core d c).finishCmd .port k)).contribute d
      (collOf b d k ((s.core d c).ls.read k.src.1 k.src.2)).1 (collOf b d k ((s.core d c).ls.read k.src.1 k.src.2)).2) := by
  show execCollSourceCopy d c s = _
  simp only [execCollSourceCopy, h.1, hq, hch, hs, ha, hdone, Nat.not_lt.2 hfits, State.copySource, h.eccRange hecc, hp, h.pairDiffers,
    State.modCore_alone h, List.isEmpty_nil, Bool.not_true, Bool.or_self, Bool.false_eq_true, if_false]

end

/-- Settles O44: each head, line and answer by the one change that it makes at its core, which has no partner. -/
theorem engineHeads : Obligations.EngineHeads := by
  unfold Obligations.EngineHeads
  intro s d c b k rest p tag acc ow y mf o o2 rm a off h hch core z waits atGuard signalled
  refine ⟨Core.headDec_waits_wait, Core.headDec_guard nofun nofun Core.guardDec_eq.2.1, Core.headDec_guard nofun nofun Core.guardDec_eq.2.2,
    ?head, ?matrix, ?copy, ?complete, ?line, ?failed, ?lattice, ?source⟩
  case head =>
    intro q hport hq _ hs hhalt hdone hfrozen
    refine ⟨fun n hd => ⟨_, exec_engineCmdHead_waits h hch hq hhalt hdone hs hfrozen hd, ?_⟩,
      fun hd => ⟨_, exec_engineCmdHead_discards h hch hq hhalt hdone hs hfrozen hport hd, ?_⟩⟩
    · rw [h.core_setCore, Core.modCmd_sems, Core.queue_modCmd, Core.readGuard_queue, Core.modCmd_acc, Core.modCmd_ls]
      exact ⟨rfl, State.setCore_net .., rfl, rfl, rfl⟩
    · obtain ⟨hqueue, hacc, hls, hsems⟩ := Core.discardCmd_leaves hq
      show _ ∧ _ ∧ _ ∧ _ ∧ ((State.core _ d c).sems = _)
      rw [h.core_setCore]
      exact ⟨State.setCore_net .., hqueue, hacc acc, hls, hsems.trans (Core.signal_sems ..)⟩
  case matrix =>
    intro hq hk hs hhalt hdone hfrozen kept
    refine ⟨fun hd hp hecc => ?_, fun hd hp hecc => ?_⟩
    · have he := exec_matrixHead h hch hq hk hhalt hdone hs hfrozen hd hecc
      rw [if_pos hp] at he
      refine ⟨_, he, ?_⟩
      show (State.core _ d c).mx.map _ = _ ∧ _
      rw [h.core_setCore]
      exact ⟨(core.readGuard k).modCmd_ids .mx k.id _ fun _ => rfl, rfl, Core.mem_modCmd (q := .mx) fun _ _ => rfl⟩
    · have he := exec_matrixHead h hch hq hk hhalt hdone hs hfrozen hd hecc
      rw [if_neg (Bool.eq_false_iff.1 hp)] at he
      obtain ⟨hids, hstarted⟩ := core.headRun_mx k
      refine ⟨_, he, ?_⟩
      show (State.core _ d c).mx.map _ = _ ∧ _
      rw [h.core_setCore]
      refine ⟨hids, hstarted, Core.headRun_mzero, fun hi hclean => ?_, fun hi hclean => ?_,
        fun hi => ⟨fun t => Core.headRun_mma_trap hi, fun ht => ?_⟩, Core.headRun_mstore⟩
      · rw [Core.headRun_mwrite hi hclean]
        exact ⟨rfl, rfl, rfl, rfl, fun n hn => Core.writtenBank_get hn⟩
      · rw [Core.headRun_mload hi hclean]
        exact ⟨rfl, rfl, rfl, fun n hn => Core.loadedSlot_data hn, fun hmf n hn => Core.loadedSlot_scales hmf hn⟩
      · rw [Core.headRun_mma hi ht]
        exact ⟨rfl, rfl, fun i j hi hj => mmaBank_get hi hj⟩
  case copy =>
    intro hq hhalt hdone hecc va at_ become sends
    have sent {u : State} {f : Cmd → Cmd} {bodies : List Body} (he : exec (.engineCmdHead d c .cx) s = .next u)
        (hu : s.SentFrom u d c k f bodies) : sends f bodies := by
      obtain ⟨ms, hnet, hmap, hcx, hls⟩ := hu
      exact ⟨u, ms, he, hnet, hmap, hcx, hls⟩
    refine ⟨fun st ps pd pa pb hs hf hd hi => ?_, fun ps pd pa pb st hi hs hsent => ⟨fun ht => ?_, fun t ht hc hdev => ?_, fun f hf => ?_⟩,
      fun ps pd pa pb st v t hi hs hsent ht hc hdev hclean => ⟨fun hk => ?_, fun hk => ?_⟩,
      fun ps pd pa pb len fmt hi hs hf hd hp => ⟨fun r hto => ?_, fun hto => ?_⟩⟩
    · exact sent (exec_copyHead_starts h hch hq hhalt hdone hs hf hd hi) (h.sentFrom (core.readGuard k) rfl rfl Cmd.begun [])
    · exact (exec_fetchHead h hch hq hhalt hdone hs hsent hi).trans (congrArg _ (State.copyLine_miss ht))
    · exact sent ((exec_fetchHead h hch hq hhalt hdone hs hsent hi).trans (congrArg _ (State.copyLine_fetch h ht hc hdev)))
        (h.sentFrom core rfl rfl _ _)
    · exact exec_fetchHead_halts h hch hq hhalt hdone hs hsent hi hf
    · exact sent (exec_putHead_ver h hch hq hhalt hdone hs hsent hi hecc ht hc hdev hclean hk) (h.sentFrom core rfl rfl _ _)
    · exact sent (exec_putHead_fill h hch hq hhalt hdone hs hsent hi hecc ht hc hdev hclean hk) (h.sentFrom core rfl rfl _ _)
    · exact sent (exec_sendHead_leaves h hch hq hhalt hdone hs hf hd hi hecc hp hto) (h.sentFrom (core.readGuard k) rfl rfl Cmd.left _)
    · obtain ⟨hcx, hsems, hdef⟩ := Core.abandon_passed hq ⟨Cause.exchangeViolation, k.b, k.a⟩
      refine ⟨_, exec_sendHead_abandons h hch hq hhalt hdone hs hf hd hi hecc hp hto, State.setCore_net .., ?_⟩
      show ((State.core _ d c).sems = _) ∧ _
      rw [h.core_setCore]
      exact ⟨hsems.trans (Core.signal_sems ..), hcx, hdef⟩
  case complete =>
    intro q hq hs hhalt hawait hall
    have hk : k.complete = true := by
      unfold Cmd.complete
      split <;> simp_all
    obtain ⟨hqueue, hls, hsems, hdef⟩ := Core.completeCmd_leaves hq
    refine ⟨_, exec_engineCmdComplete h hq hk, ?_⟩
    show _ ∧ _ ∧ _ ∧ ((State.core _ d c).sems = _) ∧ _
    rw [h.core_setCore]
    exact ⟨hqueue, hls, State.setCore_net .., hsems.trans (Core.signal_sems ..), hdef⟩
  case line =>
    intro n dv hd wt id off bs j hm hw
    refine ⟨_, exec_cpyFetchLine_data h hm hw, State.setCore_net .., ?_⟩
    rw [Alone.core_setCore (s := s.dropMsg n) h, Core.fetched, Core.modCmd_ls, Core.engineWrite_ls]
  case failed =>
    intro n dv hd wt id off t j hm hw ht gs
    refine ⟨_, exec_cpyFetchLine_trap h hm hw ht, ?_⟩
    rw [State.core_withdrawLines, Alone.core_setCore (s := s.dropMsg n) h]
    exact ⟨Core.modCmd_ls .., Core.fetchFailed_cx hw t⟩
  case lattice =>
    intro n dv hd wt id i hm hw
    refine ⟨_, exec_collLatticeWait_answer h hm hw, State.setCore_net .., ?_⟩
    rw [Alone.core_setCore (s := s.dropMsg n) h]
    exact Core.mem_modCmd (q := .port) fun _ _ => rfl
  case source =>
    intro hq hs hawait hdone hecc hfits hp hnew
    have hdev : aget (s.setCore d c (core.finishCmd .port k)).devs d = some _ := State.aget_modDev (State.aget_of_bound h.1) _
    obtain ⟨hcores, r, hr, hkey, hmine⟩ := State.contribute_new (s.setCore d c (core.finishCmd .port k))
      (base := (collOf b d k (core.ls.read k.src.1 k.src.2)).1) (collOf b d k (core.ls.read k.src.1 k.src.2)).2 hdev hnew
    refine ⟨_, exec_collSourceCopy_copies h hch hq hs hawait hdone hecc hfits hp, ?_, r, hr, hkey, _, hmine ▸ List.mem_singleton_self _,
      rfl, rfl⟩
    rw [hcores.core, h.core_setCore]
    exact (Core.finishCmd_finished (q := .port) hq rfl rfl).queue

end Sys2Proof.Machine

/-! # Vector instructions: tag checks and lanes (O25, O26) -/

namespace Sys2Proof.Machine
open Sys2Proof

section
variable {s : State} {b : Binding} {i : Instr} {checks : Regs → List (VReg × TagReq)} {f : Env → Regs → Regs}

/-- A vector instruction whose tag checks pass retires with the registers that its meaning leaves (R234). -/
theorem vecOp_runs (h : Clear s b i) (hc : ∀ c ∈ checks s.regsHere, tagCheck s.regsHere c = none) :
    vecOp i checks f s = .next (s.ran b i (f (s.envHere b) s.regsHere)) := by
  have hpass : (checks s.regsHere).findSome? (tagCheck s.regsHere) = none := List.findSome?_eq_none_iff.2 hc
  refine issue_regs h ?_
  simp only [State.envHere_regs, State.here_ctx, State.ctxHere_regs, hpass]
  rfl

/-- A vector instruction traps as the first of its tag checks that fails says, and has no other effect (R234). -/
theorem vecOp_traps (h : Clear s b i) {pre post : List (VReg × TagReq)} {c : VReg × TagReq} {t : Trap}
    (hc : checks s.regsHere = pre ++ c :: post) (hpre : ∀ x ∈ pre, tagCheck s.regsHere x = none)
    (ht : tagCheck s.regsHere c = some t) : vecOp i checks f s = .next (s.trapHere b i t) := by
  have hfirst : (checks s.regsHere).findSome? (tagCheck s.regsHere) = some t := by
    rw [hc, List.findSome?_append, List.findSome?_eq_none_iff.2 hpre, Option.none_or, List.findSome?_cons_of_isSome (by simp [ht]), ht]
  refine issue_trap h ?_
  simp only [State.envHere_regs, State.here_ctx, State.ctxHere_regs, hfirst]

/-- Every vector instruction makes the checks that vectorChecks lists, and then changes registers alone. -/
theorem exec_eq_vecOp {cs : List (VReg × TagReq)} (h : vectorChecks i = some cs) :
    ∃ f, exec i = vecOp i (fun _ => cs) f := by
  unfold vectorChecks at h
  split at h <;> cases h <;> exact ⟨_, rfl⟩

end

/-- What a failed tag check reports (R137, R234): the register, the tag found and the tag required. -/
theorem tagTrap_eq (v : VReg) (found required : Tag) :
    tagTrap v found required = ⟨if found = 15 then Cause.poison else Cause.tagMismatch, 0,
      BitVec.ofNat 64 (v.toNat + 256 * found.toNat + 4096 * required.toNat)⟩ := by
  simp only [tagTrap, beq_iff_eq, Nat.mul_comm]

theorem tagCheck_blind {r : Regs} {v : VReg} (h : (r.getV v).tag = 15) : tagCheck r (v, .blind) = some (tagTrap v (r.getV v).tag 0) := by
  simp [tagCheck, h]

theorem tagCheck_exact {r : Regs} {v : VReg} {n : Tag} (h : (r.getV v).tag ≠ n) :
    tagCheck r (v, .exact n) = some (tagTrap v (r.getV v).tag n) := by
  simp [tagCheck, h]

theorem tagCheck_int {r : Regs} {v : VReg} {n : Tag} (h : (r.getV v).tag ≠ n) (h' : n ≠ 14 → (r.getV v).tag ≠ n + 1) :
    tagCheck r (v, .int n) = some (tagTrap v (r.getV v).tag n) := by
  simp only [tagCheck, Bool.or_eq_true, Bool.and_eq_true, beq_iff_eq, bne_iff_ne]
  exact if_neg (not_or.2 ⟨h, fun hn => h' hn.1 hn.2⟩)

end Sys2Proof.Machine

open Sys2Proof.Machine in
/-- Settles O26: the first failing check of the instruction's list decides, whichever requirement it is. -/
theorem vectorTagTraps : Obligations.VectorTagTraps := by
  unfold Obligations.VectorTagTraps
  intro s b i pre post v q t trap hchecks hclear hpre
  obtain ⟨f, hf⟩ := exec_eq_vecOp hchecks
  have htraps {n : Sys2Proof.Tag} (ht : tagCheck s.regsHere (v, q) = some (tagTrap v t n)) :
      exec i s = .next (s.trapHere b i (trap n)) := by
    rw [hf, vecOp_traps hclear rfl hpre ht, tagTrap_eq]
  cases q with
  | blind => exact fun h => htraps (tagCheck_blind h)
  | exact n => exact fun h => htraps (tagCheck_exact h)
  | int n => exact fun h h' => htraps (tagCheck_int h h')

/-! # Lanes of a register (O25, O30) -/

namespace Sys2Proof.Machine
open Sys2Proof

/-! ## Lanes as digits of a number -/

theorem lanesVec_lt (w : Nat) (l : List Nat) : lanesVec w l < 2 ^ (w * l.length) := by
  induction l with
  | nil => simp [lanesVec]
  | cons x l ih =>
    have hx := Nat.mod_lt x (Nat.two_pow_pos w)
    rw [lanesVec, List.length_cons, Nat.mul_succ, Nat.add_comm (w * _), Nat.pow_add]
    calc x % 2 ^ w + 2 ^ w * lanesVec w l < 2 ^ w + 2 ^ w * lanesVec w l := Nat.add_lt_add_right hx _
      _ = 2 ^ w * (lanesVec w l + 1) := by ring
      _ ≤ 2 ^ w * 2 ^ (w * l.length) := Nat.mul_le_mul_left _ ih

theorem lanesVec_div_mod (w : Nat) {l : List Nat} {k : Nat} (hk : k < l.length) :
    lanesVec w l / 2 ^ (w * k) % 2 ^ w = l[k] % 2 ^ w := by
  induction l generalizing k with
  | nil => exact absurd hk (Nat.not_lt_zero k)
  | cons x l ih =>
    cases k with
    | zero => simp [lanesVec]
    | succ k =>
      have hrest : (x % 2 ^ w + 2 ^ w * lanesVec w l) / 2 ^ w = lanesVec w l := by
        rw [Nat.add_mul_div_left _ _ (Nat.two_pow_pos w), Nat.div_eq_of_lt (Nat.mod_lt _ (Nat.two_pow_pos w)), Nat.zero_add]
      rw [lanesVec, Nat.mul_succ, Nat.add_comm (w * k), Nat.pow_add, ← Nat.div_div_eq_div_mul, hrest, List.getElem_cons_succ]
      exact ih (by simpa using hk)

/-- A register made of lanes holds them, each cut to its width. -/
theorem laneGet_ofNat_lanesVec (w n : Nat) (g : Nat → Nat) (hfit : w * n ≤ 256) {k : Nat} (hk : k < n) :
    laneGet (BitVec.ofNat 256 (lanesVec w ((List.range n).map g))) w k = g k % 2 ^ w := by
  have hlt := lanesVec_lt w ((List.range n).map g)
  rw [List.length_map, List.length_range] at hlt
  have hmod : lanesVec w ((List.range n).map g) % 2 ^ 256 = lanesVec w ((List.range n).map g) :=
    Nat.mod_eq_of_lt (hlt.trans_le (Nat.pow_le_pow_right Nat.two_pos hfit))
  rw [laneGet, BitVec.toNat_ofNat, hmod, lanesVec_div_mod w (by simpa using hk), List.getElem_map, List.getElem_range]

@[simp] theorem laneGet_mod (v : Vec) (w k : Nat) : laneGet v w k % 2 ^ w = laneGet v w k := Nat.mod_mod _ _

@[simp] theorem lane_mod (r : Regs) (f : Tag) (v : VReg) (k : Nat) : lane r f v k % 2 ^ tagBits f = lane r f v k := Nat.mod_mod _ _

/-- The elements of a tag fit into a register (R136). -/
theorem tagBits_mul_tagElems_le (f : Tag) : tagBits f * tagElems f ≤ 256 := by
  revert f; decide

/-- A register that ofLanes makes holds, in each lane, what was put there. -/
theorem laneGet_ofLanes (f : Tag) (g : Nat → Nat) {k : Nat} (hk : k < tagElems f) :
    laneGet (ofLanes f ((List.range (tagElems f)).map g)) (tagBits f) k = g k % 2 ^ tagBits f :=
  laneGet_ofNat_lanesVec _ _ _ (tagBits_mul_tagElems_le f) hk

@[simp] theorem lane_orFlags (r : Regs) (x : Word) (f : Tag) (v : VReg) (k : Nat) : lane (r.orFlags x) f v k = lane r f v k := rfl

theorem lane_setV_ofLanes (r : Regs) (f t : Tag) (d : VReg) (g : Nat → Nat) {k : Nat} (hk : k < tagElems f) :
    lane (r.setV d ⟨ofLanes f ((List.range (tagElems f)).map g), t⟩) f d k = g k % 2 ^ tagBits f := by
  rw [lane, Regs.getV_setV, laneGet_ofLanes f g hk]

/-- putLanes leaves what LanesSet says (R233, R235). -/
theorem lanesSet_putLanes (r : Regs) (f : Tag) (vm : VMask) (d : VReg) (t : Tag) (g : Nat → Nat × Word) :
    LanesSet r (putLanes r f vm d t g) f vm d t g := by
  refine ⟨by simp [putLanes], by simp [putLanes], fun k hk => ?_⟩
  rw [putLanes, lane_orFlags, lane_setV_ofLanes _ _ _ _ _ hk]
  split_ifs <;> simp

/-- A vector instruction is what its meaning leaves of the registers, where its checks are those that the instruction makes. -/
theorem vecRuns_of {i : Instr} {cs : List (VReg × TagReq)} {f : Env → Regs → Regs} {P : State → Regs → Prop}
    (he : exec i = vecOp i (fun _ => cs) f) (hP : ∀ s b, P s (f (s.envHere b) s.regsHere)) : VecRuns i cs P := by
  intro s b h hc
  exact ⟨_, by rw [he]; exact vecOp_runs h hc, hP s b⟩

/-! ## Registers after an instruction that rounds (R144) -/

section
variable (r : Regs) (rm : Rm) (n : Nat)

@[simp] theorem Regs.getV_advance (v : VReg) : (r.advance rm n).getV v = r.getV v := by unfold Regs.advance; split <;> rfl
@[simp] theorem Regs.advance_s : (r.advance rm n).s = r.s := by unfold Regs.advance; split <;> rfl
@[simp] theorem Regs.advance_p : (r.advance rm n).p = r.p := by unfold Regs.advance; split <;> rfl
@[simp] theorem Regs.advance_m : (r.advance rm n).m = r.m := by unfold Regs.advance; split <;> rfl
@[simp] theorem Regs.advance_topx : (r.advance rm n).topx = r.topx := by unfold Regs.advance; split <;> rfl
@[simp] theorem Regs.advance_flags : (r.advance rm n).flags = r.flags := by unfold Regs.advance; split <;> rfl
@[simp] theorem lane_advance (f : Tag) (v : VReg) (k : Nat) : lane (r.advance rm n) f v k = lane r f v k := by simp [lane]

end

end Sys2Proof.Machine

/-! # Mask logic, comparisons, reductions and scans (O25) -/

namespace Sys2Proof.Machine
open Sys2Proof

/-! ## Masks (R260, R246) -/

/-- Counting from bit 64 − n on, the trailing zeros end at the first set bit. -/
theorem ctzFrom_eq (a : Word) {n : Nat} (hn : n ≤ 64) :
    64 - n + ctzFrom a n = ((List.range' (64 - n) n).find? a.getLsbD).getD 64 := by
  induction n with
  | zero => rfl
  | succ n ih =>
    have hnext : 64 - (n + 1) + 1 = 64 - n := by omega
    have hbit : 63 - n = 64 - (n + 1) := by omega
    rw [ctzFrom, List.range'_succ, List.find?_cons, hnext, hbit]
    cases a.getLsbD (64 - (n + 1)) with
    | true => simp
    | false =>
      rw [← ih (by omega)]
      simp only [Bool.false_eq_true, if_false]
      omega

theorem ctzVal_eq (a : Word) : ctzVal a = BitVec.ofNat 64 (((List.range 64).find? a.getLsbD).getD 64) := by
  rw [ctzVal, List.range_eq_range', ← ctzFrom_eq a le_rfl, Nat.sub_self, Nat.zero_add]

theorem popcVal_eq (a : Word) : popcVal a = BitVec.ofNat 64 ((List.range 64).countP a.getLsbD) := by
  rw [popcVal, popCount, List.countP_eq_length_filter]

/-- What a mask operation leaves of the registers (R260). -/
theorem mopRegs_eq (r : Regs) (op : MOp) : mopRegs r op = match op with
    | .and d a b => r.setM d (r.getM a &&& r.getM b)
    | .or d a b => r.setM d (r.getM a ||| r.getM b)
    | .xor d a b => r.setM d (r.getM a ^^^ r.getM b)
    | .andn d a b => r.setM d (r.getM a &&& ~~~ r.getM b)
    | .not d a => r.setM d (~~~ r.getM a)
    | .mov d a => r.setM d (r.getM a)
    | .froms d a => r.setM d (r.getS a)
    | .tos d a => r.setS d (r.getM a)
    | .popc d a => r.setS d (BitVec.ofNat 64 ((List.range 64).countP (r.getM a).getLsbD))
    | .first d a => r.setS d (BitVec.ofNat 64 (((List.range 64).find? (r.getM a).getLsbD).getD 64))
    | .set f d => r.setM d (BitVec.ofNat 64 (2 ^ tagElems f - 1)) := by
  cases op with
  | popc d a => rw [mopRegs, popcVal_eq]
  | first d a => rw [mopRegs, ctzVal_eq]
  | _ => rfl

/-- Lanes of one bit are the bits of a number. -/
theorem testBit_lanesVec_one (n : Nat) (g : Nat → Bool) (k : Nat) :
    (lanesVec 1 ((List.range n).map (fun k => b2n (g k)))).testBit k = (decide (k < n) && g k) := by
  by_cases hk : k < n
  · have hbit := lanesVec_div_mod 1 (l := (List.range n).map (fun k => b2n (g k))) (k := k) (by simpa using hk)
    rw [Nat.one_mul, Nat.pow_one, List.getElem_map, List.getElem_range] at hbit
    rw [Nat.testBit_eq_decide_div_mod_eq, hbit, decide_eq_true hk, Bool.true_and]
    cases g k <;> rfl
  · have hlt := lanesVec_lt 1 ((List.range n).map (fun k => b2n (g k)))
    rw [List.length_map, List.length_range, Nat.one_mul] at hlt
    rw [decide_eq_false hk, Bool.false_and, Nat.testBit_lt_two_pow (hlt.trans_le (Nat.pow_le_pow_right Nat.two_pos (not_lt.1 hk)))]

/-- The bits of VCMP's mask (R246). -/
theorem cmpMask_getLsbD (r : Regs) (fmt : Tag) (c : Cond) (u : Bool) (vm : VMask) (d : MReg) (a b : VReg) {k : Nat} (hk : k < 64) :
    (cmpMask r fmt c u vm d a b).getLsbD k = (decide (k < tagElems fmt) && if laneOn r vm.mask k = true then
      (cmpLane fmt c u (lane r fmt a k) (lane r fmt b k)).1 else !vm.zm && (r.getM d).getLsbD k) := by
  rw [cmpMask, BitVec.getLsbD_ofNat, decide_eq_true hk, Bool.true_and, testBit_lanesVec_one]

/-! ## The tree of VRED (R252) -/

section
variable {α : Type} (c : α → α → α)

theorem pairUp_range_map (m : Nat) (g : Nat → α) :
    pairUp c ((List.range (2 * m)).map g) = (List.range m).map (fun k => c (g (2 * k)) (g (2 * k + 1))) := by
  induction m generalizing g with
  | zero => rfl
  | succ m ih =>
    rw [show 2 * (m + 1) = 2 * m + 1 + 1 by omega, List.range_succ_eq_map, List.range_succ_eq_map, List.range_succ_eq_map]
    simp only [List.map_cons, List.map_map, pairUp]
    congr 1
    rw [ih]
    rfl

/-- The tree's levels one after another. -/
theorem treeReduce_add (n m : Nat) (l : List α) : treeReduce c (n + m) l = treeReduce c m (treeReduce c n l) := by
  induction n generalizing l with
  | zero => rw [Nat.zero_add]; rfl
  | succ n ih => rw [Nat.succ_add, treeReduce, ih, treeReduce]

/-- One value is reduced already. -/
theorem treeReduce_singleton (n : Nat) (x : α) : treeReduce c n [x] = [x] := by
  induction n with
  | zero => rfl
  | succ n ih => rw [treeReduce, pairUp, ih]; exact nofun

/-- A level of the tree holds its nodes. -/
theorem treeReduce_range_map (n m : Nat) (g : Nat → α) :
    treeReduce c n ((List.range (2 ^ n * m)).map g) = (List.range m).map (treeNode c g n) := by
  induction n generalizing m with
  | zero => rw [Nat.pow_zero, Nat.one_mul]; rfl
  | succ n ih =>
    rw [treeReduce_add, Nat.pow_succ, Nat.mul_assoc, ih]
    exact pairUp_range_map c m _

/-- Five levels reduce 2^L lanes to the root of the tree, where L is at most five. -/
theorem treeReduce_root {L : Nat} (hL : L ≤ 5) (g : Nat → α) :
    treeReduce c 5 ((List.range (2 ^ L)).map g) = [treeNode c g L 0] := by
  have hlevels := treeReduce_range_map c L 1 g
  rw [Nat.mul_one] at hlevels
  rw [← Nat.add_sub_cancel' hL, treeReduce_add, hlevels]
  exact treeReduce_singleton c _ _

end

/-! ## The steps of VSCAN (R253) -/

section
variable (op : RedOp) (f : Tag) (sat u : Bool) (leaf : Nat → Option (Nat × Word))

theorem scanStep_range_map (n N : Nat) :
    scanStep op f sat u (2 ^ n) ((List.range N).map (scanNode (combOpt op f sat u) leaf n))
      = (List.range N).map (scanNode (combOpt op f sat u) leaf (n + 1)) := by
  rw [scanStep, List.length_map, List.length_range]
  refine List.map_congr_left fun k hk => ?_
  have hk : k < N := List.mem_range.1 hk
  have hget {j : Nat} (hj : j < N) :
      (((List.range N).map (scanNode (combOpt op f sat u) leaf n))[j]?).join = scanNode (combOpt op f sat u) leaf n j := by
    rw [List.getElem?_map, List.getElem?_range hj]
    rfl
  rw [hget hk, hget (Nat.lt_of_le_of_lt (Nat.sub_le ..) hk), scanNode]

/-- From step n on, the scan of 2^L lanes reaches step L. -/
theorem scanFrom_range_map {L : Nat} (fuel : Nat) {n : Nat} (hn : n ≤ L) (hfuel : L ≤ n + fuel) :
    scanFrom op f sat u fuel (2 ^ n) ((List.range (2 ^ L)).map (scanNode (combOpt op f sat u) leaf n))
      = (List.range (2 ^ L)).map (scanNode (combOpt op f sat u) leaf L) := by
  induction fuel generalizing n with
  | zero => rw [scanFrom, show n = L by omega]
  | succ fuel ih =>
    rw [scanFrom, List.length_map, List.length_range]
    by_cases hlt : n < L
    · rw [if_pos (Nat.pow_lt_pow_right Nat.one_lt_two hlt), scanStep_range_map, ← Nat.pow_succ']
      exact ih hlt (by omega)
    · obtain rfl : n = L := by omega
      rw [if_neg (lt_irrefl _)]

end

end Sys2Proof.Machine

/-! # VCMP, VRED, VSCAN, VDQBLK, VKEY and VCVT (O25) -/

namespace Sys2Proof.Machine
open Sys2Proof

/-! ## Comparison (R246) -/

theorem vcmp_runs (p : Pred) (fmt : Tag) (cd : Cond) (u : Bool) (vm : VMask) (e : MReg) (a b : VReg) :
    VecRuns (.vcmp p fmt cd u vm e a b) [(a, arithReq fmt), (b, arithReq fmt)] (fun s R =>
      let r := s.regsHere
      (∀ k, k < 64 → (R.getM e).getLsbD k = (decide (k < tagElems fmt) &&
        if laneOn r vm.mask k = true then (cmpLane fmt cd u (lane r fmt a k) (lane r fmt b k)).1 else !vm.zm && (r.getM e).getLsbD k))
      ∧ R = (r.setM e (R.getM e)).orFlags (orAll (((List.range (tagElems fmt)).filter (laneOn r vm.mask)).map (fun k =>
          (cmpLane fmt cd u (lane r fmt a k) (lane r fmt b k)).2)))) := by
  refine vecRuns_of rfl fun s _ => ⟨fun k hk => ?_, ?_⟩
  · rw [Regs.getM_orFlags, Regs.getM_setM, cmpMask_getLsbD _ _ _ _ _ _ _ _ hk]
  · rw [Regs.getM_orFlags, Regs.getM_setM]

/-! ## Reductions and scans (R252, R253) -/

/-- A lane as VRED reads it: exactly converted to FP32 where w asks so of a float format. -/
def redLeaf (r : Regs) (fmt : Tag) (w : Bool) (mk : Option MReg) (a : VReg) (k : Nat) : Option (Nat × Word) :=
  if laneOn r mk k = true then
    some (if w = true ∧ tagIsFloat fmt = true then ((fpOf fmt).val (lane r fmt a k)).toFp fp32 false .rne 0
      else redLane fmt (lane r fmt a k))
  else none

theorem redLanes_eq (r : Regs) (fmt : Tag) (w : Bool) (mk : Option MReg) (a : VReg) :
    redLanes r fmt w mk a = (List.range (tagElems fmt)).map (redLeaf r fmt w mk a) := by
  refine List.map_congr_left fun k _ => ?_
  simp only [redLeaf, Bool.and_eq_true]
  split_ifs <;> rfl

/-- Without w a lane keeps its format. -/
theorem redLeaf_narrow (r : Regs) (fmt : Tag) (mk : Option MReg) (a : VReg) :
    redLeaf r fmt false mk a = fun k => if laneOn r mk k = true then some (redLane fmt (lane r fmt a k)) else none := by
  funext k
  simp [redLeaf]

theorem vred_runs (p : Pred) (fmt : Tag) (op : RedOp) (w u : Bool) (mk : Option MReg) (d a : VReg) {L : Nat} (hL : L ≤ 5)
    (hfmt : tagElems fmt = 2 ^ L) :
    VecRuns (.vred p fmt op w u mk d a) [(a, arithReq fmt)] (fun s R =>
      let r := s.regsHere
      let t : Tag := if w = true ∧ tagIsFloat fmt = true then 7 else fmt
      R = match treeNode (combOpt op t (w && tagIsInt fmt) u) (redLeaf r fmt w mk a) L 0 with
        | some x => (r.setV d ⟨BitVec.ofNat 256 (x.1 % 2 ^ tagBits t), t⟩).orFlags x.2
        | none => r.setV d ⟨BitVec.ofNat 256 (redIdent op t u), t⟩) := by
  refine vecRuns_of rfl fun s _ => ?_
  simp only [redRegs, redLanes_eq, hfmt, treeReduce_root _ hL, Bool.and_eq_true]
  cases treeNode _ _ L 0 <;> rfl

/-- What VSCAN leaves, a lane that none feeds being neutral (R253). -/
theorem scanRegs_eq (fmt : Tag) (op : RedOp) (w u : Bool) (mk : Option MReg) (d a : VReg) (r : Regs) :
    let y := scanFrom op fmt w u 5 1 (redLanes r fmt false mk a)
    scanRegs fmt op w u mk d a r = (r.setV d ⟨ofLanes fmt (y.map (fun o => (o.map (·.1)).getD (redIdent op fmt u))), fmt⟩).orFlags
      (orAll (y.map (fun o => (o.map (·.2)).getD 0))) := by
  intro y
  refine congrArg₂ Regs.orFlags (congrArg (fun g => r.setV d ⟨ofLanes fmt (y.map g), fmt⟩) (funext fun o => ?_))
    (congrArg (fun g => orAll (y.map g)) (funext fun o => ?_))
  · cases o <;> rfl
  · cases o <;> rfl

theorem vscan_runs (p : Pred) (fmt : Tag) (op : RedOp) (w u : Bool) (mk : Option MReg) (d a : VReg) {L : Nat} (hL : L ≤ 5)
    (hfmt : tagElems fmt = 2 ^ L) :
    VecRuns (.vscan p fmt op w u mk d a) [(a, arithReq fmt)] (fun s R =>
      let r := s.regsHere
      let node (k : Nat) := scanNode (combOpt op fmt w u) (redLeaf r fmt false mk a) L k
      R = (r.setV d (R.getV d)).orFlags (orAll ((List.range (tagElems fmt)).map (fun k => ((node k).map (·.2)).getD 0)))
        ∧ (R.getV d).tag = fmt
        ∧ ∀ k, k < tagElems fmt → lane R fmt d k = ((node k).map (·.1)).getD (redIdent op fmt u) % 2 ^ tagBits fmt) := by
  refine vecRuns_of rfl fun s _ => ?_
  have hscan : scanFrom op fmt w u 5 1 (redLanes s.regsHere fmt false mk a)
      = (List.range (tagElems fmt)).map (scanNode (combOpt op fmt w u) (redLeaf s.regsHere fmt false mk a) L) := by
    rw [redLanes_eq, hfmt]
    exact scanFrom_range_map op fmt w u _ 5 (Nat.zero_le L) (by omega)
  rw [scanRegs_eq, hscan, List.map_map, List.map_map]
  refine ⟨by simp [Function.comp_def], by simp, fun k hk => ?_⟩
  rw [lane_orFlags, lane_setV_ofLanes _ _ _ _ _ hk]
  rfl

/-! ## Blocks expanded, and keys (R256, R257) -/

theorem vdqblk_runs (p : Pred) (fmt : Tag) (pt : BitVec 3) (d a c : VReg) :
    VecRuns (.vdqblk p fmt pt d a c) [(a, .exact 12), (c, .exact 13)] (fun s R =>
      let r := s.regsHere
      let n := pt.toNat * (tagElems fmt / 8)
      LanesSet r R fmt ⟨none, false⟩ d fmt (fun k =>
        rneOf (fpOf fmt) (scaledProduct [fp4.decode (r.topx.getLsbD 0) (laneGet (r.getV a).bits 4 (8 * n + k))]
          [e3m5.decode (r.topx.getLsbD 0) (laneGet (r.getV c).bits 8 (n + k / 8))]))) :=
  vecRuns_of rfl fun _ _ => lanesSet_putLanes ..

theorem vkey_runs (p : Pred) (vm : VMask) (d a : VReg) :
    VecRuns (.vkey p 6 vm d a) ((a, .exact 7) :: keepCheck vm d) (fun s R =>
      LanesSet s.regsHere R 6 vm d 6 (fun k => (keyOf (lane s.regsHere 6 a k), 0))) :=
  vecRuns_of rfl fun _ _ => lanesSet_putLanes ..

theorem vkey_inv_runs (p : Pred) (vm : VMask) (d a : VReg) :
    VecRuns (.vkey p 7 vm d a) ((a, .int 5) :: keepCheck vm d) (fun s R =>
      LanesSet s.regsHere R 7 vm d 7 (fun k => (keyInv (lane s.regsHere 7 a k), 0))) :=
  vecRuns_of rfl fun _ _ => lanesSet_putLanes ..

/-! ## Conversion (R254) -/

section
variable (b : Binding) (ctx : Nat) (df sf : Tag) (su du : Bool) (part : Nat) (rm : Rm) (vm : VMask) (d a : VReg) (r : Regs)

/-- Lane src converted, as element n of the instruction. -/
def cvtAt (src n : Nat) : Nat × Word :=
  cvtLane df sf su du (r.topx.getLsbD 0) rm (drawBits b ctx r n) (lane r sf a src)

/-- Whether lane k of the result lies in the window that a narrowing conversion writes. -/
def cvtInside (k : Nat) : Bool := decide (part * tagElems sf ≤ k ∧ k < part * tagElems sf + tagElems sf)

/-- Where the result has as many lanes as the source or fewer, every lane of it is written. -/
theorem cvtRegs_of_le (h : tagElems df ≤ tagElems sf) : ∃ R,
    cvtRegs b ctx df sf su du part rm vm d a r = R.advance rm (min (tagElems sf) (tagElems df))
    ∧ LanesSet r R df vm d df (fun k =>
        cvtAt b ctx df sf su du rm a r (if tagElems df < tagElems sf then part * tagElems df + k else k) k) := by
  refine ⟨putLanes r df vm d df _, ?_, lanesSet_putLanes ..⟩
  rw [cvtRegs, if_neg (Nat.not_lt.2 h)]
  rfl

/-- Where it has more, those of the window are written, and the others keep their bits. -/
theorem cvtRegs_of_lt (h : tagElems sf < tagElems df) : ∃ R,
    cvtRegs b ctx df sf su du part rm vm d a r = R.advance rm (min (tagElems sf) (tagElems df))
    ∧ R = (r.setV d (R.getV d)).orFlags (orAll (((List.range (tagElems df)).filter (fun k =>
        cvtInside sf part k && laneOn r vm.mask k)).map
          (fun k => (cvtAt b ctx df sf su du rm a r (k - part * tagElems sf) (k - part * tagElems sf)).2)))
    ∧ (R.getV d).tag = df
    ∧ ∀ k, k < tagElems df → lane R df d k =
        if cvtInside sf part k = true ∧ laneOn r vm.mask k = true then
          (cvtAt b ctx df sf su du rm a r (k - part * tagElems sf) (k - part * tagElems sf)).1 % 2 ^ tagBits df
        else if cvtInside sf part k = true ∧ vm.zm = true then 0 else lane r df d k := by
  have hin (k : Nat) : (decide (part * tagElems sf ≤ k) && decide (k < part * tagElems sf + tagElems sf)) = cvtInside sf part k :=
    (Bool.decide_and ..).symm
  simp only [cvtRegs, if_pos h, hin]
  refine ⟨_, rfl, by simp [cvtAt], by simp, fun k hk => ?_⟩
  rw [lane_orFlags, lane_setV_ofLanes _ _ _ _ _ hk]
  cases cvtInside sf part k <;> cases laneOn r vm.mask k <;> cases vm.zm <;> simp [cvtAt]

end

theorem exec_vcvt {s : State} {bd : Binding} {p : Pred} {df sf : Tag} {su du : Bool} {pt : BitVec 3} {rm : Rm} {vm : VMask} {d a : VReg}
    (h : Clear s bd (.vcvt p df sf su du pt rm vm d a)) (ha : tagCheck s.regsHere (a, arithReq sf) = none)
    (hd : ∀ x ∈ (if tagElems sf < tagElems df then [(d, TagReq.blind)] else keepCheck vm d), tagCheck s.regsHere x = none) :
    exec (.vcvt p df sf su du pt rm vm d a) s = .next (s.ran bd (.vcvt p df sf su du pt rm vm d a)
      (cvtRegs bd s.cur.ctx df sf su du pt.toNat rm vm d a s.regsHere)) :=
  vecOp_runs (checks := fun _ => (a, arithReq sf) :: (if tagElems sf < tagElems df then [(d, TagReq.blind)] else keepCheck vm d)) h
    (List.forall_mem_cons.2 ⟨ha, hd⟩)

end Sys2Proof.Machine

/-! # VQBLK (O25) -/

namespace Sys2Proof.Machine
open Sys2Proof

/-! ## One block (R255) -/

/-- The largest magnitude of a block's elements. -/
def largestMag (x : Nat → Fv) : Fv :=
  ((List.range 8).map (fun j => (x j).mag)).foldl (fun m v => if fvLt false m v then v else m) (.num false 0 0)

/-- Whether six times the scale with code n reaches a magnitude. -/
def scaleSuffices (topx : Bool) (mx : Fv) (n : Nat) : Bool := !fvLt false (fvMul (.num false 6 0) (e3m5.decode topx n)).1 mx

/-- The scale chosen is the smallest finite code that suffices, or else the largest finite one. -/
theorem chooseScale_spec (topx : Bool) (mx : Fv) :
    chooseScale topx mx ≤ e3m5.maxCode topx ∧ (∀ n, n < chooseScale topx mx → scaleSuffices topx mx n = false)
      ∧ (scaleSuffices topx mx (chooseScale topx mx) = true ∨ chooseScale topx mx = e3m5.maxCode topx) := by
  have hdef : chooseScale topx mx
      = ((List.range (e3m5.maxCode topx + 1)).find? (scaleSuffices topx mx)).getD (e3m5.maxCode topx) := rfl
  rw [hdef]
  cases hfind : (List.range (e3m5.maxCode topx + 1)).find? (scaleSuffices topx mx) with
  | none =>
    rw [List.find?_range_eq_none] at hfind
    exact ⟨le_rfl, fun n hn => by simpa using hfind n (Nat.lt_succ_of_lt hn), .inr rfl⟩
  | some n =>
    obtain ⟨hsuff, hmem, hbelow⟩ := List.find?_range_eq_some.1 hfind
    exact ⟨Nat.lt_succ_iff.1 (List.mem_range.1 hmem), fun k hk => by simpa using hbelow k hk, .inl hsuff⟩

theorem e3m5_maxCode_lt (topx : Bool) : e3m5.maxCode topx < 2 ^ 8 := by cases topx <;> decide

section
variable (topx : Bool) (rm : Rm) (dr : Nat → Nat) (x : Nat → Fv) (given : Option Nat)

/-- The block whose elements are x 0 to x 7. -/
def quantAt : List Nat × Nat × Word := quantBlock topx rm dr ((List.range 8).map x) given

/-- The elements of a block are NaNs where one is. -/
theorem any_isNan_iff : ((List.range 8).map x).any (·.isNan) = true ↔ ∃ j < 8, (x j).isNan = true := by simp

theorem foldl_mag_eq : ((List.range 8).map x).foldl (fun m v => if fvLt false m v.mag then v.mag else m) (.num false 0 0)
    = largestMag x := by rw [largestMag, List.foldl_map, List.foldl_map]

/-- A NaN makes a block's codes zero, and its scale the NaN unless that is given (log 24). -/
theorem quantAt_nan (h : ∃ j < 8, (x j).isNan = true) :
    quantAt topx rm dr x given = ((List.range 8).map (fun _ => 0), given.getD 0xFF, Flag.nv) := by
  rw [quantAt, quantBlock, if_pos ((any_isNan_iff x).2 h), List.map_map]
  rfl

variable {x} (hnum : ∀ j < 8, (x j).isNan = false)
include hnum

/-- A block of zeros has zero codes with their signs, and a zero scale. -/
theorem quantAt_zero (h0 : (largestMag x).isZero = true) :
    quantAt topx rm dr x none = ((List.range 8).map (fun j => fp4.sign (x j).neg), 0, 0) := by
  have hany : ¬ ((List.range 8).map x).any (·.isNan) = true := by simpa using hnum
  simp only [quantAt, quantBlock, if_neg hany, foldl_mag_eq, h0, Option.isNone_none, Bool.and_self, if_true, List.map_map]
  rfl

/-- Another block holds its elements' quotients by the scale given, or chosen. -/
theorem quantAt_scaled (h : given ≠ none ∨ (largestMag x).isZero = false) {sc : Nat}
    (hsc : given.getD (chooseScale topx (largestMag x)) = sc) :
    let q (j : Nat) := quantOne topx rm (dr j) (x j) (e3m5.decode topx sc)
    quantAt topx rm dr x given = ((List.range 8).map (fun j => (q j).1), sc, orAll ((List.range 8).map (fun j => (q j).2))) := by
  intro q
  have hany : ¬ ((List.range 8).map x).any (·.isNan) = true := by simpa using hnum
  have hzero : ¬ (given.isNone && (largestMag x).isZero) = true := by
    rcases h with h | h
    · simp [Option.isNone_iff_eq_none, h]
    · simp [h]
  have hqs : (List.range 8).map (fun k => quantOne topx rm (dr k) ((((List.range 8).map x)[k]?).getD (.num false 0 0))
      (e3m5.decode topx sc)) = (List.range 8).map q := by
    refine List.map_congr_left fun j hj => ?_
    rw [List.getElem?_map, List.getElem?_range (List.mem_range.1 hj)]
    rfl
  simp only [quantAt, quantBlock, if_neg hany, foldl_mag_eq, if_neg hzero, List.length_map, List.length_range, hsc]
  rw [hqs, List.map_map, List.map_map]
  rfl

end

/-! ## Lanes within lanes -/

/-- A lane of w bits lies within one of n times its width. -/
theorem laneGet_within (v : Vec) (w : Nat) {n j : Nat} (m : Nat) (hj : j < n) :
    laneGet v w (n * m + j) = laneGet v (w * n) m / 2 ^ (w * j) % 2 ^ w := by
  have hsplit : w * n = w * j + w * (n - j) := by rw [← Nat.mul_add, Nat.add_sub_cancel' hj.le]
  have hdvd : 2 ^ w ∣ 2 ^ (w * (n - j)) := Nat.pow_dvd_pow 2 (Nat.le_mul_of_pos_right w (Nat.sub_pos_of_lt hj))
  rw [laneGet, laneGet, hsplit, Nat.pow_add 2 (w * j), Nat.mod_mul_right_div_self, Nat.mod_mod_of_dvd _ hdvd, ← hsplit, Nat.div_div_eq_div_mul,
    ← Nat.pow_add, Nat.mul_add, Nat.mul_assoc]

/-! ## The two registers that VQBLK writes -/

/-- A register of n lanes, w bits wide, with those from p on replaced by the m values of val. -/
def putRun (w n p m : Nat) (old : Vec) (val : Nat → Nat) : Vec :=
  BitVec.ofNat 256 (lanesVec w ((List.range n).map (fun k => if p ≤ k && k < p + m then val (k - p) else laneGet old w k)))

section
variable {w n p m : Nat} (old : Vec) (val : Nat → Nat) (hfit : w * n ≤ 256)
include hfit

theorem laneGet_putRun_inside {k : Nat} (hk : k < m) (hn : p + k < n) : laneGet (putRun w n p m old val) w (p + k) = val k % 2 ^ w := by
  have hin : (decide (p ≤ p + k) && decide (p + k < p + m)) = true := by simpa using hk
  rw [putRun, laneGet_ofNat_lanesVec _ _ _ hfit hn, if_pos hin, Nat.add_sub_cancel_left]

theorem laneGet_putRun_outside {k : Nat} (hk : k < p ∨ p + m ≤ k) (hn : k < n) : laneGet (putRun w n p m old val) w k = laneGet old w k := by
  have hout : ¬ (decide (p ≤ k) && decide (k < p + m)) = true := by
    simp only [Bool.and_eq_true, decide_eq_true_eq]
    omega
  rw [putRun, laneGet_ofNat_lanesVec _ _ _ hfit hn, if_neg hout, laneGet_mod]

end

theorem Regs.setV_setV (r : Regs) (i : VReg) (x y : VR) : (r.setV i x).setV i y = r.setV i y := by simp [Regs.setV]

section
variable (b : Binding) (ctx : Nat) (sf : Tag) (sc : Bool) (part : Nat) (rm : Rm) (d a c : VReg) (r : Regs)

/-- Element j of block k. -/
def qblkElem (k j : Nat) : Fv := (fpOf sf).decode (r.topx.getLsbD 0) (lane r sf a (8 * k + j))

/-- What block k comes to: its codes, its scale and its flags. -/
def qblkAt (k : Nat) : List Nat × Nat × Word :=
  quantAt (r.topx.getLsbD 0) rm (fun j => drawBits b ctx r (8 * k + j)) (qblkElem sf a r k)
    (if sc then some (laneGet (r.getV c).bits 8 (part * (tagElems sf / 8) + k)) else none)

/-- The codes' register. -/
def qblkCodes : Vec :=
  putRun 32 8 (part * (tagElems sf / 8)) (tagElems sf / 8) (r.getV d).bits (fun k => lanesVec 4 (qblkAt b ctx sf sc part rm a c r k).1)

/-- The scales' register. -/
def qblkScales : Vec :=
  putRun 8 32 (part * (tagElems sf / 8)) (tagElems sf / 8) (r.getV c).bits (fun k => (qblkAt b ctx sf sc part rm a c r k).2.1)

/-- The registers that VQBLK leaves, the random numbers aside. -/
def qblkLeft : Regs :=
  (if sc then r.setV d ⟨qblkCodes b ctx sf sc part rm d a c r, 12⟩
    else (r.setV d ⟨qblkCodes b ctx sf sc part rm d a c r, 12⟩).setV c ⟨qblkScales b ctx sf sc part rm a c r, 13⟩).orFlags
      (orAll ((List.range (tagElems sf / 8)).map (fun k => (qblkAt b ctx sf sc part rm a c r k).2.2)))

theorem qblkRegs_eq : qblkRegs b ctx sf sc part rm d a c r
    = (qblkLeft b ctx sf sc part rm d a c r).advance rm (8 * (tagElems sf / 8)) := by
  have hput (w n : Nat) (old : Vec) (val : List Nat × Nat × Word → Nat) :
      BitVec.ofNat 256 (lanesVec w ((List.range n).map (fun k =>
        if part * (tagElems sf / 8) ≤ k && k < part * (tagElems sf / 8) + tagElems sf / 8 then
          val (((List.range (tagElems sf / 8)).map (qblkAt b ctx sf sc part rm a c r))[k - part * (tagElems sf / 8)]?.getD ([], 0, 0))
        else laneGet old w k)))
      = putRun w n (part * (tagElems sf / 8)) (tagElems sf / 8) old (fun k => val (qblkAt b ctx sf sc part rm a c r k)) := by
    refine congrArg (fun l => BitVec.ofNat 256 (lanesVec w l)) (List.map_congr_left fun k _ => ?_)
    split
    · next hin =>
      simp only [Bool.and_eq_true, decide_eq_true_eq] at hin
      rw [List.getElem?_map, List.getElem?_range (by omega)]
      rfl
    · rfl
  have hblocks : (List.range (tagElems sf / 8)).map (fun k =>
      quantBlock (r.topx.getLsbD 0) rm (fun j => drawBits b ctx r (8 * k + j))
        ((List.range 8).map (fun j => (fpOf sf).decode (r.topx.getLsbD 0) (lane r sf a (8 * k + j))))
        (if sc then some (laneGet (r.getV c).bits 8 (part * (tagElems sf / 8) + k)) else none))
      = (List.range (tagElems sf / 8)).map (qblkAt b ctx sf sc part rm a c r) := rfl
  have hcodes := hput 32 8 (r.getV d).bits (fun q => lanesVec 4 q.1)
  have hscales := hput 8 32 (r.getV c).bits (fun q => q.2.1)
  simp only [qblkRegs, hblocks, hcodes, hscales, List.map_map]
  rfl

/-- Where the scales do not overwrite them, v[d] holds the codes. -/
theorem qblkLeft_codes (h : sc = true ∨ d ≠ c) :
    ((qblkLeft b ctx sf sc part rm d a c r).getV d).bits = qblkCodes b ctx sf sc part rm d a c r := by
  cases sc with
  | true => simp [qblkLeft]
  | false => simp [qblkLeft, Regs.getV_setV_ne _ _ (h.resolve_left Bool.false_ne_true)]

theorem qblkLeft_scales : ((qblkLeft b ctx sf false part rm d a c r).getV c).bits = qblkScales b ctx sf false part rm a c r := by
  simp [qblkLeft]

/-- VQBLK writes v[d], v[c] where it chooses the scales, and FLAGS. -/
theorem qblkLeft_eq :
    qblkLeft b ctx sf sc part rm d a c r
      = (if sc then r.setV d ⟨((qblkLeft b ctx sf sc part rm d a c r).getV d).bits, 12⟩
        else (r.setV d ⟨((qblkLeft b ctx sf sc part rm d a c r).getV d).bits, 12⟩).setV c
          ⟨((qblkLeft b ctx sf sc part rm d a c r).getV c).bits, 13⟩).orFlags
            (orAll ((List.range (tagElems sf / 8)).map (fun k => (qblkAt b ctx sf sc part rm a c r k).2.2))) := by
  cases sc with
  | true => rw [qblkLeft_codes b ctx sf true part rm d a c r (.inl rfl), if_pos rfl, qblkLeft, if_pos rfl]
  | false =>
    rw [qblkLeft_scales, if_neg Bool.false_ne_true]
    by_cases hdc : d = c
    · subst hdc
      rw [Regs.setV_setV, qblkLeft, if_neg Bool.false_ne_true, Regs.setV_setV]
    · rw [qblkLeft_codes b ctx sf false part rm d a c r (.inr hdc), qblkLeft, if_neg Bool.false_ne_true]

/-- The scale by which block k is divided: the one given, or the one chosen. -/
def qblkScale (k : Nat) : Nat :=
  laneGet (if sc then r.getV c else (qblkLeft b ctx sf sc part rm d a c r).getV c).bits 8 (part * (tagElems sf / 8) + k)

variable {part} (hpart : (part + 1) * (tagElems sf / 8) ≤ 8) {k : Nat} (hk : k < tagElems sf / 8)
include hpart hk

/-- Code j of block k, where v[d] holds the codes. -/
theorem qblk_code (hcodes : sc = true ∨ d ≠ c) {g : Nat → Nat} (hg : (qblkAt b ctx sf sc part rm a c r k).1 = (List.range 8).map g)
    {j : Nat} (hj : j < 8) :
    laneGet ((qblkLeft b ctx sf sc part rm d a c r).getV d).bits 4 (8 * (part * (tagElems sf / 8) + k) + j) = g j % 16 := by
  rw [Nat.succ_mul] at hpart
  have hlt : lanesVec 4 ((List.range 8).map g) < 2 ^ (4 * 8) := by simpa using lanesVec_lt 4 ((List.range 8).map g)
  rw [qblkLeft_codes _ _ _ _ _ _ _ _ _ _ hcodes, laneGet_within _ _ _ hj, qblkCodes,
    laneGet_putRun_inside _ _ (by norm_num) hk (by omega), hg, Nat.mod_eq_of_lt hlt, lanesVec_div_mod 4 (by simpa using hj), List.getElem_map,
    List.getElem_range]
  rfl

theorem qblkScale_chosen : qblkScale b ctx sf false part rm d a c r k = (qblkAt b ctx sf false part rm a c r k).2.1 % 2 ^ 8 := by
  rw [Nat.succ_mul] at hpart
  rw [qblkScale, if_neg Bool.false_ne_true, qblkLeft_scales, qblkScales, laneGet_putRun_inside _ _ (by norm_num) hk (by omega)]

/-- A block with a NaN (R255, log 24). -/
theorem qblk_nan (h : ∃ j < 8, (qblkElem sf a r k j).isNan = true) :
    (qblkAt b ctx sf sc part rm a c r k).2.2 = Flag.nv ∧ (sc = false → qblkScale b ctx sf sc part rm d a c r k = 0xFF)
      ∧ (sc = true ∨ d ≠ c → ∀ j, j < 8 →
        laneGet ((qblkLeft b ctx sf sc part rm d a c r).getV d).bits 4 (8 * (part * (tagElems sf / 8) + k) + j) = 0) := by
  have hat : qblkAt b ctx sf sc part rm a c r k = _ := quantAt_nan (r.topx.getLsbD 0) rm (fun j => drawBits b ctx r (8 * k + j)) _
    (if sc then some (laneGet (r.getV c).bits 8 (part * (tagElems sf / 8) + k)) else none) h
  refine ⟨by rw [hat], fun hsc => ?_, fun hcodes j hj => ?_⟩
  · subst hsc
    rw [qblkScale_chosen b ctx sf rm d a c r hpart hk, hat]
    rfl
  · rw [qblk_code b ctx sf sc rm d a c r hpart hk hcodes (g := fun _ => 0) (by rw [hat]) hj]

variable (hnum : ∀ j < 8, (qblkElem sf a r k j).isNan = false)
include hnum

/-- A block of zeros whose scale is to be chosen (R255). -/
theorem qblk_zero (h0 : (largestMag (qblkElem sf a r k)).isZero = true) :
    (qblkAt b ctx sf false part rm a c r k).2.2 = 0 ∧ qblkScale b ctx sf false part rm d a c r k = 0
      ∧ (false = true ∨ d ≠ c → ∀ j, j < 8 →
        laneGet ((qblkLeft b ctx sf false part rm d a c r).getV d).bits 4 (8 * (part * (tagElems sf / 8) + k) + j)
          = fp4.sign (qblkElem sf a r k j).neg) := by
  have hat : qblkAt b ctx sf false part rm a c r k = _ := quantAt_zero (r.topx.getLsbD 0) rm (fun j => drawBits b ctx r (8 * k + j)) hnum h0
  refine ⟨by rw [hat], ?_, fun hcodes j hj => ?_⟩
  · rw [qblkScale_chosen b ctx sf rm d a c r hpart hk, hat]
    rfl
  · rw [qblk_code b ctx sf false rm d a c r hpart hk hcodes (g := fun j => fp4.sign (qblkElem sf a r k j).neg) (by rw [hat]) hj]
    cases (qblkElem sf a r k j).neg <;> rfl

/-- Any other block: each code is its element's quotient by the scale, and a scale that is chosen is the smallest that suffices (R255). -/
theorem qblk_scaled (h : sc = true ∨ (largestMag (qblkElem sf a r k)).isZero = false) :
    let S := qblkScale b ctx sf sc part rm d a c r k
    let topx := r.topx.getLsbD 0
    let mx := largestMag (qblkElem sf a r k)
    let q (j : Nat) := quantOne topx rm (drawBits b ctx r (8 * k + j)) (qblkElem sf a r k j) (e3m5.decode topx S)
    (qblkAt b ctx sf sc part rm a c r k).2.2 = orAll ((List.range 8).map (fun j => (q j).2))
      ∧ (sc = true ∨ d ≠ c → ∀ j, j < 8 →
        laneGet ((qblkLeft b ctx sf sc part rm d a c r).getV d).bits 4 (8 * (part * (tagElems sf / 8) + k) + j) = (q j).1 % 16)
      ∧ (sc = false → S ≤ e3m5.maxCode topx ∧ (∀ n, n < S → scaleSuffices topx mx n = false)
        ∧ (scaleSuffices topx mx S = true ∨ S = e3m5.maxCode topx)) := by
  intro S topx mx q
  have hgiven : (if sc then some (laneGet (r.getV c).bits 8 (part * (tagElems sf / 8) + k)) else none) ≠ none ∨ mx.isZero = false :=
    h.imp (fun hsc => by simp [hsc]) id
  have hspec := chooseScale_spec topx mx
  have hchosen (hsc : sc = false) : S = chooseScale topx mx := by
    subst hsc
    have hat : qblkAt b ctx sf false part rm a c r k = _ := quantAt_scaled topx rm (fun j => drawBits b ctx r (8 * k + j)) _ hnum hgiven rfl
    have hS : S = _ := qblkScale_chosen b ctx sf rm d a c r hpart hk
    rw [hS, hat]
    exact Nat.mod_eq_of_lt (hspec.1.trans_lt (e3m5_maxCode_lt topx))
  have hS : (if sc then some (laneGet (r.getV c).bits 8 (part * (tagElems sf / 8) + k)) else none).getD (chooseScale topx mx) = S := by
    cases hsc : sc with
    | true => simp only [S, qblkScale, hsc, if_true, Option.getD_some]
    | false => exact (hchosen hsc).symm
  have hat : qblkAt b ctx sf sc part rm a c r k = _ := quantAt_scaled topx rm (fun j => drawBits b ctx r (8 * k + j)) _ hnum hgiven hS
  refine ⟨by rw [hat], fun hcodes j hj => ?_, fun hsc => hchosen hsc ▸ hspec⟩
  exact qblk_code b ctx sf sc rm d a c r hpart hk hcodes (g := fun j => (q j).1) (by rw [hat]) hj

end

theorem exec_vqblk {s : State} {bd : Binding} {p : Pred} {sf : Tag} {sc : Bool} {pt : BitVec 3} {rm : Rm} {d a c : VReg}
    (h : Clear s bd (.vqblk p sf sc pt rm d a c)) (ha : tagCheck s.regsHere (a, .exact sf) = none)
    (hc : tagCheck s.regsHere (c, if sc then .exact 13 else .blind) = none) (hd : tagCheck s.regsHere (d, .blind) = none) :
    exec (.vqblk p sf sc pt rm d a c) s = .next (s.ran bd (.vqblk p sf sc pt rm d a c)
      ((qblkLeft bd s.cur.ctx sf sc pt.toNat rm d a c s.regsHere).advance rm (8 * (tagElems sf / 8)))) := by
  rw [← qblkRegs_eq]
  exact vecOp_runs (checks := fun _ => [(a, .exact sf), (c, if sc then .exact 13 else .blind), (d, .blind)]) h
    (by simpa using ⟨ha, hc, hd⟩)

/-! # The vector instructions together (O25) -/

/-- Settles O25, one lemma an instruction. -/
theorem vectorCompareReduceConvert : Obligations.VectorCompareReduceConvert := by
  unfold Obligations.VectorCompareReduceConvert
  intro p fmt df sf vm mk cd op w u su du sc pt rm d a b c e mop _
  refine ⟨vcmp_runs p fmt cd u vm e a b, fun L hL hfmt => ⟨vred_runs p fmt op w u mk d a hL hfmt, ?_⟩, ?_, ?_, vdqblk_runs p fmt pt d a c,
    vkey_runs p vm d a, vkey_inv_runs p vm d a, computes_of rfl fun s _ => mopRegs_eq s.regsHere mop⟩
  · intro s bd h hc
    have hscan := vscan_runs p fmt op w u mk d a hL hfmt s bd h hc
    simpa only [redLeaf_narrow] using hscan
  · intro s bd i r es ed conv inside h _ ha hd
    rcases Nat.lt_or_ge es ed with hlt | hle
    · obtain ⟨R, hR, hset⟩ := cvtRegs_of_lt bd s.cur.ctx df sf su du pt.toNat rm vm d a r hlt
      exact ⟨R, (exec_vcvt h ha hd).trans (by rw [hR]), fun hle => absurd hlt (Nat.not_lt.2 hle), fun _ => hset⟩
    · obtain ⟨R, hR, hset⟩ := cvtRegs_of_le bd s.cur.ctx df sf su du pt.toNat rm vm d a r hle
      exact ⟨R, (exec_vcvt h ha hd).trans (by rw [hR]), fun _ => hset, fun hlt => absurd hlt (Nat.not_lt.2 hle)⟩
  · intro s bd i r nb topx x mag largest scaleOf suffices_ q h _ hpart ha hc hd
    have hlanes : pt.toNat * nb + nb ≤ 8 := by rwa [Nat.succ_mul] at hpart
    refine ⟨qblkLeft bd s.cur.ctx sf sc pt.toNat rm d a c r, fun k => (qblkAt bd s.cur.ctx sf sc pt.toNat rm a c r k).2.2, ?_⟩
    intro S code codes
    refine ⟨exec_vqblk h ha hc hd, qblkLeft_eq .., fun n hn hout hcodes => ?_, fun hsc n hn hout => ?_, fun k hk => ⟨?_, ?_, ?_⟩⟩
    · rw [qblkLeft_codes _ _ _ _ _ _ _ _ _ _ hcodes, qblkCodes, laneGet_putRun_outside _ _ (by norm_num) hout hn]
    · subst hsc
      rw [qblkLeft_scales, qblkScales, laneGet_putRun_outside _ _ (by norm_num) hout hn]
    · exact qblk_nan bd s.cur.ctx sf sc rm d a c r hpart hk
    · intro hnum hsc h0
      subst hsc
      exact qblk_zero bd s.cur.ctx sf rm d a c r hpart hk hnum h0
    · exact qblk_scaled bd s.cur.ctx sf sc rm d a c r hpart hk

end Sys2Proof.Machine

/-! # Codes and values of the floating-point formats (O27, O28) -/

namespace Sys2Proof.Machine
open Sys2Proof

/-! ## Decoding (R125 to R127) -/

section
variable (f : FpFmt) (topx : Bool)

/-- The sign that a code carries. -/
def FpFmt.negOf (c : Nat) : Bool := f.signed && bit c f.mag

/-- The significand of the magnitude code g, with its leading bit where g is normal. -/
def FpFmt.mant (g : Nat) : Nat := if g / 2 ^ f.man = 0 then g % 2 ^ f.man else g % 2 ^ f.man + 2 ^ f.man

/-- How far its exponent lies above that of the subnormal values. -/
def FpFmt.steps (g : Nat) : Nat := g / 2 ^ f.man - 1

/-- A format of the class without specials has three bits below its sign, as FP4 has (R125). -/
def FpFmt.Regular : Prop := f.cls = .fp4 → f.mag = 3

theorem FpFmt.regular_of_mem {f : FpFmt} (h : f ∈ [fp32, fp16, bf16, e4m3, e5m2, e3m5, fp4]) : f.Regular := by
  simp only [List.mem_cons, List.not_mem_nil, or_false] at h
  obtain rfl | rfl | rfl | rfl | rfl | rfl | rfl := h <;> simp [FpFmt.Regular, fp32, fp16, bf16, e4m3, e5m2, e3m5, fp4, FpFmt.mag]

/-- A significand with its exponent is the magnitude code again. -/
theorem FpFmt.steps_mant (g : Nat) : f.steps g * 2 ^ f.man + f.mant g = g := by
  have hg := Nat.div_add_mod g (2 ^ f.man)
  rw [Nat.mul_comm] at hg
  unfold FpFmt.steps FpFmt.mant
  split
  · next h => rw [h] at hg ⊢; simpa using hg
  · next h =>
    obtain ⟨n, hn⟩ := Nat.exists_eq_succ_of_ne_zero h
    rw [hn, Nat.succ_mul] at hg
    rw [hn, Nat.succ_sub_one]
    omega

theorem FpFmt.mant_lt (g : Nat) : f.mant g < 2 ^ (f.man + 1) := by
  have := Nat.mod_lt g (Nat.two_pow_pos f.man)
  unfold FpFmt.mant
  split <;> omega

/-- Above the subnormal values a significand has its leading bit. -/
theorem FpFmt.two_pow_man_le_mant {g : Nat} (h : f.steps g ≠ 0) : 2 ^ f.man ≤ f.mant g := by
  unfold FpFmt.steps at h
  unfold FpFmt.mant
  rw [if_neg (by omega)]
  omega

/-- A magnitude code that is no infinity's and no NaN's is at most that of the largest finite value (R126). -/
theorem FpFmt.le_maxCode (hf : f.Regular) {g : Nat} (hg : g < 2 ^ f.mag) (hinf : f.hasInf topx = true → g / 2 ^ f.man ≠ 2 ^ f.exp - 1)
    (hnan : f.cls = .narrow → g ≠ 2 ^ f.mag - 1) : g ≤ f.maxCode topx := by
  unfold FpFmt.maxCode
  split
  · next h =>
    have hex : g / 2 ^ f.man < 2 ^ f.exp := Nat.div_lt_of_lt_mul (by rwa [FpFmt.mag, Nat.pow_add] at hg)
    have : g < f.infCode := (Nat.div_lt_iff_lt_mul (Nat.two_pow_pos _)).1 (by have := hinf h; omega)
    omega
  · next h =>
    split
    · next h4 => rw [hf (by simpa using h4)] at hg; omega
    · next h4 =>
      have hnarrow : f.cls = .narrow := by
        cases hc : f.cls with
        | ieee => simp [FpFmt.hasInf, hc] at h
        | narrow => rfl
        | fp4 => simp [hc] at h4
      have := hnan hnarrow
      omega

/-- A code that is not a NaN's holds an infinity, where the format has them, or a finite value up to the largest (R126). -/
theorem FpFmt.decode_cases (hf : f.Regular) {c : Nat} (h : (f.decode topx c).isNan = false) :
    (f.hasInf topx = true ∧ c % 2 ^ f.mag = f.infCode ∧ f.decode topx c = .inf (f.negOf c))
    ∨ (c % 2 ^ f.mag ≤ f.maxCode topx ∧ f.decode topx c =
        .num (f.negOf c) (f.mant (c % 2 ^ f.mag)) (f.emin - f.man + (f.steps (c % 2 ^ f.mag) : Nat))) := by
  generalize hgc : c % 2 ^ f.mag = g
  have hg : g < 2 ^ f.mag := hgc ▸ Nat.mod_lt _ (Nat.two_pow_pos _)
  have hcode := Nat.div_add_mod g (2 ^ f.man)
  simp only [FpFmt.decode, hgc, Bool.and_eq_true, beq_iff_eq, bne_iff_ne] at h ⊢
  by_cases htop : (f.cls ≠ .fp4 ∧ g / 2 ^ f.man = 2 ^ f.exp - 1) ∧ f.hasInf topx = true
  · obtain ⟨⟨_, hex⟩, hinf⟩ := id htop
    rw [if_pos htop] at h ⊢
    have hm : g % 2 ^ f.man = 0 := by
      by_contra hm
      simp [hm, Fv.isNan] at h
    rw [if_pos hm]
    rw [hm, hex, Nat.mul_comm] at hcode
    exact .inl ⟨hinf, hcode.symm, rfl⟩
  · rw [if_neg htop] at h ⊢
    by_cases hnan : f.cls = .narrow ∧ g = 2 ^ f.mag - 1
    · simp [if_pos hnan, Fv.isNan] at h
    · have hinf (hi : f.hasInf topx = true) : g / 2 ^ f.man ≠ 2 ^ f.exp - 1 := fun hex =>
        htop ⟨⟨fun h4 => by simp [FpFmt.hasInf, h4] at hi, hex⟩, hi⟩
      refine .inr ⟨f.le_maxCode topx hf hg hinf fun hc hgn => hnan ⟨hc, hgn⟩, ?_⟩
      rw [if_neg hnan]
      unfold FpFmt.mant FpFmt.steps
      split
      · next hex => simp [hex, FpFmt.negOf]
      · rfl

/-- A code is its sign beside its magnitude (R125). -/
theorem FpFmt.sign_add_mag {c : Nat} (hc : c < 2 ^ (f.man + f.exp + if f.signed then 1 else 0)) :
    f.sign (f.negOf c) + c % 2 ^ f.mag = c := by
  change c < 2 ^ (f.mag + _) at hc
  unfold FpFmt.sign FpFmt.negOf
  cases hs : f.signed with
  | false =>
    rw [hs] at hc
    simpa using Nat.mod_eq_of_lt hc
  | true =>
    rw [hs, if_pos rfl, Nat.pow_succ] at hc
    have hdm := Nat.div_add_mod c (2 ^ f.mag)
    have hq : c / 2 ^ f.mag < 2 := Nat.div_lt_of_lt_mul (by rwa [Nat.mul_comm] at hc ⊢)
    rcases Nat.le_one_iff_eq_zero_or_eq_one.1 (Nat.lt_succ_iff.1 hq) with hb | hb
    · rw [hb, Nat.mul_zero, Nat.zero_add] at hdm
      simp [bit, hb, hdm]
    · rw [hb, Nat.mul_one] at hdm
      simp [bit, hb, hdm]

theorem FpFmt.negOf_unsigned {c : Nat} (h : f.signed = false) : f.negOf c = false := by simp [FpFmt.negOf, h]

end

/-! ## Rounding what needs none (R140) -/

/-- A multiple of the unit is its own rounding, in every mode. -/
theorem quantize_exact (rm : Rm) (neg : Bool) (d m : Nat) (e : Int) : quantize rm neg d m e false e = (m, false, false) := by
  simp [quantize, b2n, Nat.mod_one]

/-- A significand of the format at an exponent of the format is rounded to itself, without a flag (R134, R140). -/
theorem roundTo_exact {f : FpFmt} {topx neg : Bool} (rm : Rm) (d : Nat) {m u : Nat} (hm0 : m ≠ 0) (hm : m < 2 ^ (f.man + 1))
    (hu : u ≠ 0 → 2 ^ f.man ≤ m) (hs : f.signed = false → neg = false) (hmax : u * 2 ^ f.man + m ≤ f.maxCode topx) :
    roundTo f topx rm d neg m (f.emin - f.man + (u : Nat)) = (f.sign neg + (u * 2 ^ f.man + m), 0) := by
  have hlog : Nat.log2 m ≤ f.man := Nat.lt_succ_iff.1 ((Nat.log2_lt hm0).2 hm)
  have hunit : max (leadExp m (f.emin - f.man + (u : Nat))) f.emin - f.man = f.emin - f.man + (u : Nat) := by
    unfold leadExp
    by_cases h0 : u = 0
    · subst h0; omega
    · have : f.man ≤ Nat.log2 m := (Nat.le_log2 hm0).2 (hu h0)
      omega
  have hneg : (neg && !f.signed) = false := by cases hn : f.signed <;> simp [hn, hs]
  have hcode : (f.emin - f.man + (u : Nat) + f.man - f.emin).toNat = u := by omega
  simp only [roundTo, hm0, hneg, hunit, quantize_exact, hcode, if_false, Bool.false_eq_true, Nat.not_lt.2 hmax]
  simp [flagIf]

end Sys2Proof.Machine

open Sys2Proof.Machine in
/-- Settles O27: the code is its sign, its exponent's steps and its significand, and rounding changes none of the three. -/
theorem roundingExact : Obligations.RoundingExact := by
  unfold Obligations.RoundingExact
  intro f topx rm dr c hmem hc hnan
  have hf := FpFmt.regular_of_mem hmem
  have hsign := f.sign_add_mag hc
  rcases f.decode_cases topx hf hnan with ⟨hinf, hg, hd⟩ | ⟨hmax, hd⟩
  · have hneg : (f.negOf c && !f.signed) = false := by cases hs : f.signed <;> simp [f.negOf_unsigned, hs]
    simp only [hd, Fv.toFp, FpFmt.ofInf, hneg, hinf, if_true, Bool.false_eq_true, if_false, ← hg, hsign]
  · have hcode := f.steps_mant (c % 2 ^ f.mag)
    rw [hd]
    simp only [Fv.toFp]
    split
    · next h0 =>
      have hu : f.steps (c % 2 ^ f.mag) = 0 := by
        by_contra hu
        have := f.two_pow_man_le_mant hu
        have := Nat.two_pow_pos f.man
        omega
      rw [h0, hu] at hcode
      rw [Nat.zero_mul, Nat.zero_add] at hcode
      rw [← hcode, Nat.add_zero] at hsign
      rw [hsign]
    · next h0 =>
      rw [roundTo_exact rm dr h0 (f.mant_lt _) f.two_pow_man_le_mant (fun hs => f.negOf_unsigned hs) (by rwa [hcode]), hcode, hsign]

/-! # Order keys (O28) -/

namespace Sys2Proof.Machine
open Sys2Proof

/-! ## Finite values in the unit of the smallest one -/

section
variable (f : FpFmt)

/-- The magnitude of a code, counted in the unit of the subnormal values. -/
def FpFmt.units (g : Nat) : Nat := f.mant g * 2 ^ f.steps g

/-- Magnitudes rise with their codes: within an exponent by the significand, from one to the next by the leading bit. -/
theorem FpFmt.units_strictMono : StrictMono f.units := by
  intro g k hgk
  have hg := f.steps_mant g
  have hk := f.steps_mant k
  unfold FpFmt.units
  rcases Nat.lt_trichotomy (f.steps g) (f.steps k) with hlt | heq | hgt
  · have hlead := f.two_pow_man_le_mant (g := k) (by omega)
    calc f.mant g * 2 ^ f.steps g < 2 ^ (f.man + 1) * 2 ^ f.steps g :=
          Nat.mul_lt_mul_of_pos_right (f.mant_lt g) (Nat.two_pow_pos _)
      _ = 2 ^ f.man * 2 ^ (f.steps g + 1) := by rw [← Nat.pow_add, ← Nat.pow_add]; congr 1; omega
      _ ≤ f.mant k * 2 ^ f.steps k := Nat.mul_le_mul hlead (Nat.pow_le_pow_right Nat.two_pos hlt)
  · have : f.mant g < f.mant k := by rw [heq] at hg; omega
    rw [heq]
    exact Nat.mul_lt_mul_of_pos_right this (Nat.two_pow_pos _)
  · have hlead := f.two_pow_man_le_mant (g := g) (by omega)
    have hmant := f.mant_lt k
    have : (f.steps k + 1) * 2 ^ f.man ≤ f.steps g * 2 ^ f.man := Nat.mul_le_mul_right _ hgt
    rw [Nat.succ_mul] at this
    rw [Nat.pow_succ] at hmant
    omega

@[simp] theorem FpFmt.units_zero : f.units 0 = 0 := by simp [FpFmt.units, FpFmt.mant]

end

/-- A number with its sign. -/
def signedNat (neg : Bool) (n : Nat) : Int := if neg then -n else n

theorem signedNat_not (neg : Bool) (n : Nat) : signedNat (!neg) n = -signedNat neg n := by cases neg <;> simp [signedNat]

/-- Signed magnitudes lie as their codes do, where both are zero together. -/
theorem signedNat_lt_iff {v : Nat → Nat} (hv : StrictMono v) (h0 : v 0 = 0) (n k : Bool) (g j : Nat) :
    signedNat n (v g) < signedNat k (v j) ↔ signedNat n g < signedNat k j := by
  have hlt (x y : Nat) : v x < v y ↔ x < y := hv.lt_iff_lt
  have hgj := hlt g j
  have hjg := hlt j g
  have hg := hlt 0 g
  have hj := hlt 0 j
  rw [h0] at hg hj
  cases n <;> cases k <;> simp only [signedNat, if_true, Bool.false_eq_true, if_false] <;> omega

/-- The exact sum, counted in a unit that both exponents are multiples of. -/
theorem exactSum_units (e : Int) (n1 n2 : Bool) (m1 u1 m2 u2 : Nat) :
    (exactSum n1 m1 (e + (u1 : Nat)) n2 m2 (e + (u2 : Nat))).1 * 2 ^ min u1 u2
      = signedNat n1 (m1 * 2 ^ u1) + signedNat n2 (m2 * 2 ^ u2) := by
  have h1 : (e + (u1 : Nat) - min (e + (u1 : Nat)) (e + (u2 : Nat))).toNat + min u1 u2 = u1 := by omega
  have h2 : (e + (u2 : Nat) - min (e + (u1 : Nat)) (e + (u2 : Nat))).toNat + min u1 u2 = u2 := by omega
  have hp {x u : Nat} (m : Nat) (h : x + min u1 u2 = u) : (m : Int) * 2 ^ x * 2 ^ min u1 u2 = (m * 2 ^ u : Nat) := by
    rw [mul_assoc, ← pow_add, h]; norm_cast
  simp only [exactSum, Int.add_mul]
  congr 1
  · cases n1 <;> simp only [signedNat, if_true, Bool.false_eq_true, if_false, Int.neg_mul, hp m1 h1]
  · cases n2 <;> simp only [signedNat, if_true, Bool.false_eq_true, if_false, Int.neg_mul, hp m2 h2]

/-- One finite value lies below another as their signed codes do (R240, R246). -/
theorem FpFmt.fvLt_num_iff (f : FpFmt) (n k : Bool) (g j : Nat) :
    fvLt false (.num n (f.mant g) (f.emin - f.man + (f.steps g : Nat))) (.num k (f.mant j) (f.emin - f.man + (f.steps j : Nat))) = true
      ↔ signedNat n g < signedNat k j := by
  rw [← signedNat_lt_iff f.units_strictMono f.units_zero n k g j]
  have hsum := exactSum_units (f.emin - f.man) n (!k) (f.mant g) (f.steps g) (f.mant j) (f.steps j)
  simp only [fvLt, Bool.false_and, Bool.or_false, decide_eq_true_eq]
  have hpos : (0 : Int) < 2 ^ min (f.steps g) (f.steps j) := by positivity
  rw [← mul_lt_mul_iff_left₀ hpos, hsum, signedNat_not, Int.zero_mul]
  exact add_neg_lt_iff_lt_add.trans (by rw [zero_add]; rfl)

/-! ## Keys (R153) -/

/-- An FP32 code as a signed number. -/
def fp32Code (x : Nat) : Int := signedNat (fp32.negOf x) (x % 2 ^ 31)

/-- An FP32 value that is no NaN: an infinity, or a finite value whose code lies below that of the infinities. -/
theorem fp32_val_cases {x : Nat} (hx : (fp32.val x).isNan = false) :
    (x % 2 ^ 31 = 2139095040 ∧ fp32.val x = .inf (fp32.negOf x))
    ∨ (x % 2 ^ 31 < 2139095040 ∧ fp32.val x =
        .num (fp32.negOf x) (fp32.mant (x % 2 ^ 31)) (fp32.emin - fp32.man + (fp32.steps (x % 2 ^ 31) : Nat))) := by
  have hreg : fp32.Regular := nofun
  exact (fp32.decode_cases false hreg hx).imp (fun h => h.2) (fun h => ⟨Nat.lt_succ_of_le h.1, h.2⟩)

/-- FP32 values that are no NaNs lie as their signed codes do, the infinities at the ends. -/
theorem fvLt_fp32_iff {x y : Nat} (hx : (fp32.val x).isNan = false) (hy : (fp32.val y).isNan = false) :
    fvLt false (fp32.val x) (fp32.val y) = true ↔ fp32Code x < fp32Code y := by
  unfold fp32Code
  rcases fp32_val_cases hx with ⟨hgx, hdx⟩ | ⟨hgx, hdx⟩
  · rcases fp32_val_cases hy with ⟨hgy, hdy⟩ | ⟨hgy, hdy⟩
    · rw [hdx, hdy, hgx, hgy]
      cases fp32.negOf x <;> cases fp32.negOf y <;> simp [fvLt, signedNat]
    · rw [hdx, hdy, hgx]
      cases fp32.negOf x <;> cases fp32.negOf y <;> simp [fvLt, signedNat] <;> omega
  · rcases fp32_val_cases hy with ⟨hgy, hdy⟩ | ⟨hgy, hdy⟩
    · rw [hdx, hdy, hgy]
      cases fp32.negOf x <;> cases fp32.negOf y <;> simp [fvLt, signedNat] <;> omega
    · rw [hdx, hdy, FpFmt.fvLt_num_iff]

/-- The key of a value that is no NaN: its code above 2^31 where it is not negative, and counted down from there where it is. -/
theorem keyOf_eq {x : Nat} (hx : x < 2 ^ 32) (hn : (fp32.val x).isNan = false) :
    keyOf x = if x < 2 ^ 31 then x + 2 ^ 31 else if x = 2 ^ 31 then 2 ^ 31 else 2 ^ 32 - 1 - x := by
  simp only [keyOf, hn, Bool.false_eq_true, if_false, beq_iff_eq]
  split_ifs <;> omega

/-- The signed code by comparisons. -/
theorem fp32Code_eq {x : Nat} (hx : x < 2 ^ 32) : fp32Code x = if x < 2 ^ 31 then (x : Int) else 2 ^ 31 - x := by
  have hneg : fp32.negOf x = decide (¬ x < 2 ^ 31) := by
    change (x / 2 ^ 31 % 2 == 1) = _
    rw [Bool.eq_iff_iff, beq_iff_eq, decide_eq_true_eq]
    omega
  rw [fp32Code, hneg]
  by_cases h : x < 2 ^ 31
  · rw [if_pos h, Nat.mod_eq_of_lt h, decide_eq_false (not_not.2 h)]
    rfl
  · have hmod : x % 2 ^ 31 = x - 2 ^ 31 := by omega
    rw [if_neg h, hmod, decide_eq_true h, signedNat, if_pos rfl]
    omega

/-- A code that is no NaN's and not −0 comes back from its key (R257). -/
theorem keyInv_keyOf {x : Nat} (hx : x < 2 ^ 32) (hn : (fp32.val x).isNan = false) (hz : x ≠ 2 ^ 31) : keyInv (keyOf x) = x := by
  have hback : (if keyOf x / 2 ^ 31 == 1 then keyOf x - 2 ^ 31 else 2 ^ 32 - 1 - keyOf x) = x := by
    rw [keyOf_eq hx hn]
    simp only [hz, if_false, beq_iff_eq]
    split_ifs <;> omega
  simp only [keyInv, hback, hn, Bool.false_eq_true, if_false]

end Sys2Proof.Machine

open Sys2Proof.Machine in
/-- Settles O28: a key is the signed code of its value but for a shift, and values lie as their signed codes do. -/
theorem orderKeys : Obligations.OrderKeys := by
  unfold Obligations.OrderKeys
  intro x y hx hy hnx hny
  have hkx := keyOf_eq hx hnx
  have hky := keyOf_eq hy hny
  refine ⟨?_, keyInv_keyOf hx hnx, rfl, ?_⟩
  · rw [hkx]; split_ifs <;> omega
  · rw [fvLt_fp32_iff hnx hny, fp32Code_eq hx, fp32Code_eq hy, hkx, hky]
    split_ifs <;> omega

/-! # MREAD (O30) -/

namespace Sys2Proof.Machine
open Sys2Proof

/-! ## The accumulator behind a context's reads (R99) -/

section
variable {z : Acc} {n : Nat}

/-- With an even number of MSWAPs to come the bank that is visible stays so. -/
theorem Acc.nextVis_of_swap_nil (h : z.swap = []) : z.nextVis = z.vis := by simp [Acc.nextVis, Acc.turned, h]

variable (h : ∀ q ∈ z.reads, q.ctx ≠ n)
include h

theorem Acc.readOf_of_no_read : z.readOf n = ⟨n, z.swap.length, z.nextVis.accInt⟩ := by
  have : z.reads.find? (fun p => p.ctx == n) = none := List.find?_eq_none.2 (by simpa using h)
  rw [Acc.readOf, this, Option.getD_none]

theorem Acc.filter_reads_of_no_read : z.reads.filter (fun q => q.ctx != n) = z.reads := List.filter_eq_self.2 (by simpa using h)

theorem Acc.unstall_of_no_read : z.unstall n = z := by rw [Acc.unstall, Acc.filter_reads_of_no_read h]

end

theorem Core.setAcc_acc (c : Core) (acc : Bool) : c.setAcc acc (c.acc acc) = c := by cases acc <;> rfl

/-- The tags that a bank's accepted mode allows (R271). -/
theorem readTagOk_iff {isInt : Bool} {t : Tag} :
    readTagOk isInt t = true ↔ if isInt = true then t = 1 ∨ t = 3 ∨ t = 5 ∨ t = 7 else 7 ≤ t.toNat ∧ t.toNat ≤ 11 := by
  cases isInt <;> simp [readTagOk]
  tauto

/-! ## Elements of an integer bank (R150) -/

@[simp] theorem ofInt_mod (w : Nat) (v : Int) : ofInt w v % 2 ^ w = ofInt w v := by
  have hpos : (0 : Int) < 2 ^ w := by positivity
  have hcast : ((2 ^ w : Nat) : Int) = 2 ^ w := by norm_cast
  refine Nat.mod_eq_of_lt ((Int.toNat_lt (Int.emod_nonneg _ hpos.ne')).2 ?_)
  rw [hcast]
  exact Int.emod_lt_of_pos _ hpos

theorem clamp_signed (w : Nat) (v : Int) : (clamp true w v).1 = max (-(2 ^ (w - 1))) (min v (2 ^ (w - 1) - 1)) := by
  have hpos : (0 : Int) < 2 ^ (w - 1) := by positivity
  simp only [clamp, intMin, intMax, if_true]
  split_ifs
  · exact (max_eq_left (by omega)).symm
  · omega
  · omega

/-- The bits of a word are its value modulo 2^32, which lies within the signed range already. -/
theorem toInt_clamped (v : BitVec 32) : ((max (-(2 ^ 31)) (min v.toInt (2 ^ 31 - 1))) % 2 ^ 32).toNat = v.toNat := by
  have hlo := BitVec.le_toInt v
  have hhi := BitVec.toInt_lt (x := v)
  have hv := BitVec.toInt_eq_toNat_cond v
  have := v.isLt
  split_ifs at hv <;> omega

/-- An element of an integer bank read as an integer is its value, clamped to the tag's width (R150, R271). -/
theorem bankValue_int {t : Tag} (ht : t = 1 ∨ t = 3 ∨ t = 5) (k : Bank) (topx : Bool) (rm : Rm) (dr : Nat) (v : BitVec 32) :
    (bankValue true k t topx rm dr v).1 % 2 ^ tagBits t
      = (max (-(2 ^ (tagBits t - 1))) (min v.toInt (2 ^ (tagBits t - 1) - 1)) % 2 ^ tagBits t).toNat := by
  obtain rfl | rfl | rfl := ht
  · exact (ofInt_mod _ _).trans (by rw [clamp_signed]; rfl)
  · exact (ofInt_mod _ _).trans (by rw [clamp_signed]; rfl)
  · exact (Nat.mod_eq_of_lt v.isLt).trans (toInt_clamped v).symm

/-! ## The registers that MREAD leaves -/

section
variable (b : Binding) (ctx : Nat) (isInt : Bool) (k : Bank) (t : Tag) (rm : Rm) (part : Nat) (d : VReg) (a : SReg) (r : Regs)

/-- Element j of the segment that MREAD reads, as it is converted (R271). -/
def mreadValue (j : Nat) : Nat × Word :=
  bankValue isInt k t (r.topx.getLsbD 0) rm (drawBits b ctx r j) (k.get (8 * ((r.getS a).toNat % 512) + j))

/-- Lane n of the register that MREAD leaves. -/
def mreadLane (n : Nat) : Nat :=
  if 8 * part ≤ n && n < 8 * part + 8 then (mreadValue b ctx isInt k t rm a r (n - 8 * part)).1 else lane r t d n

/-- A segment is eight elements of one row of 64 (R271). -/
theorem mreadRegs_eq : mreadRegs b ctx isInt k t rm part d a r =
    ((r.setV d ⟨ofLanes t ((List.range (tagElems t)).map (mreadLane b ctx isInt k t rm part d a r)), t⟩).orFlags
      (orAll ((List.range 8).map (fun j => (mreadValue b ctx isInt k t rm a r j).2)))).advance rm 8 := by
  have hseg (m : Nat) : 64 * (m / 8) + 8 * (m % 8) = 8 * m := by omega
  simp only [mreadRegs, hseg]
  rfl

theorem mreadRegs_keeps :
    let R := mreadRegs b ctx isInt k t rm part d a r
    R.s = r.s ∧ R.p = r.p ∧ R.m = r.m ∧ R.topx = r.topx := by
  rw [mreadRegs_eq]
  exact ⟨Regs.advance_s .., Regs.advance_p .., Regs.advance_m .., Regs.advance_topx ..⟩

end

/-! ## The four outcomes of MREAD -/

section
variable {s : State} {b : Binding} {p : Pred} {tag : Tag} {acc : Bool} {rm : Rm} {pt : BitVec 3} {d : VReg} {a : SReg}
  (h : Clear s b (.mread p tag acc rm pt d a)) (hreads : ∀ q ∈ (s.here.acc acc).reads, q.ctx ≠ s.cur.ctx)
include h hreads

theorem exec_mread_mismatch (hmode : readTagOk (s.here.acc acc).nextVis.accInt tag = false) :
    exec (.mread p tag acc rm pt d a) s
      = .next (s.trapHere b (.mread p tag acc rm pt d a) (bankTrap tag (s.here.acc acc).nextVis.accInt)) := by
  show execMread p tag acc rm pt d a s = _
  unfold execMread
  refine issue_trap h ?_
  simp only [State.envHere_who, Acc.readOf_of_no_read hreads, hmode, Bool.not_false, if_true]

variable (hmode : readTagOk (s.here.acc acc).nextVis.accInt tag = true)
include hmode

theorem exec_mread_poisoned (hwide : tagElems tag > 8) (htag : (s.regsHere.getV d).tag = 15) :
    exec (.mread p tag acc rm pt d a) s = .next (s.trapHere b (.mread p tag acc rm pt d a) (tagTrap d 15 0)) := by
  show execMread p tag acc rm pt d a s = _
  unfold execMread
  refine issue_trap h ?_
  simp only [State.envHere_who, State.envHere_regs, State.here_ctx, State.ctxHere_regs, Acc.readOf_of_no_read hreads, hmode,
    Bool.not_true, Bool.false_eq_true, if_false, if_pos hwide, blindTrap, htag, beq_self_eq_true, if_true]

variable (htag : tagElems tag > 8 → (s.regsHere.getV d).tag ≠ 15) (hdet : detAcc (s.envHere b) acc = true)
include htag hdet

omit h in
/-- MREAD past its checks stalls behind an MSWAP, and reads where there is none. -/
theorem exec_mread_passes : ∃ own, exec (.mread p tag acc rm pt d a) s = issue (.mread p tag acc rm pt d a) own s
    ∧ own (s.envHere b) s.here =
      if (s.here.acc acc).swap ≠ [] then
        waitI (s.envHere b) (.mread p tag acc rm pt d a)
          (s.here.setAcc acc ((s.here.acc acc).stall ⟨s.cur.ctx, (s.here.acc acc).swap.length, (s.here.acc acc).nextVis.accInt⟩)) 0 false true
      else done (s.envHere b) (.mread p tag acc rm pt d a) ((s.envHere b).modRegs s.here
        (mreadRegs b s.cur.ctx (s.here.acc acc).nextVis.accInt (s.here.acc acc).vis tag rm pt.toNat d a)) := by
  have hblind : (if tagElems tag > 8 then blindTrap s.regsHere d else none) = none := by
    split
    · next hwide => simpa [blindTrap] using htag hwide
    · rfl
  refine ⟨_, rfl, ?_⟩
  simp only [State.envHere_who, State.envHere_regs, State.envHere_b, State.here_ctx, State.ctxHere_regs, Acc.readOf_of_no_read hreads,
    Acc.unstall_of_no_read hreads, Core.setAcc_acc, hmode, hdet, hblind, Bool.not_true, Bool.false_eq_true, if_false, bne_iff_ne, ne_eq,
    List.length_eq_zero_iff]

theorem exec_mread_stalls (hswap : (s.here.acc acc).swap ≠ []) :
    exec (.mread p tag acc rm pt d a) s = .next (s.put ((s.here.setAcc acc { s.here.acc acc with
      reads := (s.here.acc acc).reads ++ [⟨s.cur.ctx, (s.here.acc acc).swap.length, (s.here.acc acc).nextVis.accInt⟩] }).waitsAt
        s.cur.ctx (.mread p tag acc rm pt d a) 0 false true 0 0)) := by
  obtain ⟨own, he, ho⟩ := exec_mread_passes hreads hmode htag hdet
  rw [if_pos hswap, Acc.stall, Acc.filter_reads_of_no_read hreads] at ho
  rw [he, issue_core h (ho.trans (waitI_eq ..))]

theorem exec_mread_done (hswap : (s.here.acc acc).swap = []) :
    exec (.mread p tag acc rm pt d a) s = .next (s.ran b (.mread p tag acc rm pt d a)
      (mreadRegs b s.cur.ctx (s.here.acc acc).vis.accInt (s.here.acc acc).vis tag rm pt.toNat d a s.regsHere)) := by
  obtain ⟨own, he, ho⟩ := exec_mread_passes hreads hmode htag hdet
  rw [if_neg (not_not.2 hswap), Acc.nextVis_of_swap_nil hswap] at ho
  rw [he]
  exact issue_regs h ho

end

/-- Settles O30: the mode and the register's tag decide between the traps, the MSWAPs between stalling and reading, and a read writes
the lanes of its window. -/
theorem accumulatorRead : Obligations.AccumulatorRead := by
  unfold Obligations.AccumulatorRead
  intro s b p tag acc rm pt d a i z seg allows value h hreads
  have hallows {isInt : Bool} : readTagOk isInt tag = true ↔ allows isInt := readTagOk_iff
  have hvis (hswap : z.swap = []) : z.nextVis = z.vis := Acc.nextVis_of_swap_nil hswap
  refine ⟨fun hswap hmode htag hdet => ?_, fun hswap hmode => ?_, fun hswap hmode hwide htag => ?_, fun hswap hmode htag hdet =>
    exec_mread_stalls h hreads (hallows.2 hmode) htag hdet hswap⟩
  · have hlane {n : Nat} (hn : n < tagElems tag) :
        lane (mreadRegs b s.cur.ctx z.vis.accInt z.vis tag rm pt.toNat d a s.regsHere) tag d n
          = mreadLane b s.cur.ctx z.vis.accInt z.vis tag rm pt.toNat d a s.regsHere n % 2 ^ tagBits tag := by
      rw [mreadRegs_eq, lane_advance, lane_orFlags, lane_setV_ofLanes _ _ _ _ _ hn]
    have hinside {j : Nat} (hj : j < 8) : mreadLane b s.cur.ctx z.vis.accInt z.vis tag rm pt.toNat d a s.regsHere (8 * pt.toNat + j)
        = (value j).1 := by
      have hw : (decide (8 * pt.toNat ≤ 8 * pt.toNat + j) && decide (8 * pt.toNat + j < 8 * pt.toNat + 8)) = true := by simpa using hj
      rw [mreadLane, if_pos hw, Nat.add_sub_cancel_left]
      rfl
    obtain ⟨hs, hp, hm, htopx⟩ := mreadRegs_keeps b s.cur.ctx z.vis.accInt z.vis tag rm pt.toNat d a s.regsHere
    refine ⟨_, exec_mread_done h hreads (by rw [hvis hswap]; exact hallows.2 hmode) htag hdet hswap, ?_, fun v hv => ?_, hs, hp, hm, htopx, ?_,
      fun n hn hout => ?_, fun j hj hn => ?_, fun hint h7 j hj hn => ?_⟩
    · simp [mreadRegs_eq]
    · simp [mreadRegs_eq, Regs.getV_setV_ne _ _ hv]
    · rw [mreadRegs_eq, Regs.advance_flags]
      rfl
    · have hw : ¬ (decide (8 * pt.toNat ≤ n) && decide (n < 8 * pt.toNat + 8)) = true := by
        simp only [Bool.and_eq_true, decide_eq_true_eq]
        omega
      rw [hlane hn, mreadLane, if_neg hw, lane_mod]
    · rw [hlane hn, hinside hj]
    · have ht : tag = 1 ∨ tag = 3 ∨ tag = 5 := by
        have hmodes : allows true := hint ▸ hmode
        have : tag = 1 ∨ tag = 3 ∨ tag = 5 ∨ tag = 7 := hmodes
        tauto
      rw [hlane hn, hinside hj]
      simp only [value, hint]
      exact bankValue_int ht ..
  · have hno : readTagOk z.nextVis.accInt tag = false := by
      rw [hvis hswap]
      exact Bool.eq_false_iff.2 fun hok => hmode (hallows.1 hok)
    rw [exec_mread_mismatch h hreads hno, hvis hswap]
    rfl
  · rw [exec_mread_poisoned h hreads (by rw [hvis hswap]; exact hallows.2 hmode) hwide htag, tagTrap_eq]
    rfl

end Sys2Proof.Machine
